-- ==== Sys2Proof/Word.lean ====
section
/-! DEFINITION. The word types (R9, R14) and nothing that a later repair could want to mend. -/

namespace Sys2Proof

/-- A 64-bit scalar register or control register (R14, R23). -/
abbrev Word := BitVec 64
/-- A byte of memory (R22). -/
abbrev Byte := BitVec 8

end Sys2Proof
end

