-- ==== Sys2Proof/Syntax.lean ====
section
/-! DEFINITION. The abstract syntax: operand types (R40, R41) and the one inductive `Instr`, a constructor for every row
of the opcode table. -/

namespace Sys2Proof

/-- Scalar register number, `s0` to `s63` (R14). -/
abbrev SReg := Fin 64
/-- Vector register number, `v0` to `v639` (R41). -/
abbrev VReg := Fin 640
/-- Predicate number (R14). -/
abbrev PReg := Fin 16
/-- Lane-mask number (R14). -/
abbrev MReg := Fin 16
/-- Counter-handle number (R14). -/
abbrev KReg := Fin 16
/-- Number of a tile, map, layout or pail register, or of a receive port (R14, R272). -/
abbrev Ix8 := Fin 8

/-- The format tags of R60. -/
inductive Tag where
  | none | raw | i8 | i16 | i32 | bf16 | fp32 | e4m3 | e2m1x | e8m0 | poison
deriving DecidableEq, Repr

/-- The rounding field of R111: a named mode, or `VMODE.RM`. -/
inductive Rm where
  | vmode | rne | rtz | rdn | rup
deriving DecidableEq, Repr

/-- The ten conditions of R41. -/
inductive Cond where
  | eq | ne | lt | le | gt | ge | ltl | lel | gtl | gel
deriving DecidableEq, Repr

/-- The spaces of R41. -/
inductive Space where
  | va | st | w
deriving DecidableEq, Repr

/-- The access sizes of R134. -/
inductive Size where
  | b | h | wd | q
deriving DecidableEq, Repr

/-- A fault with everything its record needs (R307, R311-R313): cause, sub-code, command tag, address, detail words. -/
structure FaultInfo where
  cause  : Nat
  sub    : Nat := 0
  tag    : Nat := 0
  addr   : Word := 0
  detail : List Word := []
deriving DecidableEq, Repr

/-- The eight atomic operations of R235, signed or unsigned where it matters. -/
inductive AtomOp where
  | add | min (u : Bool) | max (u : Bool) | and | or | xor | swp | cas
deriving DecidableEq, Repr

/-- A piece of an engine command's memory side at a target (R245, R251): the key and the space of its window, its address
there and its bytes. -/
structure RemotePart where
  key   : Word
  store : Bool
  addr  : Word
  n     : Nat
deriving DecidableEq, Repr

/-- What a remote request asks its target to perform (R374, R375, R348, R350, R357). -/
inductive RemoteOp where
  /-- a load of `n` bytes -/
  | load (n : Nat)
  /-- a store of these bytes -/
  | store (data : List Byte)
  /-- an atomic on `n` bytes -/
  | atomic (op : AtomOp) (n : Nat) (b c : Word)
  /-- `kaddw` -/
  | add (i : Nat)
  /-- the read of an engine command (R245, R251), with consuming line checks or not -/
  | gather (parts : List RemotePart) (cons : Bool)
  /-- the write of an engine command (R245, R251), counted when `cnt` is not 0 (R270) -/
  | scatter (parts : List (RemotePart × List Byte)) (cnt : Nat)
  /-- a ladle face or re-shard piece: bytes by store address, and the KEY of its binding at `die` -/
  | face (die key : Nat) (cells : List (Nat × Byte))
  /-- an item for channel `ch` of the launch whose window it came through, with the number and the declaration of the
  sender's channel (R355 to R357) -/
  | item (ch own : Nat) (tag : Tag) (lanes depth : Nat) (data : List Byte)
  /-- a credit for the send end of channel `ch` of the launch whose window it came through (R357) -/
  | credit (ch : Nat)
  /-- the peer end of channel `ch` was released, or its thread ended (R360) -/
  | endGone (ch : Nat)
deriving DecidableEq, Repr

/-- A request of one module to another (R372, R374, R379): who sends it, its flow and place in it, what it carries. -/
structure RemoteReq where
  src    : Nat
  target : Nat
  flow   : Nat
  seq    : Nat
  key    : Word
  store  : Bool
  addr   : Word
  world  : Bool
  port   : Nat
  op     : RemoteOp
deriving DecidableEq, Repr

/-- A request as it comes in: with it, whether its port has a buffer of its class (R380). -/
structure Incoming where
  req  : RemoteReq
  room : Bool
deriving DecidableEq, Repr

/-- What an error answer says beside the cause: the sub-code and the line (R258, R378). -/
structure ErrorInfo where
  sub  : Nat
  line : Word
deriving DecidableEq, Repr

/-- A drain marker at a port (R379): the answer to one that this module sent, or one of a flow of another module. -/
structure Marker where
  port : Nat
  peer : Option (Nat × Nat)
deriving DecidableEq, Repr

/-- Every row of the opcode table: the slot forms in opcode order (R53), then the steps of the hardware and its
surroundings. Operands carry the names of the fields of R40; a field a form does not use is reserved and has none. -/
inductive Instr where
  /-- R38, opcode 0x000: A nop slot occupies no unit and does nothing. -/
  | nop
  /-- R89, opcode 0x001: Writes the 64-bit wrapped sum of two scalar registers. -/
  | add (d : SReg) (a : SReg) (b : SReg)
  /-- R89, opcode 0x002: Writes the 64-bit wrapped difference of two scalar registers. -/
  | sub (d : SReg) (a : SReg) (b : SReg)
  /-- R89, opcode 0x003: Adds a sign-extended 26-bit immediate to a scalar register. -/
  | addi (d : SReg) (a : SReg) (i : BitVec 26)
  /-- R89, opcode 0x004: Writes the low 64 bits of a signed product after 3 groups. -/
  | mul (d : SReg) (a : SReg) (b : SReg)
  /-- R89, opcode 0x005: Writes the signed high half of a 128-bit product. -/
  | mulh (d : SReg) (a : SReg) (b : SReg)
  /-- R89, opcode 0x006: Writes the unsigned high half of a 128-bit product. -/
  | mulhl (d : SReg) (a : SReg) (b : SReg)
  /-- R89, opcode 0x007: Writes the signed or unsigned quotient after 16 groups, -1 on division by zero. -/
  | divq (d : SReg) (a : SReg) (b : SReg) (u : Bool)
  /-- R89, opcode 0x008: Writes the signed or unsigned remainder after 16 groups, the dividend on division by zero. -/
  | remq (d : SReg) (a : SReg) (b : SReg) (u : Bool)
  /-- R89, opcode 0x009: Bitwise AND of two scalar registers. -/
  | and (d : SReg) (a : SReg) (b : SReg)
  /-- R89, opcode 0x00A: Bitwise OR of two scalar registers. -/
  | or (d : SReg) (a : SReg) (b : SReg)
  /-- R89, opcode 0x00B: Bitwise XOR of two scalar registers. -/
  | xor (d : SReg) (a : SReg) (b : SReg)
  /-- R89, opcode 0x00C: ANDs a register with the complement of another. -/
  | andn (d : SReg) (a : SReg) (b : SReg)
  /-- R89, opcode 0x00D: ANDs a register with a sign-extended immediate. -/
  | andi (d : SReg) (a : SReg) (i : BitVec 26)
  /-- R89, opcode 0x00E: ORs a register with a sign-extended immediate. -/
  | ori (d : SReg) (a : SReg) (i : BitVec 26)
  /-- R89, opcode 0x00F: XORs a register with a sign-extended immediate. -/
  | xori (d : SReg) (a : SReg) (i : BitVec 26)
  /-- R89, opcode 0x010: Shifts left by a register amount modulo 64. -/
  | shl (d : SReg) (a : SReg) (b : SReg)
  /-- R89, opcode 0x011: Logical shift right by a register amount modulo 64. -/
  | shr (d : SReg) (a : SReg) (b : SReg)
  /-- R89, opcode 0x012: Arithmetic shift right by a register amount modulo 64. -/
  | sra (d : SReg) (a : SReg) (b : SReg)
  /-- R89, opcode 0x013: Shifts left by an immediate 0-63. -/
  | shli (d : SReg) (a : SReg) (i : BitVec 26)
  /-- R89, opcode 0x014: Logical shift right by an immediate 0-63. -/
  | shri (d : SReg) (a : SReg) (i : BitVec 26)
  /-- R89, opcode 0x015: Arithmetic shift right by an immediate 0-63. -/
  | srai (d : SReg) (a : SReg) (i : BitVec 26)
  /-- R89, opcode 0x016: Rotates a register left by a register amount modulo 64. -/
  | rotl (d : SReg) (a : SReg) (b : SReg)
  /-- R89, opcode 0x017: Signed minimum of two scalar registers. -/
  | min (d : SReg) (a : SReg) (b : SReg)
  /-- R89, opcode 0x018: Signed maximum of two scalar registers. -/
  | max (d : SReg) (a : SReg) (b : SReg)
  /-- R89, opcode 0x019: Unsigned minimum of two scalar registers. -/
  | minl (d : SReg) (a : SReg) (b : SReg)
  /-- R89, opcode 0x01A: Unsigned maximum of two scalar registers. -/
  | maxl (d : SReg) (a : SReg) (b : SReg)
  /-- R89, opcode 0x01B: Counts leading zero bits. -/
  | clz (d : SReg) (a : SReg)
  /-- R89, opcode 0x01C: Counts trailing zero bits. -/
  | ctz (d : SReg) (a : SReg)
  /-- R89, opcode 0x01D: Counts one bits. -/
  | popc (d : SReg) (a : SReg)
  /-- R89, opcode 0x01E: Reverses the byte order of a register. -/
  | bswap (d : SReg) (a : SReg)
  /-- R89, opcode 0x01F: Sign-extends the low n bits of a register. -/
  | sext (d : SReg) (a : SReg) (i : BitVec 26)
  /-- R89, opcode 0x020: Zero-extends the low n bits of a register. -/
  | zext (d : SReg) (a : SReg) (i : BitVec 26)
  /-- R90, opcode 0x021: Loads a sign-extended shifted 32-bit constant. -/
  | li (d : SReg) (v : BitVec 32) (sh : Fin 64)
  /-- R90, opcode 0x022: Replaces a shifted 32-bit field of a register with a constant. -/
  | lih (d : SReg) (v : BitVec 32) (sh : Fin 64)
  /-- R89, opcode 0x023: Copies a scalar register. -/
  | mov (d : SReg) (a : SReg)
  /-- R89, opcode 0x024: Selects one of two registers by a predicate. -/
  | sel (d : SReg) (a : SReg) (b : SReg) (q : PReg) (inv : Bool)
  /-- R89, opcode 0x025: Adds a register to another shifted left by 0-7. -/
  | addp (d : SReg) (a : SReg) (b : SReg) (n : Ix8)
  /-- R91, opcode 0x026: Compares two registers and writes a predicate pair. -/
  | cmp (c : Cond) (q : PReg) (a : SReg) (b : SReg)
  /-- R91, opcode 0x027: Compares a register with an immediate and writes a predicate pair. -/
  | cmpi (c : Cond) (q : PReg) (a : SReg) (i : BitVec 30)
  /-- R92, opcode 0x060: ANDs two predicates. -/
  | pand (d : PReg) (a : PReg) (b : PReg)
  /-- R92, opcode 0x061: ORs two predicates. -/
  | por (d : PReg) (a : PReg) (b : PReg)
  /-- R92, opcode 0x062: XORs two predicates. -/
  | pxor (d : PReg) (a : PReg) (b : PReg)
  /-- R92, opcode 0x063: Complements a predicate. -/
  | pnot (d : PReg) (a : PReg)
  /-- R92, opcode 0x064: Copies a predicate. -/
  | pmov (d : PReg) (a : PReg)
  /-- R92, opcode 0x065: Sets a predicate from one bit of a scalar register. -/
  | pset (d : PReg) (a : SReg) (n : Fin 64)
  /-- R92, opcode 0x065: Sets p1-p15 from bits 1-15 of a scalar register. -/
  | psetAll (a : SReg)
  /-- R92, opcode 0x066: Writes all sixteen predicates into a scalar register. -/
  | pget (d : SReg)
  /-- R93, opcode 0x067: Branches PC-relative after three delay groups. -/
  | br (off : BitVec 30)
  /-- R93, opcode 0x068: Jumps to the address in a register after three delay groups. -/
  | jmp (a : SReg)
  /-- R95, opcode 0x069: Pushes the link on the return stack, spilling if full, writes s63 and branches. -/
  | call (off : BitVec 30)
  /-- R95, opcode 0x06A: Register-target call with return-stack push and spill. -/
  | callr (a : SReg)
  /-- R95, opcode 0x06B: Pops the return stack, reloading from the spill area if empty, and branches there. -/
  | ret
  /-- R97, opcode 0x06C: Pushes a hardware loop level with an immediate count over the following body groups. -/
  | loop (body : BitVec 12) (cnt : BitVec 31)
  /-- R97, opcode 0x06C: Pushes a hardware loop level with its count taken from a scalar register. -/
  | loopReg (body : BitVec 12) (a : SReg)
  /-- R100, opcode 0x06D: Pops loop level 0. -/
  | lbrk
  /-- R101, opcode 0x06E: Reads a loop index register. -/
  | lidx (d : SReg) (j : Ix8)
  /-- R101, opcode 0x06E: Reads a loop count register. -/
  | lidxN (d : SReg) (j : Ix8)
  /-- R103, opcode 0x06F: Reads a control register into a scalar register. -/
  | csrr (d : SReg) (n : BitVec 12)
  /-- R103, opcode 0x070: Writes a control register field by field, with TCFG checks and waits. -/
  | csrw (n : BitVec 12) (a : SReg)
  /-- R103, opcode 0x070: Sets bits of a control register. -/
  | csrwSet (n : BitVec 12) (a : SReg)
  /-- R103, opcode 0x070: Clears bits of a control register. -/
  | csrwClr (n : BitVec 12) (a : SReg)
  /-- R113, opcode 0x080: Lane-wise add under the operating tag and write mask. -/
  | vadd (d : VReg) (a : VReg) (b : VReg) (m : MReg) (z : Bool) (w : Bool) (rm : Rm)
  /-- R113, opcode 0x081: Lane-wise subtract. -/
  | vsub (d : VReg) (a : VReg) (b : VReg) (m : MReg) (z : Bool) (w : Bool) (rm : Rm)
  /-- R113, opcode 0x082: Lane-wise multiply. -/
  | vmul (d : VReg) (a : VReg) (b : VReg) (m : MReg) (z : Bool) (w : Bool) (rm : Rm)
  /-- R113, opcode 0x083: Lane-wise fused multiply-add into vd with one rounding. -/
  | vfma (d : VReg) (a : VReg) (b : VReg) (m : MReg) (z : Bool) (rm : Rm)
  /-- R113, opcode 0x084: Lane-wise fused vd minus product with one rounding. -/
  | vfms (d : VReg) (a : VReg) (b : VReg) (m : MReg) (z : Bool) (rm : Rm)
  /-- R113, opcode 0x085: Lane-wise negation. -/
  | vneg (d : VReg) (a : VReg) (m : MReg) (z : Bool) (w : Bool)
  /-- R113, opcode 0x086: Lane-wise absolute value. -/
  | vabs (d : VReg) (a : VReg) (m : MReg) (z : Bool) (w : Bool)
  /-- R113, opcode 0x087: Lane-wise minimum. -/
  | vmin (d : VReg) (a : VReg) (b : VReg) (m : MReg) (z : Bool)
  /-- R113, opcode 0x088: Lane-wise maximum. -/
  | vmax (d : VReg) (a : VReg) (b : VReg) (m : MReg) (z : Bool)
  /-- R113, opcode 0x089: Lane-wise bitwise AND. -/
  | vand (d : VReg) (a : VReg) (b : VReg) (m : MReg) (z : Bool)
  /-- R113, opcode 0x08A: Lane-wise bitwise OR. -/
  | vor (d : VReg) (a : VReg) (b : VReg) (m : MReg) (z : Bool)
  /-- R113, opcode 0x08B: Lane-wise bitwise XOR. -/
  | vxor (d : VReg) (a : VReg) (b : VReg) (m : MReg) (z : Bool)
  /-- R113, opcode 0x08C: Lane-wise shift left. -/
  | vshl (d : VReg) (a : VReg) (b : VReg) (m : MReg) (z : Bool)
  /-- R113, opcode 0x08D: Lane-wise logical shift right. -/
  | vshr (d : VReg) (a : VReg) (b : VReg) (m : MReg) (z : Bool)
  /-- R113, opcode 0x08E: Lane-wise arithmetic shift right. -/
  | vsra (d : VReg) (a : VReg) (b : VReg) (m : MReg) (z : Bool)
  /-- R113, opcode 0x08F: Clamps lanes between bounds in vd and vb. -/
  | vclamp (d : VReg) (a : VReg) (b : VReg) (m : MReg) (z : Bool)
  /-- R114, opcode 0x090: Writes a scalar into every enabled lane under a named tag. -/
  | vsplat (t : Tag) (d : VReg) (b : SReg) (m : MReg) (z : Bool)
  /-- R114, opcode 0x091: Moves one vector lane into a scalar register. -/
  | vmovs (b : SReg) (a : VReg) (j : Fin 1024)
  /-- R114, opcode 0x092: Inserts a scalar into one lane of a copy of va. -/
  | vins (d : VReg) (a : VReg) (b : SReg) (j : Fin 1024)
  /-- R115, opcode 0x093: Copies a vector register under a write mask. -/
  | vmov (d : VReg) (a : VReg) (m : MReg) (z : Bool)
  /-- R115, opcode 0x094: Selects lanes from two vectors by mask. -/
  | vsel (d : VReg) (a : VReg) (b : VReg) (m : MReg)
  /-- R116, opcode 0x095: Compares lanes and writes a mask pair. -/
  | vcmp (c : Cond) (d : MReg) (a : VReg) (b : VReg) (m : MReg)
  /-- R118, opcode 0x096: Converts or retags lanes into a named tag and part. -/
  | vcvt (d : VReg) (a : VReg) (m : MReg) (t : Tag) (h : Fin 4) (w : Bool) (rm : Rm)
  /-- R133, opcode 0x0A0: Sets the first n mask bits. -/
  | vmaskN (d : MReg) (a : SReg)
  /-- R133, opcode 0x0A0: Sets mask bits for nonzero lanes. -/
  | vmaskNz (d : MReg) (a : VReg)
  /-- R133, opcode 0x0A0: Writes one 64-bit quarter of a mask. -/
  | vmaskQ (d : MReg) (a : SReg) (q : PReg)
  /-- R133, opcode 0x0A1: ANDs two masks. -/
  | mand (d : MReg) (a : MReg) (b : MReg)
  /-- R133, opcode 0x0A2: ORs two masks. -/
  | mor (d : MReg) (a : MReg) (b : MReg)
  /-- R133, opcode 0x0A3: XORs two masks. -/
  | mxor (d : MReg) (a : MReg) (b : MReg)
  /-- R133, opcode 0x0A4: Complements a mask. -/
  | mnot (d : MReg) (a : MReg)
  /-- R133, opcode 0x0A5: Counts one bits of a mask. -/
  | mcnt (d : SReg) (a : MReg)
  /-- R133, opcode 0x0A6: Finds the lowest set bit of a mask. -/
  | mfirst (d : SReg) (a : MReg)
  /-- R119, opcode 0x0C0: Correctly rounded reciprocal of each lane. -/
  | vrcp (d : VReg) (a : VReg) (m : MReg) (z : Bool) (rm : Rm)
  /-- R119, opcode 0x0C1: Correctly rounded reciprocal square root. -/
  | vrsqrt (d : VReg) (a : VReg) (m : MReg) (z : Bool) (rm : Rm)
  /-- R119, opcode 0x0C2: Correctly rounded square root. -/
  | vsqrt (d : VReg) (a : VReg) (m : MReg) (z : Bool) (rm : Rm)
  /-- R119, opcode 0x0C3: Correctly rounded 2^x. -/
  | vexp2 (d : VReg) (a : VReg) (m : MReg) (z : Bool) (rm : Rm)
  /-- R119, opcode 0x0C4: Correctly rounded log2 x. -/
  | vlog2 (d : VReg) (a : VReg) (m : MReg) (z : Bool) (rm : Rm)
  /-- R121, opcode 0x0C8: Gathers granules from registers numbered by an index vector. -/
  | vgetl (d : VReg) (a : VReg) (m : MReg) (b : VReg) (g : Bool) (z : Bool)
  /-- R121, opcode 0x0C9: Scatters granules into registers numbered by an index vector. -/
  | vputl (d : VReg) (a : VReg) (b : VReg) (m : MReg) (g : Bool)
  /-- R121, opcode 0x0CA: Copies a register at a computed number into vd. -/
  | vmovx (d : VReg) (a : VReg) (b : SReg)
  /-- R121, opcode 0x0CB: Copies va into a register at a computed number. -/
  | vstx (d : VReg) (a : VReg) (b : SReg)
  /-- R124, opcode 0x0D0: Permutes lanes by an index vector. -/
  | vperm (d : VReg) (a : VReg) (b : VReg) (m : MReg) (z : Bool)
  /-- R124, opcode 0x0D1: Rotates lanes by a scalar plus immediate. -/
  | vrot (d : VReg) (a : VReg) (b : SReg) (n : Fin 1024) (m : MReg) (z : Bool)
  /-- R125, opcode 0x0D2: Interleaves or de-interleaves units of two sources. -/
  | vshuf (d : VReg) (a : VReg) (b : VReg) (m : MReg) (pat : Ix8) (g : Ix8) (z : Bool)
  /-- R124, opcode 0x0D3: Broadcasts one lane to all lanes. -/
  | vbcast (d : VReg) (a : VReg) (b : SReg) (n : Fin 1024) (m : MReg) (z : Bool)
  /-- R124, opcode 0x0D4: Compresses selected lanes to the low end. -/
  | vcomp (d : VReg) (a : VReg) (m : MReg)
  /-- R124, opcode 0x0D5: Expands low lanes into selected positions. -/
  | vexpd (d : VReg) (a : VReg) (m : MReg) (z : Bool)
  /-- R126, opcode 0x0D8: Tree-sum reduction of enabled lanes into lane 0. -/
  | vredadd (d : VReg) (a : VReg) (m : MReg) (rm : Rm)
  /-- R126, opcode 0x0D9: Maximum reduction into lane 0. -/
  | vredmax (d : VReg) (a : VReg) (m : MReg)
  /-- R126, opcode 0x0DA: Minimum reduction into lane 0. -/
  | vredmin (d : VReg) (a : VReg) (m : MReg)
  /-- R127, opcode 0x0DB: Writes the index of the maximum enabled lane. -/
  | vargmax (d : VReg) (a : VReg) (m : MReg)
  /-- R126, opcode 0x0DC: Inclusive add, max or min scan over lanes. -/
  | vscan (d : VReg) (a : VReg) (m : MReg) (op : Fin 4) (rm : Rm)
  /-- R128, opcode 0x0E0: Narrows two sources into one register of half-width lanes. -/
  | vpack (d : VReg) (a : VReg) (b : VReg) (m : MReg) (z : Bool) (w : Bool) (rm : Rm)
  /-- R128, opcode 0x0E1: Widens half of a source exactly. -/
  | vunpk (d : VReg) (a : VReg) (m : MReg) (h : Bool) (z : Bool)
  /-- R129, opcode 0x0E2: Quantises float lanes into E2M1X blocks. -/
  | vblk (d : VReg) (a : VReg) (sv : Option VReg) (m : MReg) (n : PReg) (x : Bool) (rm : Rm)
  /-- R130, opcode 0x0E3: Converts E2M1X elements to BF16 or FP32 lanes. -/
  | vunblk (d : VReg) (a : VReg) (m : MReg) (n : Ix8) (fp32 : Bool) (z : Bool) (rm : Rm)
  /-- R132, opcode 0x0E8: Winograd input transform per cell. -/
  | vwgin (d : VReg) (a : VReg) (m : MReg) (z : Bool)
  /-- R132, opcode 0x0E9: Winograd output transform per cell. -/
  | vwgout (d : VReg) (a : VReg) (m : MReg) (z : Bool)
  /-- R132, opcode 0x0EA: Winograd filter transform per cell. -/
  | vwgfil (d : VReg) (a : VReg) (m : MReg) (z : Bool)
  /-- R140, opcode 0x140: Loads 1-8 bytes into a scalar register. -/
  | lds (d : SReg) (a : SReg) (i : BitVec 18) (sp : Space) (sz : Size) (u : Bool)
  /-- R142, opcode 0x141: Stores 1-8 bytes of a scalar register. -/
  | sts (d : SReg) (a : SReg) (i : BitVec 18) (sp : Space) (sz : Size)
  /-- R140, opcode 0x142: Loads a whole vector register under a tag. -/
  | ldv (d : VReg) (a : SReg) (i : BitVec 18) (sp : Space) (t : Tag)
  /-- R142, opcode 0x143: Stores a whole vector register. -/
  | stv (d : VReg) (a : SReg) (i : BitVec 18) (sp : Space) (t : Tag)
  /-- R140, opcode 0x144: Strided per-lane load. -/
  | ldvs (d : VReg) (a : SReg) (b : SReg) (m : MReg) (sp : Space) (t : Tag) (z : Bool)
  /-- R142, opcode 0x145: Strided per-lane store. -/
  | stvs (d : VReg) (a : SReg) (b : SReg) (m : MReg) (sp : Space) (t : Tag)
  /-- R140, opcode 0x146: Indexed per-lane gather load. -/
  | ldvx (d : VReg) (a : SReg) (x : VReg) (m : MReg) (sp : Space) (t : Tag) (sc : Fin 4) (u : Bool) (z : Bool)
  /-- R142, opcode 0x147: Indexed per-lane scatter store. -/
  | stvx (d : VReg) (a : SReg) (x : VReg) (m : MReg) (sp : Space) (t : Tag) (sc : Fin 4) (u : Bool)
  /-- R144, opcode 0x148: Prefetches 2^N lines into their home slices without faulting. -/
  | pfh (a : SReg) (i : BitVec 18) (n : Ix8)
  /-- R234, opcode 0x150: Counted store of 1 KiB setting each line COUNTED(n). -/
  | stc (d : VReg) (a : SReg) (n : BitVec 8) (t : Tag)
  /-- R234, opcode 0x151: Consuming scalar load that decrements a line's reader count. -/
  | ldc (d : SReg) (a : SReg) (i : BitVec 18) (sp : Space) (sz : Size) (u : Bool)
  /-- R234, opcode 0x152: Consuming vector load of 1 KiB. -/
  | ldvc (d : VReg) (a : SReg) (i : BitVec 18) (sp : Space) (t : Tag)
  /-- R234, opcode 0x153: Queries a line's reader count and mode. -/
  | rcq (d : SReg) (a : SReg) (i : BitVec 18) (sp : Space)
  /-- R236, opcode 0x154: Atomic add at the home, returning the old value. -/
  | aadd (d : SReg) (a : SReg) (b : SReg) (sp : Space) (q : Bool)
  /-- R236, opcode 0x155: Atomic signed or unsigned minimum. -/
  | amin (d : SReg) (a : SReg) (b : SReg) (sp : Space) (q : Bool) (u : Bool)
  /-- R236, opcode 0x156: Atomic signed or unsigned maximum; on a queue NOTIFY word it notifies the mapped slot. -/
  | amax (d : SReg) (a : SReg) (b : SReg) (sp : Space) (q : Bool) (u : Bool)
  /-- R236, opcode 0x157: Atomic AND. -/
  | aand (d : SReg) (a : SReg) (b : SReg) (sp : Space) (q : Bool)
  /-- R236, opcode 0x158: Atomic OR. -/
  | aor (d : SReg) (a : SReg) (b : SReg) (sp : Space) (q : Bool)
  /-- R236, opcode 0x159: Atomic XOR. -/
  | axor (d : SReg) (a : SReg) (b : SReg) (sp : Space) (q : Bool)
  /-- R236, opcode 0x15A: Atomic swap. -/
  | aswp (d : SReg) (a : SReg) (b : SReg) (sp : Space) (q : Bool)
  /-- R236, opcode 0x15B: Atomic compare-and-swap. -/
  | acas (d : SReg) (a : SReg) (b : SReg) (c : SReg) (sp : Space) (q : Bool)
  /-- R226, opcode 0x15C: Waits for earlier stores and commands, empties counted lines with under-read records, and releases banks. -/
  | brel (a : SReg) (b : SReg)
  /-- R226, opcode 0x15C: Releases banks keeping their reader counts, passing them to the awaiting launch. -/
  | brelP (a : SReg) (b : SReg)
  /-- R227, opcode 0x15D: Holds until every named bank is owned by the caller's launch. -/
  | bwait (a : SReg) (b : SReg)
  /-- R238, opcode 0x15E: Defines a pail from a descriptor, emptying its lines. -/
  | pdef (n : Ix8) (a : SReg)
  /-- R238, opcode 0x15E: Frees a pail's table entry. -/
  | pdefRel (n : Ix8)
  /-- R377, opcode 0x160: Names the launch's window table and holds until every die drops its cache. -/
  | wset (a : SReg) (b : SReg)
  /-- R377, opcode 0x160: Drops one window handle from every die's cache. -/
  | wsetInv (a : SReg)
  /-- R374, opcode 0x161: Scalar remote load through a constant window handle. -/
  | ldw (d : SReg) (h : BitVec 16) (a : SReg) (sz : Size)
  /-- R374, opcode 0x161: Vector remote load through a constant window handle. -/
  | ldwVec (d : VReg) (h : BitVec 16) (a : SReg) (t : Tag)
  /-- R374, opcode 0x162: Scalar remote store through a constant window handle. -/
  | stw (d : SReg) (h : BitVec 16) (a : SReg) (sz : Size)
  /-- R374, opcode 0x162: Vector remote store through a constant window handle. -/
  | stwVec (d : VReg) (h : BitVec 16) (a : SReg) (t : Tag)
  /-- R376, opcode 0x163: Holds until every earlier remote operation is acknowledged or faulted. -/
  | fencex
  /-- R261, opcode 0x180: Checks and sets a tile configuration at its place in the tile order without holding issue. -/
  | tcfg (t : Ix8) (a : SReg)
  /-- R262, opcode 0x181: Returns a tile's version after earlier actions. -/
  | tcfgqVer (b : SReg) (t : Ix8)
  /-- R262, opcode 0x181: Returns a tile's state word without waiting. -/
  | tcfgqSt (b : SReg) (t : Ix8)
  /-- R262, opcode 0x181: Returns the command tag of the latest engine command. -/
  | tcfgqTag (b : SReg)
  /-- R262, opcode 0x181: Returns the separator stall count. -/
  | tcfgqSep (b : SReg)
  /-- R261, opcode 0x182: Zeroes a tile's data and side store. -/
  | tzero (t : Ix8)
  /-- R264, opcode 0x183: Loads a tensor-map register from a 64-byte descriptor. -/
  | mset (mp : Ix8) (a : SReg)
  /-- R265, opcode 0x184: Loads a map's raster table. -/
  | mord (mp : Ix8) (a : SReg) (b : SReg)
  /-- R269, opcode 0x185: Loads a tile window from memory through a tensor map. -/
  | tld (t : Ix8) (mp : Ix8) (a : SReg) (b : SReg) (c : Bool) (k : Option KReg)
  /-- R270, opcode 0x186: Stores a tile window to memory through a tensor map. -/
  | tst (t : Ix8) (mp : Ix8) (a : SReg) (b : SReg) (n : BitVec 8) (k : Option KReg)
  /-- R271, opcode 0x187: Moves rows from a vector register into a tile. -/
  | tldv (t : Ix8) (v : VReg) (a : SReg) (n : BitVec 7)
  /-- R271, opcode 0x188: Moves tile rows into a vector register. -/
  | tstv (t : Ix8) (v : VReg) (a : SReg) (n : BitVec 7)
  /-- R273, opcode 0x189: Reads a map once and multicasts it to receive ports of several cores. -/
  | tmc (mp : Ix8) (a : SReg) (b : SReg) (m : MReg) (u : Ix8) (c : Bool) (k : Option KReg)
  /-- R272, opcode 0x18A: Binds a receive port to a tile and counter. -/
  | trecv (t : Ix8) (k : KReg) (n : Ix8)
  /-- R272, opcode 0x18A: Releases a receive port. -/
  | trecvRel (n : Ix8)
  /-- R261, opcode 0x18B: Sets a tile's reader count. -/
  | tcons (t : Ix8) (n : BitVec 8)
  /-- R275, opcode 0x18C: Loads and validates a separator code table. -/
  | dtab (n : Fin 4) (a : SReg)
  /-- R277, opcode 0x18D: Decodes a compressed stream into a tile window. -/
  | tldz (t : Ix8) (a : SReg) (b : SReg) (g : Tag) (k : Option KReg)
  /-- R259, opcode 0x18E: Holds until the outstanding counts are at or below the limits. -/
  | wait (l : PReg) (s : PReg) (c : PReg) (t : PReg)
  /-- R288, opcode 0x190: Multiplies two tiles on the churn and accumulates into an accumulator set. -/
  | mma (n : Bool) (t : Ix8) (u : Ix8) (a : SReg) (z : Bool) (w : Bool) (ca : Bool) (cb : Bool) (ua : Bool) (ub : Bool)
  /-- R293, opcode 0x191: Zeroes an accumulator set under I32. -/
  | mmzI32 (n : Bool)
  /-- R293, opcode 0x191: Zeroes an accumulator set under FP32. -/
  | mmzFp32 (n : Bool)
  /-- R296, opcode 0x192: Drains an accumulator set into a tile through bias, activation, requantisation and arg-max. -/
  | mmdr (t : Ix8) (n : Bool) (a : SReg) (bv : Option VReg) (x : Option Ix8) (act : Bool) (q : Bool) (z : Bool)
  /-- R292, opcode 0x193: Loads a correction register image. -/
  | qld (n : Bool) (qb : Bool) (st : Bool) (a : SReg)
  /-- R292, opcode 0x193: Loads a correction image and binds it to a tile's current version. -/
  | qldBind (n : Bool) (qb : Bool) (st : Bool) (a : SReg) (t : Ix8)
  /-- R292, opcode 0x194: Stores a correction register image. -/
  | qst (n : Bool) (qb : Bool) (st : Bool) (a : SReg)
  /-- R294, opcode 0x195: Sets the activation range LO and HI. -/
  | esetRng (a : SReg)
  /-- R294, opcode 0x195: Sets the requantisation scale and zero point. -/
  | esetQ (a : SReg)
  /-- R294, opcode 0x196: Loads the 256-segment activation table. -/
  | etab (a : SReg)
  /-- R344, opcode 0x1A0: Loads a layout register from a descriptor. -/
  | lset (n : Ix8) (a : SReg)
  /-- R344, opcode 0x1A1: Returns an origin, rank or grid size of the caller's die. -/
  | lcoord (b : SReg) (n : Ix8) (q : Ix8)
  /-- R345, opcode 0x1A2: Returns the neighbour of the caller's die along an axis. -/
  | lnbr (b : SReg) (n : Ix8) (ax : Fin 4) (dir : Bool)
  /-- R348, opcode 0x1A3: Sends a block face to the neighbour's halo through the ladle. -/
  | hsend (n : Ix8) (ax : Fin 4) (dir : Bool) (k : Option KReg)
  /-- R346, opcode 0x1A4: Binds a layout KEY on the die to a counter. -/
  | hrecv (n : Ix8) (k : KReg)
  /-- R346, opcode 0x1A4: Frees a receive binding. -/
  | hrecvRel (n : Ix8)
  /-- R350, opcode 0x1A5: Sends this die's share of a tensor from one layout to another. -/
  | reshard (d : Ix8) (n : Ix8) (k : Option KReg)
  /-- R352, opcode 0x1A6: Joins a creamery reduction whose result is written to result dies. -/
  | cred (a : SReg) (b : SReg) (k : Option KReg)
  /-- R353, opcode 0x1A6: Joins a creamery reduction whose result is sent on a channel. -/
  | credCh (a : SReg) (b : SReg) (c : Fin 64) (k : Option KReg)
  /-- R356, opcode 0x1A7: Declares a channel end from a descriptor. -/
  | chset (c : Fin 64) (a : SReg)
  /-- R356, opcode 0x1A7: Releases a channel end after its commands finish. -/
  | chsetRel (c : Fin 64)
  /-- R357, opcode 0x1A8: Queues an item to send on a channel. -/
  | chsend (c : Fin 64) (v : VReg)
  /-- R358, opcode 0x1A9: Takes the next item of a channel into a vector register. -/
  | chrecv (v : VReg) (c : Fin 64)
  /-- R153, opcode 0x1C0: Returns the thread number. -/
  | tid (d : SReg)
  /-- R153, opcode 0x1C1: Returns the launch's thread count. -/
  | tcount (d : SReg)
  /-- R158, opcode 0x1C2: Joins or creates a thread group at its home table and returns a handle. -/
  | join (d : SReg) (a : SReg) (b : SReg)
  /-- R160, opcode 0x1C3: Leaves a thread group, possibly ending a phase or dissolving it. -/
  | leave (a : SReg)
  /-- R161, opcode 0x1C4: Returns the rank in a handle. -/
  | grank (d : SReg) (a : SReg)
  /-- R161, opcode 0x1C5: Returns the expected size in a handle. -/
  | gsize (d : SReg) (a : SReg)
  /-- R161, opcode 0x1C5: Returns the present count from the home table. -/
  | gsizeJ (d : SReg) (a : SReg)
  /-- R156, opcode 0x1C6: Ends the thread's issue and starts its retirement. -/
  | exit
  /-- R154, opcode 0x1C7: Acts as a slice expiry at the next boundary. -/
  | yield
  /-- R155, opcode 0x1C8: Marks the thread triggered once earlier operations complete. -/
  | trig
  /-- R183, opcode 0x1C9: Atomically appends a launch record to a queue and notifies its slot. -/
  | launch (d : SReg) (a : SReg) (b : SReg)
  /-- R181, opcode 0x1CA: Changes the base priority of the calling thread. -/
  | prio (d : SReg) (a : SReg) (n : PReg) (r : Bool)
  /-- R181, opcode 0x1CA: Changes the base priority of every thread of the launch. -/
  | prioAll (d : SReg) (a : SReg) (n : PReg) (r : Bool)
  /-- R189, opcode 0x1D0: Writes a valid counter handle from a store address. -/
  | kset (k : KReg) (a : SReg)
  /-- R189, opcode 0x1D0: Invalidates a counter handle. -/
  | ksetClr (k : KReg)
  /-- R189, opcode 0x1D1: Arms a line into counter mode. -/
  | kmodeOn (k : KReg)
  /-- R189, opcode 0x1D1: Takes a line out of counter mode. -/
  | kmodeOff (k : KReg)
  /-- R190, opcode 0x1D2: Adds to a counter at its home vat, sending wake tokens. -/
  | kadd (k : KReg) (a : SReg) (i : BitVec 28)
  /-- R190, opcode 0x1D3: Adds to a counter and returns its old value. -/
  | kaddr (k : KReg) (d : SReg) (a : SReg) (i : BitVec 16)
  /-- R194, opcode 0x1D4: Holds the group until a counter reaches a target, registering in the WFT. -/
  | kwait (k : KReg) (a : SReg) (i : BitVec 16)
  /-- R193, opcode 0x1D5: Reads a counter value. -/
  | kread (k : KReg) (d : SReg)
  /-- R198, opcode 0x1D6: Arrives at a thread-group barrier and waits for the phase to end. -/
  | bar (a : SReg)
  /-- R198, opcode 0x1D6: Arrives at a barrier and returns the target phase without waiting. -/
  | barA (d : SReg) (a : SReg)
  /-- R198, opcode 0x1D6: Waits for a barrier phase without arriving. -/
  | barW (a : SReg) (b : SReg)
  /-- R202, opcode 0x1D7: Declares the calling thread owner of a counter. -/
  | wfown (k : KReg) (d : SReg)
  /-- R202, opcode 0x1D7: Declares another thread of the launch owner of a counter. -/
  | wfownT (k : KReg) (d : SReg) (a : SReg)
  /-- R202, opcode 0x1D7: Declares a thread group owner of a counter. -/
  | wfownG (k : KReg) (d : SReg) (a : SReg)
  /-- R202, opcode 0x1D7: Declares an engine command owner of a counter. -/
  | wfownE (k : KReg) (d : SReg) (a : SReg)
  /-- R202, opcode 0x1D7: Declares a remote peer owner of a counter. -/
  | wfownR (k : KReg) (d : SReg) (a : SReg)
  /-- R202, opcode 0x1D8: Removes the caller's owner records for a counter. -/
  | wfdrop (k : KReg)
  /-- R202, opcode 0x1D8: Removes the launch's owner records for a counter. -/
  | wfdropAll (k : KReg)
  /-- R203, opcode 0x1D9: Counts waiter edges on a counter. -/
  | wfqW (k : KReg) (d : SReg)
  /-- R203, opcode 0x1D9: Counts owner records for a counter. -/
  | wfqO (k : KReg) (d : SReg)
  /-- R203, opcode 0x1D9: Counts free entries of the die's WFT. -/
  | wfqF (d : SReg)
  /-- R375, opcode 0x1DA: Adds to a remote counter after earlier remote operations are acknowledged. -/
  | kaddw (a : SReg) (i : BitVec 28)
  /-- R314, opcode 0x1E0: Commits and raises cause 0x14 with its immediate. -/
  | trap (i : BitVec 26)
  /-- R315, opcode 0x1E1: Returns from the handler, resuming Snap and Redir at the saved point. -/
  | xret
  /-- R320, opcode 0x1E2: Invalidates the translation of one page in every TLB. -/
  | tlbi (a : SReg)
  /-- R320, opcode 0x1E2: Invalidates every translation of the caller's world. -/
  | tlbiAll
  /-- R329, opcode 0x1F0: Firmware requests pre-emption of a bind entry and holds until it is free. -/
  | ctxsv (a : SReg)
  /-- R329, opcode 0x1F1: Firmware writes a bind record and holds until binding ends. -/
  | ctxld (a : SReg) (b : SReg)
  /-- R329, opcode 0x1F2: Firmware loads a dictionary into a core's RAM. -/
  | dload (a : SReg) (b : SReg)
  /-- R48: the results of context `c` that are due land. -/
  | fixedResultLands (c : Nat)
  /-- R15, R49: result `op` of context `c` arrives; `ok` is false when its data met an uncorrectable error (R146). -/
  | pendingResultArrives (c op : Nat) (ok : Bool)
  /-- R142: outstanding operation `op` of class S of context `c` is performed; `ok` as above. -/
  | storePerformed (c op : Nat) (ok : Bool)
  /-- R39: a retired slot of context `c` adds 1 to the counter at store address `addr`. -/
  | arriveAdd (c addr : Nat)
  /-- R195: a token naming WFT entry and stamp reaches context `c`. -/
  | wakeToken (c entry order : Nat)
  /-- R201: context `c`, held unregistered, reads its counter again. -/
  | unregisteredWaitPoll (c : Nat)
  /-- R208: the dispatch core examines the walks handed to it. -/
  | dispatchDeadlockCheck (die : Nat)
  /-- R307: context `c` takes fault `f`. -/
  | trapEntry (c : Nat) (f : FaultInfo)
  /-- R155: a `trig` of context `c` retires. -/
  | trigRetire (c : Nat)
  /-- R156: the exiting thread of context `c` retires. -/
  | threadRetire (c : Nat)
  /-- R174: one scheduling decision; the placement is the dispatch core's choice (R147). -/
  | dispatchSelect (die core hctx fb tb : Nat)
  /-- R177: bind-table entry `entry` has V set. -/
  | bind (die entry : Nat)
  /-- R178. -/
  | sliceExpiry (c : Nat)
  /-- R322: a requested pre-emption is taken at a pre-emption point. -/
  | preemptSave (c : Nat)
  /-- R182. -/
  | watchdogT1 (lnch tid : Nat)
  /-- R182. -/
  | watchdogT2 (lnch tid : Nat)
  /-- R182. -/
  | watchdogT3 (c : Nat)
  /-- R177: the slot of a killed context has drained. -/
  | killDrainComplete (c : Nat)
  /-- R255: command `tag` of context `c` begins. -/
  | engineCommandExecute (c tag : Nat)
  /-- R257: command `tag` of context `c` completes. -/
  | engineCommandComplete (c tag : Nat)
  /-- R273: the multicast takes its next branch buffer. -/
  | multicastReservation (c tag : Nat)
  /-- R274: the multicast makes its next arrival. -/
  | multicastArrival (c tag : Nat)
  /-- R348: the face of command `tag` arrives. -/
  | ladleArrival (c tag : Nat)
  /-- R350: the next piece of command `tag` arrives. -/
  | reshardArrival (c tag : Nat)
  /-- R353: reduction `j` of KEY `key` is performed. -/
  | creameryReduction (lnch key j : Nat)
  /-- R354: its result takes its next landing buffer or is written. -/
  | reductionDelivery (lnch key j : Nat)
  /-- R357: the oldest queued send of the channel is written. -/
  | channelItemWrite (lnch ch : Nat)
  /-- R358: the oldest queued receive of the channel is served. -/
  | channelItemRead (lnch ch : Nat)
  /-- R239: the pail hardware adds for a completed slot. -/
  | pailCounterAdd (die entry : Nat)
  /-- R378: a request of another module arrives; `room` says that its class has a free buffer at its port (R380). -/
  | remoteRequestArrives (q : Incoming)
  /-- R252: remote operation `op` is acknowledged, with its load data. -/
  | acknowledgementArrives (op : Nat) (data : List Byte)
  /-- R378: remote operation `op` is answered RNR. -/
  | receiverNotReady (op : Nat)
  /-- R378: remote operation `op` is sent again. -/
  | retryBackoffExpiry (op : Nat)
  /-- R378: remote operation `op` is answered in error, at the line the target names. -/
  | errorAnswer (op cause : Nat) (e : ErrorInfo)
  /-- R380: a relayed request is accepted, or the oldest forward is sent. -/
  | relayForward (q : RemoteReq)
  /-- R379: the peer answers a drain marker of the port; or with a module and a flow, their drain marker comes in by it. -/
  | drainMarker (m : Marker)
  /-- R382: the operations to an unreachable module fault. -/
  | peerUnreachable (m : Nat)
  /-- R368. -/
  | rotorSlotStart (port : Nat)
  /-- R367: every configured wavelength has locked. -/
  | portLocked (port : Nat)
  /-- R367: 25 us passed with `tx` and `rx` wavelengths locked. -/
  | portLockTimeout (port tx rx : Nat)
  /-- R367: every drain marker is answered. -/
  | quiesceDone (port : Nat)
  /-- R367: `tx` and `rx` wavelengths fail. -/
  | wavelengthFailure (port tx rx : Nat)
  /-- R366. -/
  | opcfgWrite (port : Nat) (x : Word)
  /-- R215. -/
  | dmcfgWrite (die : Nat) (x : Word)
  /-- R391. -/
  | vatwWrite (die : Nat) (x : Word)
  /-- R172, R173: the dispatch core writes QMAPq with M = 1. -/
  | qmapMap (die q : Nat) (x : Word)
  /-- R173. -/
  | qmapUnmap (die q : Nat)
  /-- R389: boot firmware or a service launch writes a management register. -/
  | managementRegisterWrite (addr : Nat) (x : Word)
  /-- R388. -/
  | mread (port pa n : Nat)
  /-- R388. -/
  | mwrite (port pa : Nat) (data : List Byte)
  /-- R388, R166. -/
  | append (port : Nat) (hdr rec : Word)
  /-- R173. -/
  | notify (die q : Nat) (x : Word)
  /-- R388. -/
  | cread (port addr : Nat)
  /-- R388, R389. -/
  | cwrite (port addr : Nat) (x : Word)
  /-- R395. -/
  | measure (port : Nat) (nonce : List Byte)
  /-- R397. -/
  | records (port : Nat)
  /-- R397. -/
  | recordsLostReport (src : Nat)
  /-- R392. -/
  | moduleReset
  /-- R394. -/
  | securityAlarm
  /-- R398. -/
  | thermalThrottle (die : Nat)
  /-- R398. -/
  | thermalTrip (die : Nat)
  /-- R399. -/
  | i2cResetRequest (x : Byte)
  /-- R182. -/
  | fencedCoreRestore (die core : Nat)
deriving DecidableEq, Repr

end Sys2Proof
end

