-- ==== Sys2Proof/WellFormed.lean ====
section
/-! DEFINITION. Well-formed instructions: what R35 and R52 check of an encoding beyond the width of its fields. -/

namespace Sys2Proof

/-- The control-register numbers of R23. -/
def csrDefined (n : Nat) : Bool :=
  n ≤ 6 || n == 8 || n == 9 || (0x10 ≤ n && n ≤ 0x17) || (0x20 ≤ n && n ≤ 0x27)

/-- The tags that `vsplat` may name (R114). -/
def splatTag : Tag → Bool
  | .raw | .i8 | .i16 | .i32 | .bf16 | .fp32 | .e4m3 | .e8m0 => true
  | .none | .e2m1x | .poison => false

/-- The checks of R35 items 2 to 4 that an operand type does not already make: ranges of immediates (R88, R134 and the
encoding tables of each chapter), predicate and mask pairs (R41), control-register numbers (R23) and tag codes. -/
def Instr.wf : Instr → Bool
  | .shli _ _ i => decide (i.toNat < 64)
  | .shri _ _ i => decide (i.toNat < 64)
  | .srai _ _ i => decide (i.toNat < 64)
  | .sext _ _ i => decide (0 < i.toNat) && decide (i.toNat ≤ 64)
  | .zext _ _ i => decide (0 < i.toNat) && decide (i.toNat ≤ 64)
  | .lih _ _ sh => decide (sh.val ≤ 32)
  | .cmp _ q _ _ => decide (q.val % 2 = 0) && q.val != 0
  | .cmpi _ q _ _ => decide (q.val % 2 = 0) && q.val != 0
  | .loop body _ => decide (0 < body.toNat)
  | .loopReg body _ => decide (0 < body.toNat)
  | .lidx _ j => decide (j.val < 6)
  | .lidxN _ j => decide (j.val < 6)
  | .csrr _ n => csrDefined n.toNat
  | .csrw n _ => csrDefined n.toNat
  | .csrwSet n _ => csrDefined n.toNat
  | .csrwClr n _ => csrDefined n.toNat
  | .vsplat t _ _ _ _ => splatTag t
  | .vcmp _ d _ _ _ => decide (d.val % 2 = 0) && d.val != 0
  | .vcvt _ _ _ t _ _ _ => t != .none && t != .poison
  | .vshuf _ _ _ _ pat g _ => decide (pat.val < 6) && decide (g.val < 6)
  | .vscan _ _ _ op _ => decide (op.val < 3)
  | .vunblk _ _ _ n fp32 _ _ => decide (n.val < 6) && (fp32 || decide (n.val < 3))
  | .ldv _ _ _ _ t => t != .none && t != .poison
  | .stv _ _ _ _ t => t != .none && t != .poison
  | .ldvs _ _ _ _ _ t _ => t != .none && t != .poison && t != .e2m1x
  | .stvs _ _ _ _ _ t => t != .none && t != .poison && t != .e2m1x
  | .ldvx _ _ _ _ _ t sc _ _ => t != .none && t != .poison && t != .e2m1x && decide (sc.val < 3)
  | .stvx _ _ _ _ _ t sc _ => t != .none && t != .poison && t != .e2m1x && decide (sc.val < 3)
  | .stc _ _ n t => t != .none && t != .poison && t != .e2m1x && decide (0 < n.toNat) && decide (n.toNat < 255)
  | .ldc _ _ _ sp _ _ => sp != .w
  | .ldvc _ _ _ sp t => t != .none && t != .poison && sp != .w
  | .rcq _ _ _ sp => sp != .w
  | .ldwVec _ _ _ t => t != .none && t != .poison
  | .stwVec _ _ _ t => t != .none && t != .poison
  | .tst _ _ _ _ n _ => decide (n.toNat < 255)
  | .tcons _ n => decide (0 < n.toNat)
  | .tldz _ _ _ g _ => g != .none && g != .poison
  | .lcoord _ _ q => decide (q.val < 6)
  | .lnbr _ _ ax _ => decide (ax.val < 3)
  | .hsend _ ax _ _ => decide (ax.val < 3)
  | .prio _ a n r => (r || decide (a.val = 0)) && (!r || decide (n.val = 0))
  | .prioAll _ a n r => (r || decide (a.val = 0)) && (!r || decide (n.val = 0))
  | _ => true

end Sys2Proof
end

