-- ==== Sys2Proof/Decode.lean ====
section
/-! DEFINITION. Decoding and encoding of slots (R36, R40, R41, R53). A slot is read as a natural number below 2^64; a
decoder answers `none` for every illegal encoding (R35 items 1 to 4). -/

namespace Sys2Proof

/-- Bits [lo+w-1:lo] of `o` (R9). -/
def fld (o lo w : Nat) : Nat := o / 2 ^ lo % 2 ^ w

/-- Tag codes of R60. -/
def Tag.code : Tag → Nat
  | .none => 0 | .raw => 1 | .i8 => 2 | .i16 => 3 | .i32 => 4 | .bf16 => 5 | .fp32 => 6 | .e4m3 => 7
  | .e2m1x => 8 | .e8m0 => 9 | .poison => 15

/-- The tag with a code; 0xA to 0xE are illegal (R41). -/
def Tag.ofCode : Nat → Option Tag
  | 0 => some .none | 1 => some .raw | 2 => some .i8 | 3 => some .i16 | 4 => some .i32 | 5 => some .bf16
  | 6 => some .fp32 | 7 => some .e4m3 | 8 => some .e2m1x | 9 => some .e8m0 | 15 => some .poison | _ => none

/-- Rounding codes of R111. -/
def Rm.code : Rm → Nat
  | .vmode => 0 | .rne => 4 | .rtz => 5 | .rdn => 6 | .rup => 7

/-- The rounding field with a code; 1 to 3 are illegal (R111). -/
def Rm.ofCode : Nat → Option Rm
  | 0 => some .vmode | 4 => some .rne | 5 => some .rtz | 6 => some .rdn | 7 => some .rup | _ => none

/-- Condition codes of R41. -/
def Cond.code : Cond → Nat
  | .eq => 0 | .ne => 1 | .lt => 2 | .le => 3 | .gt => 4 | .ge => 5 | .ltl => 6 | .lel => 7 | .gtl => 8 | .gel => 9

/-- The condition with a code; above 9 is illegal (R41). -/
def Cond.ofCode : Nat → Option Cond
  | 0 => some .eq | 1 => some .ne | 2 => some .lt | 3 => some .le | 4 => some .gt | 5 => some .ge
  | 6 => some .ltl | 7 => some .lel | 8 => some .gtl | 9 => some .gel | _ => none

/-- Space codes of R41. -/
def Space.code : Space → Nat
  | .va => 0 | .st => 1 | .w => 2

/-- The space with a code; above 2 is illegal (R41). -/
def Space.ofCode : Nat → Option Space
  | 0 => some .va | 1 => some .st | 2 => some .w | _ => none

/-- Size codes of R134. -/
def Size.code : Size → Nat
  | .b => 0 | .h => 1 | .wd => 2 | .q => 3

/-- The size with a code. -/
def Size.ofCode : Nat → Option Size
  | 0 => some .b | 1 => some .h | 2 => some .wd | 3 => some .q | _ => none

/-- A six-bit field. -/
def fS (o lo : Nat) : Fin 64 := Fin.ofNat 64 (fld o lo 6)
/-- A four-bit field. -/
def fP (o lo : Nat) : Fin 16 := Fin.ofNat 16 (fld o lo 4)
/-- A three-bit field. -/
def fT (o lo : Nat) : Fin 8 := Fin.ofNat 8 (fld o lo 3)
/-- A two-bit field. -/
def fN2 (o lo : Nat) : Fin 4 := Fin.ofNat 4 (fld o lo 2)
/-- A ten-bit field with every value legal. -/
def fN10 (o lo : Nat) : Fin 1024 := Fin.ofNat 1024 (fld o lo 10)
/-- A one-bit field. -/
def fB (o lo : Nat) : Bool := fld o lo 1 == 1
/-- A field of `w` uninterpreted bits. -/
def fU (w o lo : Nat) : BitVec w := BitVec.ofNat w (fld o lo w)
/-- A vector register field; 640 and above is illegal (R41). -/
def fV (o lo : Nat) : Option VReg := if h : fld o lo 10 < 640 then some ⟨fld o lo 10, h⟩ else none
/-- An M-format register field naming a scalar register; 64 and above is illegal (R41). -/
def fS10 (o lo : Nat) : Option SReg := if h : fld o lo 10 < 64 then some ⟨fld o lo 10, h⟩ else none
/-- A rounding field. -/
def fRm (o lo : Nat) : Option Rm := Rm.ofCode (fld o lo 3)
/-- A condition field. -/
def fCond (o lo : Nat) : Option Cond := Cond.ofCode (fld o lo 4)
/-- A tag field. -/
def fTag (o lo : Nat) : Option Tag := Tag.ofCode (fld o lo 4)
/-- A space field. -/
def fSpace (o lo : Nat) : Option Space := Space.ofCode (fld o lo 3)
/-- A size field. -/
def fSize (o lo : Nat) : Option Size := Size.ofCode (fld o lo 2)
/-- A vector register that a `mod` bit makes present; zero when the bit is clear. -/
def fVOpt (o lo bit : Nat) : Option (Option VReg) :=
  if fB o bit then (fV o lo).map some else if fld o lo 10 = 0 then some none else none
/-- A counter handle that a `mod` bit makes present. -/
def fKOpt (o lo bit : Nat) : Option (Option KReg) :=
  if fB o bit then some (some (fP o lo)) else if fld o lo 4 = 0 then some none else none
/-- A tile that a `mod` bit makes present. -/
def fTOpt (o lo bit : Nat) : Option (Option Ix8) :=
  if fB o bit then some (some (fT o lo)) else if fld o lo 3 = 0 then some none else none

/-- `NOP`. -/
def dec_nop (o : Nat) : Option Instr := do
    guard (fld o 0 44 == 0)
    some (.nop)

/-- `ADD`. -/
def dec_add (o : Nat) : Option Instr := do
    guard (fld o 0 26 == 0)
    some (.add (fS o 38) (fS o 32) (fS o 26))

/-- `SUB`. -/
def dec_sub (o : Nat) : Option Instr := do
    guard (fld o 0 26 == 0)
    some (.sub (fS o 38) (fS o 32) (fS o 26))

/-- `ADDI`. -/
def dec_addi (o : Nat) : Option Instr := do
    guard (fld o 26 6 == 0)
    some (.addi (fS o 38) (fS o 32) (fU 26 o 0))

/-- `MUL`. -/
def dec_mul (o : Nat) : Option Instr := do
    guard (fld o 0 26 == 0)
    some (.mul (fS o 38) (fS o 32) (fS o 26))

/-- `MULH`. -/
def dec_mulh (o : Nat) : Option Instr := do
    guard (fld o 0 26 == 0)
    some (.mulh (fS o 38) (fS o 32) (fS o 26))

/-- `MULHL`. -/
def dec_mulhl (o : Nat) : Option Instr := do
    guard (fld o 0 26 == 0)
    some (.mulhl (fS o 38) (fS o 32) (fS o 26))

/-- `DIVQ`. -/
def dec_divq (o : Nat) : Option Instr := do
    guard (fld o 1 25 == 0)
    some (.divq (fS o 38) (fS o 32) (fS o 26) (fB o 0))

/-- `REMQ`. -/
def dec_remq (o : Nat) : Option Instr := do
    guard (fld o 1 25 == 0)
    some (.remq (fS o 38) (fS o 32) (fS o 26) (fB o 0))

/-- `AND`. -/
def dec_and (o : Nat) : Option Instr := do
    guard (fld o 0 26 == 0)
    some (.and (fS o 38) (fS o 32) (fS o 26))

/-- `OR`. -/
def dec_or (o : Nat) : Option Instr := do
    guard (fld o 0 26 == 0)
    some (.or (fS o 38) (fS o 32) (fS o 26))

/-- `XOR`. -/
def dec_xor (o : Nat) : Option Instr := do
    guard (fld o 0 26 == 0)
    some (.xor (fS o 38) (fS o 32) (fS o 26))

/-- `ANDN`. -/
def dec_andn (o : Nat) : Option Instr := do
    guard (fld o 0 26 == 0)
    some (.andn (fS o 38) (fS o 32) (fS o 26))

/-- `ANDI`. -/
def dec_andi (o : Nat) : Option Instr := do
    guard (fld o 26 6 == 0)
    some (.andi (fS o 38) (fS o 32) (fU 26 o 0))

/-- `ORI`. -/
def dec_ori (o : Nat) : Option Instr := do
    guard (fld o 26 6 == 0)
    some (.ori (fS o 38) (fS o 32) (fU 26 o 0))

/-- `XORI`. -/
def dec_xori (o : Nat) : Option Instr := do
    guard (fld o 26 6 == 0)
    some (.xori (fS o 38) (fS o 32) (fU 26 o 0))

/-- `SHL`. -/
def dec_shl (o : Nat) : Option Instr := do
    guard (fld o 0 26 == 0)
    some (.shl (fS o 38) (fS o 32) (fS o 26))

/-- `SHR`. -/
def dec_shr (o : Nat) : Option Instr := do
    guard (fld o 0 26 == 0)
    some (.shr (fS o 38) (fS o 32) (fS o 26))

/-- `SRA`. -/
def dec_sra (o : Nat) : Option Instr := do
    guard (fld o 0 26 == 0)
    some (.sra (fS o 38) (fS o 32) (fS o 26))

/-- `SHLI`. -/
def dec_shli (o : Nat) : Option Instr := do
    guard (fld o 26 6 == 0)
    some (.shli (fS o 38) (fS o 32) (fU 26 o 0))

/-- `SHRI`. -/
def dec_shri (o : Nat) : Option Instr := do
    guard (fld o 26 6 == 0)
    some (.shri (fS o 38) (fS o 32) (fU 26 o 0))

/-- `SRAI`. -/
def dec_srai (o : Nat) : Option Instr := do
    guard (fld o 26 6 == 0)
    some (.srai (fS o 38) (fS o 32) (fU 26 o 0))

/-- `ROTL`. -/
def dec_rotl (o : Nat) : Option Instr := do
    guard (fld o 0 26 == 0)
    some (.rotl (fS o 38) (fS o 32) (fS o 26))

/-- `MIN`. -/
def dec_min (o : Nat) : Option Instr := do
    guard (fld o 0 26 == 0)
    some (.min (fS o 38) (fS o 32) (fS o 26))

/-- `MAX`. -/
def dec_max (o : Nat) : Option Instr := do
    guard (fld o 0 26 == 0)
    some (.max (fS o 38) (fS o 32) (fS o 26))

/-- `MINL`. -/
def dec_minl (o : Nat) : Option Instr := do
    guard (fld o 0 26 == 0)
    some (.minl (fS o 38) (fS o 32) (fS o 26))

/-- `MAXL`. -/
def dec_maxl (o : Nat) : Option Instr := do
    guard (fld o 0 26 == 0)
    some (.maxl (fS o 38) (fS o 32) (fS o 26))

/-- `CLZ`. -/
def dec_clz (o : Nat) : Option Instr := do
    guard (fld o 0 32 == 0)
    some (.clz (fS o 38) (fS o 32))

/-- `CTZ`. -/
def dec_ctz (o : Nat) : Option Instr := do
    guard (fld o 0 32 == 0)
    some (.ctz (fS o 38) (fS o 32))

/-- `POPC`. -/
def dec_popc (o : Nat) : Option Instr := do
    guard (fld o 0 32 == 0)
    some (.popc (fS o 38) (fS o 32))

/-- `BSWAP`. -/
def dec_bswap (o : Nat) : Option Instr := do
    guard (fld o 0 32 == 0)
    some (.bswap (fS o 38) (fS o 32))

/-- `SEXT`. -/
def dec_sext (o : Nat) : Option Instr := do
    guard (fld o 26 6 == 0)
    some (.sext (fS o 38) (fS o 32) (fU 26 o 0))

/-- `ZEXT`. -/
def dec_zext (o : Nat) : Option Instr := do
    guard (fld o 26 6 == 0)
    some (.zext (fS o 38) (fS o 32) (fU 26 o 0))

/-- `LI`. -/
def dec_li (o : Nat) : Option Instr := do
    guard (true)
    some (.li (fS o 38) (fU 32 o 6) (fS o 0))

/-- `LIH`. -/
def dec_lih (o : Nat) : Option Instr := do
    guard (true)
    some (.lih (fS o 38) (fU 32 o 6) (fS o 0))

/-- `MOV`. -/
def dec_mov (o : Nat) : Option Instr := do
    guard (fld o 0 32 == 0)
    some (.mov (fS o 38) (fS o 32))

/-- `SEL`. -/
def dec_sel (o : Nat) : Option Instr := do
    guard (fld o 5 21 == 0)
    some (.sel (fS o 38) (fS o 32) (fS o 26) (fP o 0) (fB o 4))

/-- `ADDP`. -/
def dec_addp (o : Nat) : Option Instr := do
    guard (fld o 3 23 == 0)
    some (.addp (fS o 38) (fS o 32) (fS o 26) (fT o 0))

/-- `CMP`. -/
def dec_cmp (o : Nat) : Option Instr := do
    guard (fld o 0 24 == 0)
    let c ← fCond o 36
    some (.cmp c (fP o 40) (fS o 30) (fS o 24))

/-- `CMPI`. -/
def dec_cmpi (o : Nat) : Option Instr := do
    guard (true)
    let c ← fCond o 36
    some (.cmpi c (fP o 40) (fS o 30) (fU 30 o 0))

/-- `PAND`. -/
def dec_pand (o : Nat) : Option Instr := do
    guard (fld o 0 32 == 0)
    some (.pand (fP o 40) (fP o 36) (fP o 32))

/-- `POR`. -/
def dec_por (o : Nat) : Option Instr := do
    guard (fld o 0 32 == 0)
    some (.por (fP o 40) (fP o 36) (fP o 32))

/-- `PXOR`. -/
def dec_pxor (o : Nat) : Option Instr := do
    guard (fld o 0 32 == 0)
    some (.pxor (fP o 40) (fP o 36) (fP o 32))

/-- `PNOT`. -/
def dec_pnot (o : Nat) : Option Instr := do
    guard (fld o 0 36 == 0)
    some (.pnot (fP o 40) (fP o 36))

/-- `PMOV`. -/
def dec_pmov (o : Nat) : Option Instr := do
    guard (fld o 0 36 == 0)
    some (.pmov (fP o 40) (fP o 36))

/-- `PSET`. -/
def dec_pset (o : Nat) : Option Instr := do
    guard (fld o 6 14 == 0 && fld o 26 14 == 0)
    some (.pset (fP o 40) (fS o 20) (fS o 0))

/-- `PSET_ALL`. -/
def dec_psetAll (o : Nat) : Option Instr := do
    guard (fld o 0 20 == 64 && fld o 26 18 == 0)
    some (.psetAll (fS o 20))

/-- `PGET`. -/
def dec_pget (o : Nat) : Option Instr := do
    guard (fld o 0 26 == 0 && fld o 32 12 == 0)
    some (.pget (fS o 26))

/-- `BR`. -/
def dec_br (o : Nat) : Option Instr := do
    guard (fld o 0 14 == 0)
    some (.br (fU 30 o 14))

/-- `JMP`. -/
def dec_jmp (o : Nat) : Option Instr := do
    guard (fld o 0 32 == 0 && fld o 38 6 == 0)
    some (.jmp (fS o 32))

/-- `CALL`. -/
def dec_call (o : Nat) : Option Instr := do
    guard (fld o 0 14 == 0)
    some (.call (fU 30 o 14))

/-- `CALLR`. -/
def dec_callr (o : Nat) : Option Instr := do
    guard (fld o 0 32 == 0 && fld o 38 6 == 0)
    some (.callr (fS o 32))

/-- `RET`. -/
def dec_ret (o : Nat) : Option Instr := do
    guard (fld o 0 44 == 0)
    some (.ret)

/-- `LOOP`. -/
def dec_loop (o : Nat) : Option Instr := do
    guard (fld o 31 1 == 1)
    some (.loop (fU 12 o 32) (fU 31 o 0))

/-- `LOOP_REG`. -/
def dec_loopReg (o : Nat) : Option Instr := do
    guard (fld o 0 25 == 0 && fld o 31 1 == 0)
    some (.loopReg (fU 12 o 32) (fS o 25))

/-- `LBRK`. -/
def dec_lbrk (o : Nat) : Option Instr := do
    guard (fld o 0 44 == 0)
    some (.lbrk)

/-- `LIDX`. -/
def dec_lidx (o : Nat) : Option Instr := do
    guard (fld o 3 35 == 0)
    some (.lidx (fS o 38) (fT o 0))

/-- `LIDX_N`. -/
def dec_lidxN (o : Nat) : Option Instr := do
    guard (fld o 3 35 == 1)
    some (.lidxN (fS o 38) (fT o 0))

/-- `CSRR`. -/
def dec_csrr (o : Nat) : Option Instr := do
    guard (fld o 0 20 == 0 && fld o 32 6 == 0)
    some (.csrr (fS o 38) (fU 12 o 20))

/-- `CSRW`. -/
def dec_csrw (o : Nat) : Option Instr := do
    guard (fld o 0 20 == 0 && fld o 38 6 == 0)
    some (.csrw (fU 12 o 20) (fS o 32))

/-- `CSRW_SET`. -/
def dec_csrwSet (o : Nat) : Option Instr := do
    guard (fld o 0 20 == 1 && fld o 38 6 == 0)
    some (.csrwSet (fU 12 o 20) (fS o 32))

/-- `CSRW_CLR`. -/
def dec_csrwClr (o : Nat) : Option Instr := do
    guard (fld o 0 20 == 2 && fld o 38 6 == 0)
    some (.csrwClr (fU 12 o 20) (fS o 32))

/-- `VADD`. -/
def dec_vadd (o : Nat) : Option Instr := do
    guard (fld o 4 5 == 0)
    let d ← fV o 34
    let a ← fV o 24
    let b ← fV o 14
    let rm ← fRm o 0
    some (.vadd d a b (fP o 10) (fB o 9) (fB o 3) rm)

/-- `VSUB`. -/
def dec_vsub (o : Nat) : Option Instr := do
    guard (fld o 4 5 == 0)
    let d ← fV o 34
    let a ← fV o 24
    let b ← fV o 14
    let rm ← fRm o 0
    some (.vsub d a b (fP o 10) (fB o 9) (fB o 3) rm)

/-- `VMUL`. -/
def dec_vmul (o : Nat) : Option Instr := do
    guard (fld o 4 5 == 0)
    let d ← fV o 34
    let a ← fV o 24
    let b ← fV o 14
    let rm ← fRm o 0
    some (.vmul d a b (fP o 10) (fB o 9) (fB o 3) rm)

/-- `VFMA`. -/
def dec_vfma (o : Nat) : Option Instr := do
    guard (fld o 3 6 == 0)
    let d ← fV o 34
    let a ← fV o 24
    let b ← fV o 14
    let rm ← fRm o 0
    some (.vfma d a b (fP o 10) (fB o 9) rm)

/-- `VFMS`. -/
def dec_vfms (o : Nat) : Option Instr := do
    guard (fld o 3 6 == 0)
    let d ← fV o 34
    let a ← fV o 24
    let b ← fV o 14
    let rm ← fRm o 0
    some (.vfms d a b (fP o 10) (fB o 9) rm)

/-- `VNEG`. -/
def dec_vneg (o : Nat) : Option Instr := do
    guard (fld o 0 3 == 0 && fld o 4 5 == 0 && fld o 14 10 == 0)
    let d ← fV o 34
    let a ← fV o 24
    some (.vneg d a (fP o 10) (fB o 9) (fB o 3))

/-- `VABS`. -/
def dec_vabs (o : Nat) : Option Instr := do
    guard (fld o 0 3 == 0 && fld o 4 5 == 0 && fld o 14 10 == 0)
    let d ← fV o 34
    let a ← fV o 24
    some (.vabs d a (fP o 10) (fB o 9) (fB o 3))

/-- `VMIN`. -/
def dec_vmin (o : Nat) : Option Instr := do
    guard (fld o 0 9 == 0)
    let d ← fV o 34
    let a ← fV o 24
    let b ← fV o 14
    some (.vmin d a b (fP o 10) (fB o 9))

/-- `VMAX`. -/
def dec_vmax (o : Nat) : Option Instr := do
    guard (fld o 0 9 == 0)
    let d ← fV o 34
    let a ← fV o 24
    let b ← fV o 14
    some (.vmax d a b (fP o 10) (fB o 9))

/-- `VAND`. -/
def dec_vand (o : Nat) : Option Instr := do
    guard (fld o 0 9 == 0)
    let d ← fV o 34
    let a ← fV o 24
    let b ← fV o 14
    some (.vand d a b (fP o 10) (fB o 9))

/-- `VOR`. -/
def dec_vor (o : Nat) : Option Instr := do
    guard (fld o 0 9 == 0)
    let d ← fV o 34
    let a ← fV o 24
    let b ← fV o 14
    some (.vor d a b (fP o 10) (fB o 9))

/-- `VXOR`. -/
def dec_vxor (o : Nat) : Option Instr := do
    guard (fld o 0 9 == 0)
    let d ← fV o 34
    let a ← fV o 24
    let b ← fV o 14
    some (.vxor d a b (fP o 10) (fB o 9))

/-- `VSHL`. -/
def dec_vshl (o : Nat) : Option Instr := do
    guard (fld o 0 9 == 0)
    let d ← fV o 34
    let a ← fV o 24
    let b ← fV o 14
    some (.vshl d a b (fP o 10) (fB o 9))

/-- `VSHR`. -/
def dec_vshr (o : Nat) : Option Instr := do
    guard (fld o 0 9 == 0)
    let d ← fV o 34
    let a ← fV o 24
    let b ← fV o 14
    some (.vshr d a b (fP o 10) (fB o 9))

/-- `VSRA`. -/
def dec_vsra (o : Nat) : Option Instr := do
    guard (fld o 0 9 == 0)
    let d ← fV o 34
    let a ← fV o 24
    let b ← fV o 14
    some (.vsra d a b (fP o 10) (fB o 9))

/-- `VCLAMP`. -/
def dec_vclamp (o : Nat) : Option Instr := do
    guard (fld o 0 9 == 0)
    let d ← fV o 34
    let a ← fV o 24
    let b ← fV o 14
    some (.vclamp d a b (fP o 10) (fB o 9))

/-- `VSPLAT`. -/
def dec_vsplat (o : Nat) : Option Instr := do
    guard (fld o 4 9 == 0 && fld o 24 10 == 0)
    let t ← fTag o 0
    let d ← fV o 34
    some (.vsplat t d (fS o 18) (fP o 14) (fB o 13))

/-- `VMOVS`. -/
def dec_vmovs (o : Nat) : Option Instr := do
    guard (fld o 10 8 == 0 && fld o 34 10 == 0)
    let a ← fV o 24
    some (.vmovs (fS o 18) a (fN10 o 0))

/-- `VINS`. -/
def dec_vins (o : Nat) : Option Instr := do
    guard (fld o 10 8 == 0)
    let d ← fV o 34
    let a ← fV o 24
    some (.vins d a (fS o 18) (fN10 o 0))

/-- `VMOV`. -/
def dec_vmov (o : Nat) : Option Instr := do
    guard (fld o 0 9 == 0 && fld o 14 10 == 0)
    let d ← fV o 34
    let a ← fV o 24
    some (.vmov d a (fP o 10) (fB o 9))

/-- `VSEL`. -/
def dec_vsel (o : Nat) : Option Instr := do
    guard (fld o 0 10 == 0)
    let d ← fV o 34
    let a ← fV o 24
    let b ← fV o 14
    some (.vsel d a b (fP o 10))

/-- `VCMP`. -/
def dec_vcmp (o : Nat) : Option Instr := do
    guard (fld o 0 12 == 0)
    let c ← fCond o 36
    let a ← fV o 26
    let b ← fV o 16
    some (.vcmp c (fP o 40) a b (fP o 12))

/-- `VCVT`. -/
def dec_vcvt (o : Nat) : Option Instr := do
    guard (fld o 14 10 == 0)
    let d ← fV o 34
    let a ← fV o 24
    let t ← fTag o 4
    let rm ← fRm o 0
    some (.vcvt d a (fP o 10) t (fN2 o 8) (fB o 3) rm)

/-- `VMASK_N`. -/
def dec_vmaskN (o : Nat) : Option Instr := do
    guard (fld o 0 26 == 0 && fld o 32 8 == 0)
    some (.vmaskN (fP o 40) (fS o 26))

/-- `VMASK_NZ`. -/
def dec_vmaskNz (o : Nat) : Option Instr := do
    guard (fld o 0 16 == 1 && fld o 26 14 == 0)
    let a ← fV o 16
    some (.vmaskNz (fP o 40) a)

/-- `VMASK_Q`. -/
def dec_vmaskQ (o : Nat) : Option Instr := do
    guard (fld o 0 2 == 2 && fld o 6 20 == 0 && fld o 32 8 == 0)
    some (.vmaskQ (fP o 40) (fS o 26) (fP o 2))

/-- `MAND`. -/
def dec_mand (o : Nat) : Option Instr := do
    guard (fld o 0 32 == 0)
    some (.mand (fP o 40) (fP o 36) (fP o 32))

/-- `MOR`. -/
def dec_mor (o : Nat) : Option Instr := do
    guard (fld o 0 32 == 0)
    some (.mor (fP o 40) (fP o 36) (fP o 32))

/-- `MXOR`. -/
def dec_mxor (o : Nat) : Option Instr := do
    guard (fld o 0 32 == 0)
    some (.mxor (fP o 40) (fP o 36) (fP o 32))

/-- `MNOT`. -/
def dec_mnot (o : Nat) : Option Instr := do
    guard (fld o 0 36 == 0)
    some (.mnot (fP o 40) (fP o 36))

/-- `MCNT`. -/
def dec_mcnt (o : Nat) : Option Instr := do
    guard (fld o 0 26 == 0 && fld o 32 4 == 0 && fld o 40 4 == 0)
    some (.mcnt (fS o 26) (fP o 36))

/-- `MFIRST`. -/
def dec_mfirst (o : Nat) : Option Instr := do
    guard (fld o 0 26 == 0 && fld o 32 4 == 0 && fld o 40 4 == 0)
    some (.mfirst (fS o 26) (fP o 36))

/-- `VRCP`. -/
def dec_vrcp (o : Nat) : Option Instr := do
    guard (fld o 3 6 == 0 && fld o 14 10 == 0)
    let d ← fV o 34
    let a ← fV o 24
    let rm ← fRm o 0
    some (.vrcp d a (fP o 10) (fB o 9) rm)

/-- `VRSQRT`. -/
def dec_vrsqrt (o : Nat) : Option Instr := do
    guard (fld o 3 6 == 0 && fld o 14 10 == 0)
    let d ← fV o 34
    let a ← fV o 24
    let rm ← fRm o 0
    some (.vrsqrt d a (fP o 10) (fB o 9) rm)

/-- `VSQRT`. -/
def dec_vsqrt (o : Nat) : Option Instr := do
    guard (fld o 3 6 == 0 && fld o 14 10 == 0)
    let d ← fV o 34
    let a ← fV o 24
    let rm ← fRm o 0
    some (.vsqrt d a (fP o 10) (fB o 9) rm)

/-- `VEXP2`. -/
def dec_vexp2 (o : Nat) : Option Instr := do
    guard (fld o 3 6 == 0 && fld o 14 10 == 0)
    let d ← fV o 34
    let a ← fV o 24
    let rm ← fRm o 0
    some (.vexp2 d a (fP o 10) (fB o 9) rm)

/-- `VLOG2`. -/
def dec_vlog2 (o : Nat) : Option Instr := do
    guard (fld o 3 6 == 0 && fld o 14 10 == 0)
    let d ← fV o 34
    let a ← fV o 24
    let rm ← fRm o 0
    some (.vlog2 d a (fP o 10) (fB o 9) rm)

/-- `VGETL`. -/
def dec_vgetl (o : Nat) : Option Instr := do
    guard (fld o 1 8 == 0)
    let d ← fV o 34
    let a ← fV o 24
    let b ← fV o 14
    some (.vgetl d a (fP o 10) b (fB o 0) (fB o 9))

/-- `VPUTL`. -/
def dec_vputl (o : Nat) : Option Instr := do
    guard (fld o 1 9 == 0)
    let d ← fV o 34
    let a ← fV o 24
    let b ← fV o 14
    some (.vputl d a b (fP o 10) (fB o 0))

/-- `VMOVX`. -/
def dec_vmovx (o : Nat) : Option Instr := do
    guard (fld o 0 18 == 0)
    let d ← fV o 34
    let a ← fV o 24
    some (.vmovx d a (fS o 18))

/-- `VSTX`. -/
def dec_vstx (o : Nat) : Option Instr := do
    guard (fld o 0 18 == 0)
    let d ← fV o 34
    let a ← fV o 24
    some (.vstx d a (fS o 18))

/-- `VPERM`. -/
def dec_vperm (o : Nat) : Option Instr := do
    guard (fld o 0 9 == 0)
    let d ← fV o 34
    let a ← fV o 24
    let b ← fV o 14
    some (.vperm d a b (fP o 10) (fB o 9))

/-- `VROT`. -/
def dec_vrot (o : Nat) : Option Instr := do
    guard (fld o 10 3 == 0)
    let d ← fV o 34
    let a ← fV o 24
    some (.vrot d a (fS o 18) (fN10 o 0) (fP o 14) (fB o 13))

/-- `VSHUF`. -/
def dec_vshuf (o : Nat) : Option Instr := do
    guard (fld o 6 3 == 0)
    let d ← fV o 34
    let a ← fV o 24
    let b ← fV o 14
    some (.vshuf d a b (fP o 10) (fT o 0) (fT o 3) (fB o 9))

/-- `VBCAST`. -/
def dec_vbcast (o : Nat) : Option Instr := do
    guard (fld o 10 3 == 0)
    let d ← fV o 34
    let a ← fV o 24
    some (.vbcast d a (fS o 18) (fN10 o 0) (fP o 14) (fB o 13))

/-- `VCOMP`. -/
def dec_vcomp (o : Nat) : Option Instr := do
    guard (fld o 0 10 == 0 && fld o 14 10 == 0)
    let d ← fV o 34
    let a ← fV o 24
    some (.vcomp d a (fP o 10))

/-- `VEXPD`. -/
def dec_vexpd (o : Nat) : Option Instr := do
    guard (fld o 0 9 == 0 && fld o 14 10 == 0)
    let d ← fV o 34
    let a ← fV o 24
    some (.vexpd d a (fP o 10) (fB o 9))

/-- `VREDADD`. -/
def dec_vredadd (o : Nat) : Option Instr := do
    guard (fld o 3 7 == 0 && fld o 14 10 == 0)
    let d ← fV o 34
    let a ← fV o 24
    let rm ← fRm o 0
    some (.vredadd d a (fP o 10) rm)

/-- `VREDMAX`. -/
def dec_vredmax (o : Nat) : Option Instr := do
    guard (fld o 0 10 == 0 && fld o 14 10 == 0)
    let d ← fV o 34
    let a ← fV o 24
    some (.vredmax d a (fP o 10))

/-- `VREDMIN`. -/
def dec_vredmin (o : Nat) : Option Instr := do
    guard (fld o 0 10 == 0 && fld o 14 10 == 0)
    let d ← fV o 34
    let a ← fV o 24
    some (.vredmin d a (fP o 10))

/-- `VARGMAX`. -/
def dec_vargmax (o : Nat) : Option Instr := do
    guard (fld o 0 10 == 0 && fld o 14 10 == 0)
    let d ← fV o 34
    let a ← fV o 24
    some (.vargmax d a (fP o 10))

/-- `VSCAN`. -/
def dec_vscan (o : Nat) : Option Instr := do
    guard (fld o 3 1 == 0 && fld o 6 4 == 0 && fld o 14 10 == 0)
    let d ← fV o 34
    let a ← fV o 24
    let rm ← fRm o 0
    some (.vscan d a (fP o 10) (fN2 o 4) rm)

/-- `VPACK`. -/
def dec_vpack (o : Nat) : Option Instr := do
    guard (fld o 4 5 == 0)
    let d ← fV o 34
    let a ← fV o 24
    let b ← fV o 14
    let rm ← fRm o 0
    some (.vpack d a b (fP o 10) (fB o 9) (fB o 3) rm)

/-- `VUNPK`. -/
def dec_vunpk (o : Nat) : Option Instr := do
    guard (fld o 0 8 == 0 && fld o 14 10 == 0)
    let d ← fV o 34
    let a ← fV o 24
    some (.vunpk d a (fP o 10) (fB o 8) (fB o 9))

/-- `VBLK`. -/
def dec_vblk (o : Nat) : Option Instr := do
    guard (fld o 3 1 == 0)
    let d ← fV o 34
    let a ← fV o 24
    let sv ← fVOpt o 14 4
    let rm ← fRm o 0
    some (.vblk d a sv (fP o 10) (fP o 6) (fB o 5) rm)

/-- `VUNBLK`. -/
def dec_vunblk (o : Nat) : Option Instr := do
    guard (fld o 3 2 == 0 && fld o 14 10 == 0)
    let d ← fV o 34
    let a ← fV o 24
    let rm ← fRm o 0
    some (.vunblk d a (fP o 10) (fT o 6) (fB o 5) (fB o 9) rm)

/-- `VWGIN`. -/
def dec_vwgin (o : Nat) : Option Instr := do
    guard (fld o 0 9 == 0 && fld o 14 10 == 0)
    let d ← fV o 34
    let a ← fV o 24
    some (.vwgin d a (fP o 10) (fB o 9))

/-- `VWGOUT`. -/
def dec_vwgout (o : Nat) : Option Instr := do
    guard (fld o 0 9 == 0 && fld o 14 10 == 0)
    let d ← fV o 34
    let a ← fV o 24
    some (.vwgout d a (fP o 10) (fB o 9))

/-- `VWGFIL`. -/
def dec_vwgfil (o : Nat) : Option Instr := do
    guard (fld o 0 9 == 0 && fld o 14 10 == 0)
    let d ← fV o 34
    let a ← fV o 24
    some (.vwgfil d a (fP o 10) (fB o 9))

/-- `LDS`. -/
def dec_lds (o : Nat) : Option Instr := do
    guard (fld o 3 4 == 0)
    let d ← fS10 o 34
    let sp ← fSpace o 7
    let sz ← fSize o 0
    some (.lds d (fS o 28) (fU 18 o 10) sp sz (fB o 2))

/-- `STS`. -/
def dec_sts (o : Nat) : Option Instr := do
    guard (fld o 2 5 == 0)
    let d ← fS10 o 34
    let sp ← fSpace o 7
    let sz ← fSize o 0
    some (.sts d (fS o 28) (fU 18 o 10) sp sz)

/-- `LDV`. -/
def dec_ldv (o : Nat) : Option Instr := do
    guard (fld o 0 3 == 0)
    let d ← fV o 34
    let sp ← fSpace o 7
    let t ← fTag o 3
    some (.ldv d (fS o 28) (fU 18 o 10) sp t)

/-- `STV`. -/
def dec_stv (o : Nat) : Option Instr := do
    guard (fld o 0 3 == 0)
    let d ← fV o 34
    let sp ← fSpace o 7
    let t ← fTag o 3
    some (.stv d (fS o 28) (fU 18 o 10) sp t)

/-- `LDVS`. -/
def dec_ldvs (o : Nat) : Option Instr := do
    guard (fld o 1 10 == 0)
    let d ← fV o 34
    let sp ← fSpace o 15
    let t ← fTag o 11
    some (.ldvs d (fS o 28) (fS o 22) (fP o 18) sp t (fB o 0))

/-- `STVS`. -/
def dec_stvs (o : Nat) : Option Instr := do
    guard (fld o 0 11 == 0)
    let d ← fV o 34
    let sp ← fSpace o 15
    let t ← fTag o 11
    some (.stvs d (fS o 28) (fS o 22) (fP o 18) sp t)

/-- `LDVX`. -/
def dec_ldvx (o : Nat) : Option Instr := do
    guard (fld o 4 3 == 0)
    let d ← fV o 34
    let x ← fV o 18
    let sp ← fSpace o 11
    let t ← fTag o 7
    some (.ldvx d (fS o 28) x (fP o 14) sp t (fN2 o 1) (fB o 3) (fB o 0))

/-- `STVX`. -/
def dec_stvx (o : Nat) : Option Instr := do
    guard (fld o 0 1 == 0 && fld o 4 3 == 0)
    let d ← fV o 34
    let x ← fV o 18
    let sp ← fSpace o 11
    let t ← fTag o 7
    some (.stvx d (fS o 28) x (fP o 14) sp t (fN2 o 1) (fB o 3))

/-- `PFH`. -/
def dec_pfh (o : Nat) : Option Instr := do
    guard (fld o 3 7 == 0 && fld o 34 10 == 0)
    some (.pfh (fS o 28) (fU 18 o 10) (fT o 0))

/-- `STC`. -/
def dec_stc (o : Nat) : Option Instr := do
    guard (fld o 0 3 == 0 && fld o 7 3 == 1 && fld o 18 10 == 0)
    let d ← fV o 34
    let t ← fTag o 3
    some (.stc d (fS o 28) (fU 8 o 10) t)

/-- `LDC`. -/
def dec_ldc (o : Nat) : Option Instr := do
    guard (fld o 3 4 == 0)
    let d ← fS10 o 34
    let sp ← fSpace o 7
    let sz ← fSize o 0
    some (.ldc d (fS o 28) (fU 18 o 10) sp sz (fB o 2))

/-- `LDVC`. -/
def dec_ldvc (o : Nat) : Option Instr := do
    guard (fld o 0 3 == 0)
    let d ← fV o 34
    let sp ← fSpace o 7
    let t ← fTag o 3
    some (.ldvc d (fS o 28) (fU 18 o 10) sp t)

/-- `RCQ`. -/
def dec_rcq (o : Nat) : Option Instr := do
    guard (fld o 0 7 == 0)
    let d ← fS10 o 34
    let sp ← fSpace o 7
    some (.rcq d (fS o 28) (fU 18 o 10) sp)

/-- `AADD`. -/
def dec_aadd (o : Nat) : Option Instr := do
    guard (fld o 1 16 == 1 && fld o 20 6 == 0)
    let sp ← fSpace o 17
    some (.aadd (fS o 38) (fS o 32) (fS o 26) sp (fB o 0))

/-- `AMIN`. -/
def dec_amin (o : Nat) : Option Instr := do
    guard (fld o 1 1 == 1 && fld o 3 14 == 0 && fld o 20 6 == 0)
    let sp ← fSpace o 17
    some (.amin (fS o 38) (fS o 32) (fS o 26) sp (fB o 0) (fB o 2))

/-- `AMAX`. -/
def dec_amax (o : Nat) : Option Instr := do
    guard (fld o 1 1 == 1 && fld o 3 14 == 0 && fld o 20 6 == 0)
    let sp ← fSpace o 17
    some (.amax (fS o 38) (fS o 32) (fS o 26) sp (fB o 0) (fB o 2))

/-- `AAND`. -/
def dec_aand (o : Nat) : Option Instr := do
    guard (fld o 1 16 == 1 && fld o 20 6 == 0)
    let sp ← fSpace o 17
    some (.aand (fS o 38) (fS o 32) (fS o 26) sp (fB o 0))

/-- `AOR`. -/
def dec_aor (o : Nat) : Option Instr := do
    guard (fld o 1 16 == 1 && fld o 20 6 == 0)
    let sp ← fSpace o 17
    some (.aor (fS o 38) (fS o 32) (fS o 26) sp (fB o 0))

/-- `AXOR`. -/
def dec_axor (o : Nat) : Option Instr := do
    guard (fld o 1 16 == 1 && fld o 20 6 == 0)
    let sp ← fSpace o 17
    some (.axor (fS o 38) (fS o 32) (fS o 26) sp (fB o 0))

/-- `ASWP`. -/
def dec_aswp (o : Nat) : Option Instr := do
    guard (fld o 1 16 == 1 && fld o 20 6 == 0)
    let sp ← fSpace o 17
    some (.aswp (fS o 38) (fS o 32) (fS o 26) sp (fB o 0))

/-- `ACAS`. -/
def dec_acas (o : Nat) : Option Instr := do
    guard (fld o 1 16 == 1)
    let sp ← fSpace o 17
    some (.acas (fS o 38) (fS o 32) (fS o 26) (fS o 20) sp (fB o 0))

/-- `BREL`. -/
def dec_brel (o : Nat) : Option Instr := do
    guard (fld o 0 19 == 0 && fld o 31 13 == 0)
    some (.brel (fS o 25) (fS o 19))

/-- `BREL_P`. -/
def dec_brelP (o : Nat) : Option Instr := do
    guard (fld o 0 19 == 1 && fld o 31 13 == 0)
    some (.brelP (fS o 25) (fS o 19))

/-- `BWAIT`. -/
def dec_bwait (o : Nat) : Option Instr := do
    guard (fld o 0 19 == 0 && fld o 31 13 == 0)
    some (.bwait (fS o 25) (fS o 19))

/-- `PDEF`. -/
def dec_pdef (o : Nat) : Option Instr := do
    guard (fld o 3 22 == 0 && fld o 31 13 == 0)
    some (.pdef (fT o 0) (fS o 25))

/-- `PDEF_REL`. -/
def dec_pdefRel (o : Nat) : Option Instr := do
    guard (fld o 3 41 == 1)
    some (.pdefRel (fT o 0))

/-- `WSET`. -/
def dec_wset (o : Nat) : Option Instr := do
    guard (fld o 0 19 == 0 && fld o 31 13 == 0)
    some (.wset (fS o 25) (fS o 19))

/-- `WSET_INV`. -/
def dec_wsetInv (o : Nat) : Option Instr := do
    guard (fld o 0 25 == 1 && fld o 31 13 == 0)
    some (.wsetInv (fS o 25))

/-- `LDW`. -/
def dec_ldw (o : Nat) : Option Instr := do
    guard (fld o 2 8 == 64 && fld o 26 2 == 0)
    let d ← fS10 o 34
    let sz ← fSize o 0
    some (.ldw d (fU 16 o 10) (fS o 28) sz)

/-- `LDW_VEC`. -/
def dec_ldwVec (o : Nat) : Option Instr := do
    guard (fld o 0 3 == 4 && fld o 7 3 == 2 && fld o 26 2 == 0)
    let d ← fV o 34
    let t ← fTag o 3
    some (.ldwVec d (fU 16 o 10) (fS o 28) t)

/-- `STW`. -/
def dec_stw (o : Nat) : Option Instr := do
    guard (fld o 2 8 == 64 && fld o 26 2 == 0)
    let d ← fS10 o 34
    let sz ← fSize o 0
    some (.stw d (fU 16 o 10) (fS o 28) sz)

/-- `STW_VEC`. -/
def dec_stwVec (o : Nat) : Option Instr := do
    guard (fld o 0 3 == 4 && fld o 7 3 == 2 && fld o 26 2 == 0)
    let d ← fV o 34
    let t ← fTag o 3
    some (.stwVec d (fU 16 o 10) (fS o 28) t)

/-- `FENCEX`. -/
def dec_fencex (o : Nat) : Option Instr := do
    guard (fld o 0 44 == 0)
    some (.fencex)

/-- `TCFG`. -/
def dec_tcfg (o : Nat) : Option Instr := do
    guard (fld o 0 25 == 0 && fld o 31 7 == 0 && fld o 41 3 == 0)
    some (.tcfg (fT o 38) (fS o 25))

/-- `TCFGQ_VER`. -/
def dec_tcfgqVer (o : Nat) : Option Instr := do
    guard (fld o 0 19 == 0 && fld o 25 13 == 0 && fld o 41 3 == 0)
    some (.tcfgqVer (fS o 19) (fT o 38))

/-- `TCFGQ_ST`. -/
def dec_tcfgqSt (o : Nat) : Option Instr := do
    guard (fld o 0 19 == 1 && fld o 25 13 == 0 && fld o 41 3 == 0)
    some (.tcfgqSt (fS o 19) (fT o 38))

/-- `TCFGQ_TAG`. -/
def dec_tcfgqTag (o : Nat) : Option Instr := do
    guard (fld o 0 19 == 2 && fld o 25 19 == 0)
    some (.tcfgqTag (fS o 19))

/-- `TCFGQ_SEP`. -/
def dec_tcfgqSep (o : Nat) : Option Instr := do
    guard (fld o 0 19 == 3 && fld o 25 19 == 0)
    some (.tcfgqSep (fS o 19))

/-- `TZERO`. -/
def dec_tzero (o : Nat) : Option Instr := do
    guard (fld o 0 38 == 0 && fld o 41 3 == 0)
    some (.tzero (fT o 38))

/-- `MSET`. -/
def dec_mset (o : Nat) : Option Instr := do
    guard (fld o 0 25 == 0 && fld o 31 10 == 0)
    some (.mset (fT o 41) (fS o 25))

/-- `MORD`. -/
def dec_mord (o : Nat) : Option Instr := do
    guard (fld o 0 19 == 0 && fld o 31 10 == 0)
    some (.mord (fT o 41) (fS o 25) (fS o 19))

/-- `TLD`. -/
def dec_tld (o : Nat) : Option Instr := do
    guard (fld o 2 17 == 0 && fld o 35 3 == 0)
    let k ← fKOpt o 31 1
    some (.tld (fT o 38) (fT o 41) (fS o 25) (fS o 19) (fB o 0) k)

/-- `TST`. -/
def dec_tst (o : Nat) : Option Instr := do
    guard (fld o 9 10 == 0 && fld o 35 3 == 0)
    let k ← fKOpt o 31 8
    some (.tst (fT o 38) (fT o 41) (fS o 25) (fS o 19) (fU 8 o 0) k)

/-- `TLDV`. -/
def dec_tldv (o : Nat) : Option Instr := do
    guard (fld o 7 2 == 0 && fld o 19 6 == 0 && fld o 31 7 == 0 && fld o 41 3 == 0)
    let v ← fV o 9
    some (.tldv (fT o 38) v (fS o 25) (fU 7 o 0))

/-- `TSTV`. -/
def dec_tstv (o : Nat) : Option Instr := do
    guard (fld o 7 2 == 0 && fld o 19 6 == 0 && fld o 31 7 == 0 && fld o 41 3 == 0)
    let v ← fV o 9
    some (.tstv (fT o 38) v (fS o 25) (fU 7 o 0))

/-- `TMC`. -/
def dec_tmc (o : Nat) : Option Instr := do
    guard (fld o 6 13 == 0 && fld o 38 3 == 0)
    let k ← fKOpt o 31 5
    some (.tmc (fT o 41) (fS o 25) (fS o 19) (fP o 0) (fT o 35) (fB o 4) k)

/-- `TRECV`. -/
def dec_trecv (o : Nat) : Option Instr := do
    guard (fld o 3 28 == 0 && fld o 35 3 == 0 && fld o 41 3 == 0)
    some (.trecv (fT o 38) (fP o 31) (fT o 0))

/-- `TRECV_REL`. -/
def dec_trecvRel (o : Nat) : Option Instr := do
    guard (fld o 3 41 == 1)
    some (.trecvRel (fT o 0))

/-- `TCONS`. -/
def dec_tcons (o : Nat) : Option Instr := do
    guard (fld o 8 30 == 0 && fld o 41 3 == 0)
    some (.tcons (fT o 38) (fU 8 o 0))

/-- `DTAB`. -/
def dec_dtab (o : Nat) : Option Instr := do
    guard (fld o 2 23 == 0 && fld o 31 13 == 0)
    some (.dtab (fN2 o 0) (fS o 25))

/-- `TLDZ`. -/
def dec_tldz (o : Nat) : Option Instr := do
    guard (fld o 5 14 == 0 && fld o 35 3 == 0 && fld o 41 3 == 0)
    let g ← fTag o 0
    let k ← fKOpt o 31 4
    some (.tldz (fT o 38) (fS o 25) (fS o 19) g k)

/-- `WAIT`. -/
def dec_wait (o : Nat) : Option Instr := do
    guard (fld o 0 28 == 0)
    some (.wait (fP o 40) (fP o 36) (fP o 32) (fP o 28))

/-- `MMA`. -/
def dec_mma (o : Nat) : Option Instr := do
    guard (fld o 7 18 == 0 && fld o 31 4 == 0 && fld o 41 3 == 0)
    some (.mma (fB o 0) (fT o 38) (fT o 35) (fS o 25) (fB o 1) (fB o 2) (fB o 3) (fB o 4) (fB o 5) (fB o 6))

/-- `MMZ_I32`. -/
def dec_mmzI32 (o : Nat) : Option Instr := do
    guard (fld o 1 43 == 0)
    some (.mmzI32 (fB o 0))

/-- `MMZ_FP32`. -/
def dec_mmzFp32 (o : Nat) : Option Instr := do
    guard (fld o 1 43 == 1)
    some (.mmzFp32 (fB o 0))

/-- `MMDR`. -/
def dec_mmdr (o : Nat) : Option Instr := do
    guard (fld o 6 3 == 0 && fld o 19 6 == 0 && fld o 31 4 == 0 && fld o 41 3 == 0)
    let bv ← fVOpt o 9 1
    let x ← fTOpt o 35 4
    some (.mmdr (fT o 38) (fB o 0) (fS o 25) bv x (fB o 2) (fB o 3) (fB o 5))

/-- `QLD`. -/
def dec_qld (o : Nat) : Option Instr := do
    guard (fld o 3 22 == 0 && fld o 31 13 == 0)
    some (.qld (fB o 0) (fB o 1) (fB o 2) (fS o 25))

/-- `QLD_BIND`. -/
def dec_qldBind (o : Nat) : Option Instr := do
    guard (fld o 3 22 == 1 && fld o 31 7 == 0 && fld o 41 3 == 0)
    some (.qldBind (fB o 0) (fB o 1) (fB o 2) (fS o 25) (fT o 38))

/-- `QST`. -/
def dec_qst (o : Nat) : Option Instr := do
    guard (fld o 3 22 == 0 && fld o 31 13 == 0)
    some (.qst (fB o 0) (fB o 1) (fB o 2) (fS o 25))

/-- `ESET_RNG`. -/
def dec_esetRng (o : Nat) : Option Instr := do
    guard (fld o 0 25 == 0 && fld o 31 13 == 0)
    some (.esetRng (fS o 25))

/-- `ESET_Q`. -/
def dec_esetQ (o : Nat) : Option Instr := do
    guard (fld o 0 25 == 1 && fld o 31 13 == 0)
    some (.esetQ (fS o 25))

/-- `ETAB`. -/
def dec_etab (o : Nat) : Option Instr := do
    guard (fld o 0 25 == 0 && fld o 31 13 == 0)
    some (.etab (fS o 25))

/-- `LSET`. -/
def dec_lset (o : Nat) : Option Instr := do
    guard (fld o 3 22 == 0 && fld o 31 13 == 0)
    some (.lset (fT o 0) (fS o 25))

/-- `LCOORD`. -/
def dec_lcoord (o : Nat) : Option Instr := do
    guard (fld o 6 13 == 0 && fld o 25 19 == 0)
    some (.lcoord (fS o 19) (fT o 0) (fT o 3))

/-- `LNBR`. -/
def dec_lnbr (o : Nat) : Option Instr := do
    guard (fld o 6 13 == 0 && fld o 25 19 == 0)
    some (.lnbr (fS o 19) (fT o 0) (fN2 o 3) (fB o 5))

/-- `HSEND`. -/
def dec_hsend (o : Nat) : Option Instr := do
    guard (fld o 7 24 == 0 && fld o 35 9 == 0)
    let k ← fKOpt o 31 6
    some (.hsend (fT o 0) (fN2 o 3) (fB o 5) k)

/-- `HRECV`. -/
def dec_hrecv (o : Nat) : Option Instr := do
    guard (fld o 3 28 == 0 && fld o 35 9 == 0)
    some (.hrecv (fT o 0) (fP o 31))

/-- `HRECV_REL`. -/
def dec_hrecvRel (o : Nat) : Option Instr := do
    guard (fld o 3 41 == 1)
    some (.hrecvRel (fT o 0))

/-- `RESHARD`. -/
def dec_reshard (o : Nat) : Option Instr := do
    guard (fld o 7 24 == 0 && fld o 35 9 == 0)
    let k ← fKOpt o 31 6
    some (.reshard (fT o 0) (fT o 3) k)

/-- `CRED`. -/
def dec_cred (o : Nat) : Option Instr := do
    guard (fld o 1 18 == 0 && fld o 35 9 == 0)
    let k ← fKOpt o 31 0
    some (.cred (fS o 25) (fS o 19) k)

/-- `CRED_CH`. -/
def dec_credCh (o : Nat) : Option Instr := do
    guard (fld o 1 1 == 1 && fld o 8 11 == 0 && fld o 35 9 == 0)
    let k ← fKOpt o 31 0
    some (.credCh (fS o 25) (fS o 19) (fS o 2) k)

/-- `CHSET`. -/
def dec_chset (o : Nat) : Option Instr := do
    guard (fld o 6 19 == 0 && fld o 31 13 == 0)
    some (.chset (fS o 0) (fS o 25))

/-- `CHSET_REL`. -/
def dec_chsetRel (o : Nat) : Option Instr := do
    guard (fld o 6 38 == 1)
    some (.chsetRel (fS o 0))

/-- `CHSEND`. -/
def dec_chsend (o : Nat) : Option Instr := do
    guard (fld o 6 3 == 0 && fld o 19 25 == 0)
    let v ← fV o 9
    some (.chsend (fS o 0) v)

/-- `CHRECV`. -/
def dec_chrecv (o : Nat) : Option Instr := do
    guard (fld o 6 3 == 0 && fld o 19 25 == 0)
    let v ← fV o 9
    some (.chrecv v (fS o 0))

/-- `TID`. -/
def dec_tid (o : Nat) : Option Instr := do
    guard (fld o 0 38 == 0)
    some (.tid (fS o 38))

/-- `TCOUNT`. -/
def dec_tcount (o : Nat) : Option Instr := do
    guard (fld o 0 38 == 0)
    some (.tcount (fS o 38))

/-- `JOIN`. -/
def dec_join (o : Nat) : Option Instr := do
    guard (fld o 0 26 == 0)
    some (.join (fS o 38) (fS o 32) (fS o 26))

/-- `LEAVE`. -/
def dec_leave (o : Nat) : Option Instr := do
    guard (fld o 0 32 == 0 && fld o 38 6 == 0)
    some (.leave (fS o 32))

/-- `GRANK`. -/
def dec_grank (o : Nat) : Option Instr := do
    guard (fld o 0 32 == 0)
    some (.grank (fS o 38) (fS o 32))

/-- `GSIZE`. -/
def dec_gsize (o : Nat) : Option Instr := do
    guard (fld o 0 32 == 0)
    some (.gsize (fS o 38) (fS o 32))

/-- `GSIZE_J`. -/
def dec_gsizeJ (o : Nat) : Option Instr := do
    guard (fld o 0 32 == 1)
    some (.gsizeJ (fS o 38) (fS o 32))

/-- `EXIT`. -/
def dec_exit (o : Nat) : Option Instr := do
    guard (fld o 0 44 == 0)
    some (.exit)

/-- `YIELD`. -/
def dec_yield (o : Nat) : Option Instr := do
    guard (fld o 0 44 == 0)
    some (.yield)

/-- `TRIG`. -/
def dec_trig (o : Nat) : Option Instr := do
    guard (fld o 0 44 == 0)
    some (.trig)

/-- `LAUNCH`. -/
def dec_launch (o : Nat) : Option Instr := do
    guard (fld o 0 26 == 0)
    some (.launch (fS o 38) (fS o 32) (fS o 26))

/-- `PRIO`. -/
def dec_prio (o : Nat) : Option Instr := do
    guard (fld o 5 27 == 0)
    some (.prio (fS o 38) (fS o 32) (fP o 0) (fB o 4))

/-- `PRIO_ALL`. -/
def dec_prioAll (o : Nat) : Option Instr := do
    guard (fld o 5 27 == 1)
    some (.prioAll (fS o 38) (fS o 32) (fP o 0) (fB o 4))

/-- `KSET`. -/
def dec_kset (o : Nat) : Option Instr := do
    guard (fld o 0 28 == 0 && fld o 34 6 == 0)
    some (.kset (fP o 40) (fS o 28))

/-- `KSET_CLR`. -/
def dec_ksetClr (o : Nat) : Option Instr := do
    guard (fld o 0 40 == 1)
    some (.ksetClr (fP o 40))

/-- `KMODE_ON`. -/
def dec_kmodeOn (o : Nat) : Option Instr := do
    guard (fld o 0 40 == 0)
    some (.kmodeOn (fP o 40))

/-- `KMODE_OFF`. -/
def dec_kmodeOff (o : Nat) : Option Instr := do
    guard (fld o 0 40 == 1)
    some (.kmodeOff (fP o 40))

/-- `KADD`. -/
def dec_kadd (o : Nat) : Option Instr := do
    guard (fld o 34 6 == 0)
    some (.kadd (fP o 40) (fS o 28) (fU 28 o 0))

/-- `KADDR`. -/
def dec_kaddr (o : Nat) : Option Instr := do
    guard (fld o 16 12 == 0)
    some (.kaddr (fP o 40) (fS o 34) (fS o 28) (fU 16 o 0))

/-- `KWAIT`. -/
def dec_kwait (o : Nat) : Option Instr := do
    guard (fld o 16 12 == 0 && fld o 34 6 == 0)
    some (.kwait (fP o 40) (fS o 28) (fU 16 o 0))

/-- `KREAD`. -/
def dec_kread (o : Nat) : Option Instr := do
    guard (fld o 0 34 == 0)
    some (.kread (fP o 40) (fS o 34))

/-- `BAR`. -/
def dec_bar (o : Nat) : Option Instr := do
    guard (fld o 0 28 == 0 && fld o 34 10 == 0)
    some (.bar (fS o 28))

/-- `BAR_A`. -/
def dec_barA (o : Nat) : Option Instr := do
    guard (fld o 0 28 == 1 && fld o 40 4 == 0)
    some (.barA (fS o 34) (fS o 28))

/-- `BAR_W`. -/
def dec_barW (o : Nat) : Option Instr := do
    guard (fld o 0 22 == 2 && fld o 34 10 == 0)
    some (.barW (fS o 28) (fS o 22))

/-- `WFOWN`. -/
def dec_wfown (o : Nat) : Option Instr := do
    guard (fld o 0 34 == 0)
    some (.wfown (fP o 40) (fS o 34))

/-- `WFOWN_T`. -/
def dec_wfownT (o : Nat) : Option Instr := do
    guard (fld o 0 28 == 1)
    some (.wfownT (fP o 40) (fS o 34) (fS o 28))

/-- `WFOWN_G`. -/
def dec_wfownG (o : Nat) : Option Instr := do
    guard (fld o 0 28 == 2)
    some (.wfownG (fP o 40) (fS o 34) (fS o 28))

/-- `WFOWN_E`. -/
def dec_wfownE (o : Nat) : Option Instr := do
    guard (fld o 0 28 == 3)
    some (.wfownE (fP o 40) (fS o 34) (fS o 28))

/-- `WFOWN_R`. -/
def dec_wfownR (o : Nat) : Option Instr := do
    guard (fld o 0 28 == 4)
    some (.wfownR (fP o 40) (fS o 34) (fS o 28))

/-- `WFDROP`. -/
def dec_wfdrop (o : Nat) : Option Instr := do
    guard (fld o 0 40 == 0)
    some (.wfdrop (fP o 40))

/-- `WFDROP_ALL`. -/
def dec_wfdropAll (o : Nat) : Option Instr := do
    guard (fld o 0 40 == 1)
    some (.wfdropAll (fP o 40))

/-- `WFQ_W`. -/
def dec_wfqW (o : Nat) : Option Instr := do
    guard (fld o 0 34 == 0)
    some (.wfqW (fP o 40) (fS o 34))

/-- `WFQ_O`. -/
def dec_wfqO (o : Nat) : Option Instr := do
    guard (fld o 0 34 == 1)
    some (.wfqO (fP o 40) (fS o 34))

/-- `WFQ_F`. -/
def dec_wfqF (o : Nat) : Option Instr := do
    guard (fld o 0 34 == 2 && fld o 40 4 == 0)
    some (.wfqF (fS o 34))

/-- `KADDW`. -/
def dec_kaddw (o : Nat) : Option Instr := do
    guard (fld o 34 10 == 0)
    some (.kaddw (fS o 28) (fU 28 o 0))

/-- `TRAP`. -/
def dec_trap (o : Nat) : Option Instr := do
    guard (fld o 26 18 == 0)
    some (.trap (fU 26 o 0))

/-- `XRET`. -/
def dec_xret (o : Nat) : Option Instr := do
    guard (fld o 0 44 == 0)
    some (.xret)

/-- `TLBI`. -/
def dec_tlbi (o : Nat) : Option Instr := do
    guard (fld o 0 32 == 0 && fld o 38 6 == 0)
    some (.tlbi (fS o 32))

/-- `TLBI_ALL`. -/
def dec_tlbiAll (o : Nat) : Option Instr := do
    guard (fld o 0 44 == 1)
    some (.tlbiAll)

/-- `CTXSV`. -/
def dec_ctxsv (o : Nat) : Option Instr := do
    guard (fld o 0 25 == 0 && fld o 31 13 == 0)
    some (.ctxsv (fS o 25))

/-- `CTXLD`. -/
def dec_ctxld (o : Nat) : Option Instr := do
    guard (fld o 0 19 == 0 && fld o 31 13 == 0)
    some (.ctxld (fS o 25) (fS o 19))

/-- `DLOAD`. -/
def dec_dload (o : Nat) : Option Instr := do
    guard (fld o 0 19 == 0 && fld o 31 13 == 0)
    some (.dload (fS o 25) (fS o 19))

/-- The operand bits [43:0] of a slot under opcode `opc` (R40, R53); an unassigned opcode has none (R54). -/
def decodeOperands (opc o : Nat) : Option Instr :=
  match opc with
  | 0x000 => dec_nop o
  | 0x001 => dec_add o
  | 0x002 => dec_sub o
  | 0x003 => dec_addi o
  | 0x004 => dec_mul o
  | 0x005 => dec_mulh o
  | 0x006 => dec_mulhl o
  | 0x007 => dec_divq o
  | 0x008 => dec_remq o
  | 0x009 => dec_and o
  | 0x00A => dec_or o
  | 0x00B => dec_xor o
  | 0x00C => dec_andn o
  | 0x00D => dec_andi o
  | 0x00E => dec_ori o
  | 0x00F => dec_xori o
  | 0x010 => dec_shl o
  | 0x011 => dec_shr o
  | 0x012 => dec_sra o
  | 0x013 => dec_shli o
  | 0x014 => dec_shri o
  | 0x015 => dec_srai o
  | 0x016 => dec_rotl o
  | 0x017 => dec_min o
  | 0x018 => dec_max o
  | 0x019 => dec_minl o
  | 0x01A => dec_maxl o
  | 0x01B => dec_clz o
  | 0x01C => dec_ctz o
  | 0x01D => dec_popc o
  | 0x01E => dec_bswap o
  | 0x01F => dec_sext o
  | 0x020 => dec_zext o
  | 0x021 => dec_li o
  | 0x022 => dec_lih o
  | 0x023 => dec_mov o
  | 0x024 => dec_sel o
  | 0x025 => dec_addp o
  | 0x026 => dec_cmp o
  | 0x027 => dec_cmpi o
  | 0x060 => dec_pand o
  | 0x061 => dec_por o
  | 0x062 => dec_pxor o
  | 0x063 => dec_pnot o
  | 0x064 => dec_pmov o
  | 0x065 => dec_pset o <|> dec_psetAll o
  | 0x066 => dec_pget o
  | 0x067 => dec_br o
  | 0x068 => dec_jmp o
  | 0x069 => dec_call o
  | 0x06A => dec_callr o
  | 0x06B => dec_ret o
  | 0x06C => dec_loop o <|> dec_loopReg o
  | 0x06D => dec_lbrk o
  | 0x06E => dec_lidx o <|> dec_lidxN o
  | 0x06F => dec_csrr o
  | 0x070 => dec_csrw o <|> dec_csrwSet o <|> dec_csrwClr o
  | 0x080 => dec_vadd o
  | 0x081 => dec_vsub o
  | 0x082 => dec_vmul o
  | 0x083 => dec_vfma o
  | 0x084 => dec_vfms o
  | 0x085 => dec_vneg o
  | 0x086 => dec_vabs o
  | 0x087 => dec_vmin o
  | 0x088 => dec_vmax o
  | 0x089 => dec_vand o
  | 0x08A => dec_vor o
  | 0x08B => dec_vxor o
  | 0x08C => dec_vshl o
  | 0x08D => dec_vshr o
  | 0x08E => dec_vsra o
  | 0x08F => dec_vclamp o
  | 0x090 => dec_vsplat o
  | 0x091 => dec_vmovs o
  | 0x092 => dec_vins o
  | 0x093 => dec_vmov o
  | 0x094 => dec_vsel o
  | 0x095 => dec_vcmp o
  | 0x096 => dec_vcvt o
  | 0x0A0 => dec_vmaskN o <|> dec_vmaskNz o <|> dec_vmaskQ o
  | 0x0A1 => dec_mand o
  | 0x0A2 => dec_mor o
  | 0x0A3 => dec_mxor o
  | 0x0A4 => dec_mnot o
  | 0x0A5 => dec_mcnt o
  | 0x0A6 => dec_mfirst o
  | 0x0C0 => dec_vrcp o
  | 0x0C1 => dec_vrsqrt o
  | 0x0C2 => dec_vsqrt o
  | 0x0C3 => dec_vexp2 o
  | 0x0C4 => dec_vlog2 o
  | 0x0C8 => dec_vgetl o
  | 0x0C9 => dec_vputl o
  | 0x0CA => dec_vmovx o
  | 0x0CB => dec_vstx o
  | 0x0D0 => dec_vperm o
  | 0x0D1 => dec_vrot o
  | 0x0D2 => dec_vshuf o
  | 0x0D3 => dec_vbcast o
  | 0x0D4 => dec_vcomp o
  | 0x0D5 => dec_vexpd o
  | 0x0D8 => dec_vredadd o
  | 0x0D9 => dec_vredmax o
  | 0x0DA => dec_vredmin o
  | 0x0DB => dec_vargmax o
  | 0x0DC => dec_vscan o
  | 0x0E0 => dec_vpack o
  | 0x0E1 => dec_vunpk o
  | 0x0E2 => dec_vblk o
  | 0x0E3 => dec_vunblk o
  | 0x0E8 => dec_vwgin o
  | 0x0E9 => dec_vwgout o
  | 0x0EA => dec_vwgfil o
  | 0x140 => dec_lds o
  | 0x141 => dec_sts o
  | 0x142 => dec_ldv o
  | 0x143 => dec_stv o
  | 0x144 => dec_ldvs o
  | 0x145 => dec_stvs o
  | 0x146 => dec_ldvx o
  | 0x147 => dec_stvx o
  | 0x148 => dec_pfh o
  | 0x150 => dec_stc o
  | 0x151 => dec_ldc o
  | 0x152 => dec_ldvc o
  | 0x153 => dec_rcq o
  | 0x154 => dec_aadd o
  | 0x155 => dec_amin o
  | 0x156 => dec_amax o
  | 0x157 => dec_aand o
  | 0x158 => dec_aor o
  | 0x159 => dec_axor o
  | 0x15A => dec_aswp o
  | 0x15B => dec_acas o
  | 0x15C => dec_brel o <|> dec_brelP o
  | 0x15D => dec_bwait o
  | 0x15E => dec_pdef o <|> dec_pdefRel o
  | 0x160 => dec_wset o <|> dec_wsetInv o
  | 0x161 => dec_ldw o <|> dec_ldwVec o
  | 0x162 => dec_stw o <|> dec_stwVec o
  | 0x163 => dec_fencex o
  | 0x180 => dec_tcfg o
  | 0x181 => dec_tcfgqVer o <|> dec_tcfgqSt o <|> dec_tcfgqTag o <|> dec_tcfgqSep o
  | 0x182 => dec_tzero o
  | 0x183 => dec_mset o
  | 0x184 => dec_mord o
  | 0x185 => dec_tld o
  | 0x186 => dec_tst o
  | 0x187 => dec_tldv o
  | 0x188 => dec_tstv o
  | 0x189 => dec_tmc o
  | 0x18A => dec_trecv o <|> dec_trecvRel o
  | 0x18B => dec_tcons o
  | 0x18C => dec_dtab o
  | 0x18D => dec_tldz o
  | 0x18E => dec_wait o
  | 0x190 => dec_mma o
  | 0x191 => dec_mmzI32 o <|> dec_mmzFp32 o
  | 0x192 => dec_mmdr o
  | 0x193 => dec_qld o <|> dec_qldBind o
  | 0x194 => dec_qst o
  | 0x195 => dec_esetRng o <|> dec_esetQ o
  | 0x196 => dec_etab o
  | 0x1A0 => dec_lset o
  | 0x1A1 => dec_lcoord o
  | 0x1A2 => dec_lnbr o
  | 0x1A3 => dec_hsend o
  | 0x1A4 => dec_hrecv o <|> dec_hrecvRel o
  | 0x1A5 => dec_reshard o
  | 0x1A6 => dec_cred o <|> dec_credCh o
  | 0x1A7 => dec_chset o <|> dec_chsetRel o
  | 0x1A8 => dec_chsend o
  | 0x1A9 => dec_chrecv o
  | 0x1C0 => dec_tid o
  | 0x1C1 => dec_tcount o
  | 0x1C2 => dec_join o
  | 0x1C3 => dec_leave o
  | 0x1C4 => dec_grank o
  | 0x1C5 => dec_gsize o <|> dec_gsizeJ o
  | 0x1C6 => dec_exit o
  | 0x1C7 => dec_yield o
  | 0x1C8 => dec_trig o
  | 0x1C9 => dec_launch o
  | 0x1CA => dec_prio o <|> dec_prioAll o
  | 0x1D0 => dec_kset o <|> dec_ksetClr o
  | 0x1D1 => dec_kmodeOn o <|> dec_kmodeOff o
  | 0x1D2 => dec_kadd o
  | 0x1D3 => dec_kaddr o
  | 0x1D4 => dec_kwait o
  | 0x1D5 => dec_kread o
  | 0x1D6 => dec_bar o <|> dec_barA o <|> dec_barW o
  | 0x1D7 => dec_wfown o <|> dec_wfownT o <|> dec_wfownG o <|> dec_wfownE o <|> dec_wfownR o
  | 0x1D8 => dec_wfdrop o <|> dec_wfdropAll o
  | 0x1D9 => dec_wfqW o <|> dec_wfqO o <|> dec_wfqF o
  | 0x1DA => dec_kaddw o
  | 0x1E0 => dec_trap o
  | 0x1E1 => dec_xret o
  | 0x1E2 => dec_tlbi o <|> dec_tlbiAll o
  | 0x1F0 => dec_ctxsv o
  | 0x1F1 => dec_ctxld o
  | 0x1F2 => dec_dload o
  | _ => none

/-- The header of a slot (R36). -/
structure SlotHdr where
  stop  : Bool
  gi    : Bool
  gp    : PReg
  ae    : Bool
  ak    : KReg
deriving DecidableEq, Repr

/-- The header fields of a slot (R36). -/
def slotHdr (w : Nat) : SlotHdr :=
  { stop := fB w 63, gi := fB w 62, gp := fP w 58, ae := fB w 48, ak := fP w 44 }

/-- The opcode of a slot, bits [57:49] (R36). -/
def slotOpc (w : Nat) : Nat := fld w 49 9

/-- A legal slot's instruction: opcode and operands decode, the result is well formed, and a nop has no arrive suffix
(R35 items 1 to 4, R38). -/
def decodeSlot (w : Nat) : Option Instr := do
  let i ← decodeOperands (slotOpc w) (fld w 0 44)
  guard i.wf
  guard (slotOpc w != 0 || fld w 44 5 == 0)
  some i

/-- The instruction read from a slot whose 64 bits are `w`; an instruction of this hardware is one slot, so bits above
63 do not belong to it and must be zero. -/
def decodeTableWord (_nbits w : Nat) : Option Instr :=
  if w < 2 ^ 64 then decodeSlot w else none

/-- An optional register field and the `mod` bit that makes it present. -/
def ffO {n : Nat} (x : Option (Fin n)) (lo bit : Nat) : Nat :=
  match x with
  | some r => r.val * 2 ^ lo + 2 ^ bit
  | none => 0

/-- `ADD`. -/
def enc_add (d : SReg) (a : SReg) (b : SReg) : Nat :=
  d.val * 2 ^ 38 + a.val * 2 ^ 32 + b.val * 2 ^ 26

/-- `SUB`. -/
def enc_sub (d : SReg) (a : SReg) (b : SReg) : Nat :=
  d.val * 2 ^ 38 + a.val * 2 ^ 32 + b.val * 2 ^ 26

/-- `ADDI`. -/
def enc_addi (d : SReg) (a : SReg) (i : BitVec 26) : Nat :=
  d.val * 2 ^ 38 + a.val * 2 ^ 32 + i.toNat * 2 ^ 0

/-- `MUL`. -/
def enc_mul (d : SReg) (a : SReg) (b : SReg) : Nat :=
  d.val * 2 ^ 38 + a.val * 2 ^ 32 + b.val * 2 ^ 26

/-- `MULH`. -/
def enc_mulh (d : SReg) (a : SReg) (b : SReg) : Nat :=
  d.val * 2 ^ 38 + a.val * 2 ^ 32 + b.val * 2 ^ 26

/-- `MULHL`. -/
def enc_mulhl (d : SReg) (a : SReg) (b : SReg) : Nat :=
  d.val * 2 ^ 38 + a.val * 2 ^ 32 + b.val * 2 ^ 26

/-- `DIVQ`. -/
def enc_divq (d : SReg) (a : SReg) (b : SReg) (u : Bool) : Nat :=
  d.val * 2 ^ 38 + a.val * 2 ^ 32 + b.val * 2 ^ 26 + u.toNat * 2 ^ 0

/-- `REMQ`. -/
def enc_remq (d : SReg) (a : SReg) (b : SReg) (u : Bool) : Nat :=
  d.val * 2 ^ 38 + a.val * 2 ^ 32 + b.val * 2 ^ 26 + u.toNat * 2 ^ 0

/-- `AND`. -/
def enc_and (d : SReg) (a : SReg) (b : SReg) : Nat :=
  d.val * 2 ^ 38 + a.val * 2 ^ 32 + b.val * 2 ^ 26

/-- `OR`. -/
def enc_or (d : SReg) (a : SReg) (b : SReg) : Nat :=
  d.val * 2 ^ 38 + a.val * 2 ^ 32 + b.val * 2 ^ 26

/-- `XOR`. -/
def enc_xor (d : SReg) (a : SReg) (b : SReg) : Nat :=
  d.val * 2 ^ 38 + a.val * 2 ^ 32 + b.val * 2 ^ 26

/-- `ANDN`. -/
def enc_andn (d : SReg) (a : SReg) (b : SReg) : Nat :=
  d.val * 2 ^ 38 + a.val * 2 ^ 32 + b.val * 2 ^ 26

/-- `ANDI`. -/
def enc_andi (d : SReg) (a : SReg) (i : BitVec 26) : Nat :=
  d.val * 2 ^ 38 + a.val * 2 ^ 32 + i.toNat * 2 ^ 0

/-- `ORI`. -/
def enc_ori (d : SReg) (a : SReg) (i : BitVec 26) : Nat :=
  d.val * 2 ^ 38 + a.val * 2 ^ 32 + i.toNat * 2 ^ 0

/-- `XORI`. -/
def enc_xori (d : SReg) (a : SReg) (i : BitVec 26) : Nat :=
  d.val * 2 ^ 38 + a.val * 2 ^ 32 + i.toNat * 2 ^ 0

/-- `SHL`. -/
def enc_shl (d : SReg) (a : SReg) (b : SReg) : Nat :=
  d.val * 2 ^ 38 + a.val * 2 ^ 32 + b.val * 2 ^ 26

/-- `SHR`. -/
def enc_shr (d : SReg) (a : SReg) (b : SReg) : Nat :=
  d.val * 2 ^ 38 + a.val * 2 ^ 32 + b.val * 2 ^ 26

/-- `SRA`. -/
def enc_sra (d : SReg) (a : SReg) (b : SReg) : Nat :=
  d.val * 2 ^ 38 + a.val * 2 ^ 32 + b.val * 2 ^ 26

/-- `SHLI`. -/
def enc_shli (d : SReg) (a : SReg) (i : BitVec 26) : Nat :=
  d.val * 2 ^ 38 + a.val * 2 ^ 32 + i.toNat * 2 ^ 0

/-- `SHRI`. -/
def enc_shri (d : SReg) (a : SReg) (i : BitVec 26) : Nat :=
  d.val * 2 ^ 38 + a.val * 2 ^ 32 + i.toNat * 2 ^ 0

/-- `SRAI`. -/
def enc_srai (d : SReg) (a : SReg) (i : BitVec 26) : Nat :=
  d.val * 2 ^ 38 + a.val * 2 ^ 32 + i.toNat * 2 ^ 0

/-- `ROTL`. -/
def enc_rotl (d : SReg) (a : SReg) (b : SReg) : Nat :=
  d.val * 2 ^ 38 + a.val * 2 ^ 32 + b.val * 2 ^ 26

/-- `MIN`. -/
def enc_min (d : SReg) (a : SReg) (b : SReg) : Nat :=
  d.val * 2 ^ 38 + a.val * 2 ^ 32 + b.val * 2 ^ 26

/-- `MAX`. -/
def enc_max (d : SReg) (a : SReg) (b : SReg) : Nat :=
  d.val * 2 ^ 38 + a.val * 2 ^ 32 + b.val * 2 ^ 26

/-- `MINL`. -/
def enc_minl (d : SReg) (a : SReg) (b : SReg) : Nat :=
  d.val * 2 ^ 38 + a.val * 2 ^ 32 + b.val * 2 ^ 26

/-- `MAXL`. -/
def enc_maxl (d : SReg) (a : SReg) (b : SReg) : Nat :=
  d.val * 2 ^ 38 + a.val * 2 ^ 32 + b.val * 2 ^ 26

/-- `CLZ`. -/
def enc_clz (d : SReg) (a : SReg) : Nat :=
  d.val * 2 ^ 38 + a.val * 2 ^ 32

/-- `CTZ`. -/
def enc_ctz (d : SReg) (a : SReg) : Nat :=
  d.val * 2 ^ 38 + a.val * 2 ^ 32

/-- `POPC`. -/
def enc_popc (d : SReg) (a : SReg) : Nat :=
  d.val * 2 ^ 38 + a.val * 2 ^ 32

/-- `BSWAP`. -/
def enc_bswap (d : SReg) (a : SReg) : Nat :=
  d.val * 2 ^ 38 + a.val * 2 ^ 32

/-- `SEXT`. -/
def enc_sext (d : SReg) (a : SReg) (i : BitVec 26) : Nat :=
  d.val * 2 ^ 38 + a.val * 2 ^ 32 + i.toNat * 2 ^ 0

/-- `ZEXT`. -/
def enc_zext (d : SReg) (a : SReg) (i : BitVec 26) : Nat :=
  d.val * 2 ^ 38 + a.val * 2 ^ 32 + i.toNat * 2 ^ 0

/-- `LI`. -/
def enc_li (d : SReg) (v : BitVec 32) (sh : Fin 64) : Nat :=
  d.val * 2 ^ 38 + v.toNat * 2 ^ 6 + sh.val * 2 ^ 0

/-- `LIH`. -/
def enc_lih (d : SReg) (v : BitVec 32) (sh : Fin 64) : Nat :=
  d.val * 2 ^ 38 + v.toNat * 2 ^ 6 + sh.val * 2 ^ 0

/-- `MOV`. -/
def enc_mov (d : SReg) (a : SReg) : Nat :=
  d.val * 2 ^ 38 + a.val * 2 ^ 32

/-- `SEL`. -/
def enc_sel (d : SReg) (a : SReg) (b : SReg) (q : PReg) (inv : Bool) : Nat :=
  d.val * 2 ^ 38 + a.val * 2 ^ 32 + b.val * 2 ^ 26 + q.val * 2 ^ 0 + inv.toNat * 2 ^ 4

/-- `ADDP`. -/
def enc_addp (d : SReg) (a : SReg) (b : SReg) (n : Ix8) : Nat :=
  d.val * 2 ^ 38 + a.val * 2 ^ 32 + b.val * 2 ^ 26 + n.val * 2 ^ 0

/-- `CMP`. -/
def enc_cmp (c : Cond) (q : PReg) (a : SReg) (b : SReg) : Nat :=
  c.code * 2 ^ 36 + q.val * 2 ^ 40 + a.val * 2 ^ 30 + b.val * 2 ^ 24

/-- `CMPI`. -/
def enc_cmpi (c : Cond) (q : PReg) (a : SReg) (i : BitVec 30) : Nat :=
  c.code * 2 ^ 36 + q.val * 2 ^ 40 + a.val * 2 ^ 30 + i.toNat * 2 ^ 0

/-- `PAND`. -/
def enc_pand (d : PReg) (a : PReg) (b : PReg) : Nat :=
  d.val * 2 ^ 40 + a.val * 2 ^ 36 + b.val * 2 ^ 32

/-- `POR`. -/
def enc_por (d : PReg) (a : PReg) (b : PReg) : Nat :=
  d.val * 2 ^ 40 + a.val * 2 ^ 36 + b.val * 2 ^ 32

/-- `PXOR`. -/
def enc_pxor (d : PReg) (a : PReg) (b : PReg) : Nat :=
  d.val * 2 ^ 40 + a.val * 2 ^ 36 + b.val * 2 ^ 32

/-- `PNOT`. -/
def enc_pnot (d : PReg) (a : PReg) : Nat :=
  d.val * 2 ^ 40 + a.val * 2 ^ 36

/-- `PMOV`. -/
def enc_pmov (d : PReg) (a : PReg) : Nat :=
  d.val * 2 ^ 40 + a.val * 2 ^ 36

/-- `PSET`. -/
def enc_pset (d : PReg) (a : SReg) (n : Fin 64) : Nat :=
  d.val * 2 ^ 40 + a.val * 2 ^ 20 + n.val * 2 ^ 0

/-- `PSET_ALL`. -/
def enc_psetAll (a : SReg) : Nat :=
  a.val * 2 ^ 20 + 1 * 2 ^ 6

/-- `PGET`. -/
def enc_pget (d : SReg) : Nat :=
  d.val * 2 ^ 26

/-- `BR`. -/
def enc_br (off : BitVec 30) : Nat :=
  off.toNat * 2 ^ 14

/-- `JMP`. -/
def enc_jmp (a : SReg) : Nat :=
  a.val * 2 ^ 32

/-- `CALL`. -/
def enc_call (off : BitVec 30) : Nat :=
  off.toNat * 2 ^ 14

/-- `CALLR`. -/
def enc_callr (a : SReg) : Nat :=
  a.val * 2 ^ 32

/-- `LOOP`. -/
def enc_loop (body : BitVec 12) (cnt : BitVec 31) : Nat :=
  body.toNat * 2 ^ 32 + cnt.toNat * 2 ^ 0 + 1 * 2 ^ 31

/-- `LOOP_REG`. -/
def enc_loopReg (body : BitVec 12) (a : SReg) : Nat :=
  body.toNat * 2 ^ 32 + a.val * 2 ^ 25

/-- `LIDX`. -/
def enc_lidx (d : SReg) (j : Ix8) : Nat :=
  d.val * 2 ^ 38 + j.val * 2 ^ 0

/-- `LIDX_N`. -/
def enc_lidxN (d : SReg) (j : Ix8) : Nat :=
  d.val * 2 ^ 38 + j.val * 2 ^ 0 + 1 * 2 ^ 3

/-- `CSRR`. -/
def enc_csrr (d : SReg) (n : BitVec 12) : Nat :=
  d.val * 2 ^ 38 + n.toNat * 2 ^ 20

/-- `CSRW`. -/
def enc_csrw (n : BitVec 12) (a : SReg) : Nat :=
  n.toNat * 2 ^ 20 + a.val * 2 ^ 32

/-- `CSRW_SET`. -/
def enc_csrwSet (n : BitVec 12) (a : SReg) : Nat :=
  n.toNat * 2 ^ 20 + a.val * 2 ^ 32 + 1 * 2 ^ 0

/-- `CSRW_CLR`. -/
def enc_csrwClr (n : BitVec 12) (a : SReg) : Nat :=
  n.toNat * 2 ^ 20 + a.val * 2 ^ 32 + 2 * 2 ^ 0

/-- `VADD`. -/
def enc_vadd (d : VReg) (a : VReg) (b : VReg) (m : MReg) (z : Bool) (w : Bool) (rm : Rm) : Nat :=
  d.val * 2 ^ 34 + a.val * 2 ^ 24 + b.val * 2 ^ 14 + m.val * 2 ^ 10 + z.toNat * 2 ^ 9 + w.toNat * 2 ^ 3 + rm.code * 2 ^ 0

/-- `VSUB`. -/
def enc_vsub (d : VReg) (a : VReg) (b : VReg) (m : MReg) (z : Bool) (w : Bool) (rm : Rm) : Nat :=
  d.val * 2 ^ 34 + a.val * 2 ^ 24 + b.val * 2 ^ 14 + m.val * 2 ^ 10 + z.toNat * 2 ^ 9 + w.toNat * 2 ^ 3 + rm.code * 2 ^ 0

/-- `VMUL`. -/
def enc_vmul (d : VReg) (a : VReg) (b : VReg) (m : MReg) (z : Bool) (w : Bool) (rm : Rm) : Nat :=
  d.val * 2 ^ 34 + a.val * 2 ^ 24 + b.val * 2 ^ 14 + m.val * 2 ^ 10 + z.toNat * 2 ^ 9 + w.toNat * 2 ^ 3 + rm.code * 2 ^ 0

/-- `VFMA`. -/
def enc_vfma (d : VReg) (a : VReg) (b : VReg) (m : MReg) (z : Bool) (rm : Rm) : Nat :=
  d.val * 2 ^ 34 + a.val * 2 ^ 24 + b.val * 2 ^ 14 + m.val * 2 ^ 10 + z.toNat * 2 ^ 9 + rm.code * 2 ^ 0

/-- `VFMS`. -/
def enc_vfms (d : VReg) (a : VReg) (b : VReg) (m : MReg) (z : Bool) (rm : Rm) : Nat :=
  d.val * 2 ^ 34 + a.val * 2 ^ 24 + b.val * 2 ^ 14 + m.val * 2 ^ 10 + z.toNat * 2 ^ 9 + rm.code * 2 ^ 0

/-- `VNEG`. -/
def enc_vneg (d : VReg) (a : VReg) (m : MReg) (z : Bool) (w : Bool) : Nat :=
  d.val * 2 ^ 34 + a.val * 2 ^ 24 + m.val * 2 ^ 10 + z.toNat * 2 ^ 9 + w.toNat * 2 ^ 3

/-- `VABS`. -/
def enc_vabs (d : VReg) (a : VReg) (m : MReg) (z : Bool) (w : Bool) : Nat :=
  d.val * 2 ^ 34 + a.val * 2 ^ 24 + m.val * 2 ^ 10 + z.toNat * 2 ^ 9 + w.toNat * 2 ^ 3

/-- `VMIN`. -/
def enc_vmin (d : VReg) (a : VReg) (b : VReg) (m : MReg) (z : Bool) : Nat :=
  d.val * 2 ^ 34 + a.val * 2 ^ 24 + b.val * 2 ^ 14 + m.val * 2 ^ 10 + z.toNat * 2 ^ 9

/-- `VMAX`. -/
def enc_vmax (d : VReg) (a : VReg) (b : VReg) (m : MReg) (z : Bool) : Nat :=
  d.val * 2 ^ 34 + a.val * 2 ^ 24 + b.val * 2 ^ 14 + m.val * 2 ^ 10 + z.toNat * 2 ^ 9

/-- `VAND`. -/
def enc_vand (d : VReg) (a : VReg) (b : VReg) (m : MReg) (z : Bool) : Nat :=
  d.val * 2 ^ 34 + a.val * 2 ^ 24 + b.val * 2 ^ 14 + m.val * 2 ^ 10 + z.toNat * 2 ^ 9

/-- `VOR`. -/
def enc_vor (d : VReg) (a : VReg) (b : VReg) (m : MReg) (z : Bool) : Nat :=
  d.val * 2 ^ 34 + a.val * 2 ^ 24 + b.val * 2 ^ 14 + m.val * 2 ^ 10 + z.toNat * 2 ^ 9

/-- `VXOR`. -/
def enc_vxor (d : VReg) (a : VReg) (b : VReg) (m : MReg) (z : Bool) : Nat :=
  d.val * 2 ^ 34 + a.val * 2 ^ 24 + b.val * 2 ^ 14 + m.val * 2 ^ 10 + z.toNat * 2 ^ 9

/-- `VSHL`. -/
def enc_vshl (d : VReg) (a : VReg) (b : VReg) (m : MReg) (z : Bool) : Nat :=
  d.val * 2 ^ 34 + a.val * 2 ^ 24 + b.val * 2 ^ 14 + m.val * 2 ^ 10 + z.toNat * 2 ^ 9

/-- `VSHR`. -/
def enc_vshr (d : VReg) (a : VReg) (b : VReg) (m : MReg) (z : Bool) : Nat :=
  d.val * 2 ^ 34 + a.val * 2 ^ 24 + b.val * 2 ^ 14 + m.val * 2 ^ 10 + z.toNat * 2 ^ 9

/-- `VSRA`. -/
def enc_vsra (d : VReg) (a : VReg) (b : VReg) (m : MReg) (z : Bool) : Nat :=
  d.val * 2 ^ 34 + a.val * 2 ^ 24 + b.val * 2 ^ 14 + m.val * 2 ^ 10 + z.toNat * 2 ^ 9

/-- `VCLAMP`. -/
def enc_vclamp (d : VReg) (a : VReg) (b : VReg) (m : MReg) (z : Bool) : Nat :=
  d.val * 2 ^ 34 + a.val * 2 ^ 24 + b.val * 2 ^ 14 + m.val * 2 ^ 10 + z.toNat * 2 ^ 9

/-- `VSPLAT`. -/
def enc_vsplat (t : Tag) (d : VReg) (b : SReg) (m : MReg) (z : Bool) : Nat :=
  t.code * 2 ^ 0 + d.val * 2 ^ 34 + b.val * 2 ^ 18 + m.val * 2 ^ 14 + z.toNat * 2 ^ 13

/-- `VMOVS`. -/
def enc_vmovs (b : SReg) (a : VReg) (j : Fin 1024) : Nat :=
  b.val * 2 ^ 18 + a.val * 2 ^ 24 + j.val * 2 ^ 0

/-- `VINS`. -/
def enc_vins (d : VReg) (a : VReg) (b : SReg) (j : Fin 1024) : Nat :=
  d.val * 2 ^ 34 + a.val * 2 ^ 24 + b.val * 2 ^ 18 + j.val * 2 ^ 0

/-- `VMOV`. -/
def enc_vmov (d : VReg) (a : VReg) (m : MReg) (z : Bool) : Nat :=
  d.val * 2 ^ 34 + a.val * 2 ^ 24 + m.val * 2 ^ 10 + z.toNat * 2 ^ 9

/-- `VSEL`. -/
def enc_vsel (d : VReg) (a : VReg) (b : VReg) (m : MReg) : Nat :=
  d.val * 2 ^ 34 + a.val * 2 ^ 24 + b.val * 2 ^ 14 + m.val * 2 ^ 10

/-- `VCMP`. -/
def enc_vcmp (c : Cond) (d : MReg) (a : VReg) (b : VReg) (m : MReg) : Nat :=
  c.code * 2 ^ 36 + d.val * 2 ^ 40 + a.val * 2 ^ 26 + b.val * 2 ^ 16 + m.val * 2 ^ 12

/-- `VCVT`. -/
def enc_vcvt (d : VReg) (a : VReg) (m : MReg) (t : Tag) (h : Fin 4) (w : Bool) (rm : Rm) : Nat :=
  d.val * 2 ^ 34 + a.val * 2 ^ 24 + m.val * 2 ^ 10 + t.code * 2 ^ 4 + h.val * 2 ^ 8 + w.toNat * 2 ^ 3 + rm.code * 2 ^ 0

/-- `VMASK_N`. -/
def enc_vmaskN (d : MReg) (a : SReg) : Nat :=
  d.val * 2 ^ 40 + a.val * 2 ^ 26

/-- `VMASK_NZ`. -/
def enc_vmaskNz (d : MReg) (a : VReg) : Nat :=
  d.val * 2 ^ 40 + a.val * 2 ^ 16 + 1 * 2 ^ 0

/-- `VMASK_Q`. -/
def enc_vmaskQ (d : MReg) (a : SReg) (q : PReg) : Nat :=
  d.val * 2 ^ 40 + a.val * 2 ^ 26 + q.val * 2 ^ 2 + 2 * 2 ^ 0

/-- `MAND`. -/
def enc_mand (d : MReg) (a : MReg) (b : MReg) : Nat :=
  d.val * 2 ^ 40 + a.val * 2 ^ 36 + b.val * 2 ^ 32

/-- `MOR`. -/
def enc_mor (d : MReg) (a : MReg) (b : MReg) : Nat :=
  d.val * 2 ^ 40 + a.val * 2 ^ 36 + b.val * 2 ^ 32

/-- `MXOR`. -/
def enc_mxor (d : MReg) (a : MReg) (b : MReg) : Nat :=
  d.val * 2 ^ 40 + a.val * 2 ^ 36 + b.val * 2 ^ 32

/-- `MNOT`. -/
def enc_mnot (d : MReg) (a : MReg) : Nat :=
  d.val * 2 ^ 40 + a.val * 2 ^ 36

/-- `MCNT`. -/
def enc_mcnt (d : SReg) (a : MReg) : Nat :=
  d.val * 2 ^ 26 + a.val * 2 ^ 36

/-- `MFIRST`. -/
def enc_mfirst (d : SReg) (a : MReg) : Nat :=
  d.val * 2 ^ 26 + a.val * 2 ^ 36

/-- `VRCP`. -/
def enc_vrcp (d : VReg) (a : VReg) (m : MReg) (z : Bool) (rm : Rm) : Nat :=
  d.val * 2 ^ 34 + a.val * 2 ^ 24 + m.val * 2 ^ 10 + z.toNat * 2 ^ 9 + rm.code * 2 ^ 0

/-- `VRSQRT`. -/
def enc_vrsqrt (d : VReg) (a : VReg) (m : MReg) (z : Bool) (rm : Rm) : Nat :=
  d.val * 2 ^ 34 + a.val * 2 ^ 24 + m.val * 2 ^ 10 + z.toNat * 2 ^ 9 + rm.code * 2 ^ 0

/-- `VSQRT`. -/
def enc_vsqrt (d : VReg) (a : VReg) (m : MReg) (z : Bool) (rm : Rm) : Nat :=
  d.val * 2 ^ 34 + a.val * 2 ^ 24 + m.val * 2 ^ 10 + z.toNat * 2 ^ 9 + rm.code * 2 ^ 0

/-- `VEXP2`. -/
def enc_vexp2 (d : VReg) (a : VReg) (m : MReg) (z : Bool) (rm : Rm) : Nat :=
  d.val * 2 ^ 34 + a.val * 2 ^ 24 + m.val * 2 ^ 10 + z.toNat * 2 ^ 9 + rm.code * 2 ^ 0

/-- `VLOG2`. -/
def enc_vlog2 (d : VReg) (a : VReg) (m : MReg) (z : Bool) (rm : Rm) : Nat :=
  d.val * 2 ^ 34 + a.val * 2 ^ 24 + m.val * 2 ^ 10 + z.toNat * 2 ^ 9 + rm.code * 2 ^ 0

/-- `VGETL`. -/
def enc_vgetl (d : VReg) (a : VReg) (m : MReg) (b : VReg) (g : Bool) (z : Bool) : Nat :=
  d.val * 2 ^ 34 + a.val * 2 ^ 24 + m.val * 2 ^ 10 + b.val * 2 ^ 14 + g.toNat * 2 ^ 0 + z.toNat * 2 ^ 9

/-- `VPUTL`. -/
def enc_vputl (d : VReg) (a : VReg) (b : VReg) (m : MReg) (g : Bool) : Nat :=
  d.val * 2 ^ 34 + a.val * 2 ^ 24 + b.val * 2 ^ 14 + m.val * 2 ^ 10 + g.toNat * 2 ^ 0

/-- `VMOVX`. -/
def enc_vmovx (d : VReg) (a : VReg) (b : SReg) : Nat :=
  d.val * 2 ^ 34 + a.val * 2 ^ 24 + b.val * 2 ^ 18

/-- `VSTX`. -/
def enc_vstx (d : VReg) (a : VReg) (b : SReg) : Nat :=
  d.val * 2 ^ 34 + a.val * 2 ^ 24 + b.val * 2 ^ 18

/-- `VPERM`. -/
def enc_vperm (d : VReg) (a : VReg) (b : VReg) (m : MReg) (z : Bool) : Nat :=
  d.val * 2 ^ 34 + a.val * 2 ^ 24 + b.val * 2 ^ 14 + m.val * 2 ^ 10 + z.toNat * 2 ^ 9

/-- `VROT`. -/
def enc_vrot (d : VReg) (a : VReg) (b : SReg) (n : Fin 1024) (m : MReg) (z : Bool) : Nat :=
  d.val * 2 ^ 34 + a.val * 2 ^ 24 + b.val * 2 ^ 18 + n.val * 2 ^ 0 + m.val * 2 ^ 14 + z.toNat * 2 ^ 13

/-- `VSHUF`. -/
def enc_vshuf (d : VReg) (a : VReg) (b : VReg) (m : MReg) (pat : Ix8) (g : Ix8) (z : Bool) : Nat :=
  d.val * 2 ^ 34 + a.val * 2 ^ 24 + b.val * 2 ^ 14 + m.val * 2 ^ 10 + pat.val * 2 ^ 0 + g.val * 2 ^ 3 + z.toNat * 2 ^ 9

/-- `VBCAST`. -/
def enc_vbcast (d : VReg) (a : VReg) (b : SReg) (n : Fin 1024) (m : MReg) (z : Bool) : Nat :=
  d.val * 2 ^ 34 + a.val * 2 ^ 24 + b.val * 2 ^ 18 + n.val * 2 ^ 0 + m.val * 2 ^ 14 + z.toNat * 2 ^ 13

/-- `VCOMP`. -/
def enc_vcomp (d : VReg) (a : VReg) (m : MReg) : Nat :=
  d.val * 2 ^ 34 + a.val * 2 ^ 24 + m.val * 2 ^ 10

/-- `VEXPD`. -/
def enc_vexpd (d : VReg) (a : VReg) (m : MReg) (z : Bool) : Nat :=
  d.val * 2 ^ 34 + a.val * 2 ^ 24 + m.val * 2 ^ 10 + z.toNat * 2 ^ 9

/-- `VREDADD`. -/
def enc_vredadd (d : VReg) (a : VReg) (m : MReg) (rm : Rm) : Nat :=
  d.val * 2 ^ 34 + a.val * 2 ^ 24 + m.val * 2 ^ 10 + rm.code * 2 ^ 0

/-- `VREDMAX`. -/
def enc_vredmax (d : VReg) (a : VReg) (m : MReg) : Nat :=
  d.val * 2 ^ 34 + a.val * 2 ^ 24 + m.val * 2 ^ 10

/-- `VREDMIN`. -/
def enc_vredmin (d : VReg) (a : VReg) (m : MReg) : Nat :=
  d.val * 2 ^ 34 + a.val * 2 ^ 24 + m.val * 2 ^ 10

/-- `VARGMAX`. -/
def enc_vargmax (d : VReg) (a : VReg) (m : MReg) : Nat :=
  d.val * 2 ^ 34 + a.val * 2 ^ 24 + m.val * 2 ^ 10

/-- `VSCAN`. -/
def enc_vscan (d : VReg) (a : VReg) (m : MReg) (op : Fin 4) (rm : Rm) : Nat :=
  d.val * 2 ^ 34 + a.val * 2 ^ 24 + m.val * 2 ^ 10 + op.val * 2 ^ 4 + rm.code * 2 ^ 0

/-- `VPACK`. -/
def enc_vpack (d : VReg) (a : VReg) (b : VReg) (m : MReg) (z : Bool) (w : Bool) (rm : Rm) : Nat :=
  d.val * 2 ^ 34 + a.val * 2 ^ 24 + b.val * 2 ^ 14 + m.val * 2 ^ 10 + z.toNat * 2 ^ 9 + w.toNat * 2 ^ 3 + rm.code * 2 ^ 0

/-- `VUNPK`. -/
def enc_vunpk (d : VReg) (a : VReg) (m : MReg) (h : Bool) (z : Bool) : Nat :=
  d.val * 2 ^ 34 + a.val * 2 ^ 24 + m.val * 2 ^ 10 + h.toNat * 2 ^ 8 + z.toNat * 2 ^ 9

/-- `VBLK`. -/
def enc_vblk (d : VReg) (a : VReg) (sv : Option VReg) (m : MReg) (n : PReg) (x : Bool) (rm : Rm) : Nat :=
  d.val * 2 ^ 34 + a.val * 2 ^ 24 + ffO sv 14 4 + m.val * 2 ^ 10 + n.val * 2 ^ 6 + x.toNat * 2 ^ 5 + rm.code * 2 ^ 0

/-- `VUNBLK`. -/
def enc_vunblk (d : VReg) (a : VReg) (m : MReg) (n : Ix8) (fp32 : Bool) (z : Bool) (rm : Rm) : Nat :=
  d.val * 2 ^ 34 + a.val * 2 ^ 24 + m.val * 2 ^ 10 + n.val * 2 ^ 6 + fp32.toNat * 2 ^ 5 + z.toNat * 2 ^ 9 + rm.code * 2 ^ 0

/-- `VWGIN`. -/
def enc_vwgin (d : VReg) (a : VReg) (m : MReg) (z : Bool) : Nat :=
  d.val * 2 ^ 34 + a.val * 2 ^ 24 + m.val * 2 ^ 10 + z.toNat * 2 ^ 9

/-- `VWGOUT`. -/
def enc_vwgout (d : VReg) (a : VReg) (m : MReg) (z : Bool) : Nat :=
  d.val * 2 ^ 34 + a.val * 2 ^ 24 + m.val * 2 ^ 10 + z.toNat * 2 ^ 9

/-- `VWGFIL`. -/
def enc_vwgfil (d : VReg) (a : VReg) (m : MReg) (z : Bool) : Nat :=
  d.val * 2 ^ 34 + a.val * 2 ^ 24 + m.val * 2 ^ 10 + z.toNat * 2 ^ 9

/-- `LDS`. -/
def enc_lds (d : SReg) (a : SReg) (i : BitVec 18) (sp : Space) (sz : Size) (u : Bool) : Nat :=
  d.val * 2 ^ 34 + a.val * 2 ^ 28 + i.toNat * 2 ^ 10 + sp.code * 2 ^ 7 + sz.code * 2 ^ 0 + u.toNat * 2 ^ 2

/-- `STS`. -/
def enc_sts (d : SReg) (a : SReg) (i : BitVec 18) (sp : Space) (sz : Size) : Nat :=
  d.val * 2 ^ 34 + a.val * 2 ^ 28 + i.toNat * 2 ^ 10 + sp.code * 2 ^ 7 + sz.code * 2 ^ 0

/-- `LDV`. -/
def enc_ldv (d : VReg) (a : SReg) (i : BitVec 18) (sp : Space) (t : Tag) : Nat :=
  d.val * 2 ^ 34 + a.val * 2 ^ 28 + i.toNat * 2 ^ 10 + sp.code * 2 ^ 7 + t.code * 2 ^ 3

/-- `STV`. -/
def enc_stv (d : VReg) (a : SReg) (i : BitVec 18) (sp : Space) (t : Tag) : Nat :=
  d.val * 2 ^ 34 + a.val * 2 ^ 28 + i.toNat * 2 ^ 10 + sp.code * 2 ^ 7 + t.code * 2 ^ 3

/-- `LDVS`. -/
def enc_ldvs (d : VReg) (a : SReg) (b : SReg) (m : MReg) (sp : Space) (t : Tag) (z : Bool) : Nat :=
  d.val * 2 ^ 34 + a.val * 2 ^ 28 + b.val * 2 ^ 22 + m.val * 2 ^ 18 + sp.code * 2 ^ 15 + t.code * 2 ^ 11 + z.toNat * 2 ^ 0

/-- `STVS`. -/
def enc_stvs (d : VReg) (a : SReg) (b : SReg) (m : MReg) (sp : Space) (t : Tag) : Nat :=
  d.val * 2 ^ 34 + a.val * 2 ^ 28 + b.val * 2 ^ 22 + m.val * 2 ^ 18 + sp.code * 2 ^ 15 + t.code * 2 ^ 11

/-- `LDVX`. -/
def enc_ldvx (d : VReg) (a : SReg) (x : VReg) (m : MReg) (sp : Space) (t : Tag) (sc : Fin 4) (u : Bool) (z : Bool) : Nat :=
  d.val * 2 ^ 34 + a.val * 2 ^ 28 + x.val * 2 ^ 18 + m.val * 2 ^ 14 + sp.code * 2 ^ 11 + t.code * 2 ^ 7 + sc.val * 2 ^ 1 + u.toNat * 2 ^ 3 + z.toNat * 2 ^ 0

/-- `STVX`. -/
def enc_stvx (d : VReg) (a : SReg) (x : VReg) (m : MReg) (sp : Space) (t : Tag) (sc : Fin 4) (u : Bool) : Nat :=
  d.val * 2 ^ 34 + a.val * 2 ^ 28 + x.val * 2 ^ 18 + m.val * 2 ^ 14 + sp.code * 2 ^ 11 + t.code * 2 ^ 7 + sc.val * 2 ^ 1 + u.toNat * 2 ^ 3

/-- `PFH`. -/
def enc_pfh (a : SReg) (i : BitVec 18) (n : Ix8) : Nat :=
  a.val * 2 ^ 28 + i.toNat * 2 ^ 10 + n.val * 2 ^ 0

/-- `STC`. -/
def enc_stc (d : VReg) (a : SReg) (n : BitVec 8) (t : Tag) : Nat :=
  d.val * 2 ^ 34 + a.val * 2 ^ 28 + n.toNat * 2 ^ 10 + t.code * 2 ^ 3 + 1 * 2 ^ 7

/-- `LDC`. -/
def enc_ldc (d : SReg) (a : SReg) (i : BitVec 18) (sp : Space) (sz : Size) (u : Bool) : Nat :=
  d.val * 2 ^ 34 + a.val * 2 ^ 28 + i.toNat * 2 ^ 10 + sp.code * 2 ^ 7 + sz.code * 2 ^ 0 + u.toNat * 2 ^ 2

/-- `LDVC`. -/
def enc_ldvc (d : VReg) (a : SReg) (i : BitVec 18) (sp : Space) (t : Tag) : Nat :=
  d.val * 2 ^ 34 + a.val * 2 ^ 28 + i.toNat * 2 ^ 10 + sp.code * 2 ^ 7 + t.code * 2 ^ 3

/-- `RCQ`. -/
def enc_rcq (d : SReg) (a : SReg) (i : BitVec 18) (sp : Space) : Nat :=
  d.val * 2 ^ 34 + a.val * 2 ^ 28 + i.toNat * 2 ^ 10 + sp.code * 2 ^ 7

/-- `AADD`. -/
def enc_aadd (d : SReg) (a : SReg) (b : SReg) (sp : Space) (q : Bool) : Nat :=
  d.val * 2 ^ 38 + a.val * 2 ^ 32 + b.val * 2 ^ 26 + sp.code * 2 ^ 17 + q.toNat * 2 ^ 0 + 1 * 2 ^ 1

/-- `AMIN`. -/
def enc_amin (d : SReg) (a : SReg) (b : SReg) (sp : Space) (q : Bool) (u : Bool) : Nat :=
  d.val * 2 ^ 38 + a.val * 2 ^ 32 + b.val * 2 ^ 26 + sp.code * 2 ^ 17 + q.toNat * 2 ^ 0 + u.toNat * 2 ^ 2 + 1 * 2 ^ 1

/-- `AMAX`. -/
def enc_amax (d : SReg) (a : SReg) (b : SReg) (sp : Space) (q : Bool) (u : Bool) : Nat :=
  d.val * 2 ^ 38 + a.val * 2 ^ 32 + b.val * 2 ^ 26 + sp.code * 2 ^ 17 + q.toNat * 2 ^ 0 + u.toNat * 2 ^ 2 + 1 * 2 ^ 1

/-- `AAND`. -/
def enc_aand (d : SReg) (a : SReg) (b : SReg) (sp : Space) (q : Bool) : Nat :=
  d.val * 2 ^ 38 + a.val * 2 ^ 32 + b.val * 2 ^ 26 + sp.code * 2 ^ 17 + q.toNat * 2 ^ 0 + 1 * 2 ^ 1

/-- `AOR`. -/
def enc_aor (d : SReg) (a : SReg) (b : SReg) (sp : Space) (q : Bool) : Nat :=
  d.val * 2 ^ 38 + a.val * 2 ^ 32 + b.val * 2 ^ 26 + sp.code * 2 ^ 17 + q.toNat * 2 ^ 0 + 1 * 2 ^ 1

/-- `AXOR`. -/
def enc_axor (d : SReg) (a : SReg) (b : SReg) (sp : Space) (q : Bool) : Nat :=
  d.val * 2 ^ 38 + a.val * 2 ^ 32 + b.val * 2 ^ 26 + sp.code * 2 ^ 17 + q.toNat * 2 ^ 0 + 1 * 2 ^ 1

/-- `ASWP`. -/
def enc_aswp (d : SReg) (a : SReg) (b : SReg) (sp : Space) (q : Bool) : Nat :=
  d.val * 2 ^ 38 + a.val * 2 ^ 32 + b.val * 2 ^ 26 + sp.code * 2 ^ 17 + q.toNat * 2 ^ 0 + 1 * 2 ^ 1

/-- `ACAS`. -/
def enc_acas (d : SReg) (a : SReg) (b : SReg) (c : SReg) (sp : Space) (q : Bool) : Nat :=
  d.val * 2 ^ 38 + a.val * 2 ^ 32 + b.val * 2 ^ 26 + c.val * 2 ^ 20 + sp.code * 2 ^ 17 + q.toNat * 2 ^ 0 + 1 * 2 ^ 1

/-- `BREL`. -/
def enc_brel (a : SReg) (b : SReg) : Nat :=
  a.val * 2 ^ 25 + b.val * 2 ^ 19

/-- `BREL_P`. -/
def enc_brelP (a : SReg) (b : SReg) : Nat :=
  a.val * 2 ^ 25 + b.val * 2 ^ 19 + 1 * 2 ^ 0

/-- `BWAIT`. -/
def enc_bwait (a : SReg) (b : SReg) : Nat :=
  a.val * 2 ^ 25 + b.val * 2 ^ 19

/-- `PDEF`. -/
def enc_pdef (n : Ix8) (a : SReg) : Nat :=
  n.val * 2 ^ 0 + a.val * 2 ^ 25

/-- `PDEF_REL`. -/
def enc_pdefRel (n : Ix8) : Nat :=
  n.val * 2 ^ 0 + 1 * 2 ^ 3

/-- `WSET`. -/
def enc_wset (a : SReg) (b : SReg) : Nat :=
  a.val * 2 ^ 25 + b.val * 2 ^ 19

/-- `WSET_INV`. -/
def enc_wsetInv (a : SReg) : Nat :=
  a.val * 2 ^ 25 + 1 * 2 ^ 0

/-- `LDW`. -/
def enc_ldw (d : SReg) (h : BitVec 16) (a : SReg) (sz : Size) : Nat :=
  d.val * 2 ^ 34 + h.toNat * 2 ^ 10 + a.val * 2 ^ 28 + sz.code * 2 ^ 0 + 2 * 2 ^ 7

/-- `LDW_VEC`. -/
def enc_ldwVec (d : VReg) (h : BitVec 16) (a : SReg) (t : Tag) : Nat :=
  d.val * 2 ^ 34 + h.toNat * 2 ^ 10 + a.val * 2 ^ 28 + t.code * 2 ^ 3 + 2 * 2 ^ 7 + 1 * 2 ^ 2

/-- `STW`. -/
def enc_stw (d : SReg) (h : BitVec 16) (a : SReg) (sz : Size) : Nat :=
  d.val * 2 ^ 34 + h.toNat * 2 ^ 10 + a.val * 2 ^ 28 + sz.code * 2 ^ 0 + 2 * 2 ^ 7

/-- `STW_VEC`. -/
def enc_stwVec (d : VReg) (h : BitVec 16) (a : SReg) (t : Tag) : Nat :=
  d.val * 2 ^ 34 + h.toNat * 2 ^ 10 + a.val * 2 ^ 28 + t.code * 2 ^ 3 + 2 * 2 ^ 7 + 1 * 2 ^ 2

/-- `TCFG`. -/
def enc_tcfg (t : Ix8) (a : SReg) : Nat :=
  t.val * 2 ^ 38 + a.val * 2 ^ 25

/-- `TCFGQ_VER`. -/
def enc_tcfgqVer (b : SReg) (t : Ix8) : Nat :=
  b.val * 2 ^ 19 + t.val * 2 ^ 38

/-- `TCFGQ_ST`. -/
def enc_tcfgqSt (b : SReg) (t : Ix8) : Nat :=
  b.val * 2 ^ 19 + t.val * 2 ^ 38 + 1 * 2 ^ 0

/-- `TCFGQ_TAG`. -/
def enc_tcfgqTag (b : SReg) : Nat :=
  b.val * 2 ^ 19 + 2 * 2 ^ 0

/-- `TCFGQ_SEP`. -/
def enc_tcfgqSep (b : SReg) : Nat :=
  b.val * 2 ^ 19 + 3 * 2 ^ 0

/-- `TZERO`. -/
def enc_tzero (t : Ix8) : Nat :=
  t.val * 2 ^ 38

/-- `MSET`. -/
def enc_mset (mp : Ix8) (a : SReg) : Nat :=
  mp.val * 2 ^ 41 + a.val * 2 ^ 25

/-- `MORD`. -/
def enc_mord (mp : Ix8) (a : SReg) (b : SReg) : Nat :=
  mp.val * 2 ^ 41 + a.val * 2 ^ 25 + b.val * 2 ^ 19

/-- `TLD`. -/
def enc_tld (t : Ix8) (mp : Ix8) (a : SReg) (b : SReg) (c : Bool) (k : Option KReg) : Nat :=
  t.val * 2 ^ 38 + mp.val * 2 ^ 41 + a.val * 2 ^ 25 + b.val * 2 ^ 19 + c.toNat * 2 ^ 0 + ffO k 31 1

/-- `TST`. -/
def enc_tst (t : Ix8) (mp : Ix8) (a : SReg) (b : SReg) (n : BitVec 8) (k : Option KReg) : Nat :=
  t.val * 2 ^ 38 + mp.val * 2 ^ 41 + a.val * 2 ^ 25 + b.val * 2 ^ 19 + n.toNat * 2 ^ 0 + ffO k 31 8

/-- `TLDV`. -/
def enc_tldv (t : Ix8) (v : VReg) (a : SReg) (n : BitVec 7) : Nat :=
  t.val * 2 ^ 38 + v.val * 2 ^ 9 + a.val * 2 ^ 25 + n.toNat * 2 ^ 0

/-- `TSTV`. -/
def enc_tstv (t : Ix8) (v : VReg) (a : SReg) (n : BitVec 7) : Nat :=
  t.val * 2 ^ 38 + v.val * 2 ^ 9 + a.val * 2 ^ 25 + n.toNat * 2 ^ 0

/-- `TMC`. -/
def enc_tmc (mp : Ix8) (a : SReg) (b : SReg) (m : MReg) (u : Ix8) (c : Bool) (k : Option KReg) : Nat :=
  mp.val * 2 ^ 41 + a.val * 2 ^ 25 + b.val * 2 ^ 19 + m.val * 2 ^ 0 + u.val * 2 ^ 35 + c.toNat * 2 ^ 4 + ffO k 31 5

/-- `TRECV`. -/
def enc_trecv (t : Ix8) (k : KReg) (n : Ix8) : Nat :=
  t.val * 2 ^ 38 + k.val * 2 ^ 31 + n.val * 2 ^ 0

/-- `TRECV_REL`. -/
def enc_trecvRel (n : Ix8) : Nat :=
  n.val * 2 ^ 0 + 1 * 2 ^ 3

/-- `TCONS`. -/
def enc_tcons (t : Ix8) (n : BitVec 8) : Nat :=
  t.val * 2 ^ 38 + n.toNat * 2 ^ 0

/-- `DTAB`. -/
def enc_dtab (n : Fin 4) (a : SReg) : Nat :=
  n.val * 2 ^ 0 + a.val * 2 ^ 25

/-- `TLDZ`. -/
def enc_tldz (t : Ix8) (a : SReg) (b : SReg) (g : Tag) (k : Option KReg) : Nat :=
  t.val * 2 ^ 38 + a.val * 2 ^ 25 + b.val * 2 ^ 19 + g.code * 2 ^ 0 + ffO k 31 4

/-- `WAIT`. -/
def enc_wait (l : PReg) (s : PReg) (c : PReg) (t : PReg) : Nat :=
  l.val * 2 ^ 40 + s.val * 2 ^ 36 + c.val * 2 ^ 32 + t.val * 2 ^ 28

/-- `MMA`. -/
def enc_mma (n : Bool) (t : Ix8) (u : Ix8) (a : SReg) (z : Bool) (w : Bool) (ca : Bool) (cb : Bool) (ua : Bool) (ub : Bool) : Nat :=
  n.toNat * 2 ^ 0 + t.val * 2 ^ 38 + u.val * 2 ^ 35 + a.val * 2 ^ 25 + z.toNat * 2 ^ 1 + w.toNat * 2 ^ 2 + ca.toNat * 2 ^ 3 + cb.toNat * 2 ^ 4 + ua.toNat * 2 ^ 5 + ub.toNat * 2 ^ 6

/-- `MMZ_I32`. -/
def enc_mmzI32 (n : Bool) : Nat :=
  n.toNat * 2 ^ 0

/-- `MMZ_FP32`. -/
def enc_mmzFp32 (n : Bool) : Nat :=
  n.toNat * 2 ^ 0 + 1 * 2 ^ 1

/-- `MMDR`. -/
def enc_mmdr (t : Ix8) (n : Bool) (a : SReg) (bv : Option VReg) (x : Option Ix8) (act : Bool) (q : Bool) (z : Bool) : Nat :=
  t.val * 2 ^ 38 + n.toNat * 2 ^ 0 + a.val * 2 ^ 25 + ffO bv 9 1 + ffO x 35 4 + act.toNat * 2 ^ 2 + q.toNat * 2 ^ 3 + z.toNat * 2 ^ 5

/-- `QLD`. -/
def enc_qld (n : Bool) (qb : Bool) (st : Bool) (a : SReg) : Nat :=
  n.toNat * 2 ^ 0 + qb.toNat * 2 ^ 1 + st.toNat * 2 ^ 2 + a.val * 2 ^ 25

/-- `QLD_BIND`. -/
def enc_qldBind (n : Bool) (qb : Bool) (st : Bool) (a : SReg) (t : Ix8) : Nat :=
  n.toNat * 2 ^ 0 + qb.toNat * 2 ^ 1 + st.toNat * 2 ^ 2 + a.val * 2 ^ 25 + t.val * 2 ^ 38 + 1 * 2 ^ 3

/-- `QST`. -/
def enc_qst (n : Bool) (qb : Bool) (st : Bool) (a : SReg) : Nat :=
  n.toNat * 2 ^ 0 + qb.toNat * 2 ^ 1 + st.toNat * 2 ^ 2 + a.val * 2 ^ 25

/-- `ESET_RNG`. -/
def enc_esetRng (a : SReg) : Nat :=
  a.val * 2 ^ 25

/-- `ESET_Q`. -/
def enc_esetQ (a : SReg) : Nat :=
  a.val * 2 ^ 25 + 1 * 2 ^ 0

/-- `ETAB`. -/
def enc_etab (a : SReg) : Nat :=
  a.val * 2 ^ 25

/-- `LSET`. -/
def enc_lset (n : Ix8) (a : SReg) : Nat :=
  n.val * 2 ^ 0 + a.val * 2 ^ 25

/-- `LCOORD`. -/
def enc_lcoord (b : SReg) (n : Ix8) (q : Ix8) : Nat :=
  b.val * 2 ^ 19 + n.val * 2 ^ 0 + q.val * 2 ^ 3

/-- `LNBR`. -/
def enc_lnbr (b : SReg) (n : Ix8) (ax : Fin 4) (dir : Bool) : Nat :=
  b.val * 2 ^ 19 + n.val * 2 ^ 0 + ax.val * 2 ^ 3 + dir.toNat * 2 ^ 5

/-- `HSEND`. -/
def enc_hsend (n : Ix8) (ax : Fin 4) (dir : Bool) (k : Option KReg) : Nat :=
  n.val * 2 ^ 0 + ax.val * 2 ^ 3 + dir.toNat * 2 ^ 5 + ffO k 31 6

/-- `HRECV`. -/
def enc_hrecv (n : Ix8) (k : KReg) : Nat :=
  n.val * 2 ^ 0 + k.val * 2 ^ 31

/-- `HRECV_REL`. -/
def enc_hrecvRel (n : Ix8) : Nat :=
  n.val * 2 ^ 0 + 1 * 2 ^ 3

/-- `RESHARD`. -/
def enc_reshard (d : Ix8) (n : Ix8) (k : Option KReg) : Nat :=
  d.val * 2 ^ 0 + n.val * 2 ^ 3 + ffO k 31 6

/-- `CRED`. -/
def enc_cred (a : SReg) (b : SReg) (k : Option KReg) : Nat :=
  a.val * 2 ^ 25 + b.val * 2 ^ 19 + ffO k 31 0

/-- `CRED_CH`. -/
def enc_credCh (a : SReg) (b : SReg) (c : Fin 64) (k : Option KReg) : Nat :=
  a.val * 2 ^ 25 + b.val * 2 ^ 19 + c.val * 2 ^ 2 + ffO k 31 0 + 1 * 2 ^ 1

/-- `CHSET`. -/
def enc_chset (c : Fin 64) (a : SReg) : Nat :=
  c.val * 2 ^ 0 + a.val * 2 ^ 25

/-- `CHSET_REL`. -/
def enc_chsetRel (c : Fin 64) : Nat :=
  c.val * 2 ^ 0 + 1 * 2 ^ 6

/-- `CHSEND`. -/
def enc_chsend (c : Fin 64) (v : VReg) : Nat :=
  c.val * 2 ^ 0 + v.val * 2 ^ 9

/-- `CHRECV`. -/
def enc_chrecv (v : VReg) (c : Fin 64) : Nat :=
  v.val * 2 ^ 9 + c.val * 2 ^ 0

/-- `TID`. -/
def enc_tid (d : SReg) : Nat :=
  d.val * 2 ^ 38

/-- `TCOUNT`. -/
def enc_tcount (d : SReg) : Nat :=
  d.val * 2 ^ 38

/-- `JOIN`. -/
def enc_join (d : SReg) (a : SReg) (b : SReg) : Nat :=
  d.val * 2 ^ 38 + a.val * 2 ^ 32 + b.val * 2 ^ 26

/-- `LEAVE`. -/
def enc_leave (a : SReg) : Nat :=
  a.val * 2 ^ 32

/-- `GRANK`. -/
def enc_grank (d : SReg) (a : SReg) : Nat :=
  d.val * 2 ^ 38 + a.val * 2 ^ 32

/-- `GSIZE`. -/
def enc_gsize (d : SReg) (a : SReg) : Nat :=
  d.val * 2 ^ 38 + a.val * 2 ^ 32

/-- `GSIZE_J`. -/
def enc_gsizeJ (d : SReg) (a : SReg) : Nat :=
  d.val * 2 ^ 38 + a.val * 2 ^ 32 + 1 * 2 ^ 0

/-- `LAUNCH`. -/
def enc_launch (d : SReg) (a : SReg) (b : SReg) : Nat :=
  d.val * 2 ^ 38 + a.val * 2 ^ 32 + b.val * 2 ^ 26

/-- `PRIO`. -/
def enc_prio (d : SReg) (a : SReg) (n : PReg) (r : Bool) : Nat :=
  d.val * 2 ^ 38 + a.val * 2 ^ 32 + n.val * 2 ^ 0 + r.toNat * 2 ^ 4

/-- `PRIO_ALL`. -/
def enc_prioAll (d : SReg) (a : SReg) (n : PReg) (r : Bool) : Nat :=
  d.val * 2 ^ 38 + a.val * 2 ^ 32 + n.val * 2 ^ 0 + r.toNat * 2 ^ 4 + 1 * 2 ^ 5

/-- `KSET`. -/
def enc_kset (k : KReg) (a : SReg) : Nat :=
  k.val * 2 ^ 40 + a.val * 2 ^ 28

/-- `KSET_CLR`. -/
def enc_ksetClr (k : KReg) : Nat :=
  k.val * 2 ^ 40 + 1 * 2 ^ 0

/-- `KMODE_ON`. -/
def enc_kmodeOn (k : KReg) : Nat :=
  k.val * 2 ^ 40

/-- `KMODE_OFF`. -/
def enc_kmodeOff (k : KReg) : Nat :=
  k.val * 2 ^ 40 + 1 * 2 ^ 0

/-- `KADD`. -/
def enc_kadd (k : KReg) (a : SReg) (i : BitVec 28) : Nat :=
  k.val * 2 ^ 40 + a.val * 2 ^ 28 + i.toNat * 2 ^ 0

/-- `KADDR`. -/
def enc_kaddr (k : KReg) (d : SReg) (a : SReg) (i : BitVec 16) : Nat :=
  k.val * 2 ^ 40 + d.val * 2 ^ 34 + a.val * 2 ^ 28 + i.toNat * 2 ^ 0

/-- `KWAIT`. -/
def enc_kwait (k : KReg) (a : SReg) (i : BitVec 16) : Nat :=
  k.val * 2 ^ 40 + a.val * 2 ^ 28 + i.toNat * 2 ^ 0

/-- `KREAD`. -/
def enc_kread (k : KReg) (d : SReg) : Nat :=
  k.val * 2 ^ 40 + d.val * 2 ^ 34

/-- `BAR`. -/
def enc_bar (a : SReg) : Nat :=
  a.val * 2 ^ 28

/-- `BAR_A`. -/
def enc_barA (d : SReg) (a : SReg) : Nat :=
  d.val * 2 ^ 34 + a.val * 2 ^ 28 + 1 * 2 ^ 0

/-- `BAR_W`. -/
def enc_barW (a : SReg) (b : SReg) : Nat :=
  a.val * 2 ^ 28 + b.val * 2 ^ 22 + 2 * 2 ^ 0

/-- `WFOWN`. -/
def enc_wfown (k : KReg) (d : SReg) : Nat :=
  k.val * 2 ^ 40 + d.val * 2 ^ 34

/-- `WFOWN_T`. -/
def enc_wfownT (k : KReg) (d : SReg) (a : SReg) : Nat :=
  k.val * 2 ^ 40 + d.val * 2 ^ 34 + a.val * 2 ^ 28 + 1 * 2 ^ 0

/-- `WFOWN_G`. -/
def enc_wfownG (k : KReg) (d : SReg) (a : SReg) : Nat :=
  k.val * 2 ^ 40 + d.val * 2 ^ 34 + a.val * 2 ^ 28 + 2 * 2 ^ 0

/-- `WFOWN_E`. -/
def enc_wfownE (k : KReg) (d : SReg) (a : SReg) : Nat :=
  k.val * 2 ^ 40 + d.val * 2 ^ 34 + a.val * 2 ^ 28 + 3 * 2 ^ 0

/-- `WFOWN_R`. -/
def enc_wfownR (k : KReg) (d : SReg) (a : SReg) : Nat :=
  k.val * 2 ^ 40 + d.val * 2 ^ 34 + a.val * 2 ^ 28 + 4 * 2 ^ 0

/-- `WFDROP`. -/
def enc_wfdrop (k : KReg) : Nat :=
  k.val * 2 ^ 40

/-- `WFDROP_ALL`. -/
def enc_wfdropAll (k : KReg) : Nat :=
  k.val * 2 ^ 40 + 1 * 2 ^ 0

/-- `WFQ_W`. -/
def enc_wfqW (k : KReg) (d : SReg) : Nat :=
  k.val * 2 ^ 40 + d.val * 2 ^ 34

/-- `WFQ_O`. -/
def enc_wfqO (k : KReg) (d : SReg) : Nat :=
  k.val * 2 ^ 40 + d.val * 2 ^ 34 + 1 * 2 ^ 0

/-- `WFQ_F`. -/
def enc_wfqF (d : SReg) : Nat :=
  d.val * 2 ^ 34 + 2 * 2 ^ 0

/-- `KADDW`. -/
def enc_kaddw (a : SReg) (i : BitVec 28) : Nat :=
  a.val * 2 ^ 28 + i.toNat * 2 ^ 0

/-- `TRAP`. -/
def enc_trap (i : BitVec 26) : Nat :=
  i.toNat * 2 ^ 0

/-- `TLBI`. -/
def enc_tlbi (a : SReg) : Nat :=
  a.val * 2 ^ 32

/-- `CTXSV`. -/
def enc_ctxsv (a : SReg) : Nat :=
  a.val * 2 ^ 25

/-- `CTXLD`. -/
def enc_ctxld (a : SReg) (b : SReg) : Nat :=
  a.val * 2 ^ 25 + b.val * 2 ^ 19

/-- `DLOAD`. -/
def enc_dload (a : SReg) (b : SReg) : Nat :=
  a.val * 2 ^ 25 + b.val * 2 ^ 19

/-- Opcode and operand bits of a slot form (R53, R40); the steps of the hardware have no encoding. -/
def encodeParts : Instr → Option (Nat × Nat)
  | .nop => some (0x000, 0)
  | .add d a b => some (0x001, enc_add d a b)
  | .sub d a b => some (0x002, enc_sub d a b)
  | .addi d a i => some (0x003, enc_addi d a i)
  | .mul d a b => some (0x004, enc_mul d a b)
  | .mulh d a b => some (0x005, enc_mulh d a b)
  | .mulhl d a b => some (0x006, enc_mulhl d a b)
  | .divq d a b u => some (0x007, enc_divq d a b u)
  | .remq d a b u => some (0x008, enc_remq d a b u)
  | .and d a b => some (0x009, enc_and d a b)
  | .or d a b => some (0x00A, enc_or d a b)
  | .xor d a b => some (0x00B, enc_xor d a b)
  | .andn d a b => some (0x00C, enc_andn d a b)
  | .andi d a i => some (0x00D, enc_andi d a i)
  | .ori d a i => some (0x00E, enc_ori d a i)
  | .xori d a i => some (0x00F, enc_xori d a i)
  | .shl d a b => some (0x010, enc_shl d a b)
  | .shr d a b => some (0x011, enc_shr d a b)
  | .sra d a b => some (0x012, enc_sra d a b)
  | .shli d a i => some (0x013, enc_shli d a i)
  | .shri d a i => some (0x014, enc_shri d a i)
  | .srai d a i => some (0x015, enc_srai d a i)
  | .rotl d a b => some (0x016, enc_rotl d a b)
  | .min d a b => some (0x017, enc_min d a b)
  | .max d a b => some (0x018, enc_max d a b)
  | .minl d a b => some (0x019, enc_minl d a b)
  | .maxl d a b => some (0x01A, enc_maxl d a b)
  | .clz d a => some (0x01B, enc_clz d a)
  | .ctz d a => some (0x01C, enc_ctz d a)
  | .popc d a => some (0x01D, enc_popc d a)
  | .bswap d a => some (0x01E, enc_bswap d a)
  | .sext d a i => some (0x01F, enc_sext d a i)
  | .zext d a i => some (0x020, enc_zext d a i)
  | .li d v sh => some (0x021, enc_li d v sh)
  | .lih d v sh => some (0x022, enc_lih d v sh)
  | .mov d a => some (0x023, enc_mov d a)
  | .sel d a b q inv => some (0x024, enc_sel d a b q inv)
  | .addp d a b n => some (0x025, enc_addp d a b n)
  | .cmp c q a b => some (0x026, enc_cmp c q a b)
  | .cmpi c q a i => some (0x027, enc_cmpi c q a i)
  | .pand d a b => some (0x060, enc_pand d a b)
  | .por d a b => some (0x061, enc_por d a b)
  | .pxor d a b => some (0x062, enc_pxor d a b)
  | .pnot d a => some (0x063, enc_pnot d a)
  | .pmov d a => some (0x064, enc_pmov d a)
  | .pset d a n => some (0x065, enc_pset d a n)
  | .psetAll a => some (0x065, enc_psetAll a)
  | .pget d => some (0x066, enc_pget d)
  | .br off => some (0x067, enc_br off)
  | .jmp a => some (0x068, enc_jmp a)
  | .call off => some (0x069, enc_call off)
  | .callr a => some (0x06A, enc_callr a)
  | .ret => some (0x06B, 0)
  | .loop body cnt => some (0x06C, enc_loop body cnt)
  | .loopReg body a => some (0x06C, enc_loopReg body a)
  | .lbrk => some (0x06D, 0)
  | .lidx d j => some (0x06E, enc_lidx d j)
  | .lidxN d j => some (0x06E, enc_lidxN d j)
  | .csrr d n => some (0x06F, enc_csrr d n)
  | .csrw n a => some (0x070, enc_csrw n a)
  | .csrwSet n a => some (0x070, enc_csrwSet n a)
  | .csrwClr n a => some (0x070, enc_csrwClr n a)
  | .vadd d a b m z w rm => some (0x080, enc_vadd d a b m z w rm)
  | .vsub d a b m z w rm => some (0x081, enc_vsub d a b m z w rm)
  | .vmul d a b m z w rm => some (0x082, enc_vmul d a b m z w rm)
  | .vfma d a b m z rm => some (0x083, enc_vfma d a b m z rm)
  | .vfms d a b m z rm => some (0x084, enc_vfms d a b m z rm)
  | .vneg d a m z w => some (0x085, enc_vneg d a m z w)
  | .vabs d a m z w => some (0x086, enc_vabs d a m z w)
  | .vmin d a b m z => some (0x087, enc_vmin d a b m z)
  | .vmax d a b m z => some (0x088, enc_vmax d a b m z)
  | .vand d a b m z => some (0x089, enc_vand d a b m z)
  | .vor d a b m z => some (0x08A, enc_vor d a b m z)
  | .vxor d a b m z => some (0x08B, enc_vxor d a b m z)
  | .vshl d a b m z => some (0x08C, enc_vshl d a b m z)
  | .vshr d a b m z => some (0x08D, enc_vshr d a b m z)
  | .vsra d a b m z => some (0x08E, enc_vsra d a b m z)
  | .vclamp d a b m z => some (0x08F, enc_vclamp d a b m z)
  | .vsplat t d b m z => some (0x090, enc_vsplat t d b m z)
  | .vmovs b a j => some (0x091, enc_vmovs b a j)
  | .vins d a b j => some (0x092, enc_vins d a b j)
  | .vmov d a m z => some (0x093, enc_vmov d a m z)
  | .vsel d a b m => some (0x094, enc_vsel d a b m)
  | .vcmp c d a b m => some (0x095, enc_vcmp c d a b m)
  | .vcvt d a m t h w rm => some (0x096, enc_vcvt d a m t h w rm)
  | .vmaskN d a => some (0x0A0, enc_vmaskN d a)
  | .vmaskNz d a => some (0x0A0, enc_vmaskNz d a)
  | .vmaskQ d a q => some (0x0A0, enc_vmaskQ d a q)
  | .mand d a b => some (0x0A1, enc_mand d a b)
  | .mor d a b => some (0x0A2, enc_mor d a b)
  | .mxor d a b => some (0x0A3, enc_mxor d a b)
  | .mnot d a => some (0x0A4, enc_mnot d a)
  | .mcnt d a => some (0x0A5, enc_mcnt d a)
  | .mfirst d a => some (0x0A6, enc_mfirst d a)
  | .vrcp d a m z rm => some (0x0C0, enc_vrcp d a m z rm)
  | .vrsqrt d a m z rm => some (0x0C1, enc_vrsqrt d a m z rm)
  | .vsqrt d a m z rm => some (0x0C2, enc_vsqrt d a m z rm)
  | .vexp2 d a m z rm => some (0x0C3, enc_vexp2 d a m z rm)
  | .vlog2 d a m z rm => some (0x0C4, enc_vlog2 d a m z rm)
  | .vgetl d a m b g z => some (0x0C8, enc_vgetl d a m b g z)
  | .vputl d a b m g => some (0x0C9, enc_vputl d a b m g)
  | .vmovx d a b => some (0x0CA, enc_vmovx d a b)
  | .vstx d a b => some (0x0CB, enc_vstx d a b)
  | .vperm d a b m z => some (0x0D0, enc_vperm d a b m z)
  | .vrot d a b n m z => some (0x0D1, enc_vrot d a b n m z)
  | .vshuf d a b m pat g z => some (0x0D2, enc_vshuf d a b m pat g z)
  | .vbcast d a b n m z => some (0x0D3, enc_vbcast d a b n m z)
  | .vcomp d a m => some (0x0D4, enc_vcomp d a m)
  | .vexpd d a m z => some (0x0D5, enc_vexpd d a m z)
  | .vredadd d a m rm => some (0x0D8, enc_vredadd d a m rm)
  | .vredmax d a m => some (0x0D9, enc_vredmax d a m)
  | .vredmin d a m => some (0x0DA, enc_vredmin d a m)
  | .vargmax d a m => some (0x0DB, enc_vargmax d a m)
  | .vscan d a m op rm => some (0x0DC, enc_vscan d a m op rm)
  | .vpack d a b m z w rm => some (0x0E0, enc_vpack d a b m z w rm)
  | .vunpk d a m h z => some (0x0E1, enc_vunpk d a m h z)
  | .vblk d a sv m n x rm => some (0x0E2, enc_vblk d a sv m n x rm)
  | .vunblk d a m n fp32 z rm => some (0x0E3, enc_vunblk d a m n fp32 z rm)
  | .vwgin d a m z => some (0x0E8, enc_vwgin d a m z)
  | .vwgout d a m z => some (0x0E9, enc_vwgout d a m z)
  | .vwgfil d a m z => some (0x0EA, enc_vwgfil d a m z)
  | .lds d a i sp sz u => some (0x140, enc_lds d a i sp sz u)
  | .sts d a i sp sz => some (0x141, enc_sts d a i sp sz)
  | .ldv d a i sp t => some (0x142, enc_ldv d a i sp t)
  | .stv d a i sp t => some (0x143, enc_stv d a i sp t)
  | .ldvs d a b m sp t z => some (0x144, enc_ldvs d a b m sp t z)
  | .stvs d a b m sp t => some (0x145, enc_stvs d a b m sp t)
  | .ldvx d a x m sp t sc u z => some (0x146, enc_ldvx d a x m sp t sc u z)
  | .stvx d a x m sp t sc u => some (0x147, enc_stvx d a x m sp t sc u)
  | .pfh a i n => some (0x148, enc_pfh a i n)
  | .stc d a n t => some (0x150, enc_stc d a n t)
  | .ldc d a i sp sz u => some (0x151, enc_ldc d a i sp sz u)
  | .ldvc d a i sp t => some (0x152, enc_ldvc d a i sp t)
  | .rcq d a i sp => some (0x153, enc_rcq d a i sp)
  | .aadd d a b sp q => some (0x154, enc_aadd d a b sp q)
  | .amin d a b sp q u => some (0x155, enc_amin d a b sp q u)
  | .amax d a b sp q u => some (0x156, enc_amax d a b sp q u)
  | .aand d a b sp q => some (0x157, enc_aand d a b sp q)
  | .aor d a b sp q => some (0x158, enc_aor d a b sp q)
  | .axor d a b sp q => some (0x159, enc_axor d a b sp q)
  | .aswp d a b sp q => some (0x15A, enc_aswp d a b sp q)
  | .acas d a b c sp q => some (0x15B, enc_acas d a b c sp q)
  | .brel a b => some (0x15C, enc_brel a b)
  | .brelP a b => some (0x15C, enc_brelP a b)
  | .bwait a b => some (0x15D, enc_bwait a b)
  | .pdef n a => some (0x15E, enc_pdef n a)
  | .pdefRel n => some (0x15E, enc_pdefRel n)
  | .wset a b => some (0x160, enc_wset a b)
  | .wsetInv a => some (0x160, enc_wsetInv a)
  | .ldw d h a sz => some (0x161, enc_ldw d h a sz)
  | .ldwVec d h a t => some (0x161, enc_ldwVec d h a t)
  | .stw d h a sz => some (0x162, enc_stw d h a sz)
  | .stwVec d h a t => some (0x162, enc_stwVec d h a t)
  | .fencex => some (0x163, 0)
  | .tcfg t a => some (0x180, enc_tcfg t a)
  | .tcfgqVer b t => some (0x181, enc_tcfgqVer b t)
  | .tcfgqSt b t => some (0x181, enc_tcfgqSt b t)
  | .tcfgqTag b => some (0x181, enc_tcfgqTag b)
  | .tcfgqSep b => some (0x181, enc_tcfgqSep b)
  | .tzero t => some (0x182, enc_tzero t)
  | .mset mp a => some (0x183, enc_mset mp a)
  | .mord mp a b => some (0x184, enc_mord mp a b)
  | .tld t mp a b c k => some (0x185, enc_tld t mp a b c k)
  | .tst t mp a b n k => some (0x186, enc_tst t mp a b n k)
  | .tldv t v a n => some (0x187, enc_tldv t v a n)
  | .tstv t v a n => some (0x188, enc_tstv t v a n)
  | .tmc mp a b m u c k => some (0x189, enc_tmc mp a b m u c k)
  | .trecv t k n => some (0x18A, enc_trecv t k n)
  | .trecvRel n => some (0x18A, enc_trecvRel n)
  | .tcons t n => some (0x18B, enc_tcons t n)
  | .dtab n a => some (0x18C, enc_dtab n a)
  | .tldz t a b g k => some (0x18D, enc_tldz t a b g k)
  | .wait l s c t => some (0x18E, enc_wait l s c t)
  | .mma n t u a z w ca cb ua ub => some (0x190, enc_mma n t u a z w ca cb ua ub)
  | .mmzI32 n => some (0x191, enc_mmzI32 n)
  | .mmzFp32 n => some (0x191, enc_mmzFp32 n)
  | .mmdr t n a bv x act q z => some (0x192, enc_mmdr t n a bv x act q z)
  | .qld n qb st a => some (0x193, enc_qld n qb st a)
  | .qldBind n qb st a t => some (0x193, enc_qldBind n qb st a t)
  | .qst n qb st a => some (0x194, enc_qst n qb st a)
  | .esetRng a => some (0x195, enc_esetRng a)
  | .esetQ a => some (0x195, enc_esetQ a)
  | .etab a => some (0x196, enc_etab a)
  | .lset n a => some (0x1A0, enc_lset n a)
  | .lcoord b n q => some (0x1A1, enc_lcoord b n q)
  | .lnbr b n ax dir => some (0x1A2, enc_lnbr b n ax dir)
  | .hsend n ax dir k => some (0x1A3, enc_hsend n ax dir k)
  | .hrecv n k => some (0x1A4, enc_hrecv n k)
  | .hrecvRel n => some (0x1A4, enc_hrecvRel n)
  | .reshard d n k => some (0x1A5, enc_reshard d n k)
  | .cred a b k => some (0x1A6, enc_cred a b k)
  | .credCh a b c k => some (0x1A6, enc_credCh a b c k)
  | .chset c a => some (0x1A7, enc_chset c a)
  | .chsetRel c => some (0x1A7, enc_chsetRel c)
  | .chsend c v => some (0x1A8, enc_chsend c v)
  | .chrecv v c => some (0x1A9, enc_chrecv v c)
  | .tid d => some (0x1C0, enc_tid d)
  | .tcount d => some (0x1C1, enc_tcount d)
  | .join d a b => some (0x1C2, enc_join d a b)
  | .leave a => some (0x1C3, enc_leave a)
  | .grank d a => some (0x1C4, enc_grank d a)
  | .gsize d a => some (0x1C5, enc_gsize d a)
  | .gsizeJ d a => some (0x1C5, enc_gsizeJ d a)
  | .exit => some (0x1C6, 0)
  | .yield => some (0x1C7, 0)
  | .trig => some (0x1C8, 0)
  | .launch d a b => some (0x1C9, enc_launch d a b)
  | .prio d a n r => some (0x1CA, enc_prio d a n r)
  | .prioAll d a n r => some (0x1CA, enc_prioAll d a n r)
  | .kset k a => some (0x1D0, enc_kset k a)
  | .ksetClr k => some (0x1D0, enc_ksetClr k)
  | .kmodeOn k => some (0x1D1, enc_kmodeOn k)
  | .kmodeOff k => some (0x1D1, enc_kmodeOff k)
  | .kadd k a i => some (0x1D2, enc_kadd k a i)
  | .kaddr k d a i => some (0x1D3, enc_kaddr k d a i)
  | .kwait k a i => some (0x1D4, enc_kwait k a i)
  | .kread k d => some (0x1D5, enc_kread k d)
  | .bar a => some (0x1D6, enc_bar a)
  | .barA d a => some (0x1D6, enc_barA d a)
  | .barW a b => some (0x1D6, enc_barW a b)
  | .wfown k d => some (0x1D7, enc_wfown k d)
  | .wfownT k d a => some (0x1D7, enc_wfownT k d a)
  | .wfownG k d a => some (0x1D7, enc_wfownG k d a)
  | .wfownE k d a => some (0x1D7, enc_wfownE k d a)
  | .wfownR k d a => some (0x1D7, enc_wfownR k d a)
  | .wfdrop k => some (0x1D8, enc_wfdrop k)
  | .wfdropAll k => some (0x1D8, enc_wfdropAll k)
  | .wfqW k d => some (0x1D9, enc_wfqW k d)
  | .wfqO k d => some (0x1D9, enc_wfqO k d)
  | .wfqF d => some (0x1D9, enc_wfqF d)
  | .kaddw a i => some (0x1DA, enc_kaddw a i)
  | .trap i => some (0x1E0, enc_trap i)
  | .xret => some (0x1E1, 0)
  | .tlbi a => some (0x1E2, enc_tlbi a)
  | .tlbiAll => some (0x1E2, 1 * 2 ^ 0)
  | .ctxsv a => some (0x1F0, enc_ctxsv a)
  | .ctxld a b => some (0x1F1, enc_ctxld a b)
  | .dload a b => some (0x1F2, enc_dload a b)
  | _ => none

/-- The slot word of an instruction: unguarded, no stop bit, no arrive suffix (R36, R37). -/
def encode (i : Instr) : Option Nat :=
  (encodeParts i).map fun p => p.1 * 2 ^ 49 + p.2

/-- A slot word with a header put on it (R36). -/
def withHdr (h : SlotHdr) (w : Nat) : Nat :=
  w + h.stop.toNat * 2 ^ 63 + h.gi.toNat * 2 ^ 62 + h.gp.val * 2 ^ 58 + h.ae.toNat * 2 ^ 48 + h.ak.val * 2 ^ 44

end Sys2Proof
end

