-- ==== Sys2Proof/Config.lean ====
section
/-! DEFINITION. What an implementation fixes and the values the manual leaves open. Each is an opaque constant without a
body: nothing can be proved of its value (assumption log 5). -/

namespace Sys2Proof.Config

/-- R391, R329: XADDR of a fault whose rule names none: a closed creamery function (0 to 3), a face piece at a secure port (4),
a dictionary without room (5). -/
opaque openAddr : Nat → Word
/-- R396: CODE of an error record whose rule states none, by class and event. -/
opaque errCode : Nat → Nat → BitVec 16
/-- R396: DETAIL word of an error record, by source, sequence number, class, event and word, from what the record tells; the
spec states the words of class 0x02 only. -/
opaque errWord : Nat → BitVec 32 → Nat → Nat → Nat → List Word → Word
/-- R14: the undefined data of a vector register at a bind; drawn per bind and register. -/
opaque vecData : Nat → Nat → BitVec 8192
/-- R14: the undefined byte `i` of tile data (below 65,536) and side store at a bind. -/
opaque tileByte : Nat → Nat → BitVec 8
/-- R121: the undefined granules of a register tagged NONE that `vputl` writes. -/
opaque granules : Nat → BitVec 8192
/-- R190: the old value that a `kaddr` returns whose add was discarded. -/
opaque lostOld : Nat → Word
/-- R202: the key in the owner record of a group handle that names no live group of the caller's launch. -/
opaque staleKey : Word → Word
/-- R287, R291: the stored correction entry of a row whose only K block is NaN. -/
opaque nanCorrection : Nat → BitVec 48
/-- R25, R398: aclk cycles that pass with a step, beyond the one the model counts. -/
opaque clkGap : Nat → Nat
/-- R278: separator stalls of one decode. -/
opaque sepStalls : Nat → Nat
/-- R20: the cores whose second vector unit is fused off, by die and core. -/
opaque narrow : Nat → Nat → Bool
/-- R326, R329: the VA of a thread's save area, which firmware chooses. -/
opaque saveArea : Nat → Nat → BitVec 64
/-- R326: the bytes of an image whose layout is the device's own, by place; drawn per save. -/
opaque imageByte : Nat → Nat → BitVec 8
/-- R327, R392: the image key drawn at the n-th module reset. -/
opaque imageKey : Nat → BitVec 256
/-- R392: the firmware image (dispatch, creamery, optics; first or second flash copy): its bytes. -/
opaque flashImage : Nat → Nat → List Byte
/-- R392: whether an SLH-DSA-SHA2-128s signature (second) of bytes (first) verifies under the fused vendor key. -/
opaque vendorSigned : List Byte → List Byte → Bool
/-- R393: the fused minimum security version. -/
opaque minSvn : Nat
/-- R395: the SLH-DSA-SHA2-128s signature of a report under the device identity key. -/
opaque sign : List Byte → List Byte
/-- R394: the ALMH fuse. -/
opaque almh : Bool
/-- R399: die temperatures and module power as the sensors give them, by reading and register. -/
opaque sensor : Nat → Nat → Byte

end Sys2Proof.Config
end

