-- ==== Sys2Proof/Machine/State.lean ====
section
/-! DEFINITION. The state of one CLN-8H module as plain data: the context whose turn it is, the other bound contexts, the
saved threads, the dies, the creamery, the fabric and the management side. Every field cites the rule that names it. -/

namespace Sys2Proof.Machine

/-- A sparse map: keys strictly rising; a key that is not listed holds the map's default. -/
abbrev SMap (α : Type) := List (Nat × α)

/-- Flag bits in the places of `VFLAGS` (R25): NX 0, UF 1, OF 2, DZ 3, NV 4, SAT 5. -/
abbrev Flags := BitVec 6

/-- A vector register: 1,024 bytes and its tag (R14, R17). -/
structure VData where
  bits : BitVec 8192
  tag  : Tag
deriving DecidableEq, Repr

/-- A tile register (R14, R253, R256): data and side store by byte, the configuration at its place
in the tile order, the issued configuration, the version and the reader count. -/
structure Tile where
  data : List Host.Cell
  side : List Host.Cell
  cfg  : Word
  icfg : Word
  ver  : BitVec 32
  cnt  : Nat
  /-- what a byte of data not listed reads as: 0, or with a salt the undefined byte of a bind (R14) -/
  salt : Option Nat
  /-- the same for the side store -/
  sideSalt : Option Nat
deriving DecidableEq, Repr

/-- An accumulator set (R279): element 128 i + j, ATAG and the issued accumulator tag. -/
structure AccSet where
  elems : SMap (BitVec 48)
  atag  : Tag
  itag  : Tag
deriving DecidableEq, Repr

/-- A correction register: its descriptor word and its entries (R280). -/
structure Corr where
  desc    : Word
  entries : SMap (BitVec 48)
deriving DecidableEq, Repr

/-- The churn state of a context (R14, R279 to R281): sets, corrections `qa0 qa1 qb0 qb1`, drain parameters, table. -/
structure Churn where
  acc  : Vector AccSet 2
  qa   : Vector Corr 2
  qb   : Vector Corr 2
  zp   : BitVec 32
  qs   : BitVec 32
  hi   : BitVec 32
  lo   : BitVec 32
  etab : List (BitVec 32 × BitVec 32)
deriving DecidableEq, Repr

/-- A tensor-map register and its raster table (R263, R265). -/
structure MapReg where
  bits   : BitVec 512
  raster : List (BitVec 32)
deriving DecidableEq, Repr

/-- A place in the code: the PC of a bundle and a slot of it (R31). -/
structure CodePos where
  pc   : Word
  slot : Nat
deriving DecidableEq, Repr

/-- A fetched slot: where it stands and its 64 bits (R36). -/
structure SlotRef where
  pc   : Word
  idx  : Nat
  word : Nat
deriving DecidableEq, Repr

/-- A hardware loop level (R97): index, count, the first body group, and the last slot of the last body group. -/
structure LoopLevel where
  idx   : BitVec 32
  cnt   : BitVec 32
  first : CodePos
  last  : CodePos
deriving DecidableEq, Repr

/-- A register write that lands at a group boundary (R48) or arrives through a pending bit (R49). -/
inductive Upd where
  /-- nothing (a discarded write, or an operation without a register result) -/
  | none
  | s (r : SReg) (v : Word)
  /-- `OUTS` as it stands once the group of its `csrr` has issued (R26) -/
  | outs (r : SReg)
  | p (r : PReg) (v : Bool)
  | m (r : MReg) (v : BitVec 1024)
  /-- the bits of `mask` take `data`; with a tag the register takes it (R108) -/
  | v (r : VReg) (data mask : BitVec 8192) (tag : Option Tag)
  /-- as `v` under E2M1X, but the other bytes become default blocks unless the register is tagged E2M1X (R129) -/
  | blk (r : VReg) (data mask : BitVec 8192)
  | csr (n : Nat) (v : Word)
  | k (r : KReg) (v : Word)
  /-- the granules of `data` that each register's mask names; one tagged NONE takes a tag, and its other bits a free value (R121) -/
  | puts (data : BitVec 8192) (regs : List (VReg × BitVec 8192 × Option (Tag × BitVec 8192)))
  /-- `p1` to `p15` from the bits of a word (R92) -/
  | ps (x : BitVec 16)
  /-- a new level 0 of the loop stack (R97) -/
  | loop (l : LoopLevel)
  /-- the register is awaited but will keep its value (R146) -/
  | keepS (r : SReg)
deriving DecidableEq, Repr

/-- A fixed-latency result in flight (R48): it lands before group `due`; `fault` is a boundary fault recorded then (R69, R146);
`id` is its place among the operations of the module. -/
structure Flight where
  id     : Nat
  due    : Nat
  upd    : Upd
  flags  : Flags
  arrive : Option Nat
  fault  : Option FaultInfo
deriving DecidableEq, Repr

/-- A taken transfer (R94): group `at` is the first group at `target`. -/
structure Redir where
  at_    : Nat
  target : CodePos
deriving DecidableEq, Repr

/-- Whose operation a pending result comes from: the context's own, the read of an item by the channel hardware (R358), or the
engine command with a tag, whose arrive add is made when the register lands (R39). -/
inductive PendFrom where
  | own | item | engine (tag : Nat)
deriving DecidableEq, Repr

/-- A variable-latency result outstanding (R15, R49). `ready` says that its value is known; `cls` that it counts in class
L; `addr` is the address of the memory access it comes from, if it comes from one (R146); `fault` is recorded when it lands. -/
structure Pend where
  id     : Nat
  upd    : Upd
  ready  : Bool
  cls    : Bool
  flags  : Flags
  arrive : Option Nat
  fault  : Option FaultInfo
  addr   : Option Word
  src    : PendFrom
deriving DecidableEq, Repr

/-- What an operation of class S still has to do: nothing that its issue left open (`plain`), the same as a memory store
(`mem`), the retirement of a `tlbi` of a page or of a world (R320). -/
inductive StoreKind where
  | plain | mem
  | tlbi (world : Bool) (page : Option Nat)
deriving DecidableEq, Repr

/-- An operation that no later group of its context may issue beside: a `tlbi` (R320). -/
def StoreKind.gates : StoreKind → Bool
  | .tlbi .. => true
  | _ => false

/-- A piece of an access: in the die stores or in HBM, first address, length, and its VA (or store address). -/
structure Seg where
  st   : Bool
  addr : Nat
  len  : Nat
  va   : Word
deriving DecidableEq, Repr

/-- What the slot in issue still has to do, one memory operation at a time (R243); its checks have passed (R139). -/
inductive SlotRest where
  /-- the lanes of an `ldvs` or `ldvx` still to read, with their addresses and pieces: destination, lane width, tag, bits
  written, latency if it is fixed, the address of the access, the data so far and the first uncorrectable lane -/
  | read (d : VReg) (w : Nat) (t : Tag) (mask : BitVec 8192) (fixed : Option Nat) (addr : Word) (data : BitVec 8192)
      (bad : Option Word) (lanes : List (Nat × Word × List Seg))
  /-- the lanes of an `stvs` or `stvx` still to write -/
  | write (lanes : List (List Seg × List Byte))
  /-- the add of a `kadd`, or of a `kaddr` with its destination (R190) -/
  | add (a n : Nat) (d : Option SReg)
  /-- the banks that a `brel` still has to release (R226) -/
  | release (pass : Bool) (banks : List Nat)
deriving DecidableEq, Repr

/-- An outstanding operation of class S (R142): `ready` once it may be performed or acknowledged; `grp` its group. -/
structure StoreOut where
  id     : Nat
  ready  : Bool
  arrive : Option Nat
  fault  : Option FaultInfo
  grp    : Nat
  kind   : StoreKind
deriving DecidableEq, Repr

/-- The operands of an engine command as read at issue (R257, R282, R342). A counter is its store address. -/
inductive CmdOp where
  | tcfg (t : Ix8) (v : Word)
  | tzero (t : Ix8)
  | tld (t : Ix8) (mp : MapReg) (org plc : Word) (c : Bool) (k : Option Nat)
  | tst (t : Ix8) (mp : MapReg) (org plc : Word) (n : Nat) (k : Option Nat)
  | tldv (t : Ix8) (v : VData) (row n : Nat)
  | tstv (v : VReg) (t : Ix8) (row n pend : Nat)
  | tmc (mp : MapReg) (org plc : Word) (mask : BitVec 64) (port : Nat) (c : Bool) (k : Option Nat)
  | tcons (t : Ix8) (n : Nat)
  | dtab (n : Nat) (addr : Word)
  | tldz (t : Ix8) (tag : Tag) (addr plc : Word) (k : Option Nat)
  | mma (n : Bool) (t u : Ix8) (org : Word) (z w ca cb ua ub : Bool) (g : Tag)
  | mmz (n fp : Bool)
  | mmdr (t : Ix8) (n : Bool) (org : Word) (bv : Option VData) (x : Option Ix8) (act q z : Bool) (g : Tag)
  | qld (n qb st : Bool) (addr : Word) (bind : Option Ix8)
  | qst (n qb st : Bool) (addr : Word)
  | eset (q : Bool) (v : Word)
  | etab (addr : Word)
  | hsend (lay : BitVec 512) (ax : Nat) (dir : Bool) (k : Option Nat)
  | reshard (d s : BitVec 512) (k : Option Nat)
  | cred (src dst n m r key : Nat) (ch : Option Nat) (j : Nat) (k : Option Nat)
  | chsend (ch : Nat) (item : List Byte)
  /-- in a receiver's list: the place in the tile order of an arrival whose reservation is granted (R274) -/
  | arrival (t : Ix8) (src tag : Nat)
  /-- the place in the tile order of a `tcfgq.ver` whose result `pend` waits (R262) -/
  | query (t : Ix8) (pend : Nat)
deriving DecidableEq, Repr

/-- A face or piece on its way to a die (R348, R350): bytes by store address of that die, and the module it goes to. -/
structure Piece where
  mod   : Option Nat
  die   : Nat
  key   : Nat
  cells : List Host.Cell
  /-- it is written, and the add it owes: the launch and the counter of the receive binding (R348) -/
  owes  : Option (Nat × Nat)
deriving DecidableEq, Repr

/-- A destination reserved by a multicast (R273, R274): the core, and the receiver, its tile and its counter as they were
bound when the reservation was granted. -/
structure Landing where
  core : Nat
  uid  : Nat
  tile : Ix8
  addr : Nat
deriving DecidableEq, Repr

/-- An engine command not yet complete (R257). -/
structure Cmd where
  tag      : Nat
  op       : CmdOp
  arrive   : Option Nat
  grp      : Nat
  begun    : Bool
  done     : Bool
  /-- its place in the issue order of all contexts (R257) -/
  seq      : Nat
  /-- 1 while remote elements are read, 2 when the read is whole -/
  stage    : Nat
  fault    : Option FaultInfo
  /-- the amount of the completion add -/
  amount   : Nat
  /-- the counter of the completion add -/
  kc       : Option Nat
  /-- cores whose branch buffers are held (R273) -/
  reserved : List Nat
  /-- their bindings as reserved -/
  landings : List Landing
  /-- destinations still to serve -/
  todo     : List Nat
  /-- the elements read, by place in the traversal and, of a map in window space, by remote read (R251, R273) -/
  elems    : List (Nat × Nat × List Byte)
  pieces   : List Piece
deriving DecidableEq, Repr

/-- The state of a context slot (R177). -/
inductive CtxStatus where
  | free | binding | running | saving | retiring | killing | fenced
deriving DecidableEq, Repr

/-- What a held group waits for (R194, R198, R200, R359). -/
inductive WaitOn where
  | counter (addr : Nat) (target : Nat)
  | barrier (die entry gen target handle : Nat)
deriving DecidableEq, Repr

/-- General registers of a context (R14). -/
structure Regs where
  s   : Vector Word 64
  p   : BitVec 16
  m   : Vector (BitVec 1024) 16
  v   : Vector VData 640
  t   : Vector Tile 8
  k   : Vector Word 16
  mp  : Vector MapReg 8
  lay : Vector (BitVec 512) 8
  pl  : Vector (BitVec 256) 8
  churn : Churn
  /-- separator code tables (R275); none is invalid -/
  sep : Vector (Option (List Nat)) 4
deriving DecidableEq, Repr

/-- Control registers of a context that are stored (R23 to R25); OUTS, WIDTH and the parts of XSTAT and WFTS that other
state decides are computed when read. -/
structure Ctl where
  wovf    : Bool
  slot    : BitVec 3
  handler : Bool
  xpc     : Word
  xcause  : Word
  xaddr   : Word
  xvec    : Word
  xrec    : Word
  xstk    : Word
  vflags  : Flags
  vmode   : BitVec 2
  dictb   : Word
deriving DecidableEq, Repr

/-- What a slot does at the boundary after its group (R154, R181). -/
inductive Late where
  | yield
  /-- a base priority for the thread, or for every thread of its launch -/
  | prio (all : Bool) (p : Nat)
deriving DecidableEq, Repr

/-- Sequencing state of a context: R28, R46, R47, R94, R95, R97, R307. -/
structure Seq where
  /-- where the next group starts -/
  next    : CodePos
  /-- where the group now issuing started -/
  start   : CodePos
  /-- slots of the group now issuing that have not issued -/
  queue   : List SlotRef
  /-- the slot in issue, and the counter its arrive suffix names -/
  at_     : CodePos
  arrive  : Option Nat
  /-- what the slot in issue still has to do (R243) -/
  rest    : Option SlotRest
  /-- the issued configurations of tiles as the group began, where a slot of it has changed them (R46, R256) -/
  cfgWas  : List (Nat × Word)
  /-- tiles whose issued TAG a fault or an arrival sets while a group is in issue, in their order: slots of the group go on reading
  the TAG it began with (R46, R256) -/
  tagLate : List (Nat × Tag)
  /-- the group was examined and nothing in it holds it (R194, R259) -/
  passed  : Bool
  /-- the last meaning sent issue elsewhere: a trap, a return, a held group -/
  diverted : Bool
  /-- the number of the group to issue next, or issuing -/
  group   : Nat
  flights : List Flight
  redirs  : List Redir
  /-- Snap and Redir while a handler runs: entries hold group counts relative to the resumed group -/
  snap    : List Flight
  sredir  : List Redir
  /-- the successor fixed by a `loop` of count 0 in the group (R94) -/
  skip    : Option CodePos
  loops   : List LoopLevel
  rstack  : List Word
  pends   : List Pend
  stores  : List StoreOut
  cmds    : List Cmd
  /-- engine commands issued since the first bind (R257) -/
  cmdCount : Nat
  /-- trap records written (R311) -/
  recCount : Nat
  /-- boundary faults recorded and not delivered, oldest first (R305) -/
  faults  : List FaultInfo
  /-- an `exit` of the group that acts at the boundary, with its arrive suffix, and one kept while a handler runs -/
  exiting : Option (Option Nat)
  sexiting : Option (Option Nat)
  /-- what slots of the group do at its boundary, in order, and what is kept while a handler runs -/
  late    : List Late
  slate   : List Late
  /-- an `xret` of the group that acts at the boundary -/
  returning : Bool
  /-- successor fixed by a `loop` of count 0, frozen with Snap -/
  sskip   : Option CodePos
  /-- arrive adds of retired slots not yet performed (R39) -/
  owed    : List Nat
  /-- the bind entry, 256 die + entry, that a held `ctxld` has written (R329) -/
  loading : Option Nat
deriving DecidableEq, Repr

/-- Waiting state of a context (R195, R200, R207). -/
structure Waiting where
  on      : Option WaitOn
  /-- WFT entry of the registered edge on the context's die -/
  entry   : Option Nat
  stamp   : Nat
  tokens  : List (Nat × Nat)
  overflow : Bool
  unregistered : Bool
  /-- the counter is to be read again whatever the tokens: a poll (R201), a restore (R196) -/
  again   : Bool
  /-- a deadlock found for the held wait, raised when its slot issues -/
  dead    : Option FaultInfo
  /-- barrier arrivals made by `bar` slots not yet issued: the slot, its handle, and the B that ends its phase (R198) -/
  phases  : List (CodePos × Word × Nat)
deriving DecidableEq, Repr

/-- A context: registers, control, sequencing, waiting, and what its bind fixed (R148, R176). -/
structure Ctx where
  /-- 256 die + bind-table entry -/
  cid     : Nat
  status  : CtxStatus
  die     : Nat
  core    : Nat
  hctx    : Nat
  fb      : Nat
  tb      : Nat
  lnch    : Nat
  tid     : Nat
  nthr    : Nat
  world   : Bool
  /-- footprint F, tile count T, churn flag C (R18) -/
  foot    : Nat
  tiles   : Nat
  churnOn : Bool
  bpri    : Nat
  /-- the effective priority of the last scheduling event, and whether inheritance made it (R175, R205) -/
  epri    : Nat
  inh     : Bool
  /-- what inheritance gives as last computed: it applies at the next scheduling event (R205) -/
  ipri    : Nat
  regs    : Regs
  ctl     : Ctl
  sq      : Seq
  wt      : Waiting
  triggered : Bool
  /-- the EXITD add of its `exit` is made (R156) -/
  exited  : Bool
  /-- `trig`s issued and not retired: arrive suffix, and the operation and command counts when it issued (R155) -/
  trigs   : List (Option Nat × Nat × Nat)
  /-- thread groups joined, oldest first: home die, entry, generation -/
  groups  : List (Nat × Nat × Nat)
  preReq  : Bool
  /-- R180: no group retired since the restore, and no iteration of the innermost loop completed -/
  fresh   : Bool
  freshIt : Bool
  /-- progress that makes a boundary a pre-emption point inside a loop (R321) -/
  stepped : Bool
  /-- a delay of the standing request has been counted (R180) -/
  delayed : Bool
  slice   : Nat
  /-- watchdog step and accrued time in µs, known when a limit is reached (R176, R182) -/
  wds     : Nat
  wdt     : Nat
  /-- order of the bind, for the context bound longest (R178) -/
  since   : Nat
  /-- saves of the thread (R327) -/
  saves   : Nat
  /-- flow sequence number per target module (R379), and the flow's number -/
  flows   : SMap (Nat × Nat)
deriving DecidableEq, Repr

/-- A saved thread (R322 to R328): the VA of its image, its save count, the number its image's free bytes are drawn with,
whether a wake has come, and what the image holds. -/
structure Saved where
  va     : Word
  count  : Nat
  salt   : Nat
  woken  : Bool
  ctx    : Ctx
deriving DecidableEq, Repr

/-- State of a store line (R228); an unlisted line is UNCOUNTED. -/
inductive LineSt where
  | uncounted | counted (n : Nat) | empty | counter
deriving DecidableEq, Repr

/-- State of an HBM line in its home slice (R232); an unlisted line is ABSENT. -/
inductive HomeSt where
  | absent | clean | dirty | counted (n : Nat) | dropped
deriving DecidableEq, Repr

/-- A member of a thread group (R157): launch thread number, rank, present, arrival bit (R197). -/
structure Member where
  tid     : Nat
  rank    : Nat
  present : Bool
  bit     : Bool
deriving DecidableEq, Repr

/-- A live thread group (R157, R197) in entry `entry` of its home table. -/
structure Group where
  entry   : Nat
  lnch    : Nat
  key     : Word
  size    : Nat
  members : List Member
  b       : Nat
deriving DecidableEq, Repr

/-- Kinds of WFT entry with what they hold (R199). -/
inductive WftKind where
  /-- waiter edge or barrier edge -/
  | edge (on : WaitOn)
  /-- watch on a counter of this die, for an edge of another die -/
  | watch (addr target edgeDie edgeEntry : Nat)
  /-- owner record for a counter of this die: owner kind of R202 (0 to 3), its VAL, and the thread that declared it -/
  | owner (addr okind : Nat) (val : Word) (byTid : Nat)
deriving DecidableEq, Repr

/-- A WFT entry in use (R199): number, launch, thread (waiter, or declared owner thread), stamp, kind; `ready` says that
the wait is satisfied; `owners` holds a channel edge's own owner (R359). -/
structure WftEntry where
  entry : Nat
  lnch  : Nat
  tid   : Nat
  stamp : Nat
  kind  : WftKind
  owners : List (Nat × Word)
deriving DecidableEq, Repr

/-- Who made the access that completed a pail slot (R239): a thread, with the tag and engine of its command if an engine
made it, or the request of another module. -/
structure PailBy where
  uid : Nat
  cmd : Option (Nat × Nat)
  req : Option RemoteReq
deriving DecidableEq, Repr

/-- A defined pail (R237, R239): its table entry, launch and geometry; per slot: 0 empty, 1 filled; next slot to count. -/
structure PailDef where
  entry : Nat
  gen   : Nat
  lnch  : Nat
  fillc : Nat
  freec : Nat
  base  : Nat
  lines : Nat
  depth : Nat
  filled : List Bool
  /-- adds owed, in the order slots must count: next slot to count as filled, next as freed -/
  nextF : Nat
  nextE : Nat
  /-- slots whose filled or free add is not made yet, with the access that completed the slot -/
  owedF : List (Nat × PailBy)
  owedE : List (Nat × PailBy)
deriving DecidableEq, Repr

/-- A receive binding (R346). -/
structure RecvBind where
  world : Bool
  key   : Nat
  lnch  : Nat
  addr  : Nat
deriving DecidableEq, Repr

/-- One entry of a bank-grant list (R221). -/
structure Grant where
  ho    : Bool
  die   : Nat
  vat   : Nat
  banks : BitVec 16
deriving DecidableEq, Repr

/-- The STATE codes of R169. -/
inductive LState where
  | new | admitted | triggered | done | failed | cancelled
deriving DecidableEq, Repr

/-- An admitted launch (R147, R167 to R169). -/
structure Launch where
  num    : Nat
  recVa  : Word
  world  : Bool
  service : Bool
  conf   : Word
  entry  : Word
  dict   : Word
  slice  : Nat
  wd     : List Nat
  xvec   : Word
  xrec   : Word
  xstk   : Word
  sp     : Word
  gp     : Word
  lays   : List (BitVec 512)
  grants : List Grant
  /-- hand-over banks passed to the launch (R222) -/
  taken  : List Nat
  args   : List Word
  state  : LState
  err    : Nat
  einfo  : Word
  kill   : Bool
  trigd  : Nat
  exitd  : Nat
  /-- threads bound at least once -/
  bound  : List Nat
  /-- threads that have ended -/
  ended  : List Nat
  /-- base priorities that `prio.all` set for threads not bound -/
  pri    : Nat
  /-- window table: address, count (R377) -/
  win    : Option (Word × Nat)
  /-- VAs of its predecessors' records (R163) -/
  preds  : List Word
  /-- where its record stands at a queue's head: the queue's world, header VA and ring index; none once it has left (R174) -/
  place  : Option (Bool × Word × Nat)
deriving DecidableEq, Repr

/-- A hardware queue slot (R171 to R173). -/
structure QSlot where
  mapped : Bool
  ever   : Bool
  fw     : Bool
  hdr    : Word
  reg    : Word
  /-- the record at the head has passed its check: the launch it gives, but for its number (R170) -/
  cand   : Option Launch
  /-- the record at the head has been admitted: its launch number -/
  head   : Option Nat
deriving DecidableEq, Repr

/-- An error record (R396). -/
structure ErrRec where
  time   : Word
  seq    : BitVec 32
  src    : Nat
  cls    : Nat
  code   : Nat
  detail : List Word
deriving DecidableEq, Repr

/-- A bind record (R176). -/
structure BindRec where
  entry : Nat
  img   : Word
  recVa : Word
  wdt   : Nat
  wds   : Nat
  slice : Nat
  psnap : Nat
  tb    : Nat
  fb    : Nat
  core  : Nat
  hctx  : Nat
  tid   : Nat
  /-- the launch the record VA names, as admitted -/
  lnch  : Nat
  /-- the watchdog has killed the thread while its entry is BINDING: the entry is KILLING (R177), and FENCED once T3 is reached -/
  killed : Bool
  fenced : Bool
  /-- a pre-emption request raised at T1 while the entry is BINDING (R182) -/
  asked  : Bool
deriving DecidableEq, Repr

/-- A compute die. -/
structure Die where
  dmcfg  : Word
  trt0   : Word
  trt1   : Word
  vatw   : Word
  slices : Word
  wftOvf : Word
  overs  : Word
  unders : Word
  lost   : Word
  q      : Vector QSlot 32
  lastQ  : Nat
  groups : List Group
  gens   : SMap Nat
  wft    : List WftEntry
  pails  : List PailDef
  pgens  : SMap Nat
  recvs  : List RecvBind
  /-- landing buffers taken (R354) -/
  landing : Nat
  binds  : List BindRec
  /-- walks handed to the dispatch core: the entries that started them (R206, R208) -/
  walks  : List Nat
  errs   : List ErrRec
  errSeq : BitVec 32
  errLost : Nat
  throttled : Bool
deriving DecidableEq, Repr

/-- A receive port binding of a core (R272). -/
structure PortBind where
  port : Nat
  cid  : Nat
  lnch : Nat
  tid  : Nat
  tile : Ix8
  addr : Nat
deriving DecidableEq, Repr

/-- A loaded dictionary (R33, R34): the DICTB value and its bundles. -/
structure LoadedDict where
  dictb   : Word
  entries : List Nat
deriving DecidableEq, Repr

/-- A core (R3, R34, R182, R272, R273, R278). -/
structure Core where
  fenced : Bool
  ports  : List PortBind
  branch : Nat
  sep    : Word
  dicts  : List LoadedDict
deriving DecidableEq, Repr

/-- A queued send or receive of a channel (R357, R358): the context, its command tag or pending result, for a receive its
number `n`. A send with `n` not 0 is the result of reduction `n - 1` of KEY `op` (R353). -/
structure ChanOp where
  cid  : Nat
  lnch : Nat
  tid  : Nat
  op   : Nat
  item : List Byte
  n    : Nat
deriving DecidableEq, Repr

/-- The common part of a declared channel end (R355, R356). -/
structure ChanEnd where
  tid    : Nat
  cid    : Nat
  tag    : Tag
  lanes  : Nat
  depth  : Nat
  rem    : Bool
  win    : Nat
  pch    : Nat
  pail   : Nat
  fillc  : Nat
  freec  : Nat
  pdie   : Nat
  pentry : Nat
  /-- sent or received count -/
  count  : Nat
  /-- credits returned, or the filled counter at the declaration -/
  base   : Nat
  queue  : List ChanOp
deriving DecidableEq, Repr

/-- A channel of a launch (R355): key 64 launch + number; `gone` tells an end that was released (R360). -/
structure Chan where
  lnch : Nat
  ch   : Nat
  snd  : Option ChanEnd
  rcv  : Option ChanEnd
  sndGone : Bool
  rcvGone : Bool
  /-- items written since the receive end was declared (R360) -/
  written : Nat
deriving DecidableEq, Repr

/-- A contribution joined to a reduction (R352). -/
structure Contrib where
  die : Nat
  cid : Nat
  tag : Nat
  src : Nat
  dst : Nat
  n   : Nat
  m   : Nat
  r   : Nat
  ch  : Option Nat
deriving DecidableEq, Repr

/-- A reduction in progress (R352 to R354). -/
structure Reduction where
  lnch : Nat
  key  : Nat
  j    : Nat
  ins  : List Contrib
  /-- the result once formed, the result dies still to reserve, those reserved, those written -/
  result : Option (List (BitVec 32))
  toBuf  : List Nat
  held   : List Nat
  written : List Nat
  fault  : Option FaultInfo
deriving DecidableEq, Repr

/-- Port states of R366. -/
inductive PortSt where
  | down | locking | held | rotor | quiesce | dark
deriving DecidableEq, Repr

/-- An optical port (R366 to R369). -/
structure Port where
  cfg   : Word
  st    : PortSt
  rot   : Nat
  txok  : Nat
  rxok  : Nat
  slot  : Nat
  slots : SMap Word
  /-- by the identity of a message cut at an allowance: its bytes sent in earlier slots (R369) -/
  allow : SMap Nat
  /-- drain markers not answered -/
  markers : Nat
  /-- in a change that began with QUIESCE and ends with sends again: what waits for the port is held (R367, R381) -/
  chg : Bool
  /-- bytes of the allowance of this slot not yet used (R369) -/
  left : Nat
  /-- destinations that have a send queue: at most 64 (R369) -/
  queues : List Nat
deriving DecidableEq, Repr

/-- Where a remote operation stands (R369, R378). -/
inductive RemoteSt where
  | queued | sent | backoff
deriving DecidableEq, Repr

/-- How the data of a remote load become the result: a scalar, a lane of `w` bits, or a whole register under a tag. -/
inductive LoadShape where
  | scalar (signed : Bool) | lane (w i : Nat) | vec (t : Tag)
deriving DecidableEq, Repr

/-- Whose result a remote operation serves. -/
inductive RemoteFor where
  /-- class L: pending result `pend` -/
  | load (pend : Nat) (shape : LoadShape)
  /-- class S operation `st` -/
  | store (st : Nat)
  /-- a piece of an engine command -/
  | engine (tag piece : Nat)
deriving DecidableEq, Repr

/-- A remote operation issued and not answered for good (R374, R378). `waits` holds a `kaddw` until the earlier ones are
done (R375). -/
structure RemoteOut where
  id      : Nat
  cid     : Nat
  lnch    : Nat
  tid     : Nat
  req     : RemoteReq
  st      : RemoteSt
  retries : Nat
  waits   : Bool
  win     : Word
  use     : RemoteFor
  /-- the port that last carried it (R379) -/
  via     : Option Nat
deriving DecidableEq, Repr

/-- A relayed request that this module holds as a forward (R380). -/
structure RelayFwd where
  id      : Nat
  req     : RemoteReq
  st      : RemoteSt
  retries : Nat
  /-- the port that last carried it (R379) -/
  via     : Option Nat
deriving DecidableEq, Repr

/-- An answer or message that waits to travel (R369): by a face port, or by the route to its target. -/
structure Reply where
  port : Option Nat
  id   : Nat
  msg  : Nat × Nat × Nat × Nat × List Byte
deriving DecidableEq, Repr

/-- A region-table, export-table or window entry is its raw bits; a cached window entry is kept per die (R371). -/
structure WinCache where
  die  : Nat
  lnch : Nat
  h    : Nat
  bits : BitVec 256
deriving DecidableEq, Repr

/-- A translation held in a TLB (R319), of a core or, with none, shared by a die: world, first VA, page size, the level of
its leaf entry and that entry. -/
structure TlbEntry where
  die   : Nat
  core  : Option Nat
  world : Bool
  va    : Nat
  size  : Nat
  level : Nat
  raw   : Word
deriving DecidableEq, Repr

/-- The fabric side of the module (R364 to R382). -/
structure Fabric where
  mpos   : Word
  fabcfg : Word
  rotep  : Word
  portw  : Word
  crw    : Word
  ports  : Vector Port 32
  mroute : SMap (BitVec 32)
  exports : SMap (BitVec 256)
  regions : SMap Word
  outs   : List RemoteOut
  /-- requests that arrived ahead of a gap in their flow (R379) -/
  early  : List RemoteReq
  /-- faces that are written and whose add is owed, and whether a step has passed since (R243, R354) -/
  half   : List (RemoteReq × Bool)
  /-- next sequence number expected: key is (module, flow) as given -/
  expect : List (Nat × Nat × Nat)
  /-- the relay buffer (R380) -/
  relay  : List RelayFwd
  /-- answers and messages that wait to travel (R369) -/
  resp   : List Reply
  /-- drain markers of other modules not answered: port, module, flow (R379) -/
  marks  : List (Nat × Nat × Nat)
  /-- answers and messages sent to other modules: target, kind (0 ack, 1 RNR, 2 error, 3 credit, 4 end released, 5 forward,
  6 marker answered), flow or channel, seq or cause and sub-code, data -/
  sent   : List (Nat × Nat × Nat × Nat × List Byte)
  wins   : List WinCache
deriving DecidableEq, Repr

/-- An answer of a TZ port (R388, R400). -/
structure TzAnswer where
  port   : Nat
  status : Nat
  data   : List Byte
deriving DecidableEq, Repr

/-- Management side of the module (R388 to R399). -/
structure Sys where
  /-- boot complete (R399) -/
  booted  : Bool
  /-- firmware images that run: dispatch, creamery, optics (R392) -/
  runs    : Vector Bool 3
  alarm   : Bool
  tripped : Bool
  keysHeld : Bool
  wrapKey : Bool
  imageKey : BitVec 256
  meas    : Vector (BitVec 256) 3
  svn     : Vector Word 3
  answers : List TzAnswer
  asked   : List Nat
  /-- reports asked for during boot -/
  measures : List (Nat × List Byte)
  /-- bytes of the error-record stream sent on each TZ port (R397) -/
  streams : Vector (List Byte) 2
  crErrs  : List ErrRec
  crSeq   : BitVec 32
  crLost  : Nat
  crLostStat : Word
  /-- board-management register 0x0B: no write changes it, since 0xA5 resets the module and every other value is ignored (R399) -/
  mgmt    : Byte
  resets  : Nat
deriving DecidableEq, Repr

/-- What may be given the next turn before the current context issues (assumption log 3): a step of the table, another
context's turn, or what a cache, a TLB or a memory cell may do of its own accord (R219, R232, R319, R214). -/
inductive Act where
  | ev (i : Instr)
  | turn (c : Nat)
  | tlbFill (die : Nat) (core : Option Nat) (world : Bool) (va : Nat)
  | tlbDrop (die : Nat) (core : Option Nat) (va : Nat)
  | lineEvict (line : Nat)
  | eccStore (line : Nat)
  | eccHbm (line : Nat)
  | winDrop (die h : Nat)
  /-- the same between two slots of a group, or between two operations of a slot (R242) -/
  | amid (a : Act)
  /-- the slot in issue performs so many of its memory operations and no more for now (R243) -/
  | cut (n : Nat)
deriving DecidableEq, Repr

/-- The module. -/
structure State where
  me      : Ctx
  others  : List Ctx
  saved   : List Saved
  /-- HBM by physical address (R218) -/
  hbm     : List Host.Cell
  /-- die stores by store address (R217) -/
  store   : List Host.Cell
  lines   : SMap LineSt
  home    : SMap HomeSt
  /-- bank 1024 die + 16 vat + bank: owning launch (R220); unlisted is FREE -/
  banks   : SMap Nat
  /-- last world of a bank (R222) -/
  bankWorld : SMap Bool
  badStore : List Nat
  badHbm  : List Nat
  tlb     : List TlbEntry
  dies    : Vector Die 8
  /-- core 64 die + core; unlisted is a core as after reset -/
  cores   : SMap Core
  /-- what the context slots of retired threads still hold, until a thread is bound there (R304) -/
  left    : List Ctx
  launches : List Launch
  nextLaunch : Nat
  chans   : List Chan
  reductions : List Reduction
  /-- creds issued per launch, KEY and die (R352) -/
  credSeq : List (Nat × Nat × Nat × Nat)
  fab     : Fabric
  sys     : Sys
  /-- aclk cycles since module reset (R25); `CLK` reads them, and the highest value when 64 bits no longer hold them
  (assumption log 59) -/
  clk     : Nat
  /-- identities given to outstanding operations -/
  ids     : Nat
  /-- wake tokens on their way (R195): thread, WFT entry, stamp -/
  tokens  : List (Nat × Nat × Nat)
  /-- counter the free values are drawn with -/
  fresh   : Nat
  agenda  : List Act
deriving DecidableEq, Repr

/-- Why the machine stops. Safe: in every state a run from reset reaches, neither can occur. -/
inductive Fault where
  /-- raised by `step` when the queue of the context holds a word that is no legal slot; fetching checks every slot
  first (R52), so no run reaches such a state. Safe. -/
  | illegalQueue
deriving DecidableEq, Repr

/-- Why an instruction has no meaning. -/
inductive Refusal where
  /-- raised by an arm of `exec` whose instruction has no meaning yet. Safe. -/
  | notModelled (mnemonic : String)
deriving DecidableEq, Repr

/-- A tile at bind apart from its undefined data (R14, R253). -/
def Tile.reset : Tile := { data := [], side := [], cfg := 0, icfg := 0, ver := 0, cnt := 255, salt := none, sideSalt := none }

/-- An unformed correction register (R280). -/
def Corr.reset : Corr := { desc := 0, entries := [] }

/-- Churn state at bind (R14, R279 to R281). -/
def Churn.reset : Churn :=
  { acc := Vector.replicate 2 { elems := [], atag := .none, itag := .none }
    qa := Vector.replicate 2 Corr.reset, qb := Vector.replicate 2 Corr.reset
    zp := 0, qs := 0x3F800000, hi := 0x7F7FFFFF, lo := 0xFF7FFFFF
    etab := List.replicate 256 (0x3F800000, 0) }

/-- General registers before any bind: the bind values of R14, and zero where it gives none (assumption log 1). -/
def Regs.reset : Regs :=
  { s := Vector.replicate 64 0, p := 1, m := (Vector.replicate 16 0).set 0 (BitVec.allOnes 1024)
    v := Vector.replicate 640 { bits := 0, tag := .none }
    t := Vector.replicate 8 Tile.reset, k := Vector.replicate 16 0
    mp := Vector.replicate 8 { bits := 0, raster := [] }
    lay := Vector.replicate 8 0, pl := Vector.replicate 8 0
    churn := Churn.reset, sep := Vector.replicate 4 none }

/-- Control registers before any bind (R25; assumption log 1). -/
def Ctl.reset : Ctl :=
  { wovf := false, slot := 0, handler := false, xpc := 0, xcause := 0, xaddr := 0, xvec := 0, xrec := 0, xstk := 0
    vflags := 0, vmode := 0, dictb := 0 }

/-- Sequencing state of a context that has issued nothing. -/
def Seq.reset : Seq :=
  { next := ⟨0, 0⟩, start := ⟨0, 0⟩, queue := [], at_ := ⟨0, 0⟩, arrive := none, rest := none, cfgWas := [], tagLate := [], passed := false, diverted := false, group := 0
    flights := [], redirs := [], snap := [], sredir := [], skip := none, loops := [], rstack := [], pends := [], stores := []
    cmds := [], cmdCount := 0, recCount := 0, faults := [], exiting := none, sexiting := none, late := [], slate := []
    returning := false, sskip := none, owed := [], loading := none }

/-- A context that waits for nothing. -/
def Waiting.reset : Waiting :=
  { on := none, entry := none, stamp := 0, tokens := [], overflow := false, unregistered := false, again := false, dead := none, phases := [] }

/-- A context slot with nothing bound. -/
def Ctx.reset : Ctx :=
  { cid := 0, status := .free, die := 0, core := 0, hctx := 0, fb := 0, tb := 0, lnch := 0, tid := 0, nthr := 0
    world := false, foot := 64, tiles := 0, churnOn := false, bpri := 0, epri := 0, inh := false, ipri := 0
    regs := Regs.reset, ctl := Ctl.reset, sq := Seq.reset, wt := Waiting.reset
    triggered := false, exited := false, trigs := [], groups := [], preReq := false, fresh := false, freshIt := false, stepped := false, delayed := false, slice := 0, wds := 0
    wdt := 0, since := 0, saves := 0, flows := [] }

/-- A hardware queue slot after reset (R172). -/
def QSlot.reset : QSlot := { mapped := false, ever := false, fw := false, hdr := 0, reg := 0, cand := none, head := none }

/-- A die after module reset (R215, R316, R389, R391). -/
def Die.reset : Die :=
  { dmcfg := 0x2A, trt0 := 0, trt1 := 0, vatw := 0, slices := 0, wftOvf := 0, overs := 0, unders := 0, lost := 0
    q := Vector.replicate 32 QSlot.reset, lastQ := 0, groups := [], gens := [], wft := [], pails := [], pgens := []
    recvs := [], landing := 0, binds := [], walks := [], errs := [], errSeq := 0, errLost := 0
    throttled := false }

/-- A core after module reset. -/
def Core.reset : Core := { fenced := false, ports := [], branch := 0, sep := 0, dicts := [] }

/-- A port after module reset: PER 20, GRD 2, TXW 16, RXW 16 (R366). -/
def Port.reset : Port :=
  { cfg := 0x0014241000000000, st := .down, rot := 0, txok := 0, rxok := 0, slot := 0, slots := []
    allow := [], markers := 0, chg := false, left := 0, queues := [] }

/-- The fabric after module reset (R335, R364 to R372, R390, R391). -/
def Fabric.reset : Fabric :=
  { mpos := 0, fabcfg := 0x08000000, rotep := 0, portw := 0, crw := 0, ports := Vector.replicate 32 Port.reset
    mroute := [], exports := [], regions := [], outs := [], early := [], half := [], expect := [], relay := [], resp := [], marks := [], sent := [], wins := [] }

/-- The management side right after reset, before the boot sequence has run (R392). -/
def Sys.reset : Sys :=
  { booted := false, runs := Vector.replicate 3 false, alarm := false, tripped := false, keysHeld := false, wrapKey := true, imageKey := 0
    meas := Vector.replicate 3 0, svn := Vector.replicate 3 0, answers := [], asked := [], measures := [], streams := Vector.replicate 2 []
    crErrs := [], crSeq := 0, crLost := 0, crLostStat := 0, mgmt := 0, resets := 0 }

/-- The module right after module reset: no context is bound, every bank FREE, the die stores zero and uncounted (R220),
no memory listed. -/
def State.reset : State :=
  { me := Ctx.reset, others := [], saved := [], hbm := [], store := [], lines := [], home := [], banks := [], bankWorld := []
    badStore := [], badHbm := [], tlb := [], dies := Vector.replicate 8 Die.reset, cores := [], left := [], launches := []
    nextLaunch := 1, chans := [], reductions := [], credSeq := [], fab := Fabric.reset, sys := Sys.reset, clk := 0
    ids := 0, tokens := [], fresh := 0, agenda := [] }

/-- The answer of a meaning. -/
abbrev Out := Host.Outcome State Fault Refusal

end Sys2Proof.Machine
end

