-- ==== Sys2Proof/Machine/Num.lean ====
section
/-! DEFINITION. Number formats and arithmetic rules (R60 to R85): exact values, rounding, conversions, and the helper
functions of R85. Everything is exact integer arithmetic; a rounding happens in one place, `Real.round`. -/

namespace Sys2Proof.Machine

/-- Bits [lo+w-1:lo] of a word (R9). -/
def bits (x : Word) (lo w : Nat) : Nat := fld x.toNat lo w

/-- One bit of a word. -/
def bit (x : Word) (n : Nat) : Bool := x.getLsbD n

/-- `SignExt(y, n)` (R85). -/
def signExt (y n : Nat) : Int := (BitVec.ofNat n y).toInt

/-- The bit pattern of an integer in `w` bits (two's complement). -/
def ofInt (w : Nat) (y : Int) : Nat := (BitVec.ofInt w y).toNat

/-! ### Flags -/

/-- Inexact. -/
def fNX : Flags := 1
/-- Underflow. -/
def fUF : Flags := 2
/-- Overflow. -/
def fOF : Flags := 4
/-- Division by zero. -/
def fDZ : Flags := 8
/-- Invalid operation. -/
def fNV : Flags := 16
/-- An integer result saturated. -/
def fSAT : Flags := 32

/-! ### Integer helpers (R85) -/

/-- `SatS(y, w)` with the flag it raises. -/
def satS (w : Nat) (y : Int) : Int × Flags :=
  if y < -(2 ^ (w - 1) : Int) then (-(2 ^ (w - 1) : Int), fSAT)
  else if y > (2 ^ (w - 1) : Int) - 1 then ((2 ^ (w - 1) : Int) - 1, fSAT)
  else (y, 0)

/-- `Wrap(y, w)`. -/
def wrapS (w : Nat) (y : Int) : Int := (BitVec.ofInt w y).toInt

/-! ### Tags (R60, R61) -/

/-- Lane width in bits; 8 for the storage tags with byte lanes and where the manual reads bytes. -/
def laneW : Tag → Nat
  | .i16 | .bf16 => 16
  | .i32 | .fp32 => 32
  | _ => 8

/-- Lanes of a 1,024-byte register. -/
def lanes (t : Tag) : Nat := 8192 / laneW t

/-- The computational integer tags. -/
def isInt : Tag → Bool
  | .i8 | .i16 | .i32 => true
  | _ => false

/-- The computational floating tags. -/
def isFloat : Tag → Bool
  | .bf16 | .fp32 => true
  | _ => false

/-- Computational tags. -/
def isComp (t : Tag) : Bool := isInt t || isFloat t

/-- Every tag a moved lane may carry: all but NONE, POISON and E2M1X. -/
def isLaned : Tag → Bool
  | .none | .poison | .e2m1x => false
  | _ => true

/-- Lane `i` of a register as a bit pattern. -/
def laneBits (x : BitVec 8192) (w i : Nat) : Nat := fld x.toNat (w * i) w

/-- A register made of lanes of `w` bits, lane 0 first. -/
def packLanes (w : Nat) (xs : List Nat) : BitVec 8192 :=
  BitVec.ofNat 8192 (xs.foldr (fun x a => a * 2 ^ w + x % 2 ^ w) 0)

/-- All ones in the places of the listed lanes. -/
def laneMask (w n : Nat) (en : Nat → Bool) : BitVec 8192 :=
  packLanes w ((List.range n).map fun i => if en i then 2 ^ w - 1 else 0)

/-! ### Exact values -/

/-- A decoded floating value: NaN (signalling or not), infinity, or (-1)^neg * num * 2^exp, zero with its sign. -/
inductive Real where
  | nan (sig : Bool)
  | inf (neg : Bool)
  | fin (neg : Bool) (num : Nat) (exp : Int)
deriving DecidableEq, Repr

/-- Parameters of a binary floating format (R63): precision, exponent range, exponent bits, largest significand. -/
structure Fmt where
  p     : Nat
  emin  : Int
  emax  : Int
  ebits : Nat
  maxm  : Nat
  infs  : Bool
deriving DecidableEq, Repr

/-- FP32 (R63). -/
def fmtFP32 : Fmt := { p := 24, emin := -126, emax := 127, ebits := 8, maxm := 2 ^ 24 - 1, infs := true }
/-- BF16 (R63). -/
def fmtBF16 : Fmt := { p := 8, emin := -126, emax := 127, ebits := 8, maxm := 2 ^ 8 - 1, infs := true }
/-- E4M3 (R64): largest finite 448 = 14 * 2^5. -/
def fmtE4M3 : Fmt := { p := 4, emin := -6, emax := 8, ebits := 4, maxm := 14, infs := false }

/-- The format of a floating tag. -/
def fmtOf : Tag → Fmt
  | .bf16 => fmtBF16
  | .e4m3 => fmtE4M3
  | _ => fmtFP32

/-- The sign bit's weight in a format. -/
def Fmt.signBit (f : Fmt) : Nat := 2 ^ (f.ebits + f.p - 1)

/-- `CanonNaN(f)` (R63). -/
def canonNaN (f : Fmt) : Nat :=
  if f.infs then (2 ^ f.ebits - 1) * 2 ^ (f.p - 1) + 2 ^ (f.p - 2) else 0x7F

/-- The pattern of infinity, or of 448 under E4M3 (R72). -/
def infPat (f : Fmt) (neg : Bool) : Nat :=
  neg.toNat * f.signBit + (if f.infs then (2 ^ f.ebits - 1) * 2 ^ (f.p - 1) else 0x7E)

/-- The pattern of the largest finite value. -/
def maxPat (f : Fmt) (neg : Bool) : Nat :=
  neg.toNat * f.signBit + (if f.infs then (2 ^ f.ebits - 1) * 2 ^ (f.p - 1) - 1 else 0x7E)

/-- The value of a pattern of a binary floating format (R63, R64). -/
def decodeFmt (f : Fmt) (x : Nat) : Real :=
  let neg := x / f.signBit % 2 == 1
  let e := x / 2 ^ (f.p - 1) % 2 ^ f.ebits
  let m := x % 2 ^ (f.p - 1)
  if f.infs && e == 2 ^ f.ebits - 1 then
    if m == 0 then .inf neg else .nan (m < 2 ^ (f.p - 2))
  else if !f.infs && x % f.signBit == 0x7F then .nan false
  else if e == 0 then .fin neg m (f.emin - (f.p : Int) + 1)
  else .fin neg (m + 2 ^ (f.p - 1)) (f.emin - (f.p : Int) + e)

/-- The value of an E8M0 byte (R65). -/
def decodeE8M0 (x : Nat) : Real :=
  if x == 0xFF then .nan false else .fin false 1 ((x : Int) - 127)

/-- `Lane` of a floating or E8M0 tag (R85). -/
def decodeReal (t : Tag) (x : Nat) : Real :=
  match t with
  | .e8m0 => decodeE8M0 x
  | t => decodeFmt (fmtOf t) x

/-- An integer as an exact value; zero is +0. -/
def Real.ofInt (y : Int) : Real := .fin (y < 0) y.natAbs 0

/-- Numerator over 2^k of the magnitude, for k at least the negated exponent. -/
def scaled (num : Nat) (exp : Int) (k : Nat) : Nat := num * 2 ^ (exp + k).toNat

/-- The number of fraction bits a value needs. -/
def fracBits (exp : Int) : Nat := (-exp).toNat

/-- The exact value of a finite number as an integer over 2^k. -/
def Real.fixedAt (k : Nat) : Real → Int
  | .fin neg num exp => if neg then -(scaled num exp k : Int) else scaled num exp k
  | _ => 0

/-- Fraction bits a finite number needs. -/
def Real.frac : Real → Nat
  | .fin _ _ exp => fracBits exp
  | _ => 0

/-- Sign of a value. -/
def Real.neg : Real → Bool
  | .inf n => n
  | .fin n _ _ => n
  | .nan _ => false

/-- Whether a value is a NaN. -/
def Real.isNaN : Real → Bool
  | .nan _ => true
  | _ => false

/-- Whether a value is a zero. -/
def Real.isZero : Real → Bool
  | .fin _ 0 _ => true
  | _ => false

/-- Whether a value is a signalling NaN. -/
def Real.isSig : Real → Bool
  | .nan s => s
  | _ => false

/-! ### Rounding (R70 to R73) -/

/-- A quotient `q` with remainder `r` over `d` rounded to an integer magnitude under `rm` (R70). -/
def roundMag (rm : Rm) (neg : Bool) (q r d : Nat) : Nat :=
  if r == 0 then q else
    match rm with
    | .rtz => q
    | .rdn => if neg then q + 1 else q
    | .rup => if neg then q else q + 1
    | _ => if 2 * r > d || (2 * r == d && q % 2 == 1) then q + 1 else q

/-- `RoundInt(y, rm)` of num * 2^exp with a sign (R85). -/
def roundInt (rm : Rm) (neg : Bool) (num : Nat) (exp : Int) : Int :=
  let m := if exp ≥ 0 then num * 2 ^ exp.toNat
           else roundMag rm neg (num / 2 ^ (-exp).toNat) (num % 2 ^ (-exp).toNat) (2 ^ (-exp).toNat)
  if neg then -(m : Int) else m

/-- The overflow result of R72. -/
def overflowPat (f : Fmt) (rm : Rm) (neg : Bool) : Nat :=
  match rm with
  | .rtz => maxPat f neg
  | .rdn => if neg then infPat f neg else maxPat f neg
  | .rup => if neg then maxPat f neg else infPat f neg
  | _ => infPat f neg

/-- `Round` of a nonzero magnitude num * 2^exp (R72 items 4 to 6). -/
def roundFin (f : Fmt) (rm : Rm) (neg : Bool) (num : Nat) (exp : Int) : Nat × Flags :=
  let e := max (exp + Nat.log2 num) f.emin
  let qe := e - (f.p : Int) + 1
  let sh := (qe - exp).toNat
  let m := if exp ≥ qe then num * 2 ^ (exp - qe).toNat else roundMag rm neg (num / 2 ^ sh) (num % 2 ^ sh) (2 ^ sh)
  let exact := exp ≥ qe || num % 2 ^ sh == 0
  let qmax := f.emax - (f.p : Int) + 1
  let big := if qe ≥ qmax then m * 2 ^ (qe - qmax).toNat > f.maxm else m > f.maxm * 2 ^ (qmax - qe).toNat
  if big then (overflowPat f rm neg, fOF ||| fNX)
  else
    -- a significand that carried out of p bits is the next exponent's smallest
    let up := m == 2 ^ f.p
    let m' := if up then m / 2 else m
    let qe' := if up then qe + 1 else qe
    let ef := if m' < 2 ^ (f.p - 1) then 0 else (qe' - f.emin + f.p).toNat
    let pat := neg.toNat * f.signBit + ef * 2 ^ (f.p - 1) + (if m' < 2 ^ (f.p - 1) then m' else m' - 2 ^ (f.p - 1))
    (pat, if exact then 0 else if ef == 0 then fNX ||| fUF else fNX)

/-- `Round(x, f, rm)` (R72) of an exact value; a NaN raises nothing here (R74 is the operation's). -/
def Real.round (f : Fmt) (rm : Rm) : Real → Nat × Flags
  | .nan _ => (canonNaN f, 0)
  | .inf neg => (infPat f neg, if f.infs then 0 else fOF ||| fNX)
  | .fin neg 0 _ => (neg.toNat * f.signBit, 0)
  | .fin neg num exp => roundFin f rm neg num exp

/-! ### Exact operations with R73 and R74 -/

/-- The flag of a signalling NaN among the sources. -/
def sigFlag (xs : List Real) : Flags := if xs.any Real.isSig then fNV else 0

/-- A pattern, a NaN made canonical (R63). -/
def canonPat (f : Fmt) (x : Nat) : Nat := if (decodeFmt f x).isNaN then canonNaN f else x

/-- Exact sum with the sign rules of R73 and the invalid cases of R74 other than a signalling source. -/
def Real.add (rm : Rm) (a b : Real) : Real × Flags :=
  match a, b with
  | .nan _, _ => (.nan false, 0)
  | _, .nan _ => (.nan false, 0)
  | .inf s, .inf t => if s == t then (.inf s, 0) else (.nan false, fNV)
  | .inf s, _ => (.inf s, 0)
  | _, .inf t => (.inf t, 0)
  | .fin sa na ea, .fin sb nb eb =>
    if na == 0 && nb == 0 && sa == sb then (.fin sa 0 0, 0)
    else
      let e := min ea eb
      let x : Int := (if sa then -1 else 1) * (na * 2 ^ (ea - e).toNat : Nat) + (if sb then -1 else 1) * (nb * 2 ^ (eb - e).toNat : Nat)
      if x == 0 then (.fin (rm == .rdn) 0 0, 0) else (.fin (x < 0) x.natAbs e, 0)

/-- Negation. -/
def Real.negate : Real → Real
  | .nan s => .nan s
  | .inf n => .inf !n
  | .fin n m e => .fin (!n) m e

/-- Exact difference: of two zeros of the same sign it is that zero, of other operands whose difference is zero the zero of the
mode, as R73 states of a subtraction's own operands (assumption log 60). -/
def Real.sub (rm : Rm) (a b : Real) : Real × Flags :=
  match a, b with
  | .fin s 0 _, .fin t 0 _ => (.fin (if s == t then s else rm == .rdn) 0 0, 0)
  | a, b => Real.add rm a b.negate

/-- Exact product (R73, R74). -/
def Real.mul (a b : Real) : Real × Flags :=
  match a, b with
  | .nan _, _ => (.nan false, 0)
  | _, .nan _ => (.nan false, 0)
  | .inf s, .inf t => (.inf (s != t), 0)
  | .inf s, .fin t n _ => if n == 0 then (.nan false, fNV) else (.inf (s != t), 0)
  | .fin s n _, .inf t => if n == 0 then (.nan false, fNV) else (.inf (s != t), 0)
  | .fin s n e, .fin t m g => (.fin (s != t) (n * m) (e + g), 0)

/-- `Round(a + b, f, rm)` with all flags. -/
def fAdd (f : Fmt) (rm : Rm) (a b : Real) : Nat × Flags :=
  let (x, g) := Real.add rm a b
  let (y, h) := x.round f rm
  (y, g ||| h ||| sigFlag [a, b])

/-- `Round(a - b, f, rm)`. -/
def fSub (f : Fmt) (rm : Rm) (a b : Real) : Nat × Flags :=
  let (x, g) := Real.sub rm a b
  let (y, h) := x.round f rm
  (y, g ||| h ||| sigFlag [a, b])

/-- `Round(a * b, f, rm)`. -/
def fMul (f : Fmt) (rm : Rm) (a b : Real) : Nat × Flags :=
  let (x, g) := Real.mul a b
  let (y, h) := x.round f rm
  (y, g ||| h ||| sigFlag [a, b])

/-- `Round(a * b + d, f, rm)`, rounded once (R71). -/
def fFma (f : Fmt) (rm : Rm) (a b d : Real) : Nat × Flags :=
  let (x, g) := Real.mul a b
  let (y, g') := Real.add rm x d
  let (z, h) := y.round f rm
  (z, g ||| g' ||| h ||| sigFlag [a, b, d])

/-- `Round(d - a * b, f, rm)`, rounded once (R71). -/
def fFms (f : Fmt) (rm : Rm) (a b d : Real) : Nat × Flags :=
  let (x, g) := Real.mul a b
  let (y, g') := Real.sub rm d x
  let (z, h) := y.round f rm
  (z, g ||| g' ||| h ||| sigFlag [a, b, d])

/-! ### Order (R75) -/

/-- Exact comparison of two values that are not NaN: -1, 0 or 1, with -0 equal to +0. -/
def Real.cmp (a b : Real) : Int :=
  match a, b with
  | .inf s, .inf t => if s == t then 0 else if s then -1 else 1
  | .inf s, _ => if s then -1 else 1
  | _, .inf t => if t then 1 else -1
  | a, b =>
    let k := max a.frac b.frac
    let x := a.fixedAt k
    let y := b.fixedAt k
    if x < y then -1 else if x == y then 0 else 1

/-- Whether `a` stands below `b` where -0 is below +0 (R75 for minimum and maximum). -/
def Real.below (a b : Real) : Bool :=
  let c := Real.cmp a b
  c < 0 || (c == 0 && a.isZero && b.isZero && a.neg && !b.neg)

/-- `Max2` and `Min2` on patterns (R75). -/
def fMaxMin (f : Fmt) (isMax : Bool) (x y : Nat) : Nat × Flags :=
  let a := decodeFmt f x
  let b := decodeFmt f y
  let g := sigFlag [a, b]
  if a.isNaN && b.isNaN then (canonNaN f, g)
  else if a.isNaN then (y, g)
  else if b.isNaN then (x, g)
  else if isMax then (if a.below b then y else x, g)
  else (if b.below a then y else x, g)

/-- A floating comparison (R75); the unsigned conditions do not reach it. -/
def fCmp (c : Cond) (a b : Real) : Bool × Flags :=
  let g := sigFlag [a, b]
  if a.isNaN || b.isNaN then (c == .ne, g)
  else
    let o := Real.cmp a b
    let r := match c with
      | .eq => o == 0 | .ne => o != 0 | .lt => o < 0 | .le => o ≤ 0 | .gt => o > 0 | .ge => o ≥ 0
      | _ => false
    (r, g)

/-- An integer comparison of `w`-bit patterns (R41, R91). -/
def iCmp (w : Nat) (c : Cond) (x y : Nat) : Bool :=
  let a := signExt x w
  let b := signExt y w
  match c with
  | .eq => x == y | .ne => x != y
  | .lt => a < b | .le => a ≤ b | .gt => a > b | .ge => a ≥ b
  | .ltl => x < y | .lel => x ≤ y | .gtl => x > y | .gel => x ≥ y

/-! ### Conversions (R81 to R84) -/

/-- `CvtInt(x, w, rm)` (R82). -/
def cvtInt (w : Nat) (rm : Rm) : Real → Int × Flags
  | .nan _ => (0, fNV)
  | .inf neg => (if neg then -(2 ^ (w - 1) : Int) else (2 ^ (w - 1) : Int) - 1, fNV ||| fSAT)
  | .fin neg num exp =>
    let y := roundInt rm neg num exp
    let (z, g) := satS w y
    if g != 0 then (z, fNV ||| fSAT)
    else (y, if exp < 0 && num % 2 ^ (-exp).toNat != 0 then fNX else 0)

/-- `ToE8M0(x, rm)` (R83). -/
def toE8M0 (rm : Rm) : Real → Nat × Flags
  | .nan _ => (0xFF, 0)
  | .inf _ => (0xFE, fOF ||| fNX)
  | .fin _ 0 _ => (0x00, fUF ||| fNX)
  | .fin _ num exp =>
    let l := Nat.log2 num
    let k : Int := exp + l
    let pow := num == 2 ^ l
    let up := match rm with
      | .rtz | .rdn => false
      | .rup => !pow
      | _ => 2 * num > 3 * 2 ^ l || (2 * num == 3 * 2 ^ l && (k + 127) % 2 != 0)
    let e : Int := (if up then k + 1 else k) + 127
    if e > 254 then (0xFE, fOF ||| fNX)
    else if e < 0 then (0x00, fUF ||| fNX)
    else (e.toNat, if pow then 0 else fNX)

/-- The ordinary E2M1X codes with twice their value (R66); code 8 is the special. -/
def e2Codes : List (Nat × Int) :=
  [(0, 0), (1, 1), (2, 2), (3, 3), (4, 4), (5, 6), (6, 8), (7, 12), (9, -1), (10, -2), (11, -3), (12, -4), (13, -6),
   (14, -8), (15, -12)]

/-- Twice the tabled value of a code under a special of `h` halves (R66). -/
def e2Twice (h : Int) (code : Nat) : Int :=
  if code == 8 then h else ((e2Codes.find? (·.1 == code)).map (·.2)).getD 0

/-- The halves `h` of a special byte (R66). -/
def specialH (x : Nat) : Int := signExt (x % 64) 6

/-- Whether a special byte is well formed (R66). -/
def specialOk (x : Nat) : Bool := x / 64 % 4 == 0 && x % 64 != 0x20

/-- The better of two candidates for `QE2M1` under RNE: nearer to y, then an ordinary code before the special, then M = 0.
Distances are of doubled values over 2^k. -/
def e2Nearer (k : Nat) (y : Int) (a b : Nat × Int) : Nat × Int :=
  let da := (y - a.2 * 2 ^ k).natAbs
  let db := (y - b.2 * 2 ^ k).natAbs
  if db < da then b
  else if da < db then a
  else if a.1 == 8 then b
  else if b.1 == 8 then a
  else if a.1 % 2 == 0 then a else b

/-- The candidate of a list that `keep` prefers; the first found among equals. -/
def bestBy (keep : Nat × Int → Nat × Int → Nat × Int) : List (Nat × Int) → Option (Nat × Int)
  | [] => none
  | x :: xs => some (xs.foldl keep x)

/-- `QE2M1(y, h, rm)` (R84). -/
def qE2M1 (h : Int) (rm : Rm) (y : Real) : Nat × Flags :=
  -- a special equal to an ordinary value never wins, so it need not be a candidate
  let cands := if e2Codes.any (·.2 == h) then e2Codes else e2Codes ++ [(8, h)]
  let hi := cands.foldl (fun a c => if c.2 > a.2 then c else a) (0, 0)
  let lo := cands.foldl (fun a c => if c.2 < a.2 then c else a) (0, 0)
  match y with
  | .nan _ => (0, fNV)
  | .inf neg => ((if neg then lo else hi).1, fOF ||| fNX)
  | y =>
    let k := y.frac
    let v := 2 * y.fixedAt k
    let below := cands.filter fun c => c.2 * 2 ^ k ≤ v
    let above := cands.filter fun c => c.2 * 2 ^ k ≥ v
    let mx := fun (a b : Nat × Int) => if b.2 > a.2 then b else a
    let mn := fun (a b : Nat × Int) => if b.2 < a.2 then b else a
    if v > hi.2 * 2 ^ k then (hi.1, fOF ||| fNX)
    else if v < lo.2 * 2 ^ k then (lo.1, fOF ||| fNX)
    else
      let c := match rm with
        | .rdn => (bestBy mx below).getD lo
        | .rup => (bestBy mn above).getD hi
        | .rtz => if v ≥ 0 then (bestBy mx (below.filter fun c => c.2 ≥ 0)).getD (0, 0)
                  else (bestBy mn (above.filter fun c => c.2 ≤ 0)).getD (0, 0)
        | _ => (bestBy (e2Nearer k v) cands).getD (0, 0)
      (c.1, if c.2 * 2 ^ k == v then 0 else fNX)

/-! ### Correctly rounded functions (R119) -/

/-- Bitwise integer square root, from the highest bit down. -/
def isqrtAux (n : Nat) : Nat → Nat → Nat
  | 0, r => r
  | b + 1, r => let t := r + 2 ^ b; isqrtAux n b (if t * t ≤ n then t else r)

/-- The largest r with r * r at most n. -/
def isqrt (n : Nat) : Nat := isqrtAux n (Nat.log2 n / 2 + 1) 0

/-- A truncated magnitude `n * 2^e` of which something may have been cut off, as a value that rounds the same way: two
more bits, the last of them sticky. -/
def sticky (neg : Bool) (n : Nat) (e : Int) (cut : Bool) : Real :=
  .fin neg (4 * n + cut.toNat) (e - 2)

/-- 1/x (R119), to 200 bits. -/
def recipReal (neg : Bool) (num : Nat) (exp : Int) : Real :=
  let k := 200 + Nat.log2 num
  sticky neg (2 ^ k / num) (-exp - k) (2 ^ k % num != 0)

/-- The square root (R119), to at least 100 bits. -/
def sqrtReal (num : Nat) (exp : Int) : Real :=
  let n := if exp % 2 == 0 then num else 2 * num
  let e := if exp % 2 == 0 then exp else exp - 1
  let x := n * 2 ^ 200
  let r := isqrt x
  sticky false r (e / 2 - 100) (r * r != x)

/-- 1 over the square root (R119). -/
def rsqrtReal (num : Nat) (exp : Int) : Real :=
  let n := if exp % 2 == 0 then num else 2 * num
  let e := if exp % 2 == 0 then exp else exp - 1
  let x := 2 ^ 400 / n
  let r := isqrt x
  sticky false r (-(e / 2) - 200) (r * r * n != 2 ^ 400)

/-- The natural logarithm of 2 over 2^320, by its series. -/
def ln2Fix : Nat := (List.range 320).foldl (fun a i => a + 2 ^ 320 / ((i + 1) * 2 ^ (i + 1))) 0

/-- e^x over 2^320 for x = t / 2^320 below 1, by its series. -/
def expFix (t : Nat) : Nat :=
  ((List.range 80).foldl (fun (a : Nat × Nat) i => let term := a.2 * t / 2 ^ 320 / (i + 1); (a.1 + term, term))
    (2 ^ 320, 2 ^ 320)).1

/-- 2^x (R119): the fraction of x is a multiple of 2^-160 in every format; a result that is not a power of two is
irrational, so the sticky bit stands for what the series cuts off (assumption log 6). -/
def exp2Real (neg : Bool) (num : Nat) (exp : Int) : Real :=
  let x : Int := Real.fixedAt 160 (.fin neg num exp)
  let i := x / 2 ^ 160
  let f := (x % 2 ^ 160).toNat
  if i > 1000 then .fin false 1 1000
  else if i < -1000 then .fin false 1 (-1000)
  else if f == 0 then .fin false 1 i
  else sticky false (expFix (f * ln2Fix / 2 ^ 160)) (i - 320) true

/-- The next bit of a base-2 logarithm: the significand m over 2^600, in [1, 2), squared. -/
def log2Bits : Nat → Nat → Nat → Nat
  | 0, _, acc => acc
  | n + 1, m, acc =>
    let s := m * m / 2 ^ 600
    if s ≥ 2 ^ 601 then log2Bits n (s / 2) (2 * acc + 1) else log2Bits n s (2 * acc)

/-- log2 x (R119), to 240 fraction bits; irrational unless x is a power of two (assumption log 6). log2 of 1.0 is an exact zero
whose sign no rule states (DESIGN CHOICE: +0; assumption log 69). -/
def log2Real (num : Nat) (exp : Int) : Real :=
  let l := Nat.log2 num
  let e := exp + l
  if num == 2 ^ l then Real.ofInt e
  else
    let z : Int := e * 2 ^ 240 + log2Bits 240 (num * 2 ^ (600 - l)) 0
    if z ≥ 0 then sticky false z.toNat (-240) true else sticky true (-z - 1).toNat (-240) true

/-- The transcendentals of R119. -/
inductive TransOp where
  | rcp | rsqrt | sqrt | exp2 | log2
deriving DecidableEq, Repr

/-- A transcendental's exact result, or special result, with its flags (R119, R74). -/
def transReal (op : TransOp) (x : Real) : Real × Flags :=
  match x with
  | .nan s => (.nan false, if s then fNV else 0)
  | .inf neg =>
    match op with
    | .rcp => (.fin neg 0 0, 0)
    | .rsqrt => if neg then (.nan false, fNV) else (.fin false 0 0, 0)
    | .sqrt => if neg then (.nan false, fNV) else (.inf false, 0)
    | .exp2 => if neg then (.fin false 0 0, 0) else (.inf false, 0)
    | .log2 => if neg then (.nan false, fNV) else (.inf false, 0)
  | .fin neg 0 _ =>
    match op with
    | .rcp => (.inf neg, fDZ)
    | .rsqrt => (.inf neg, fDZ)
    | .sqrt => (.fin neg 0 0, 0)
    | .exp2 => (.fin false 1 0, 0)
    | .log2 => (.inf true, fDZ)
  | .fin neg num exp =>
    match op with
    | .rcp => (recipReal neg num exp, 0)
    | .rsqrt => if neg then (.nan false, fNV) else (rsqrtReal num exp, 0)
    | .sqrt => if neg then (.nan false, fNV) else (sqrtReal num exp, 0)
    | .exp2 => (exp2Real neg num exp, 0)
    | .log2 => if neg then (.nan false, fNV) else (log2Real num exp, 0)

/-- A transcendental lane, rounded once (R119, R71). -/
def fTrans (op : TransOp) (f : Fmt) (rm : Rm) (x : Real) : Nat × Flags :=
  let (y, g) := transReal op x
  let (z, h) := y.round f rm
  (z, g ||| h)

/-! ### Orders of summation (R78 to R80) -/

/-- One level of the pairing of R78: lane i with lane i + n. -/
def treeLevel {α : Type} (comb : α → α → α × Flags) (xs : List α) : List α × Flags :=
  let n := xs.length / 2
  let rs := List.zipWith comb (xs.take n) (xs.drop n)
  (rs.map (·.1), rs.foldl (fun g r => g ||| r.2) 0)

/-- `TreeSum` (R78) with fuel for its levels. -/
def tree {α : Type} (comb : α → α → α × Flags) : Nat → List α → List α × Flags
  | 0, xs => (xs, 0)
  | k + 1, xs =>
    if xs.length ≤ 1 then (xs, 0)
    else
      let (ys, g) := treeLevel comb xs
      let (zs, h) := tree comb k ys
      (zs, g ||| h)

/-- One step of `Scan` at distance d (R79). -/
def scanStep (comb : Nat → Nat → Nat × Flags) (d : Nat) (xs : List Nat) : List Nat × Flags :=
  let rs := List.zipWith comb xs (xs.drop d)
  (xs.take d ++ rs.map (·.1), rs.foldl (fun g r => g ||| r.2) 0)

/-- `Scan` (R79): distances d, 2d, ... below the length, with fuel. -/
def scan (comb : Nat → Nat → Nat × Flags) : Nat → Nat → List Nat → List Nat × Flags
  | 0, _, xs => (xs, 0)
  | k + 1, d, xs =>
    if d ≥ xs.length then (xs, 0)
    else
      let (ys, g) := scanStep comb d xs
      let (zs, h) := scan comb k (2 * d) ys
      (zs, g ||| h)

end Sys2Proof.Machine
end

