-- ==== Sys2Proof/Machine/Ops.lean ====
section
/-! DEFINITION. The named operations every meaning is made of: sparse maps, bytes of memory, contexts and registers,
translation (R316 to R319), checks of store accesses (R217 to R229), counter adds (R190), results (R48 to R50), taking a
trap (R307) and returning from it (R315). -/

namespace Sys2Proof.Machine

/-! ### Sparse maps and bytes -/

/-- The value at a key, or the default. -/
def getAt {α : Type} (d : α) : SMap α → Nat → α
  | [], _ => d
  | (k', v) :: m, k => if k' = k then v else getAt d m k

/-- Writing a key in the canonical form: keys strictly rising, no entry equal to the default. -/
def setAt {α : Type} [DecidableEq α] (d : α) : SMap α → Nat → α → SMap α
  | [], k, v => if v = d then [] else [(k, v)]
  | (k', v') :: m, k, v =>
    if k < k' then (if v = d then (k', v') :: m else (k, v) :: (k', v') :: m)
    else if k = k' then (if v = d then m else (k, v) :: m)
    else (k', v') :: setAt d m k v

/-- Writing a key of a map in any form: no other key reads otherwise than before. -/
def putAt {α : Type} [DecidableEq α] (d : α) (m : SMap α) (k : Nat) (v : α) : SMap α := setAt d (m.filter (·.1 ≠ k)) k v

/-- One byte of a memory: an unlisted address reads 0 (R220; assumption log 2). -/
def getByte (m : List Host.Cell) (a : Nat) : Byte := getAt 0 m a

/-- Writing one byte. -/
def setByte (m : List Host.Cell) (a : Nat) (b : Byte) : List Host.Cell := setAt 0 m a b

/-- `n` bytes from an address upwards. -/
def readN (m : List Host.Cell) (a n : Nat) : List Byte := (List.range n).map fun i => getByte m (a + i)

/-- Writing bytes from an address upwards. -/
def writeN (m : List Host.Cell) (a : Nat) : List Byte → List Host.Cell
  | [] => m
  | b :: bs => writeN (setByte m a b) (a + 1) bs

/-- Bytes as an unsigned little-endian integer (R9). -/
def leNat : List Byte → Nat
  | [] => 0
  | b :: bs => b.toNat + 256 * leNat bs

/-- The low `n` bytes of an integer, little-endian. -/
def leBytes : Nat → Nat → List Byte
  | 0, _ => []
  | n + 1, x => BitVec.ofNat 8 x :: leBytes n (x / 256)

/-- An 8-byte word of memory. -/
def leWord (bs : List Byte) : Word := BitVec.ofNat 64 (leNat bs)

/-- The bytes of a vector register. -/
def vecBytes (x : BitVec 8192) (n : Nat) : List Byte := (List.range n).map fun i => BitVec.ofNat 8 (laneBits x 8 i)

/-- A vector register made of bytes; the bytes not given are zero. -/
def bytesVec (bs : List Byte) : BitVec 8192 := BitVec.ofNat 8192 (leNat bs)

/-- A vector element, the default outside. -/
def vget {α : Type} {n : Nat} (d : α) (v : Vector α n) (i : Nat) : α := (v[i]?).getD d

/-- A vector with one element changed; nothing outside. -/
def vmod {α : Type} {n : Nat} (v : Vector α n) (i : Nat) (f : α → α) : Vector α n :=
  if h : i < n then v.set i (f v[i]) else v

/-! ### Faults -/

/-- Detail word 0 of a fault that no walk raised (R312): write in bit 4, fetch in bit 5. -/
def accWord (write fetch : Bool) : Word := BitVec.ofNat 64 (16 * write.toNat + 32 * fetch.toNat)

/-- A fault with a cause, sub-code and address. -/
def fault (cause sub : Nat) (addr : Word) : FaultInfo := { cause, sub, addr }

/-- A fault of a check of an access that is no walk (R312). -/
def accFault (cause sub : Nat) (addr : Word) (write : Bool) : FaultInfo :=
  { cause, sub, addr, detail := if cause = 0x0A || cause = 0x0C then [accWord write false] else [] }

/-- Detail words of a fault as recorded: causes 0x0A and 0x0C of other checks have one (R312). -/
def detailOf (f : FaultInfo) : List Word :=
  if f.detail.isEmpty && (f.cause = 0x0A || f.cause = 0x0C) then [0] else f.detail

/-! ### Contexts -/

/-- The thread a context runs: launch number and thread number; events name a context by it. -/
def Ctx.uid (c : Ctx) : Nat := 2 ^ 24 * c.lnch + c.tid

/-- Changing one thread's context, wherever it is. -/
def modCtx (u : Nat) (f : Ctx → Ctx) (s : State) : State :=
  if s.me.uid = u then { s with me := f s.me }
  else { s with
    others := s.others.map fun c => if c.uid = u then f c else c
    saved := s.saved.map fun v => if v.ctx.uid = u then { v with ctx := f v.ctx } else v }

/-- The context of a thread, bound or saved. -/
def findCtx (u : Nat) (s : State) : Option Ctx :=
  if s.me.uid = u then some s.me
  else match s.others.find? (·.uid = u) with
    | some c => some c
    | none => (s.saved.find? (·.ctx.uid = u)).map (·.ctx)

/-- The bound contexts. -/
def bound (s : State) : List Ctx := (s.me :: s.others).filter (·.status ≠ .free)

/-- Changing the sequencing state of the context in issue. -/
def modSq (f : Seq → Seq) (s : State) : State := { s with me := { s.me with sq := f s.me.sq } }

/-- Changing the sequencing state of a thread's context. -/
def modSqOf (u : Nat) (f : Seq → Seq) (s : State) : State := modCtx u (fun c => { c with sq := f c.sq }) s

/-- Changing the general registers of the context in issue. -/
def modRegs (f : Regs → Regs) (s : State) : State := { s with me := { s.me with regs := f s.me.regs } }

/-- Changing the control registers of the context in issue. -/
def modCtl (f : Ctl → Ctl) (s : State) : State := { s with me := { s.me with ctl := f s.me.ctl } }

/-- A die; number 8 and above name none. -/
def dieOf (s : State) (d : Nat) : Die := vget Die.reset s.dies d

/-- Changing a die. -/
def modDie (d : Nat) (f : Die → Die) (s : State) : State := { s with dies := vmod s.dies d f }

/-- A core of a die. -/
def coreOf (s : State) (d c : Nat) : Core := getAt Core.reset s.cores (64 * d + c)

/-- Changing a core. -/
def modCore (d c : Nat) (f : Core → Core) (s : State) : State :=
  { s with cores := setAt Core.reset s.cores (64 * d + c) (f (coreOf s d c)) }

/-- A launch by number. -/
def launchOf (s : State) (l : Nat) : Option Launch := s.launches.find? (·.num = l)

/-- Changing a launch. -/
def modLaunch (l : Nat) (f : Launch → Launch) (s : State) : State :=
  { s with launches := s.launches.map fun x => if x.num = l then f x else x }

/-! ### Registers (R14) -/

/-- Scalar register: `s0` reads zero. -/
def rdS (s : State) (r : SReg) : Word := if r.val = 0 then 0 else s.me.regs.s[r]

/-- Predicate: `p0` reads 1. -/
def rdP (s : State) (r : PReg) : Bool := if r.val = 0 then true else s.me.regs.p.getLsbD r.val

/-- Lane mask: `m0` reads all ones. -/
def rdM (s : State) (r : MReg) : BitVec 1024 := if r.val = 0 then BitVec.allOnes 1024 else s.me.regs.m[r]

/-- Vector register. -/
def rdV (s : State) (r : VReg) : VData := s.me.regs.v[r]

/-- Handle register. -/
def rdK (s : State) (r : KReg) : Word := s.me.regs.k[r]

/-- All sixteen predicates, bit 0 reading 1. -/
def rdPAll (s : State) : Nat := (s.me.regs.p ||| 1).toNat

/-- A default E2M1X block in every place (R129): codes 0, scale 0x7F, special 0x00. -/
def defaultBlocks : BitVec 8192 := bytesVec (List.replicate 768 0 ++ List.replicate 48 0x7F)

/-- Whether an update is a result: an entry of Snap (R307, R308), not the mere end of a slot. -/
def Upd.result : Upd → Bool
  | .none => false
  | _ => true

/-- The vector registers an update writes. -/
def Upd.vecs : Upd → List VReg
  | .v r .. | .blk r .. => [r]
  | .puts _ l => l.map (·.1)
  | _ => []

/-- Whether a register's pending update names the same register as another. -/
def Upd.same : Upd → Upd → Bool
  | .s a _, .s b _ | .s a _, .keepS b | .keepS a, .s b _ | .keepS a, .keepS b => a = b
  | .k a _, .k b _ => a = b
  | .outs a, .s b _ | .outs a, .keepS b => a = b
  | x, y => x.vecs.any fun r => y.vecs.contains r

/-- One register of a `vputl` takes its granules (R121). -/
def putGrans (data : BitVec 8192) (g : Regs) (x : VReg × BitVec 8192 × Option (Tag × BitVec 8192)) : Regs :=
  let o := g.v[x.1]
  let (old, tag) := match x.2.2 with | some (t, fill) => (fill, t) | none => (o.bits, o.tag)
  { g with v := g.v.set x.1 { bits := (old &&& ~~~x.2.1) ||| (data &&& x.2.1), tag } }

/-- The write of one result into the general registers; writes to `s0`, `p0` and `m0` are discarded (R14). -/
def applyReg (u : Upd) (g : Regs) : Regs :=
  match u with
  | .s r x => if r.val = 0 then g else { g with s := g.s.set r x }
  | .p r x => if r.val = 0 then g else
      { g with p := if x then g.p ||| BitVec.ofNat 16 (2 ^ r.val) else g.p &&& ~~~(BitVec.ofNat 16 (2 ^ r.val)) }
  | .m r x => if r.val = 0 then g else { g with m := g.m.set r x }
  | .v r data mask tag =>
    let o := g.v[r]
    { g with v := g.v.set r { bits := (o.bits &&& ~~~mask) ||| (data &&& mask), tag := tag.getD o.tag } }
  | .blk r data mask =>
    let o := g.v[r]
    let old := if o.tag = .e2m1x then o.bits else defaultBlocks
    { g with v := g.v.set r { bits := (old &&& ~~~mask) ||| (data &&& mask), tag := .e2m1x } }
  | .k r x => { g with k := g.k.set r x }
  | .puts data l => l.foldl (putGrans data) g
  | .ps x => { g with p := (g.p &&& 1) ||| (x &&& 0xFFFE) }
  | _ => g

/-- The stored part of a control register takes a value formed by R103; the tile configurations are written elsewhere. -/
def applyCsr (n : Nat) (x : Word) (c : Ctl) : Ctl :=
  match n with
  | 0x000 => { c with wovf := bit x 31, slot := BitVec.ofNat 3 (bits x 22 3) }
  | 0x001 => { c with xpc := x }
  | 0x002 => { c with xcause := x }
  | 0x003 => { c with xaddr := x }
  | 0x004 => { c with xvec := x }
  | 0x005 => { c with xrec := x }
  | 0x006 => { c with xstk := x }
  | 0x008 => { c with vflags := BitVec.ofNat 6 x.toNat }
  | 0x009 => { c with vmode := BitVec.ofNat 2 x.toNat }
  | _ => c

/-- Outstanding counts (R26): L, S, C and T. -/
def outL (c : Ctx) : Nat := (c.sq.pends.filter (·.cls)).length
/-- Class S. -/
def outS (c : Ctx) : Nat := c.sq.stores.length
/-- Whether a command is a churn command (class T, R282). -/
def CmdOp.churn : CmdOp → Bool
  | .mma .. | .mmz .. | .mmdr .. | .qld .. | .qst .. | .eset .. | .etab .. => true
  | _ => false
/-- Class C. -/
def outC (c : Ctx) : Nat :=
  (c.sq.cmds.filter fun x => !x.done && !x.op.churn && (match x.op with | .arrival .. | .query .. => false | _ => true)).length
/-- Class T. -/
def outT (c : Ctx) : Nat := (c.sq.cmds.filter fun x => !x.done && x.op.churn).length

/-- `OUTS` as it reads (R26). -/
def outsWord (c : Ctx) : Word :=
  BitVec.ofNat 64 (outT c % 256 * 2 ^ 24 + outC c % 256 * 2 ^ 16 + outS c % 256 * 2 ^ 8 + outL c % 256)

/-- A result whose value the group fixes when it has issued: `OUTS` with the group's own operations (R26). -/
def fixUpd (c : Ctx) : Upd → Upd
  | .outs r => .s r (outsWord c)
  | u => u

/-- One result lands (R48, R49). -/
def applyUpd (u : Upd) (c : Ctx) : Ctx :=
  match fixUpd c u with
  | .csr n x => { c with ctl := applyCsr n x c.ctl }
  | .loop l => { c with sq := { c.sq with loops := l :: c.sq.loops } }
  | u => { c with regs := applyReg u c.regs }

/-- `CLK` as it reads: it never decreases (R25; assumption log 59). -/
def clkWord (s : State) : Word := BitVec.ofNat 64 (min s.clk (2 ^ 64 - 1))

/-! ### Error records (R396, R397) -/

/-- CODE of a record: the cause or error code where a rule states one, a free value where none does (assumption log 7). -/
def recCode (cls code : Nat) : Nat :=
  if cls = 1 || cls = 2 || cls = 4 || code = 0x1A then code else (Config.errCode cls code).toNat

/-- DETAIL of a record: stated for class 0x02; free values that depend on what the record tells for the others (log 7). -/
def recDetail (src : Nat) (seq : BitVec 32) (cls what : Nat) (tells : List Word) : List Word :=
  if cls = 2 then tells else (List.range 6).map fun i => Config.errWord src seq cls what i tells

/-- An error record of a source: dropped and counted when 256 are buffered. -/
def errRecord (src cls what : Nat) (tells : List Word) (s : State) : State :=
  let code := recCode cls what
  if src < 8 then
    modDie src (fun d =>
      let r : ErrRec := { time := clkWord s, seq := d.errSeq, src, cls, code, detail := recDetail src d.errSeq cls what tells }
      if d.errs.length < 256 then { d with errs := d.errs ++ [r], errSeq := d.errSeq + 1 }
      else { d with errSeq := d.errSeq + 1, errLost := d.errLost + 1, lost := d.lost + 1 }) s
  else
    let y := s.sys
    let r : ErrRec := { time := clkWord s, seq := y.crSeq, src, cls, code, detail := recDetail src y.crSeq cls what tells }
    if y.crErrs.length < 256 then { s with sys := { y with crErrs := y.crErrs ++ [r], crSeq := y.crSeq + 1 } }
    else { s with sys := { y with crSeq := y.crSeq + 1, crLost := y.crLost + 1, crLostStat := y.crLostStat + 1 } }

/-! ### Worlds and translation (R22, R316 to R319, R390, R391) -/

/-- A region named by a valid entry with W = 1 is secure (R390). -/
def regionSecure (s : State) (pa : Nat) : Bool :=
  s.fab.regions.any fun (_, e) =>
    bit e 63 && bit e 62 && decide (bits e 0 18 ≤ pa / 2 ^ 21) && decide (pa / 2 ^ 21 ≤ bits e 18 18)

/-- What an access does, for its rights (R318). -/
inductive Right where
  | read | write | atomic | fetch
deriving DecidableEq, Repr

/-- Whether an access writes. -/
def Right.writes : Right → Bool
  | .write | .atomic => true
  | _ => false

/-- Canonical form (R22): bits [63:57] equal bit 56. -/
def canonical (a : Word) : Bool :=
  let t := a.toNat / 2 ^ 56
  t = 0 || t = 255

/-- The fault of a walk that meets entry `e` at a level (R312, R318). -/
def walkFault (acc : Right) (a : Word) (cause sub level : Nat) (e : Word) : FaultInfo :=
  { cause := if acc = .fetch then 0x09 else cause, sub := if acc = .fetch then 0 else sub, addr := a
    detail := [BitVec.ofNat 64 (level + 8) ||| accWord acc.writes (acc = .fetch), e] }

/-- Reserved bits of a table entry (R317). -/
def entryReserved (e : Word) : Bool := bits e 39 25 ≠ 0 || bits e 9 3 ≠ 0 || bits e 1 3 ≠ 0

/-- The shift of a level's index (R317). -/
def levelShift : Nat → Nat
  | 0 => 16
  | 1 => 30
  | 2 => 39
  | _ => 48

/-- The number of entries of a level's table (R317). -/
def levelEntries (l : Nat) : Nat := if l = 0 then 16384 else 512

/-- Whether the 32 level-0 entries of a 2 MiB group agree with R317. -/
def groupOk (hbm : List Host.Cell) (base idx : Nat) : Bool :=
  let es := (List.range 32).map fun i => leWord (readN hbm (base + 8 * (idx - idx % 32 + i)) 8)
  let e0 := es.headD 0
  es.zipIdx.all fun (e, i) =>
    bit e 0 && bit e 8 && bit e 7 && !entryReserved e && bits e 4 3 = bits e0 4 3 && bits e 21 18 = bits e0 21 18 &&
      bits e 16 5 = i && bits e 12 4 = 0

/-- Size of the page a leaf entry maps. -/
def leafSize (level : Nat) (e : Word) : Nat := if level = 1 then 2 ^ 30 else if bit e 8 then 2 ^ 21 else 2 ^ 16

/-- The walk from a level down: the leaf's level and entry. -/
def walkFrom (hbm : List Host.Cell) (acc : Right) (a : Word) : Nat → Nat → Except FaultInfo (Nat × Word)
  | level, base =>
    let idx := a.toNat / 2 ^ levelShift level % levelEntries level
    let e := leWord (readN hbm (base + 8 * idx) 8)
    let bad := Except.error (walkFault acc a 0x0A 0x02 level e)
    if !bit e 0 then .error (walkFault acc a 0x0A 0x00 level e)
    else if entryReserved e then bad
    else if bit e 7 then
      if level ≥ 2 || (bit e 8 && level ≠ 0) then bad
      else if level = 1 && bits e 12 18 ≠ 0 || level = 0 && bits e 12 4 ≠ 0 then bad
      else if bit e 8 && !groupOk hbm base idx then bad
      else .ok (level, e)
    else if bit e 8 then bad
    else match level with
      | 0 => bad
      | l + 1 => walkFrom hbm acc a l (bits e 12 27 * 4096)

/-- Rights of a leaf against an access (R318). -/
def leafAllows (acc : Right) (e : Word) : Bool :=
  match acc with
  | .read => bit e 4
  | .write => bit e 5
  | .atomic => bit e 4 && bit e 5
  | .fetch => bit e 6

/-- The physical address a leaf gives. -/
def leafPa (level : Nat) (e : Word) (a : Word) : Nat :=
  let sz := leafSize level e
  bits e 12 27 * 4096 / sz * sz + a.toNat % sz

/-- Where a walk is made (R319): a die, and the core whose TLB serves the access beside the die's own; an agent of no core
has the die's alone. -/
structure Site where
  die  : Nat
  core : Option Nat
deriving DecidableEq, Repr

/-- The site of a context's accesses. -/
def Ctx.site (c : Ctx) : Site := ⟨c.die, some c.core⟩

/-- Whether a TLB serves a site. -/
def TlbEntry.serves (t : TlbEntry) (p : Site) : Bool := t.die = p.die && (t.core.isNone || t.core = p.core)

/-- A held translation of an address (R319). -/
def tlbHit (s : State) (p : Site) (world : Bool) (a : Word) : Option TlbEntry :=
  s.tlb.find? fun t => t.serves p && t.world = world && decide (t.va ≤ a.toNat % 2 ^ 57) && decide (a.toNat % 2 ^ 57 < t.va + t.size)

/-- The root of a world on a die (R316). -/
def rootOf (s : State) (die : Nat) (world : Bool) : Word :=
  if world then (dieOf s die).trt1 else (dieOf s die).trt0

/-- The leaf for an address: held in a TLB, or walked from the root. -/
def leafFor (s : State) (p : Site) (world : Bool) (acc : Right) (a : Word) : Except FaultInfo (Nat × Word) :=
  match tlbHit s p world a with
  | some t => .ok (t.level, t.raw)
  | none =>
    let r := rootOf s p.die world
    if !bit r 63 then
      .error { cause := if acc = .fetch then 0x09 else 0x0A, addr := a
               detail := if acc = .fetch then [] else [accWord acc.writes false] }
    else walkFrom s.hbm acc a 3 (bits r 12 27 * 4096)

/-- The home vat of an HBM line on its die, with K cache-mode vats (R219). -/
def homeVat (k sa : Nat) : Nat :=
  let f := fun (x : Nat) => sa / 2 ^ x % 64
  64 - k + (((((f 6) ^^^ f 12) ^^^ f 18) ^^^ f 24) ^^^ f 30) % k

/-- Whether the home of the line of a physical address is a secure vat: every access to the line is performed there (R219, R391). -/
def homeSecure (s : State) (pa : Nat) : Bool :=
  let d := dieOf s (pa / 2 ^ 36 % 8)
  bit d.vatw (homeVat (8 * bits d.dmcfg 0 3) pa)

/-- The fault of a VA access of the non-secure world that reaches a secure region or vat (R391). -/
def secureFault (acc : Right) (a : Word) : FaultInfo := { cause := 0x0C, addr := a, detail := [accWord acc.writes (acc = .fetch)] }

/-- Addresses at which the lines of [a, a + n) begin within it. -/
def lineStarts (a n : Nat) : List Nat :=
  if n = 0 then [] else
    (List.range ((a + n - 1) / 64 - a / 64 + 1)).map fun i => if i = 0 then a else (a / 64 + i) * 64

/-- The first line of a piece of HBM whose home is a secure vat, for an agent of the non-secure world; `a` is the VA of the piece. -/
def secureLine (s : State) (world : Bool) (acc : Right) (pa n : Nat) (a : Word) : Option FaultInfo :=
  if world then none
  else ((lineStarts pa n).find? (homeSecure s)).map fun x => secureFault acc (a + BitVec.ofNat 64 (x - pa))

/-- The physical address of one VA (R22, R318, R390, R391). -/
def translate (s : State) (p : Site) (world : Bool) (acc : Right) (a : Word) : Except FaultInfo Nat :=
  if !canonical a then
    .error { cause := if acc = .fetch then 0x09 else 0x0A, sub := if acc = .fetch then 0 else 1, addr := a
             detail := if acc = .fetch then [] else [accWord acc.writes false] }
  else match leafFor s p world acc a with
    | .error f => .error f
    | .ok (l, e) =>
      if !leafAllows acc e then .error (walkFault acc a 0x0C 0x00 l e)
      else
        let pa := leafPa l e a
        if (regionSecure s pa || homeSecure s pa) && !world then .error (secureFault acc a) else .ok pa

/-- The pieces of a VA access, cut at 64 KiB, in ascending order with the first failing byte's fault (R139). `fuel` is
one more than the number of cuts. -/
def translateSegs (s : State) (p : Site) (world : Bool) (acc : Right) : Nat → Word → Nat → Except FaultInfo (List Seg)
  | 0, _, _ => .ok []
  | fuel + 1, a, n =>
    if n = 0 then .ok []
    else
      let k := min n (2 ^ 16 - a.toNat % 2 ^ 16)
      match translate s p world acc a with
      | .error f => .error f
      | .ok pa =>
        match secureLine s world acc pa k a with
        | some f => .error f
        | none =>
        if a.toNat + k ≥ 2 ^ 64 && n > k then
          -- the next byte would lie past the top of the space (R138)
          .error (accFault 0x0A 1 (a + BitVec.ofNat 64 k) acc.writes)
        else match translateSegs s p world acc fuel (a + BitVec.ofNat 64 k) (n - k) with
          | .error f => .error f
          | .ok gs => .ok (⟨false, pa, k, a⟩ :: gs)

/-- The pieces of a VA access of `n` bytes. -/
def vaSegs (s : State) (p : Site) (world : Bool) (acc : Right) (a : Word) (n : Nat) : Except FaultInfo (List Seg) :=
  translateSegs s p world acc (n / 2 ^ 16 + 2) a n

/-! ### The die stores (R217, R220, R228, R229) -/

/-- The state of the store line that holds an address. -/
def lineAt (s : State) (a : Nat) : LineSt := getAt .uncounted s.lines (a / 64)

/-- Setting it. -/
def setLine (a : Nat) (l : LineSt) (s : State) : State := { s with lines := setAt .uncounted s.lines (a / 64) l }

/-- Vats 64 - K and above are cache-mode vats (R215). -/
def cacheVat (s : State) (die vat : Nat) : Bool := decide (vat ≥ 64 - 8 * bits (dieOf s die).dmcfg 0 3)

/-- Number of a bank in the ownership map: die, vat, bank (R214, R217). -/
def bankNo (a : Nat) : Nat := (a / 2 ^ 28 % 8) * 1024 + (a / 2 ^ 22 % 64) * 16 + a / 64 % 16

/-- The launch that owns a bank; 0 is FREE (R220). -/
def bankOwner (s : State) (b : Nat) : Nat := getAt 0 s.banks b

/-- How an access treats store lines (columns of R229). -/
inductive LineAcc where
  | plain | consume | store | atomic | counted (n : Nat) | query
deriving DecidableEq, Repr

/-- Whether the access writes. -/
def LineAcc.writes : LineAcc → Bool
  | .store | .atomic | .counted _ => true
  | _ => false

/-- The rights a VA access needs. -/
def LineAcc.right : LineAcc → Right
  | .store | .counted _ => .write
  | .atomic => .atomic
  | _ => .read

/-- The table of R229: the next state, or cause and sub-code. -/
def lineNext (k : LineAcc) (l : LineSt) : Except (Nat × Nat) LineSt :=
  match l, k with
  | .uncounted, .counted m => .ok (.counted m)
  | .uncounted, _ => .ok .uncounted
  | .counted n, .consume => .ok (if n ≤ 1 then .empty else .counted (n - 1))
  | .counted n, .plain => .ok (.counted n)
  | .counted n, .query => .ok (.counted n)
  | .counted _, _ => .error (0x0E, 0)
  | .empty, .query => .ok .empty
  | .empty, .store => .ok .uncounted
  | .empty, .counted m => .ok (.counted m)
  | .empty, _ => .error (0x0D, 0)
  | .counter, .plain => .ok .counter
  | .counter, .query => .ok .counter
  | .counter, .consume => .ok .counter
  | .counter, _ => .error (0x0F, 0)

/-- The first line of an access that fails its check (R229). -/
def linesCheck (s : State) (k : LineAcc) (a n : Nat) : Option FaultInfo :=
  (lineStarts a n).findSome? fun x =>
    match lineNext k (lineAt s x) with
    | .error (c, b) => some (accFault c b (BitVec.ofNat 64 x) k.writes)
    | .ok _ => none

/-- The agent of an access: whose world, for which launch, on which die and for which core it walks (R220, R391, R319). -/
structure Agent where
  world : Bool
  lnch  : Nat
  die   : Nat
  core  : Option Nat := none
deriving DecidableEq, Repr

/-- The site of an agent's accesses. -/
def Agent.site (a : Agent) : Site := ⟨a.die, a.core⟩

/-- The context in issue as an agent. -/
def agentOf (c : Ctx) : Agent := { world := c.world, lnch := c.lnch, die := c.die, core := some c.core }

/-- Whether the vat of a store address is secure and the agent is not (R391). -/
def vatForbidden (s : State) (world : Bool) (a : Nat) : Bool := bit (dieOf s (a / 2 ^ 28)).vatw (a / 2 ^ 22 % 64) && !world

/-- Range, world and ownership of a store access (R136, R217, R220), without its line check. -/
def storeCheck (s : State) (ag : Agent) (w : Bool) (A : Word) (n : Nat) : Option FaultInfo :=
  let a := A.toNat
  if a ≥ 2 ^ 31 || cacheVat s (a / 2 ^ 28) (a / 2 ^ 22 % 64) || a % 2 ^ 22 ≥ 0x300000 then some (accFault 0x0A 3 A w)
  else if a % 2 ^ 22 + n > 0x300000 then
    some (accFault 0x0A 3 (BitVec.ofNat 64 (a - a % 2 ^ 22 + 0x300000)) w)
  else if vatForbidden s ag.world a then some (accFault 0x0C 0 A w)
  else (lineStarts a n).findSome? fun x =>
    if bankOwner s (bankNo x) = ag.lnch then none else some (accFault 0x19 0 (BitVec.ofNat 64 x) w)

/-- The line of a store access takes its next state; a write into an EMPTY line starts from zeros (R229). -/
def stepLine (k : LineAcc) (x : Nat) (s : State) : State :=
  match lineNext k (lineAt s x) with
  | .error _ => s
  | .ok l =>
    let s := if lineAt s x = .empty && k.writes then { s with store := writeN s.store (x / 64 * 64) (List.replicate 64 0) } else s
    setLine x l s

/-- Whether every line of slot `j` of a pail is in a state. -/
def slotAll (s : State) (p : PailDef) (j : Nat) (f : LineSt → Bool) : Bool :=
  (List.range p.lines).all fun i => f (lineAt s (p.base + 64 * (p.lines * j + i)))

/-- A COUNTED line. -/
def isCounted : LineSt → Bool
  | .counted _ => true
  | _ => false

/-- A pail notices that slot `j` has become filled or freed (R239); `u` made the access that completed it. -/
def noticeSlot (s : State) (u : PailBy) (j : Nat) (p : PailDef) : PailDef :=
  if p.filled.getD j false then
    (if slotAll s p j (· = .empty) then { p with filled := p.filled.set j false, owedE := p.owedE ++ [(j, u)] } else p)
  else (if slotAll s p j isCounted then { p with filled := p.filled.set j true, owedF := p.owedF ++ [(j, u)] } else p)

/-- The slots of a pail that an access of [a, a + n) touches. -/
def pailSlots (p : PailDef) (a n : Nat) : List Nat :=
  (List.range p.depth).filter fun j =>
    decide (a / 64 * 64 < p.base + 64 * p.lines * (j + 1)) && decide (p.base + 64 * p.lines * j < a + n)

/-- The pails of a die notice an access to its lines. -/
def pailNotice (u : PailBy) (a n : Nat) (s : State) : State :=
  modDie (a / 2 ^ 28 % 8) (fun d => { d with pails := d.pails.map fun p => (pailSlots p a n).foldl (fun p j => noticeSlot s u j p) p }) s

/-- The line checks of a store access that has passed, made as one step. -/
def stepLines (k : LineAcc) (u : PailBy) (a n : Nat) (s : State) : State :=
  pailNotice u a n ((lineStarts a n).foldl (fun s x => stepLine k x s) s)

/-! ### Home slices (R232) -/

/-- State of an HBM line in its home slice. -/
def homeAt (s : State) (pa : Nat) : HomeSt := getAt .absent s.home (pa / 64)

/-- The table of R232: next state, and the event (over-read 0x0D, under-read 0x0E) if any. -/
def homeNext (k : LineAcc) (h : HomeSt) : HomeSt × Option Nat :=
  match k with
  | .query => (h, none)
  | .plain =>
    match h with
    | .absent | .dropped => (.clean, none)
    | h => (h, none)
  | .consume =>
    match h with
    | .absent => (.clean, none)
    | .dropped => (.clean, some 0x0D)
    | .counted n => (if n ≤ 1 then .dropped else .counted (n - 1), none)
    | h => (h, none)
  | .store | .atomic =>
    match h with
    | .counted _ => (.dirty, some 0x0E)
    | _ => (.dirty, none)
  | .counted m =>
    match h with
    | .counted _ => (.counted m, some 0x0E)
    | _ => (.counted m, none)

/-- A boundary fault is recorded for a thread (R305); after its `exit` it goes to the launch's error record when the thread
retires (R156). -/
def recordFault (u : Nat) (f : FaultInfo) (s : State) : State :=
  match findCtx u s with
  | none => s
  | some _ => modSqOf u (fun q => { q with faults := q.faults ++ [f] }) s

/-- A home-slice event (R232): statistic, error record and, under CTRAP, the causing context. DESIGN CHOICE (assumption log 94): one
that a request of another module causes is delivered to no context. -/
def homeEvent (cause : Nat) (u : Option Nat) (va : Word) (pa : Nat) (s : State) : State :=
  let d := pa / 2 ^ 36 % 8
  let s := modDie d (fun x => if cause = 0x0D then { x with overs := x.overs + 1 } else { x with unders := x.unders + 1 }) s
  let s := if bit (dieOf s d).dmcfg 5 then errRecord d 0x04 cause [BitVec.ofNat 64 (pa / 64 * 64)] s else s
  match u with
  | some u => if bit (dieOf s d).dmcfg 6 then recordFault u { cause, addr := va, detail := [7] } s else s
  | none => s

/-- One line of a VA access meets its home slice. -/
def stepHome (k : LineAcc) (u : Option Nat) (va : Word) (pa : Nat) (s : State) : State :=
  let (h, e) := homeNext k (homeAt s pa)
  let s := { s with home := setAt .absent s.home (pa / 64) h }
  match e with
  | some c => homeEvent c u va pa s
  | none => s

/-! ### Whole accesses -/

/-- The bytes of the pieces of an access. -/
def readSegs (s : State) (gs : List Seg) : List Byte :=
  gs.flatMap fun g => readN (if g.st then s.store else s.hbm) g.addr g.len

/-- Writing bytes over the pieces of an access. -/
def writeSegs (s : State) : List Seg → List Byte → State
  | [], _ => s
  | g :: gs, bs =>
    let now := bs.take g.len
    let s := if g.st then { s with store := writeN s.store g.addr now } else { s with hbm := writeN s.hbm g.addr now }
    writeSegs s gs (bs.drop g.len)

/-- The checks of a translated or store access, up to its line check (R139). Windows are remote and not here. -/
def accessSegs (s : State) (ag : Agent) (st : Bool) (k : LineAcc) (A : Word) (n : Nat) : Except FaultInfo (List Seg) :=
  if st then
    match storeCheck s ag k.writes A n with
    | some f => .error f
    | none =>
      match linesCheck s k A.toNat n with
      | some f => .error f
      | none => .ok [⟨true, A.toNat, n, A⟩]
  else vaSegs s ag.site ag.world k.right A n

/-- An access by a thread, or by none. -/
def PailBy.thread (u : Option Nat) : PailBy := ⟨u.getD 0, none, none⟩

/-- The line checks of the pieces of an access that has passed; pails see it as `b` made it. -/
def stepSegsBy (k : LineAcc) (u : Option Nat) (b : PailBy) (gs : List Seg) (s : State) : State :=
  gs.foldl (fun s g =>
    if g.st then stepLines k b g.addr g.len s
    else (lineStarts g.addr g.len).foldl (fun s x => stepHome k u (g.va + BitVec.ofNat 64 (x - g.addr)) x s) s) s

/-- The line checks of the pieces of an access of a thread. -/
def stepSegs (k : LineAcc) (u : Option Nat) (gs : List Seg) (s : State) : State := stepSegsBy k u (.thread u) gs s

/-- Whether a context stands inside a group, or inside a slot of it. -/
def Seq.mid (q : Seq) : Bool := !q.queue.isEmpty || q.rest.isSome

/-- The first uncorrectable line of an access (R214), as an address of its space. -/
def badLine (s : State) (gs : List Seg) : Option Word :=
  gs.findSome? fun g => (lineStarts g.addr g.len).findSome? fun x =>
    if (if g.st then s.badStore else s.badHbm).contains (x / 64) then some (g.va + BitVec.ofNat 64 (x - g.addr)) else none

/-- Device writes of whole words at a VA, as far as they are translated (launch status, queue headers). -/
def devWrite (ag : Agent) (a : Word) (bs : List Byte) (s : State) : State :=
  match vaSegs s ag.site ag.world .write a bs.length with
  | .error _ => s
  | .ok gs => writeSegs (stepSegs .store none gs s) gs bs

/-- A device read at a VA meets the home slices of its lines (R219, R232), as far as it is translated. -/
def devTouch (ag : Agent) (a : Word) (n : Nat) (s : State) : State :=
  match vaSegs s ag.site ag.world .read a n with
  | .error _ => s
  | .ok gs => stepSegs .plain none gs s

/-- Device reads at a VA: the bytes; `devTouch` is what the read does. -/
def devRead (s : State) (ag : Agent) (a : Word) (n : Nat) : Except FaultInfo (List Byte) :=
  match vaSegs s ag.site ag.world .read a n with
  | .error f => .error f
  | .ok gs => .ok (readSegs s gs)

/-- A device read of bytes with what it does (R219). -/
def devFetch (ag : Agent) (a : Word) (n : Nat) (s : State) : Except FaultInfo (State × List Byte) :=
  match vaSegs s ag.site ag.world .read a n with
  | .error f => .error f
  | .ok gs => .ok (stepSegs .plain none gs s, readSegs s gs)

/-! ### Messages to other modules -/

/-- A message leaves for another module. -/
def sendReply (p : Option Nat) (x : Nat × Nat × Nat × Nat × List Byte) (s : State) : State :=
  { s with ids := s.ids + 1, fab := { s.fab with resp := s.fab.resp ++ [⟨p, s.ids, x⟩] } }

/-- A message that travels by the route to its target. -/
def sendMsg (x : Nat × Nat × Nat × Nat × List Byte) (s : State) : State := sendReply none x s

/-- The face port by which the answer to a request travels: that of a face, which came in by it (R336). -/
def replyPort (q : RemoteReq) : Option Nat :=
  match q.op with
  | .face .. => some q.port
  | _ => none

/-- An error answer to a request (R378): cause, sub-code and the line. -/
def errorAnswer (q : RemoteReq) (cause sub : Nat) (line : Word) (s : State) : State :=
  sendReply (replyPort q) (q.src, 2, q.flow, q.seq, [BitVec.ofNat 8 cause, BitVec.ofNat 8 sub] ++ leBytes 8 line.toNat) s

/-! ### Launch status (R169) -/

/-- The STATE code. -/
def LState.code : LState → Nat
  | .new => 0 | .admitted => 1 | .triggered => 2 | .done => 3 | .failed => 4 | .cancelled => 5

/-- The device writes the status words of a launch and reports the write in an error record (R169). -/
def writeStat (l : Nat) (s : State) : State :=
  match launchOf s l with
  | none => s
  | some x =>
    let die := bits x.conf 36 8
    let home := (List.range 8).find? (fun d => die / 2 ^ d % 2 = 1) |>.getD 0
    let stat := x.num * 2 ^ 16 + x.err * 256 + x.kill.toNat * 8 + x.state.code
    let s := devWrite { world := x.world, lnch := l, die := home } (x.recVa + 0x100)
      (leBytes 8 stat ++ leBytes 8 x.trigd ++ leBytes 8 x.exitd ++ leBytes 8 x.einfo.toNat) s
    errRecord home 0x01 x.err [x.recVa, BitVec.ofNat 64 stat, BitVec.ofNat 64 x.trigd, BitVec.ofNat 64 x.exitd, x.einfo] s

/-- Codes 0x15, 0x1A and 0x85 keep the first error recorded (R169). -/
def setErr (l code : Nat) (einfo : Word) (kill : Bool) (s : State) : State :=
  writeStat l (modLaunch l (fun x =>
    let x := if kill then { x with kill := true } else x
    if x.err = 0 then { x with err := code, einfo := einfo } else x) s)

/-! ### Counters (R184, R190) -/

/-- The counter at a store address. -/
def counterAt (s : State) (a : Nat) : Nat := leNat (readN s.store (a / 8 * 8) 8)

/-- The tokens of the registered edges that `hit` names: thread, entry, stamp (R195, R200). -/
def edgeTokens (hit : WaitOn → Bool) (s : State) : List (Nat × Nat × Nat) :=
  s.dies.toList.flatMap fun d => (d.wft.filter fun e => match e.kind with | .edge w => hit w | _ => false).map
    fun e => (2 ^ 24 * e.lnch + e.tid, e.entry, e.stamp)

/-- The waiters woken by an add that brings a counter from `old` to `v` (R200): a token to each, and the watch is freed;
the edge goes when the group issues. -/
def wakeFor (a old v : Nat) (s : State) : State :=
  let past := fun x t => x = a && decide (old < t) && decide (t ≤ v)
  let toks := edgeTokens (fun w => match w with | .counter x t => past x t | _ => false) s
  { s with
    tokens := s.tokens ++ toks
    dies := s.dies.map fun d => { d with wft := d.wft.filter fun e => match e.kind with | .watch x t _ _ => !past x t | _ => true } }

/-- An add at the home vat (R190): the counter saturates; the answer says whether it did. -/
def addCounter (a n : Nat) (s : State) : State × Bool :=
  let old := counterAt s a
  let v := old + n
  let sat := decide (v > 2 ^ 64 - 1)
  let w := if sat then 2 ^ 64 - 1 else v
  (wakeFor a old w { s with store := writeN s.store (a / 8 * 8) (leBytes 8 w) }, sat)

/-- The checks of every counter add that reaches a vat on its own (R39, R191, R391): the vat's world, ownership, then counter
mode. -/
def addCheck (s : State) (world : Bool) (lnch a : Nat) : Option Nat :=
  if vatForbidden s world a then some 0x0C
  else if bankOwner s (bankNo a) ≠ lnch then some 0x19
  else if lineAt s a ≠ .counter then some 0x0F
  else none

/-- The boundary fault of a core add of a thread that fails its check when it is made (R39, R190, R391). -/
def lateAddFault (a code : Nat) : FaultInfo :=
  { cause := code, sub := if code = 0x0F then 2 else 0, addr := BitVec.ofNat 64 a, detail := [7] }

/-- The boundary fault of a saturating add (R190). -/
def satFault (a : Nat) : FaultInfo := { cause := 0x0F, sub := 1, addr := BitVec.ofNat 64 a, detail := [7] }

/-- The arrive add of a retired slot of a thread (R39): adds 1, or records a boundary fault. -/
def arriveAt (u lnch a : Nat) (s : State) : State :=
  match addCheck s ((findCtx u s).any (·.world)) lnch a with
  | some c => recordFault u (lateAddFault a c) s
  | none =>
    let (s, sat) := addCounter a 1 s
    if sat then recordFault u (satFault a) s else s

/-- A slot of a thread retires: its arrive add, if it has one, is owed and made. -/
def retireArrive (u : Nat) (lnch : Nat) (arr : Option Nat) (s : State) : State :=
  match arr with
  | none => s
  | some a => arriveAt u lnch a s

/-- The slot in issue retires now (R39, first rows): branches, prefetch, `yield` and the held waits. -/
def retireNow (s : State) : State := retireArrive s.me.uid s.me.lnch s.me.sq.arrive s

/-! ### Results (R48 to R50) -/

/-- Fixed-latency results in flight (R308). -/
def inFlight (fs : List Flight) : Nat := (fs.filter (·.upd.result)).length

/-- A fixed-latency result of the slot in issue: it lands before group `group + lat`. -/
def emit (lat : Nat) (u : Upd) (g : Flags) (s : State) : State :=
  modSq (fun q => { q with flights := q.flights ++ [⟨s.ids, q.group + lat, u, g, q.arrive, none⟩] }) s

/-- A fixed-latency result with a boundary fault that is recorded when it lands (R69, R146). -/
def emitFault (lat : Nat) (u : Upd) (f : Option FaultInfo) (s : State) : State :=
  modSq (fun q => { q with flights := q.flights ++ [⟨s.ids, q.group + lat, u, 0, q.arrive, f⟩] }) s

/-- A first result of a slot with several: the arrive suffix counts with the last (R39). -/
def emitMore (lat : Nat) (u : Upd) (s : State) : State :=
  modSq (fun q => { q with flights := q.flights ++ [⟨s.ids, q.group + lat, u, 0, none, none⟩] }) s

/-- A scalar result. -/
def putS (lat : Nat) (d : SReg) (x : Word) (s : State) : State := emit lat (.s d x) 0 s

/-- A variable-latency result that comes from `src` (R49). -/
def pendFrom (src : PendFrom) (u : Upd) (ready cls : Bool) (f : Option FaultInfo) (addr : Option Word) (s : State) : State :=
  let s := modSq (fun q => { q with pends := q.pends ++ [⟨s.ids, u, ready, cls, 0, q.arrive, f, addr, src⟩] }) s
  { s with ids := s.ids + 1 }

/-- A variable-latency result of the slot in issue (R49). -/
def pend (u : Upd) (ready cls : Bool) (f : Option FaultInfo) (addr : Option Word) (s : State) : State := pendFrom .own u ready cls f addr s

/-- A variable-latency scalar result. -/
def pendS (d : SReg) (x : Word) (cls : Bool) (s : State) : State := pend (.s d x) true cls none none s

/-- An operation of class S of the slot in issue (R142). -/
def storeOut (ready : Bool) (k : StoreKind) (f : Option FaultInfo) (s : State) : State :=
  let s := modSq (fun q => { q with stores := q.stores ++ [⟨s.ids, ready, q.arrive, f, q.group, k⟩] }) s
  { s with ids := s.ids + 1 }

/-- The results of a context due before a group land: control registers first, then the others in issue order, then
flags are ORed (R25, R50). -/
def landFlights (g : Nat) (c : Ctx) : Ctx :=
  let due := c.sq.flights.filter (·.due ≤ g)
  let isCsr := fun (f : Flight) => match f.upd with | .csr .. => true | _ => false
  let c := { c with sq := { c.sq with flights := c.sq.flights.filter fun f => !decide (f.due ≤ g) } }
  let c := (due.filter isCsr).foldl (fun c f => applyUpd f.upd c) c
  let c := (due.filter fun f => !isCsr f).foldl (fun c f => applyUpd f.upd c) c
  { c with ctl := { c.ctl with vflags := due.foldl (fun v f => v ||| f.flags) c.ctl.vflags }
           sq := { c.sq with owed := c.sq.owed ++ due.filterMap (·.arrive)
                             faults := c.sq.faults ++ due.filterMap (·.fault) } }

/-- An arrive add that a slot of a thread, now retired, owes to a counter is made (R39): one operation of its own (R243). -/
def payOwed (u a : Nat) (s : State) : State :=
  match findCtx u s with
  | none => s
  | some c => if c.sq.owed.contains a then arriveAt u c.lnch a (modSqOf u (fun q => { q with owed := q.owed.erase a }) s) else s

/-- The boundary after the results due have landed, for the context in issue. The arrive adds of their slots are owed. -/
def land (s : State) : State := { s with me := landFlights s.me.sq.group s.me }

/-- Whether a register has its pending bit set (R15, R187). -/
def pendingS (c : Ctx) (r : SReg) : Bool := c.sq.pends.any fun p => match p.upd with | .s x _ => x = r | .keepS x => x = r | _ => false
/-- As `pendingS`, for a vector register. -/
def pendingV (c : Ctx) (r : VReg) : Bool :=
  c.sq.pends.any fun p => p.upd.vecs.contains r
/-- As `pendingS`, for a handle. -/
def pendingK (c : Ctx) (r : KReg) : Bool := c.sq.pends.any fun p => match p.upd with | .k x _ => x = r | _ => false

/-! ### Control registers (R23 to R27) -/

/-- `XSTAT` as it reads. -/
def xstat (c : Ctx) : Word :=
  BitVec.ofNat 64 (c.ctl.wovf.toNat * 2 ^ 31 + c.sq.loops.length * 2 ^ 25 + c.ctl.slot.toNat * 2 ^ 22 + c.world.toNat * 2 ^ 8
    + c.ctl.handler.toNat)

/-- A control register as it reads; undefined numbers never reach it (R23). -/
def csrRead (s : State) (n : Nat) : Word :=
  let c := s.me
  match n with
  | 0x000 => xstat c
  | 0x001 => c.ctl.xpc
  | 0x002 => c.ctl.xcause
  | 0x003 => c.ctl.xaddr
  | 0x004 => c.ctl.xvec
  | 0x005 => c.ctl.xrec
  | 0x006 => c.ctl.xstk
  | 0x008 => c.ctl.vflags.setWidth 64
  | 0x009 => c.ctl.vmode.setWidth 64
  | 0x010 => BitVec.ofNat 64 (c.lnch % 2 ^ 32 * 2 ^ 16 + c.cid % 2048)
  | 0x011 => BitVec.ofNat 64 (c.nthr % 2 ^ 25 * 2 ^ 24 + c.tid % 2 ^ 24)
  | 0x012 => BitVec.ofNat 64 (c.die % 8 * 2 ^ 16 + c.core % 64 * 2 ^ 8 + (if Config.narrow c.die c.core then 1 else 2))
  | 0x013 => BitVec.ofNat 64 (c.churnOn.toNat * 2 ^ 20 + c.tiles % 16 * 2 ^ 16 + c.foot % 1024)
  | 0x014 => outsWord c
  | 0x015 => BitVec.ofNat 64 (c.bpri % 16 * 2 ^ 36 + c.epri % 16 * 2 ^ 32 + c.wt.entry.isSome.toNat * 2 ^ 31
      + (c.inh && decide (c.epri > c.bpri)).toNat * 2 ^ 30 + c.wt.entry.getD 0 % 2 ^ 13)
  | 0x016 => clkWord s
  | 0x017 => c.ctl.dictb
  | _ => if 0x20 ≤ n && n ≤ 0x27 then ((c.sq.cfgWas.find? fun x => x.1 = n - 0x20).map (·.2)).getD (vget Tile.reset c.regs.t (n - 0x20)).icfg
    else 0

/-- The three forms of `csrw` (R103). -/
inductive CsrOp where
  | write | set | clear
deriving DecidableEq, Repr

/-- RW bits of a control register (R25, R26). -/
def csrRW : Nat → Word
  | 0x000 => 0x01C00000
  | 0x001 => 0xFFFFFFFFFFFFFFFE
  | 0x002 => 0xFFFFFFFF0000FFFF
  | 0x003 => 0xFFFFFFFFFFFFFFFF
  | 0x004 => 0xFFFFFFFFFFFFFFFE
  | 0x005 => 0xFFFFFFFFFFFFFFC0
  | 0x006 => 0xFFFFFFFFFFFFFFF8
  | 0x008 => 0x3F
  | 0x009 => 0x3
  | n => if 0x20 ≤ n && n ≤ 0x27 then 0x3FFFFF else 0

/-- W1C bits: `XSTAT.WOVF`. -/
def csrW1C : Nat → Word
  | 0x000 => 0x80000000
  | _ => 0

/-- Bits writable only in handler mode (R24, R25). -/
def csrHandler : Nat → Word
  | 0x000 => 0x01C00000
  | 0x001 | 0x002 | 0x003 => 0xFFFFFFFFFFFFFFFF
  | _ => 0

/-- `XSTAT.SLOT` holds 0 to 5: values 6 and 7 are written as 5 (R25). -/
def slotField (n : Nat) (v : Word) : Word :=
  if n = 0 && bits v 22 3 > 5 then (v &&& ~~~0x01C00000) ||| BitVec.ofNat 64 (5 * 2 ^ 22) else v

/-- The value a write forms, field by field (R103). -/
def csrForm (op : CsrOp) (n : Nat) (old w : Word) : Word :=
  let rw := csrRW n
  let wc := csrW1C n
  let keep := ~~~(rw ||| wc)
  match op with
  | .write => (old &&& keep) ||| (w &&& rw) ||| (old &&& ~~~w &&& wc)
  | .set => (old &&& keep) ||| ((old ||| w) &&& rw) ||| (old &&& wc)
  | .clear => (old &&& keep) ||| (old &&& ~~~w &&& (rw ||| wc))

/-- The new value of a control register. SLOT takes its 5 for 6 and 7 here, before R24 looks at what changes (DEDUCED: R24
speaks of a write that would change the field, and such a write leaves a 5 as it was; assumption log 68). -/
def csrNew (op : CsrOp) (n : Nat) (old w : Word) : Word := slotField n (csrForm op n old w)

/-! ### The wait-for table: what a context leaves behind -/

/-- A context's own edge leaves the WFT: its entry, and the watch that serves it (R200). -/
def dropEdge (u : Nat) (s : State) : State :=
  match findCtx u s with
  | none => s
  | some c =>
    match c.wt.entry with
    | none => modCtx u (fun c => { c with wt := { Waiting.reset with tokens := c.wt.tokens, phases := c.wt.phases } }) s
    | some e =>
      let s := { s with dies := s.dies.map fun d => { d with wft := d.wft.filter fun x =>
        !(match x.kind with
          | .edge _ => x.entry = e && x.lnch = c.lnch && x.tid = c.tid
          | .watch _ _ _ ee => ee = e && x.lnch = c.lnch && x.tid = c.tid
          | _ => false) } }
      modCtx u (fun c => { c with wt := { Waiting.reset with tokens := c.wt.tokens, phases := c.wt.phases } }) s

/-! ### Owners of waits and priority inheritance (R202 to R205) -/

/-- The current generation of an entry of a die's group table. -/
def genOf (d : Die) (entry : Nat) : Nat := getAt 0 d.gens entry

/-- The live group of an entry with a generation. -/
def groupAt (s : State) (die entry gen : Nat) : Option Group :=
  (dieOf s die).groups.find? fun g => g.entry = entry && genOf (dieOf s die) entry = gen

/-- Present members (P of R157). -/
def Group.present_ (g : Group) : List Member := g.members.filter (·.present)

/-- An edge of the WFT with the die it stands in. -/
structure Edge where
  die : Nat
  e   : WftEntry
deriving DecidableEq, Repr

/-- The waiting thread of an entry. -/
def WftEntry.uid (e : WftEntry) : Nat := 2 ^ 24 * e.lnch + e.tid

/-- All registered edges of the module. -/
def edgesOf (s : State) : List Edge :=
  (List.range 8).flatMap fun d => ((dieOf s d).wft.filter fun e => match e.kind with | .edge _ => true | _ => false).map fun e => ⟨d, e⟩

/-- Whether an edge still waits: its counter is below the target (R194), its barrier's phase has not ended (R198). One that an
add has satisfied is registered until its waiter's group issues (R200), and waits no more (assumption log 78). -/
def Edge.waits (s : State) (x : Edge) : Bool :=
  match x.e.kind with
  | .edge (.counter a t) => decide (counterAt s a < t)
  | .edge (.barrier d n g t _) => match groupAt s d n g with | some g => decide (g.b < t) | none => false
  | _ => false

/-- The registered edges that still wait. -/
def waitsOf (s : State) : List Edge := (edgesOf s).filter (·.waits s)

/-- The owners of a wait: threads, whether an unjoined owner stands among them, and whether an engine command or a remote
peer does (R204). -/
structure Owners where
  threads  : List Nat
  unjoined : Bool
  outside  : Bool
deriving DecidableEq, Repr

/-- The live group of a launch with a key (R157). -/
def groupOfKey (s : State) (lnch : Nat) (key : Word) : Option Group :=
  (s.dies.toList.flatMap (·.groups)).find? fun g => g.lnch = lnch && g.key = key

/-- The owners one record gives (R202, R204): a group's are its present members. -/
def ownersOfRecord (s : State) (lnch tid okind : Nat) (val : Word) : Owners :=
  match okind with
  | 0 => ⟨[2 ^ 24 * lnch + tid], false, false⟩
  | 1 =>
    match groupOfKey s lnch val with
    | some g => ⟨g.present_.map fun m => 2 ^ 24 * g.lnch + m.tid, false, false⟩
    | none => ⟨[], false, false⟩
  | _ => ⟨[], false, true⟩

/-- Owners taken together. -/
def Owners.join (a b : Owners) : Owners := ⟨(a.threads ++ b.threads).dedup, a.unjoined || b.unjoined, a.outside || b.outside⟩

/-- The owners of a counter (R202, R204). -/
def counterOwners (s : State) (a : Nat) : Owners :=
  (dieOf s (a / 2 ^ 28)).wft.foldl (fun o e => match e.kind with
    | .owner x k v _ => if x = a then o.join (ownersOfRecord s e.lnch e.tid k v) else o
    | _ => o) ⟨[], false, false⟩

/-- The owners of an edge (R204); a channel edge has owners of its own (R359). -/
def ownersOf (s : State) (e : WftEntry) : Owners :=
  if !e.owners.isEmpty then
    e.owners.foldl (fun o (k, v) => o.join (if k = 0 then ⟨[v.toNat], false, false⟩ else ⟨[], false, true⟩)) ⟨[], false, false⟩
  else match e.kind with
    | .edge (.counter a _) => counterOwners s a
    | .edge (.barrier d n g _ _) =>
      match groupAt s d n g with
      | some g => ⟨(g.present_.filter fun m => !m.bit).map fun m => 2 ^ 24 * g.lnch + m.tid, g.members.length < g.size, false⟩
      | none => ⟨[], false, false⟩
    | _ => ⟨[], false, false⟩

/-- One round of inheritance (R205): each owner takes the priority of the edge's waiter if it is higher. -/
def inheritRound (s : State) (es : List Edge) (p : List (Nat × Nat)) : List (Nat × Nat) :=
  let prio := fun u => ((p.find? (·.1 = u)).map fun x => x.2).getD 0
  es.foldl (fun p x => let w := prio x.e.uid
    p.map fun y => if (ownersOf s x.e).threads.contains y.1 then (y.1, max y.2 w) else y) p

/-- The fixed point of inheritance: as many rounds as there are edges. -/
def inheritAll (s : State) (es : List Edge) : Nat → List (Nat × Nat) → List (Nat × Nat)
  | 0, p => p
  | n + 1, p => inheritAll s es n (inheritRound s es p)

/-- The effective priorities that the edges give the threads with a context (R205). -/
def priorities (s : State) (es : List Edge) : List (Nat × Nat) :=
  inheritAll s es es.length (((s.me :: s.others) ++ s.saved.map (·.ctx)).map fun c => (c.uid, c.bpri))

/-- What a thread inherits: the highest effective priority of the waiters of the edges it owns (R205). -/
def inherited (s : State) (es : List Edge) (p : List (Nat × Nat)) (u : Nat) : Nat :=
  ((es.filter fun x => (ownersOf s x.e).threads.contains u).map fun x =>
    ((p.find? (·.1 = x.e.uid)).map fun y => y.2).getD 0).foldl max 0

/-- The dispatch core forms again what every thread with a context inherits (R205); it applies at the thread's next
scheduling event. -/
def inherit (s : State) : State :=
  let es := edgesOf s
  let p := priorities s es
  let put := fun (c : Ctx) => { c with ipri := inherited s es p c.uid }
  { s with me := put s.me, others := s.others.map put, saved := s.saved.map fun v => { v with ctx := put v.ctx } }

/-! ### Taking a trap and returning (R305 to R315) -/

/-- A context's registered edge is withdrawn, and priorities are formed again (R205); with none nothing is owed. -/
def withdrawEdge (u : Nat) (s : State) : State :=
  if (findCtx u s).any (·.wt.entry.isSome) then inherit (dropEdge u s) else dropEdge u s

/-- The bytes of a trap record (R311). -/
def trapRecord (c : Ctx) (f : FaultInfo) (p : CodePos) (clk : Word) : List Byte :=
  let causew := f.tag % 2 ^ 32 * 2 ^ 32 + f.sub % 256 * 256 + f.cause % 256
  let det := detailOf f
  let st := xstat { c with ctl := { c.ctl with slot := BitVec.ofNat 3 p.slot } }
  leBytes 8 causew ++ leBytes 8 p.pc.toNat ++ leBytes 8 f.addr.toNat ++ leBytes 8 st.toNat ++ leBytes 8 (c.sq.recCount + 1)
    ++ leBytes 8 clk.toNat ++ leBytes 8 (det.take 33).length ++ leBytes 8 0
    ++ ((List.range 33).flatMap fun i => leBytes 8 (det.getD i 0).toNat) ++ leBytes 56 0

/-- Issue stops for good: the thread retires (R156). DESIGN CHOICE (assumption log 83): a result in flight that is discarded takes
its slot's arrive suffix with it. -/
def startRetire (arr : Option Nat) (s : State) : State :=
  { s with me := { s.me with
      status := .retiring
      sq := { s.me.sq with queue := [], rest := none, flights := [], redirs := [], snap := [], sredir := [], skip := none, sskip := none, diverted := true
                           late := [], slate := [], exiting := some arr } } }

/-- `Undeliverable(F)` (R309). Its error record holds what R396 gives a class 0x02 record, the first six words of the trap record, and
not the whole that R309 speaks of (DEDUCED, assumption log 96). -/
def undeliverable (f : FaultInfo) (p : CodePos) (s : State) : State :=
  let words := (List.range 6).map fun i => leWord (((trapRecord s.me f p (clkWord s)).drop (8 * i)).take 8)
  let s := errRecord s.me.die 0x02 f.cause words s
  let s := setErr s.me.lnch 0x85 (BitVec.ofNat 64 (f.cause % 256 + 2 ^ 24 * s.me.tid)) false s
  startRetire none s

/-- The pieces of the record store of R307. -/
def recordSegs (s : State) : Except FaultInfo (List Seg) :=
  vaSegs s s.me.site s.me.world .write s.me.ctl.xrec 384

/-- The control and sequencing state after a trap is taken. -/
def enterHandler (f : FaultInfo) (p : CodePos) (c : Ctx) : Ctx :=
  { c with
    ctl := { c.ctl with
      xcause := BitVec.ofNat 64 (f.tag % 2 ^ 32 * 2 ^ 32 + f.sub % 256 * 256 + f.cause % 256)
      xaddr := f.addr, xpc := p.pc, slot := BitVec.ofNat 3 p.slot, handler := true }
    sq := { c.sq with
      recCount := c.sq.recCount + 1
      snap := c.sq.flights.map fun x => { x with due := x.due - c.sq.group, upd := fixUpd c x.upd }
      sredir := c.sq.redirs.map fun x => { x with at_ := x.at_ - c.sq.group }
      sskip := c.sq.skip
      sexiting := c.sq.exiting
      slate := c.sq.late
      flights := [], redirs := [], skip := none, exiting := none, late := [], queue := [], diverted := true, passed := false
      next := ⟨c.ctl.xvec, 0⟩ } }

/-- The context in issue takes a trap (R307), or the fault is undeliverable. DESIGN CHOICE (assumption log 83): a wait that the
boundary's trap leaves is withdrawn from the table; R207 says so of a deadlock, R200 of none other. -/
def takeTrap (f : FaultInfo) (p : CodePos) (s : State) : State :=
  if s.me.ctl.handler || s.me.ctl.xvec = 0 then undeliverable f p s
  else match recordSegs s with
    | .error _ => undeliverable f p s
    | .ok gs =>
      let s := writeSegs (stepSegs .store (some s.me.uid) gs s) gs (trapRecord s.me f p (clkWord s))
      withdrawEdge s.me.uid { s with me := enterHandler f p s.me }

/-- A precise fault at the slot in issue (R306): the resume point is that slot. -/
def raise (f : FaultInfo) (s : State) : State := takeTrap f s.me.sq.at_ s

/-- A meaning with its issue-time checks: the first fault is raised, or the effect happens. -/
def checked (c : Option FaultInfo) (f : State → State) (s : State) : State :=
  match c with
  | some e => raise e s
  | none => f s

/-- The same for checks that yield what the effect needs. -/
def tryWith {α : Type} (c : Except FaultInfo α) (f : α → State → State) (s : State) : State :=
  match c with
  | .error e => raise e s
  | .ok a => f a s

/-- The state after an `xret` (R315): Snap and Redir resume against the group number that issues next. -/
def leaveHandler (c : Ctx) : Ctx :=
  { c with
    ctl := { c.ctl with handler := false }
    sq := { c.sq with
      flights := (c.sq.snap.map fun x => { x with due := x.due + c.sq.group }) ++ c.sq.flights
      redirs := c.sq.sredir.map fun x => { x with at_ := x.at_ + c.sq.group }
      skip := c.sq.sskip
      exiting := c.sq.sexiting
      late := c.sq.slate
      snap := [], sredir := [], sskip := none, sexiting := none, slate := []
      next := ⟨c.ctl.xpc, c.ctl.slot.toNat⟩ } }

/-- Order of precise checks: the first that fails. -/
def firstFault : List (Option FaultInfo) → Option FaultInfo
  | [] => none
  | some f :: _ => some f
  | none :: cs => firstFault cs

/-- A check as a fault or none. -/
def failIf (b : Bool) (f : FaultInfo) : Option FaultInfo := if b then some f else none

/-- A check as an `Except`. -/
def orFault (c : Option FaultInfo) : Except FaultInfo Unit :=
  match c with
  | some f => .error f
  | none => .ok ()

end Sys2Proof.Machine
end

