-- ==== Sys2Proof/Machine/Uses.lean ====
section
/-! DEFINITION. What a slot uses, judged from its encoding alone: the registers it reads and writes for R43 and R46, its
unit (R44, R53), and the register fields R18 checks in the order of its format. -/

namespace Sys2Proof.Machine

/-- A register as R43 counts registers: every class of R14, the control registers, the loop stack and the return stack. -/
inductive RegRef where
  | s (r : SReg) | p (r : PReg) | m (r : MReg) | v (r : VReg) | t (r : Ix8) | k (r : KReg)
  | mp (r : Ix8) | lay (r : Ix8) | pl (r : Ix8) | csr (n : Nat)
  | acc (n : Bool) | qa (n : Bool) | qb (n : Bool) | loopStack | retStack
deriving DecidableEq, Repr

/-- p1 to p15. -/
def allP : List RegRef := (List.range 15).map fun i => .p (Fin.ofNat 16 (i + 1))

/-- RM = 0b000 reads `VMODE` (R25). -/
def rmRead (rm : Rm) : List RegRef := if rm = .vmode then [.csr 9] else []

/-- An optional vector register. -/
def optV : Option VReg → List RegRef
  | some v => [.v v]
  | none => []

/-- An optional handle. -/
def optK : Option KReg → List RegRef
  | some k => [.k k]
  | none => []

/-- An optional tile. -/
def optT : Option Ix8 → List RegRef
  | some t => [.t t]
  | none => []

/-- An optional tile's configuration. -/
def optTC : Option Ix8 → List RegRef
  | some t => [.csr (32 + t.val)]
  | none => []

/-- Registers an instruction reads (R43, each chapter's own list); its guard apart. -/
def readsOf : Instr → List RegRef
  | .add _ a b => [.s a, .s b]
  | .sub _ a b => [.s a, .s b]
  | .addi _ a _ => [.s a]
  | .mul _ a b => [.s a, .s b]
  | .mulh _ a b => [.s a, .s b]
  | .mulhl _ a b => [.s a, .s b]
  | .divq _ a b _ => [.s a, .s b]
  | .remq _ a b _ => [.s a, .s b]
  | .and _ a b => [.s a, .s b]
  | .or _ a b => [.s a, .s b]
  | .xor _ a b => [.s a, .s b]
  | .andn _ a b => [.s a, .s b]
  | .andi _ a _ => [.s a]
  | .ori _ a _ => [.s a]
  | .xori _ a _ => [.s a]
  | .shl _ a b => [.s a, .s b]
  | .shr _ a b => [.s a, .s b]
  | .sra _ a b => [.s a, .s b]
  | .shli _ a _ => [.s a]
  | .shri _ a _ => [.s a]
  | .srai _ a _ => [.s a]
  | .rotl _ a b => [.s a, .s b]
  | .min _ a b => [.s a, .s b]
  | .max _ a b => [.s a, .s b]
  | .minl _ a b => [.s a, .s b]
  | .maxl _ a b => [.s a, .s b]
  | .clz _ a => [.s a]
  | .ctz _ a => [.s a]
  | .popc _ a => [.s a]
  | .bswap _ a => [.s a]
  | .sext _ a _ => [.s a]
  | .zext _ a _ => [.s a]
  | .lih d _ _ => [.s d]
  | .mov _ a => [.s a]
  | .sel _ a b q _ => [.s a, .s b, .p q]
  | .addp _ a b _ => [.s a, .s b]
  | .cmp _ _ a b => [.s a, .s b]
  | .cmpi _ _ a _ => [.s a]
  | .pand _ a b => [.p a, .p b]
  | .por _ a b => [.p a, .p b]
  | .pxor _ a b => [.p a, .p b]
  | .pnot _ a => [.p a]
  | .pmov _ a => [.p a]
  | .pset _ a _ => [.s a]
  | .psetAll a => [.s a]
  | .pget _ => allP
  | .jmp a => [.s a]
  | .call _ => [.csr 6, .retStack]
  | .callr a => [.s a, .csr 6, .retStack]
  | .ret => [.csr 6, .retStack]
  | .loop _ _ => [.loopStack]
  | .loopReg _ a => [.s a, .loopStack]
  | .lbrk => [.loopStack]
  | .lidx _ _ => [.loopStack]
  | .lidxN _ _ => [.loopStack]
  | .csrr _ n => [.csr n.toNat]
  | .csrw n a => [.s a, .csr n.toNat]
  | .csrwSet n a => [.s a, .csr n.toNat]
  | .csrwClr n a => [.s a, .csr n.toNat]
  | .vadd _ a b m _ _ rm => [.v a, .v b, .m m] ++ rmRead rm
  | .vsub _ a b m _ _ rm => [.v a, .v b, .m m] ++ rmRead rm
  | .vmul _ a b m _ _ rm => [.v a, .v b, .m m] ++ rmRead rm
  | .vfma d a b m _ rm => [.v a, .v b, .v d, .m m] ++ rmRead rm
  | .vfms d a b m _ rm => [.v a, .v b, .v d, .m m] ++ rmRead rm
  | .vneg _ a m _ _ => [.v a, .m m]
  | .vabs _ a m _ _ => [.v a, .m m]
  | .vmin _ a b m _ => [.v a, .v b, .m m]
  | .vmax _ a b m _ => [.v a, .v b, .m m]
  | .vand _ a b m _ => [.v a, .v b, .m m]
  | .vor _ a b m _ => [.v a, .v b, .m m]
  | .vxor _ a b m _ => [.v a, .v b, .m m]
  | .vshl _ a b m _ => [.v a, .v b, .m m]
  | .vshr _ a b m _ => [.v a, .v b, .m m]
  | .vsra _ a b m _ => [.v a, .v b, .m m]
  | .vclamp d a b m _ => [.v a, .v b, .v d, .m m]
  | .vsplat _ _ b m _ => [.s b, .m m]
  | .vmovs _ a _ => [.v a]
  | .vins _ a b _ => [.v a, .s b]
  | .vmov _ a m _ => [.v a, .m m]
  | .vsel _ a b m => [.v a, .v b, .m m]
  | .vcmp _ _ a b m => [.v a, .v b, .m m]
  | .vcvt _ a m _ _ _ rm => [.v a, .m m] ++ rmRead rm
  | .vmaskN _ a => [.s a]
  | .vmaskNz _ a => [.v a]
  | .vmaskQ d a _ => [.s a, .m d]
  | .mand _ a b => [.m a, .m b]
  | .mor _ a b => [.m a, .m b]
  | .mxor _ a b => [.m a, .m b]
  | .mnot _ a => [.m a]
  | .mcnt _ a => [.m a]
  | .mfirst _ a => [.m a]
  | .vrcp _ a m _ rm => [.v a, .m m] ++ rmRead rm
  | .vrsqrt _ a m _ rm => [.v a, .m m] ++ rmRead rm
  | .vsqrt _ a m _ rm => [.v a, .m m] ++ rmRead rm
  | .vexp2 _ a m _ rm => [.v a, .m m] ++ rmRead rm
  | .vlog2 _ a m _ rm => [.v a, .m m] ++ rmRead rm
  | .vgetl _ a m b _ _ => [.v a, .v b, .m m]
  | .vputl _ a b m _ => [.v a, .v b, .m m]
  | .vmovx _ a b => [.v a, .s b]
  | .vstx _ a b => [.v a, .s b]
  | .vperm _ a b m _ => [.v a, .v b, .m m]
  | .vrot _ a b _ m _ => [.v a, .s b, .m m]
  | .vshuf _ a b m _ _ _ => [.v a, .v b, .m m]
  | .vbcast _ a b _ m _ => [.v a, .s b, .m m]
  | .vcomp _ a m => [.v a, .m m]
  | .vexpd _ a m _ => [.v a, .m m]
  | .vredadd _ a m rm => [.v a, .m m] ++ rmRead rm
  | .vredmax _ a m => [.v a, .m m]
  | .vredmin _ a m => [.v a, .m m]
  | .vargmax _ a m => [.v a, .m m]
  | .vscan _ a m _ rm => [.v a, .m m] ++ rmRead rm
  | .vpack _ a b m _ _ rm => [.v a, .v b, .m m] ++ rmRead rm
  | .vunpk _ a m _ _ => [.v a, .m m]
  | .vblk _ a sv m _ _ rm => [.v a] ++ optV sv ++ [.m m] ++ rmRead rm
  | .vunblk _ a m _ _ _ rm => [.v a, .m m] ++ rmRead rm
  | .vwgin _ a m _ => [.v a, .m m]
  | .vwgout _ a m _ => [.v a, .m m]
  | .vwgfil _ a m _ => [.v a, .m m]
  | .lds _ a _ _ _ _ => [.s a]
  | .sts d a _ _ _ => [.s a, .s d]
  | .ldv _ a _ _ _ => [.s a]
  | .stv d a _ _ _ => [.s a, .v d]
  | .ldvs _ a b m _ _ _ => [.s a, .s b, .m m]
  | .stvs d a b m _ _ => [.s a, .s b, .m m, .v d]
  | .ldvx _ a x m _ _ _ _ _ => [.s a, .v x, .m m]
  | .stvx d a x m _ _ _ _ => [.s a, .v x, .m m, .v d]
  | .pfh a _ _ => [.s a]
  | .stc d a _ _ => [.s a, .v d]
  | .ldc _ a _ _ _ _ => [.s a]
  | .ldvc _ a _ _ _ => [.s a]
  | .rcq _ a _ _ => [.s a]
  | .aadd _ a b _ _ => [.s a, .s b]
  | .amin _ a b _ _ _ => [.s a, .s b]
  | .amax _ a b _ _ _ => [.s a, .s b]
  | .aand _ a b _ _ => [.s a, .s b]
  | .aor _ a b _ _ => [.s a, .s b]
  | .axor _ a b _ _ => [.s a, .s b]
  | .aswp _ a b _ _ => [.s a, .s b]
  | .acas _ a b c _ _ => [.s a, .s b, .s c]
  | .brel a b => [.s a, .s b]
  | .brelP a b => [.s a, .s b]
  | .bwait a b => [.s a, .s b]
  | .pdef _ a => [.s a]
  | .pdefRel n => [.pl n]
  | .wset a b => [.s a, .s b]
  | .wsetInv a => [.s a]
  | .ldw _ _ a _ => [.s a]
  | .ldwVec _ _ a _ => [.s a]
  | .stw d _ a _ => [.s a, .s d]
  | .stwVec d _ a _ => [.s a, .v d]
  | .tcfg _ a => [.s a]
  | .tcfgqVer _ t => [.t t]
  | .tcfgqSt _ t => [.t t]
  | .mset _ a => [.s a]
  | .mord mp a b => [.s a, .s b, .mp mp]
  | .tld _ mp a b _ k => [.mp mp, .s a, .s b] ++ optK k
  | .tst t mp a b _ k => [.mp mp, .s a, .s b] ++ optK k ++ [.t t]
  | .tldv _ v a _ => [.v v, .s a]
  | .tstv t _ a _ => [.t t, .s a]
  | .tmc mp a b m _ _ k => [.mp mp, .s a, .s b, .m m] ++ optK k
  | .trecv t k _ => [.t t, .k k]
  | .dtab _ a => [.s a]
  | .tldz _ a b _ k => [.s a, .s b] ++ optK k
  | .mma n t u a _ _ _ _ _ _ => [.t t, .t u, .csr (32 + t.val), .csr (32 + u.val), .s a, .acc n, .qa n, .qb n]
  | .mmdr t n a bv x _ _ _ => [.acc n, .csr (32 + t.val)] ++ optT x ++ optTC x ++ optV bv ++ [.s a]
  | .qld _ _ _ a => [.s a]
  | .qldBind _ _ _ a t => [.s a, .t t]
  | .qst n qb _ a => [.s a] ++ [if qb then .qb n else .qa n]
  | .esetRng a => [.s a]
  | .esetQ a => [.s a]
  | .etab a => [.s a]
  | .lset _ a => [.s a]
  | .lcoord _ n _ => [.lay n]
  | .lnbr _ n _ _ => [.lay n]
  | .hsend n _ _ k => [.lay n] ++ optK k
  | .hrecv n k => [.lay n, .k k]
  | .hrecvRel n => [.lay n]
  | .reshard d n k => [.lay d, .lay n] ++ optK k
  | .cred a b k => [.s a, .s b] ++ optK k
  | .credCh a b _ k => [.s a, .s b] ++ optK k
  | .chset _ a => [.s a]
  | .chsend _ v => [.v v]
  | .join _ a b => [.s a, .s b]
  | .leave a => [.s a]
  | .grank _ a => [.s a]
  | .gsize _ a => [.s a]
  | .gsizeJ _ a => [.s a]
  | .launch _ a b => [.s a, .s b]
  | .prio _ a _ _ => [.s a]
  | .prioAll _ a _ _ => [.s a]
  | .kset _ a => [.s a]
  | .kmodeOn k => [.k k]
  | .kmodeOff k => [.k k]
  | .kadd k a _ => [.k k, .s a]
  | .kaddr k _ a _ => [.k k, .s a]
  | .kwait k a _ => [.k k, .s a]
  | .kread k _ => [.k k]
  | .bar a => [.s a]
  | .barA _ a => [.s a]
  | .barW a b => [.s a, .s b]
  | .wfown k _ => [.k k]
  | .wfownT k _ a => [.k k, .s a]
  | .wfownG k _ a => [.k k, .s a]
  | .wfownE k _ a => [.k k, .s a]
  | .wfownR k _ a => [.k k, .s a]
  | .wfdrop k => [.k k]
  | .wfdropAll k => [.k k]
  | .wfqW k _ => [.k k]
  | .wfqO k _ => [.k k]
  | .kaddw a _ => [.s a]
  | .tlbi a => [.s a]
  | .ctxsv a => [.s a]
  | .ctxld a b => [.s a, .s b]
  | .dload a b => [.s a, .s b]
  | _ => []

/-- Registers an instruction writes (R43). The encoded base of `vputl` and `vstx` is counted as a write and that of `vgetl` and
`vmovx` as a read (R122 says that the base is counted, not as what; DESIGN CHOICE, assumption log 73: as what the instruction does
there). -/
def writesOf : Instr → List RegRef
  | .add d _ _ => [.s d]
  | .sub d _ _ => [.s d]
  | .addi d _ _ => [.s d]
  | .mul d _ _ => [.s d]
  | .mulh d _ _ => [.s d]
  | .mulhl d _ _ => [.s d]
  | .divq d _ _ _ => [.s d]
  | .remq d _ _ _ => [.s d]
  | .and d _ _ => [.s d]
  | .or d _ _ => [.s d]
  | .xor d _ _ => [.s d]
  | .andn d _ _ => [.s d]
  | .andi d _ _ => [.s d]
  | .ori d _ _ => [.s d]
  | .xori d _ _ => [.s d]
  | .shl d _ _ => [.s d]
  | .shr d _ _ => [.s d]
  | .sra d _ _ => [.s d]
  | .shli d _ _ => [.s d]
  | .shri d _ _ => [.s d]
  | .srai d _ _ => [.s d]
  | .rotl d _ _ => [.s d]
  | .min d _ _ => [.s d]
  | .max d _ _ => [.s d]
  | .minl d _ _ => [.s d]
  | .maxl d _ _ => [.s d]
  | .clz d _ => [.s d]
  | .ctz d _ => [.s d]
  | .popc d _ => [.s d]
  | .bswap d _ => [.s d]
  | .sext d _ _ => [.s d]
  | .zext d _ _ => [.s d]
  | .li d _ _ => [.s d]
  | .lih d _ _ => [.s d]
  | .mov d _ => [.s d]
  | .sel d _ _ _ _ => [.s d]
  | .addp d _ _ _ => [.s d]
  | .cmp _ q _ _ => [.p q, .p (q + 1)]
  | .cmpi _ q _ _ => [.p q, .p (q + 1)]
  | .pand d _ _ => [.p d]
  | .por d _ _ => [.p d]
  | .pxor d _ _ => [.p d]
  | .pnot d _ => [.p d]
  | .pmov d _ => [.p d]
  | .pset d _ _ => [.p d]
  | .psetAll _ => allP
  | .pget d => [.s d]
  | .call _ => [.s 63, .csr 6, .retStack]
  | .callr _ => [.s 63, .csr 6, .retStack]
  | .ret => [.csr 6, .retStack]
  | .loop _ _ => [.loopStack]
  | .loopReg _ _ => [.loopStack]
  | .lbrk => [.loopStack]
  | .lidx d _ => [.s d]
  | .lidxN d _ => [.s d]
  | .csrr d _ => [.s d]
  | .csrw n _ => [.csr n.toNat]
  | .csrwSet n _ => [.csr n.toNat]
  | .csrwClr n _ => [.csr n.toNat]
  | .vadd d _ _ _ _ _ _ => [.v d]
  | .vsub d _ _ _ _ _ _ => [.v d]
  | .vmul d _ _ _ _ _ _ => [.v d]
  | .vfma d _ _ _ _ _ => [.v d]
  | .vfms d _ _ _ _ _ => [.v d]
  | .vneg d _ _ _ _ => [.v d]
  | .vabs d _ _ _ _ => [.v d]
  | .vmin d _ _ _ _ => [.v d]
  | .vmax d _ _ _ _ => [.v d]
  | .vand d _ _ _ _ => [.v d]
  | .vor d _ _ _ _ => [.v d]
  | .vxor d _ _ _ _ => [.v d]
  | .vshl d _ _ _ _ => [.v d]
  | .vshr d _ _ _ _ => [.v d]
  | .vsra d _ _ _ _ => [.v d]
  | .vclamp d _ _ _ _ => [.v d]
  | .vsplat _ d _ _ _ => [.v d]
  | .vmovs b _ _ => [.s b]
  | .vins d _ _ _ => [.v d]
  | .vmov d _ _ _ => [.v d]
  | .vsel d _ _ _ => [.v d]
  | .vcmp _ d _ _ _ => [.m d, .m (d + 1)]
  | .vcvt d _ _ _ _ _ _ => [.v d]
  | .vmaskN d _ => [.m d]
  | .vmaskNz d _ => [.m d]
  | .vmaskQ d _ _ => [.m d]
  | .mand d _ _ => [.m d]
  | .mor d _ _ => [.m d]
  | .mxor d _ _ => [.m d]
  | .mnot d _ => [.m d]
  | .mcnt d _ => [.s d]
  | .mfirst d _ => [.s d]
  | .vrcp d _ _ _ _ => [.v d]
  | .vrsqrt d _ _ _ _ => [.v d]
  | .vsqrt d _ _ _ _ => [.v d]
  | .vexp2 d _ _ _ _ => [.v d]
  | .vlog2 d _ _ _ _ => [.v d]
  | .vgetl d _ _ _ _ _ => [.v d]
  | .vputl d _ _ _ _ => [.v d]
  | .vmovx d _ _ => [.v d]
  | .vstx d _ _ => [.v d]
  | .vperm d _ _ _ _ => [.v d]
  | .vrot d _ _ _ _ _ => [.v d]
  | .vshuf d _ _ _ _ _ _ => [.v d]
  | .vbcast d _ _ _ _ _ => [.v d]
  | .vcomp d _ _ => [.v d]
  | .vexpd d _ _ _ => [.v d]
  | .vredadd d _ _ _ => [.v d]
  | .vredmax d _ _ => [.v d]
  | .vredmin d _ _ => [.v d]
  | .vargmax d _ _ => [.v d]
  | .vscan d _ _ _ _ => [.v d]
  | .vpack d _ _ _ _ _ _ => [.v d]
  | .vunpk d _ _ _ _ => [.v d]
  | .vblk d _ _ _ _ _ _ => [.v d]
  | .vunblk d _ _ _ _ _ _ => [.v d]
  | .vwgin d _ _ _ => [.v d]
  | .vwgout d _ _ _ => [.v d]
  | .vwgfil d _ _ _ => [.v d]
  | .lds d _ _ _ _ _ => [.s d]
  | .ldv d _ _ _ _ => [.v d]
  | .ldvs d _ _ _ _ _ _ => [.v d]
  | .ldvx d _ _ _ _ _ _ _ _ => [.v d]
  | .ldc d _ _ _ _ _ => [.s d]
  | .ldvc d _ _ _ _ => [.v d]
  | .rcq d _ _ _ => [.s d]
  | .aadd d _ _ _ _ => [.s d]
  | .amin d _ _ _ _ _ => [.s d]
  | .amax d _ _ _ _ _ => [.s d]
  | .aand d _ _ _ _ => [.s d]
  | .aor d _ _ _ _ => [.s d]
  | .axor d _ _ _ _ => [.s d]
  | .aswp d _ _ _ _ => [.s d]
  | .acas d _ _ _ _ _ => [.s d]
  | .pdef n _ => [.pl n]
  | .pdefRel n => [.pl n]
  | .ldw d _ _ _ => [.s d]
  | .ldwVec d _ _ _ => [.v d]
  | .tcfg t _ => [.csr (32 + t.val)]
  | .tcfgqVer b _ => [.s b]
  | .tcfgqSt b _ => [.s b]
  | .tcfgqTag b => [.s b]
  | .tcfgqSep b => [.s b]
  | .tzero t => [.t t]
  | .mset mp _ => [.mp mp]
  | .mord mp _ _ => [.mp mp]
  | .tld t _ _ _ _ _ => [.t t]
  | .tldv t _ _ _ => [.t t]
  | .tstv _ v _ _ => [.v v]
  | .tcons t _ => [.t t]
  | .tldz t _ _ _ _ => [.t t]
  | .mma n _ _ _ _ _ _ _ _ _ => [.acc n, .qa n, .qb n]
  | .mmzI32 n => [.acc n]
  | .mmzFp32 n => [.acc n]
  | .mmdr t n _ _ x _ _ _ => [.acc n, .t t] ++ optT x
  | .qld n qb _ _ => [if qb then .qb n else .qa n]
  | .qldBind n qb _ _ _ => [if qb then .qb n else .qa n]
  | .lset n _ => [.lay n]
  | .lcoord b _ _ => [.s b]
  | .lnbr b _ _ _ => [.s b]
  | .chrecv v _ => [.v v]
  | .tid d => [.s d]
  | .tcount d => [.s d]
  | .join d _ _ => [.s d]
  | .grank d _ => [.s d]
  | .gsize d _ => [.s d]
  | .gsizeJ d _ => [.s d]
  | .launch d _ _ => [.s d]
  | .prio d _ _ _ => [.s d]
  | .prioAll d _ _ _ => [.s d]
  | .kset k _ => [.k k]
  | .ksetClr k => [.k k]
  | .kaddr _ d _ _ => [.s d]
  | .kread _ d => [.s d]
  | .barA d _ => [.s d]
  | .wfown _ d => [.s d]
  | .wfownT _ d _ => [.s d]
  | .wfownG _ d _ => [.s d]
  | .wfownE _ d _ => [.s d]
  | .wfownR _ d _ => [.s d]
  | .wfqW _ d => [.s d]
  | .wfqO _ d => [.s d]
  | .wfqF d => [.s d]
  | _ => []

/-- A register field that R18 checks. -/
inductive FootRef where
  | v (n : Nat) | t (n : Nat) | churn
deriving DecidableEq, Repr

/-- An optional vector field. -/
def footV : Option VReg → List FootRef
  | some v => [.v v.val]
  | none => []

/-- An optional tile field. -/
def footT : Option Ix8 → List FootRef
  | some t => [.t t.val]
  | none => []

/-- A control register that is a tile configuration. -/
def footC (n : Nat) : List FootRef := if 0x20 ≤ n && n ≤ 0x27 then [.t (n - 0x20)] else []

/-- The fields R18 checks, from bit 43 downwards; churn use comes last (assumption log 8). -/
def footOf : Instr → List FootRef
  | .csrr _ n => footC n.toNat
  | .csrw n _ => footC n.toNat
  | .csrwSet n _ => footC n.toNat
  | .csrwClr n _ => footC n.toNat
  | .vadd d a b _ _ _ _ => [.v d.val, .v a.val, .v b.val]
  | .vsub d a b _ _ _ _ => [.v d.val, .v a.val, .v b.val]
  | .vmul d a b _ _ _ _ => [.v d.val, .v a.val, .v b.val]
  | .vfma d a b _ _ _ => [.v d.val, .v a.val, .v b.val]
  | .vfms d a b _ _ _ => [.v d.val, .v a.val, .v b.val]
  | .vneg d a _ _ _ => [.v d.val, .v a.val]
  | .vabs d a _ _ _ => [.v d.val, .v a.val]
  | .vmin d a b _ _ => [.v d.val, .v a.val, .v b.val]
  | .vmax d a b _ _ => [.v d.val, .v a.val, .v b.val]
  | .vand d a b _ _ => [.v d.val, .v a.val, .v b.val]
  | .vor d a b _ _ => [.v d.val, .v a.val, .v b.val]
  | .vxor d a b _ _ => [.v d.val, .v a.val, .v b.val]
  | .vshl d a b _ _ => [.v d.val, .v a.val, .v b.val]
  | .vshr d a b _ _ => [.v d.val, .v a.val, .v b.val]
  | .vsra d a b _ _ => [.v d.val, .v a.val, .v b.val]
  | .vclamp d a b _ _ => [.v d.val, .v a.val, .v b.val]
  | .vsplat _ d _ _ _ => [.v d.val]
  | .vmovs _ a _ => [.v a.val]
  | .vins d a _ _ => [.v d.val, .v a.val]
  | .vmov d a _ _ => [.v d.val, .v a.val]
  | .vsel d a b _ => [.v d.val, .v a.val, .v b.val]
  | .vcmp _ _ a b _ => [.v a.val, .v b.val]
  | .vcvt d a _ _ _ _ _ => [.v d.val, .v a.val]
  | .vmaskNz _ a => [.v a.val]
  | .vrcp d a _ _ _ => [.v d.val, .v a.val]
  | .vrsqrt d a _ _ _ => [.v d.val, .v a.val]
  | .vsqrt d a _ _ _ => [.v d.val, .v a.val]
  | .vexp2 d a _ _ _ => [.v d.val, .v a.val]
  | .vlog2 d a _ _ _ => [.v d.val, .v a.val]
  | .vgetl d a _ b _ _ => [.v d.val, .v a.val, .v b.val]
  | .vputl d a b _ _ => [.v d.val, .v a.val, .v b.val]
  | .vmovx d a _ => [.v d.val, .v a.val]
  | .vstx d a _ => [.v d.val, .v a.val]
  | .vperm d a b _ _ => [.v d.val, .v a.val, .v b.val]
  | .vrot d a _ _ _ _ => [.v d.val, .v a.val]
  | .vshuf d a b _ _ _ _ => [.v d.val, .v a.val, .v b.val]
  | .vbcast d a _ _ _ _ => [.v d.val, .v a.val]
  | .vcomp d a _ => [.v d.val, .v a.val]
  | .vexpd d a _ _ => [.v d.val, .v a.val]
  | .vredadd d a _ _ => [.v d.val, .v a.val]
  | .vredmax d a _ => [.v d.val, .v a.val]
  | .vredmin d a _ => [.v d.val, .v a.val]
  | .vargmax d a _ => [.v d.val, .v a.val]
  | .vscan d a _ _ _ => [.v d.val, .v a.val]
  | .vpack d a b _ _ _ _ => [.v d.val, .v a.val, .v b.val]
  | .vunpk d a _ _ _ => [.v d.val, .v a.val]
  | .vblk d a sv _ _ _ _ => [.v d.val, .v a.val] ++ footV sv
  | .vunblk d a _ _ _ _ _ => [.v d.val, .v a.val]
  | .vwgin d a _ _ => [.v d.val, .v a.val]
  | .vwgout d a _ _ => [.v d.val, .v a.val]
  | .vwgfil d a _ _ => [.v d.val, .v a.val]
  | .ldv d _ _ _ _ => [.v d.val]
  | .stv d _ _ _ _ => [.v d.val]
  | .ldvs d _ _ _ _ _ _ => [.v d.val]
  | .stvs d _ _ _ _ _ => [.v d.val]
  | .ldvx d _ x _ _ _ _ _ _ => [.v d.val, .v x.val]
  | .stvx d _ x _ _ _ _ _ => [.v d.val, .v x.val]
  | .stc d _ _ _ => [.v d.val]
  | .ldvc d _ _ _ _ => [.v d.val]
  | .ldwVec d _ _ _ => [.v d.val]
  | .stwVec d _ _ _ => [.v d.val]
  | .tcfg t _ => [.t t.val]
  | .tcfgqVer _ t => [.t t.val]
  | .tcfgqSt _ t => [.t t.val]
  | .tzero t => [.t t.val]
  | .tld t _ _ _ _ _ => [.t t.val]
  | .tst t _ _ _ _ _ => [.t t.val]
  | .tldv t v _ _ => [.t t.val, .v v.val]
  | .tstv t v _ _ => [.t t.val, .v v.val]
  | .trecv t _ _ => [.t t.val]
  | .tcons t _ => [.t t.val]
  | .tldz t _ _ _ _ => [.t t.val]
  | .mma _ t u _ _ _ _ _ _ _ => [.t t.val, .t u.val, .churn]
  | .mmzI32 _ => [.churn]
  | .mmzFp32 _ => [.churn]
  | .mmdr t _ _ bv x _ _ _ => [.t t.val] ++ footT x ++ footV bv ++ [.churn]
  | .qld _ _ _ _ => [.churn]
  | .qldBind _ _ _ _ t => [.t t.val, .churn]
  | .qst _ _ _ _ => [.churn]
  | .esetRng _ => [.churn]
  | .esetQ _ => [.churn]
  | .etab _ => [.churn]
  | .chsend _ v => [.v v.val]
  | .chrecv v _ => [.v v.val]
  | _ => []

/-- The units of a core (R44). -/
inductive CoreUnit where
  | none | scalar | control | vector | special | memory | engine
deriving DecidableEq, Repr

/-- The unit of an opcode (R53). -/
def unitOf (opc : Nat) : CoreUnit :=
  if opc = 0 then .none
  else if opc ≤ 0x27 || (0x60 ≤ opc && opc ≤ 0x66) then .scalar
  else if opc ≤ 0x70 then .control
  else if opc ≤ 0xA6 then .vector
  else if opc ≤ 0xEA then .special
  else if opc ≤ 0x163 then .memory
  else if opc ≤ 0x1A9 then .engine
  else if opc ≤ 0x1CA then .control
  else if opc ≤ 0x1DA then .memory
  else .control

/-- How many slots of a unit a group may hold (R44). -/
def unitCount : CoreUnit → Nat
  | .none => 12
  | .scalar | .vector => 2
  | _ => 1

end Sys2Proof.Machine
end

