-- ==== Sys2Proof/Machine/Fetch.lean ====
section
/-! DEFINITION. The code stream (R29 to R31), dictionaries and the checks of a bundle (R33 to R35, R52), dependence groups
(R43 to R45) and the search for the ends of groups that calls and loops make (R95, R97). -/

namespace Sys2Proof.Machine

/-- A bundle as fetched: where it stands, its six slots, and the PC after it (R29, R36). -/
structure Bundle where
  pc    : Word
  slots : List Nat
  next  : Word
deriving DecidableEq, Repr

/-- The empty bundle: six nops, stop bit on slot 5 (R29). -/
def emptySlots : List Nat := [0, 0, 0, 0, 0, 2 ^ 63]

/-- Whether a slot has its stop bit set (R36). -/
def slotStop (w : Nat) : Bool := fB w 63

/-- An off slot never executes (R37). -/
def slotOff (w : Nat) : Bool := fB w 62 && fld w 58 4 == 0

/-- Registers that take no part in R43. -/
def constReg : RegRef → Bool
  | .s r => r.val = 0
  | .p r => r.val = 0
  | .m r => r.val = 0
  | _ => false

/-- The reads of a slot: its instruction's, its guard and its arrive handle (R37, R39, R43). A nop has none (R38). -/
def slotReads (w : Nat) : List RegRef :=
  let h := slotHdr w
  if slotOpc w = 0 then [] else
    ((decodeSlot w).map readsOf).getD [] ++ (if h.gp.val ≠ 0 then [.p h.gp] else []) ++ (if h.ae then [.k h.ak] else [])

/-- The writes of a slot. -/
def slotWrites (w : Nat) : List RegRef := ((decodeSlot w).map writesOf).getD []

/-- `pget` and `pset.all`, which no slot may accompany that is guarded by, reads or writes `p1` to `p15` (R92). -/
def allPreds (x : Nat) : Bool :=
  match decodeSlot x with
  | some (.pget _) | some (.psetAll _) => true
  | _ => false

/-- Whether a slot uses a predicate other than `p0`. -/
def usesPred (x : Nat) : Bool :=
  (slotReads x ++ slotWrites x).any fun r => match r with | .p q => q.val ≠ 0 | _ => false

/-- Whether one slot writes what another reads or writes (R43), or R92 keeps the two apart. -/
def slotsClash (x y : Nat) : Bool :=
  allPreds x && usesPred y || allPreds y && usesPred x ||
  let f := fun (r : RegRef) => !constReg r
  let wx := (slotWrites x).filter f
  let wy := (slotWrites y).filter f
  wx.any (fun r => (slotReads y).contains r || wy.contains r) || wy.any fun r => (slotReads x).contains r

/-- No two slots of a list clash. -/
def noClash : List Nat → Bool
  | [] => true
  | x :: xs => xs.all (fun y => !slotsClash x y) && noClash xs

/-- The rules R43 and R44 on the slots of one group, off slots apart. -/
def runOk (ws : List Nat) : Bool :=
  let on := ws.filter fun w => !slotOff w
  noClash on && [CoreUnit.scalar, .control, .vector, .special, .memory, .engine].all fun u =>
    decide ((on.filter fun w => unitOf (slotOpc w) = u).length ≤ unitCount u)

/-- The runs of a bundle between stop bits. -/
def runsOf : List Nat → List Nat → List (List Nat)
  | acc, [] => if acc.isEmpty then [] else [acc.reverse]
  | acc, w :: ws => if slotStop w then (w :: acc).reverse :: runsOf [] ws else runsOf (w :: acc) ws

/-- The first slot that breaks items 1 to 5 of R35. -/
def illegalSlot (ws : List Nat) : Option Nat := ws.findIdx? fun w => (decodeSlot w).isNone

/-- The first slot of the lowest group that breaks item 6 of R35. -/
def illegalRun : Nat → List (List Nat) → Option Nat
  | _, [] => none
  | i, r :: rs => if runOk r then illegalRun (i + r.length) rs else some i

/-- The check of R35 on one bundle: item group (false: items 1 to 5) and slot. -/
def bundleCheck (ws : List Nat) : Option (Bool × Nat) :=
  match illegalSlot ws with
  | some j => some (false, j)
  | none => (illegalRun 0 (runsOf [] ws)).map fun j => (true, j)

/-- One index word, or word of a literal bundle (R29, R52): what memory holds when it is fetched (R32 allows the old word too
after a write by another agent, word by word; DESIGN CHOICE: the new one; assumption log 67). -/
def fetchWord (s : State) (a : Word) : Except FaultInfo Nat :=
  match translate s s.me.site s.me.world .fetch a with
  | .error f => .error f
  | .ok pa => .ok (leNat (readN s.hbm pa 2))

/-- Words of a literal bundle, in ascending address order. -/
def fetchWords (s : State) (a : Word) : Nat → Except FaultInfo (List Nat)
  | 0 => .ok []
  | n + 1 =>
    match fetchWord s a with
    | .error f => .error f
    | .ok w => match fetchWords s (a + 2) n with
      | .error f => .error f
      | .ok ws => .ok (w :: ws)

/-- Six slots from the 24 words of a literal bundle (R30). -/
def slotsOfWords (ws : List Nat) : List Nat :=
  (List.range 6).map fun j => ws.getD (4 * j) 0 + ws.getD (4 * j + 1) 0 * 2 ^ 16 + ws.getD (4 * j + 2) 0 * 2 ^ 32
    + ws.getD (4 * j + 3) 0 * 2 ^ 48

/-- Six slots from a bundle's 384 bits (R36). -/
def slotsOfBits (x : Nat) : List Nat := (List.range 6).map fun j => fld x (64 * j) 64

/-- The dictionary loaded for the context in issue (R34). -/
def dictOf (s : State) : List Nat :=
  (((coreOf s s.me.die s.me.core).dicts.find? fun d => d.dictb = s.me.ctl.dictb).map (·.entries)).getD []

/-- The bundle a PC selects, fetched and checked whole (R29, R52). -/
def fetchBundle (s : State) (pc : Word) : Except FaultInfo Bundle :=
  match fetchWord s pc with
  | .error f => .error f
  | .ok idx =>
    if idx = 0xFFFE then .ok ⟨pc, emptySlots, pc + 2⟩
    else if idx = 0xFFFF then
      match fetchWords s (pc + 2) 24 with
      | .error f => .error f
      | .ok ws =>
        let slots := slotsOfWords ws
        match bundleCheck slots with
        | some (false, _) => .error (fault 0x02 0 pc)
        | some (true, _) => .error (fault 0x03 0 pc)
        | none => .ok ⟨pc, slots, pc + 50⟩
    else if idx < bits s.me.ctl.dictb 0 12 then
      match (dictOf s)[idx]? with
      | some b => .ok ⟨pc, slotsOfBits b, pc + 2⟩
      | none => .error (fault 0x01 0 pc)
    else .error (fault 0x01 0 pc)

/-- A dependence group as fetched: its slots, the place after it, and its last slot. -/
structure CodeGroup where
  slots : List SlotRef
  next  : CodePos
  last  : CodePos
deriving DecidableEq, Repr

/-- Slots of a bundle from slot `k` to the first stop bit, and whether one was found. -/
def upToStop (pc : Word) : Nat → List Nat → List SlotRef × Bool
  | _, [] => ([], false)
  | k, w :: ws =>
    if slotStop w then ([⟨pc, k, w⟩], true)
    else
      let (rs, ok) := upToStop pc (k + 1) ws
      (⟨pc, k, w⟩ :: rs, ok)

/-- The place after a slot of a bundle. -/
def afterSlot (b : Bundle) (j : Nat) : CodePos := if j ≥ 5 then ⟨b.next, 0⟩ else ⟨b.pc, j + 1⟩

/-- The group that starts at a place in the code, over at most two bundles (R45). -/
def gather (s : State) (p : CodePos) : Except FaultInfo CodeGroup :=
  match fetchBundle s p.pc with
  | .error f => .error f
  | .ok b =>
    let (xs, stop) := upToStop b.pc p.slot (b.slots.drop p.slot)
    if stop then
      let j := p.slot + xs.length - 1
      .ok ⟨xs, afterSlot b j, ⟨b.pc, j⟩⟩
    else match fetchBundle s b.next with
      | .error f => .error f
      | .ok b2 =>
        let (ys, stop2) := upToStop b2.pc 0 b2.slots
        if stop2 then
          let j := ys.length - 1
          .ok ⟨xs ++ ys, afterSlot b2 j, ⟨b2.pc, j⟩⟩
        else .error (fault 0x03 0 p.pc)

/-- The group about to issue, with the rules across its bundles (R43 to R45). -/
def fetchGroup (s : State) (p : CodePos) : Except FaultInfo CodeGroup :=
  match gather s p with
  | .error f => .error f
  | .ok g => if runOk (g.slots.map (·.word)) then .ok g else .error (fault 0x03 0 p.pc)

/-- The place after `n` groups, and the last slot of the last of them (R95, R97). -/
def skipGroups (s : State) : Nat → CodePos → CodePos → Except FaultInfo (CodePos × CodePos)
  | 0, p, l => .ok (p, l)
  | n + 1, p, _ =>
    match gather s p with
    | .error f => .error f
    | .ok g => skipGroups s n g.next g.last

/-- The group that holds the slot in issue, as it stands in the code. -/
def ownGroup (s : State) : Except FaultInfo CodeGroup := gather s s.me.sq.start

end Sys2Proof.Machine
end

