-- ==== Sys2Proof/Machine/Issue.lean ====
section
/-! DEFINITION. Issue of a group's slots: guards (R37), the footprint check (R18), the arrive handle (R16), the boundary
after a group with the successor rule (R94) and the iteration step (R99), and when a group may not issue (R26, R46). -/

namespace Sys2Proof.Machine

/-- Whether a slot executes (R37). -/
def guardHolds (s : State) (h : SlotHdr) : Bool :=
  if h.gi then (if h.gp.val = 0 then false else !rdP s h.gp) else (if h.gp.val = 0 then true else rdP s h.gp)

/-- The footprint fault of one field (R18). -/
def footFault (c : Ctx) : FootRef → Option FaultInfo
  | .v n => failIf (decide (n ≥ c.foot)) (fault 0x06 0 (BitVec.ofNat 64 n))
  | .t n => failIf (decide (n ≥ c.tiles)) (fault 0x06 0 (BitVec.ofNat 64 n))
  | .churn => failIf (!c.churnOn) (fault 0x06 0 0)

/-- The footprint check of an instruction: the first field at fault (R18). -/
def footCheck (c : Ctx) (i : Instr) : Option FaultInfo := (footOf i).findSome? (footFault c)

/-- The check of a handle (R16): V must be 1. -/
def handleCheck (s : State) (k : KReg) : Option FaultInfo := failIf (!bit (rdK s k) 63) (fault 0x0C 0 0)

/-- The counter a valid handle names (R16). -/
def handleAddr (x : Word) : Nat := bits x 3 29 * 8

/-- The arrive suffix's handle is read and checked when its slot issues (R39). -/
def arriveCheck (s : State) (h : SlotHdr) : Option FaultInfo := if h.ae then handleCheck s h.ak else none

/-- The counter of the arrive suffix. -/
def arriveOf (s : State) (h : SlotHdr) : Option Nat := if h.ae then some (handleAddr (rdK s h.ak)) else none

/-- The slot `r` is in issue: the rest of the group follows it (R46). -/
def issueSlot (r : SlotRef) (rest : List SlotRef) (s : State) : State :=
  modSq (fun q => { q with queue := rest, at_ := ⟨r.pc, r.idx⟩, arrive := none, diverted := false }) s

/-- The slot's arrive counter, once its handle has passed. -/
def setArrive (a : Option Nat) (s : State) : State := modSq (fun q => { q with arrive := a }) s

/-- The iteration step at the end of a group whose last slot is at `p` (R99): the levels after it, the first body group
if a level stepped back, and whether a step was made. Levels are innermost first. -/
def iterate (p : CodePos) : List LoopLevel → List LoopLevel × Option CodePos × Bool
  | [] => ([], none, false)
  | l :: ls =>
    if l.last = p then
      if l.idx.toNat + 1 < l.cnt.toNat then ({ l with idx := l.idx + 1 } :: ls, some l.first, true)
      else
        let (ls', t, _) := iterate p ls
        (ls', t, true)
    else (l :: ls, none, false)

/-- The place where the group numbered `n` starts, when a taken transfer fixes it (R94). -/
def redirTo (n : Nat) (rs : List Redir) : Option CodePos := (rs.find? (·.at_ = n)).map (·.target)

/-- The sequencing state after a group has issued whole: the next group's number and place (R94, R99). DESIGN CHOICE (assumption
log 42): where a `loop` of count 0 ends the last body group of a level with passes left, both bullets of R94 fix the successor,
and the step back prevails. -/
def advance (q : Seq) : Seq :=
  let (ls, back, _) := iterate q.at_ q.loops
  let n := q.group + 1
  let succ := (back.orElse fun _ => q.skip).getD q.next
  { q with group := n, loops := ls, skip := none, redirs := q.redirs.filter fun r => !decide (r.at_ ≤ n)
           next := (redirTo n q.redirs).getD succ, queue := [], passed := false }

/-- Whether the group that ends made an iteration step (R321). -/
def madeStep (q : Seq) : Bool := (iterate q.at_ q.loops).2.2

/-- A configuration with another tag. -/
def withTag (c : Word) (t : Tag) : Word := (c &&& 0xFFFFFFFFFFFFFFF0) ||| BitVec.ofNat 64 t.code

/-- A tile with another issued TAG. -/
def withIssued (g : Tag) (t : Tile) : Tile := { t with icfg := withTag t.icfg g }

/-- Changing a tile. -/
def modTile (t : Nat) (f : Tile → Tile) (c : Ctx) : Ctx := { c with regs := { c.regs with t := vmod c.regs.t t f } }

/-- The issue of a group is over: the issued TAGs that came meanwhile are there (R46, R256). -/
def settleTags (c : Ctx) : Ctx :=
  { c.sq.tagLate.foldl (fun c x => modTile x.1 (withIssued x.2) c) c with sq := { c.sq with tagLate := [] } }

/-- The boundary after a group that issued whole: results land, then `xret`, `exit` or `yield` of the group acts (R154,
R156, R315). -/
def endGroup (s : State) : State :=
  let st := madeStep s.me.sq
  let ex := s.me.sq.exiting
  let s := { s with me := settleTags { s.me with
    stepped := st
    fresh := false
    sq := { advance s.me.sq with cfgWas := [] } } }
  let s := land s
  let s := { s with me := { s.me with freshIt := s.me.freshIt && !st && !s.me.sq.loops.isEmpty } }
  let s := if s.me.sq.returning then { s with me := leaveHandler { s.me with sq := { s.me.sq with returning := false } } } else s
  match ex with
  | some arr => modSq (fun q => { q with diverted := false }) (startRetire arr s)
  | none => s

/-- The group is held at the slot in issue and is examined again (R194, R306). -/
def holdHere (s : State) : State :=
  modSq (fun q => { q with queue := [], next := q.at_, diverted := true, passed := false }) s

/-- Whether a register's pending bit stops a group (R15, R46, R187). -/
def refPending (c : Ctx) : RegRef → Bool
  | .s r => pendingS c r
  | .v r => pendingV c r
  | .k r => pendingK c r
  | _ => false

/-- Whether a slot names a pending register. -/
def slotPending (c : Ctx) (w : Nat) : Bool :=
  !slotOff w && ((slotReads w).any (refPending c) || (slotWrites w).any (refPending c))

/-- The slots of a group that are not off, decoded. -/
def liveSlots (g : List SlotRef) : List (SlotRef × Instr) :=
  g.filterMap fun r => if slotOff r.word then none else (decodeSlot r.word).map fun i => (r, i)

/-- The barrier arrivals that still count when a group starts: in user mode, those of its own slots (R198). One that a trap
left behind, and that the thread does not return to, is forgotten. -/
def keepPhases (c : Ctx) (g : CodeGroup) : List (CodePos × Word × Nat) :=
  if c.ctl.handler then c.wt.phases else c.wt.phases.filter fun x => g.slots.any fun r => x.1 = ⟨r.pc, r.idx⟩

/-- The lines of the code that a group was fetched from meet their home slices as plain reads (R219, R232). -/
def touchCode (g : CodeGroup) (s : State) : State :=
  ((g.slots.map (·.pc)).dedup).foldl (fun s pc =>
    match vaSegs s s.me.site s.me.world .fetch pc (if fetchWord s pc = .ok 0xFFFF then 50 else 2) with
    | .error _ => s
    | .ok gs => stepSegs .plain none gs s) s

/-- The group starts to issue. -/
def startGroup (p : CodePos) (g : CodeGroup) (s : State) : State :=
  let s := touchCode g s
  modSq (fun q => { q with start := p, next := g.next, queue := g.slots, passed := true, cfgWas := [] })
    { s with me := { s.me with wt := { s.me.wt with phases := keepPhases s.me g } } }

end Sys2Proof.Machine
end

