-- ==== Sys2Proof/Machine/Engine.lean ====
section
/-! DEFINITION. Engine commands in general (R245, R253 to R258): tiles and their order, issue and completion of a command,
engine faults. -/

namespace Sys2Proof.Machine

/-! ### Tiles -/

/-- A sorted insertion that keeps every value. -/
def insAt {α : Type} : SMap α → Nat → α → SMap α
  | [], k, v => [(k, v)]
  | (k', v') :: m, k, v => if k < k' then (k, v) :: (k', v') :: m else if k = k' then (k, v) :: m else (k', v') :: insAt m k v

/-- A byte of tile data. -/
def tileData (t : Tile) (i : Nat) : Byte :=
  match t.data.find? (·.1 = i) with
  | some c => c.2
  | none => match t.salt with | some z => Config.tileByte z i | none => 0

/-- A byte of the side store. -/
def tileSide (t : Tile) (i : Nat) : Byte :=
  match t.side.find? (·.1 = i) with
  | some c => c.2
  | none => match t.sideSalt with | some z => Config.tileByte z (65536 + i) | none => 0

/-- Writing a byte of data. -/
def setData (i : Nat) (b : Byte) (t : Tile) : Tile := { t with data := insAt t.data i b }
/-- Writing a byte of the side store. -/
def setSide (i : Nat) (b : Byte) (t : Tile) : Tile := { t with side := insAt t.side i b }

/-- All data zero. -/
def zeroData (t : Tile) : Tile := { t with data := [], salt := none }

/-- All data and side store zero. -/
def zeroTile (t : Tile) : Tile := { zeroData t with side := [], sideSalt := none }

/-- The zeroing of an EMPTY tile by a write under a tag (R269): only one under E2M1X touches the side store (R67). -/
def zeroFor (g : Tag) (t : Tile) : Tile := if g = .e2m1x then zeroTile t else zeroData t

/-- Row bytes of a configuration (R26). -/
def cfgRB (c : Word) : Nat := bits c 12 10
/-- Rows. -/
def cfgRows (c : Word) : Nat := bits c 4 8
/-- Tag; a configuration never holds an undefined code. -/
def cfgTag (c : Word) : Tag := (Tag.ofCode (bits c 0 4)).getD .none

/-- The three conditions of R27 on a configuration. -/
def cfgOk (v : Word) : Bool :=
  1 ≤ cfgRB v && cfgRB v ≤ 512 && 1 ≤ cfgRows v && cfgRows v ≤ 128 && bits v 0 4 ≠ 0 && (Tag.ofCode (bits v 0 4)).isSome

/-- A tile of a context. -/
def tileOf (c : Ctx) (t : Nat) : Tile := vget Tile.reset c.regs.t t

/-- Changing a tile of a thread. -/
def modTileOf (u t : Nat) (f : Tile → Tile) (s : State) : State := modCtx u (modTile t f) s

/-- A tile's issued configuration changes as a slot issues; the group's other slots go on reading the one it began with (R46,
R256). A TAG that came meanwhile from elsewhere gives way to it. -/
def setIcfg (t : Nat) (f : Word → Word) (s : State) : State :=
  let old := (tileOf s.me t).icfg
  let was := s.me.sq.cfgWas
  modSq (fun q => { q with cfgWas := if was.any (fun x => x.1 = t) then was else (t, old) :: was
                           tagLate := q.tagLate.filter fun x => x.1 ≠ t })
    { s with me := modTile t (fun x => { x with icfg := f x.icfg }) s.me }

/-- The issued TAG of a tile as a fault or an arrival sets it (R256): at once, or for the groups after the one now in issue, whose
slots read what stood when it began (R46). -/
def tagIssued (t : Nat) (g : Tag) (c : Ctx) : Ctx :=
  if c.sq.mid then { c with sq := { c.sq with tagLate := c.sq.tagLate ++ [(t, g)] } } else modTile t (withIssued g) c

/-- A fault tags a tile POISON: the version advances (R254, R258). -/
def poisonTile (t : Tile) : Tile := { t with cfg := withTag t.cfg .poison, ver := t.ver + 1 }

/-- A fault tags a tile of a thread POISON, and its issued TAG follows (R256). -/
def poisonTileOf (u t : Nat) (s : State) : State := modCtx u (fun c => tagIssued t .poison (modTile t poisonTile c)) s

/-- The configuration is replaced and the version advances (R27, R261). -/
def configure (v : Word) (t : Tile) : Tile := { t with cfg := v, ver := t.ver + 1 }

/-! ### The tile order (R255) -/

/-- Tiles a command reads, and tiles it writes. -/
def CmdOp.tiles : CmdOp → List Nat × List Nat
  | .tcfg t _ => ([], [t.val])
  | .tzero t => ([], [t.val])
  | .tld t .. => ([], [t.val])
  | .tst t .. => ([t.val], [])
  | .tldv t .. => ([], [t.val])
  | .tstv _ t .. => ([t.val], [])
  | .tcons t _ => ([], [t.val])
  | .tldz t .. => ([], [t.val])
  | .mma _ t u .. => ([t.val, u.val], [])
  | .mmdr t _ _ _ x .. => ([], t.val :: (match x with | some y => [y.val] | none => []))
  | .qld _ _ _ _ (some t) => ([t.val], [])
  | .arrival t _ _ => ([], [t.val])
  | .query t _ => ([t.val], [])
  | _ => ([], [])

/-- The engine that executes a command, as R312 numbers them. -/
def CmdOp.engine : CmdOp → Nat
  | .mma .. | .mmz .. | .mmdr .. | .qld .. | .qst .. | .eset .. | .etab .. => 1
  | .hsend .. => 2
  | .reshard .. => 3
  | .chsend .. => 4
  | .cred .. => 5
  | _ => 0

/-- The separator table a command sets or uses (R275): `tldz` may use any. -/
def CmdOp.table : CmdOp → Bool × Bool
  | .dtab .. => (true, false)
  | .tldz .. => (false, true)
  | _ => (false, false)

/-- Whether a later command must wait for an earlier one that has not executed: tiles in the tile order (R255), one churn
command at a time in issue order (R282), code tables (R275). -/
def mustFollow (later earlier : CmdOp) : Bool :=
  let (lr, lw) := later.tiles
  let (er, ew) := earlier.tiles
  lw.any (fun t => er.contains t || ew.contains t) || lr.any (fun t => ew.contains t) ||
    (later.churn && earlier.churn) ||
    ((later.table.1 || later.table.2) && earlier.table.1) || (later.table.1 && earlier.table.2)

/-- Commands whose destination tile a fault tags POISON (R258). -/
def CmdOp.poisons : CmdOp → Bool
  | .tld .. | .tldv .. | .tldz .. | .tzero .. | .mmdr .. => true
  | _ => false

/-- Whether a command has finished with its tiles. One with an add still to make may yet tag its destination (R191, R258), so
that it has finished only when it completes (R255). -/
def Cmd.finished (x : Cmd) : Bool :=
  match x.op with
  | .tst .. => x.begun
  | o => (x.begun && x.todo.isEmpty || x.done) && !(o.poisons && (x.kc.isSome || x.arrive.isSome))

/-- A command of a thread by its tag; arrivals and queries are not found by it. -/
def isCmd (tag : Nat) (x : Cmd) : Bool := x.tag = tag && (match x.op with | .arrival .. | .query .. => false | _ => true)

/-- The commands before one in the list. -/
def before (p : Cmd → Bool) : List Cmd → List Cmd
  | [] => []
  | x :: xs => if p x then [] else x :: before p xs

/-- Whether a command may begin (R255). -/
def mayBegin (c : Ctx) (p : Cmd → Bool) : Bool :=
  match c.sq.cmds.find? p with
  | none => false
  | some x => (before p c.sq.cmds).all fun e => e.finished || !mustFollow x.op e.op

/-- Whether an entry of the list is an action on its tiles: a query is none (R27). -/
def CmdOp.acts : CmdOp → Bool
  | .query .. => false
  | _ => true

/-- Whether an action on a tile issued now would have to wait (R27, R255). -/
def tileWaits (c : Ctx) (t : Nat) : Bool :=
  c.sq.cmds.any fun e => !e.finished && e.op.acts && (e.op.tiles.1.contains t || e.op.tiles.2.contains t)

/-- Whether some unfinished command writes, or reads, a tile (R253). -/
def tileBusy (c : Ctx) (wr : Bool) (t : Nat) : Bool :=
  c.sq.cmds.any fun e => !e.finished && e.op.acts && (if wr then e.op.tiles.2.contains t else e.op.tiles.1.contains t)

/-- Whether the engine of a command takes it after every command issued before: the tile engine takes the commands of all
contexts of its core in issue order (R257), the ladle those of each context (R349). -/
def takesInOrder (c : Ctx) (x : Cmd) (d : Ctx) (y : Cmd) : Bool :=
  match x.op.engine with
  | 0 => y.op.engine = 0 && d.die = c.die && d.core = c.core && d.status ≠ .saving && isCmd y.tag y
  | 2 => y.op.engine = 2 && d.uid = c.uid
  | _ => false

/-- Whether it is a command's turn at its engine: no earlier one that goes before it is still to begin. A saved thread's
tile-engine commands that have not begun stand in its image and wait at no engine; its others go on (R322). -/
def engineTurn (s : State) (c : Ctx) (x : Cmd) : Bool :=
  (bound s ++ if x.op.engine = 0 then [] else s.saved.map (·.ctx)).all fun d =>
    d.sq.cmds.all fun y => y.begun || decide (x.seq ≤ y.seq) || !takesInOrder c x d y

/-- Whether remote operations that the thread issued before a command are not acknowledged (R245, R252). -/
def earlierRemote (s : State) (u : Nat) (x : Cmd) : Bool :=
  s.fab.outs.any fun o => o.cid = u && decide (o.id < x.seq) && (match o.use with | .engine .. => false | _ => true)

/-! ### Issue and completion (R257, R258) -/

/-- A command as issued. -/
def newCmd (tag : Nat) (op : CmdOp) (arrive : Option Nat) (grp : Nat) (kc : Option Nat) (seq : Nat) : Cmd :=
  { tag, op, arrive, grp, begun := false, done := false, seq, stage := 0, fault := none, amount := 0, kc, reserved := []
    landings := [], todo := [], elems := [], pieces := [] }

/-- A command is issued: it takes the next command tag. -/
def issueCmd (op : CmdOp) (kc : Option Nat) (s : State) : State :=
  modSq (fun q =>
    { q with
      cmds := q.cmds ++ [newCmd (q.cmdCount % 2 ^ 32) op q.arrive q.group kc s.ids]
      cmdCount := q.cmdCount + 1 }) { s with ids := s.ids + 1 }

/-- The completion handle's counter: read and checked at issue (R16). -/
def kcAddr (s : State) (k : Option KReg) : Option Nat := k.map fun k => handleAddr (rdK s k)

/-- The check of a completion handle. -/
def kcCheck (s : State) (k : Option KReg) : Option FaultInfo :=
  match k with
  | some k => handleCheck s k
  | none => none

/-- Changing a command of a thread. -/
def modCmd (u tag : Nat) (f : Cmd → Cmd) (s : State) : State :=
  modSqOf u (fun q => { q with cmds := q.cmds.map fun x => if isCmd tag x then f x else x }) s

/-- A command of a thread. -/
def findCmd (u tag : Nat) (s : State) : Option Cmd :=
  match findCtx u s with
  | some c => c.sq.cmds.find? (isCmd tag)
  | none => none

/-- A fault of the command with a tag of an engine (R258, R312): the engine's number is the detail word unless a walk gave its
own. -/
def taggedFault (tag engine : Nat) (f : FaultInfo) : FaultInfo :=
  { f with tag := tag, detail := if f.detail.isEmpty then [BitVec.ofNat 64 engine] else f.detail }

/-- An engine fault of a command. -/
def engFault (x : Cmd) (f : FaultInfo) : FaultInfo := taggedFault x.tag x.op.engine f

/-- A fault of a command with cause, sub-code and address. -/
def cmdFault (x : Cmd) (cause sub : Nat) (addr : Word) : FaultInfo := engFault x (fault cause sub addr)

/-- What a fault does to the destination of a command (R258): a tile or a vector register is tagged POISON. A pending
vector destination lands so. -/
def poisonDest (u : Nat) (op : CmdOp) (s : State) : State :=
  match op with
  | .tld t .. | .tldv t .. | .tldz t .. | .tzero t => poisonTileOf u t.val s
  | .mmdr t _ _ _ x .. =>
    let s := poisonTileOf u t.val s
    match x with
    | some y => poisonTileOf u y.val s
    | none => s
  | .tstv _ _ _ _ pd =>
    modSqOf u (fun q => { q with pends := q.pends.map fun p =>
      if p.id = pd then
        { p with ready := true, upd := match p.upd with | .v r _ _ _ => .v r 0 0 (some .poison) | x => x }
      else p }) s
  | _ => s

/-- The line checks of an engine's access that has passed: a home-slice event that CTRAP delivers bears the command's tag
and its engine (R232, R258, R312). -/
def stepFor (k : LineAcc) (u : Nat) (x : Cmd) (gs : List Seg) (s : State) : State :=
  let n := ((findCtx u s).map (·.sq.faults.length)).getD 0
  modSqOf u (fun q =>
    { q with faults := q.faults.take n ++ (q.faults.drop n).map fun f =>
        { f with tag := x.tag, detail := [BitVec.ofNat 64 x.op.engine] } }) (stepSegsBy k (some u) ⟨u, some (x.tag, x.op.engine), none⟩ gs s)

/-- A command meets a fault while it executes: the first is kept until completion (R258). -/
def failCmd (u : Nat) (x : Cmd) (f : FaultInfo) (s : State) : State :=
  if ((findCmd u x.tag s).bind (·.fault)).isSome then s
  else modCmd u x.tag (fun y => { y with begun := true, todo := [], pieces := [], fault := some (engFault x f) }) (poisonDest u x.op s)

/-- A command has executed; its completion add will be `amount`. -/
def doneCmd (u : Nat) (x : Cmd) (amount : Nat) (s : State) : State :=
  modCmd u x.tag (fun y => { y with begun := true, todo := [], amount := amount }) s

/-- One add of a command at a counter (R191, R391): the fault if it is withheld or saturates, and whether it was made. -/
def engAdd (world : Bool) (lnch tag engine a n : Nat) (s : State) : State × Option FaultInfo × Bool :=
  let bad := fun cause sub => taggedFault tag engine (fault cause sub (BitVec.ofNat 64 a))
  match addCheck s world lnch a with
  | some 0x0F => (s, some (bad 0x11 5), false)
  | some c => (s, some (bad c 0), false)
  | none =>
    let (s, sat) := addCounter a n s
    (s, if sat then some (bad 0x0F 1) else none, true)

/-- One add of a command, in the world of its issuer. -/
def cmdAdd (world : Bool) (lnch : Nat) (x : Cmd) (a n : Nat) (s : State) : State × Option FaultInfo × Bool :=
  engAdd world lnch x.tag x.op.engine a n s

/-- The effect of a command that changes nothing if it faults (R258), with its arrive add: one that is withheld (R39, R191) leaves
everything as it was. -/
def withArrive (u : Nat) (c : Ctx) (x : Cmd) (f : State → State) (s : State) : State :=
  match x.arrive with
  | none => doneCmd u x 0 (f s)
  | some a =>
    match cmdAdd c.world c.lnch x a 1 s with
    | (_, some e, false) => failCmd u x e s
    | (s, e, _) =>
      let s := match e with | some e => recordFault u e s | none => s
      modCmd u x.tag (fun y => { y with arrive := none }) (doneCmd u x 0 (f s))

/-- Queries whose earlier actions have finished take their result (R262). -/
def settleQueries (u : Nat) (s : State) : State :=
  match findCtx u s with
  | none => s
  | some c =>
    c.sq.cmds.foldl (fun s x => match x.op with
      | .query t pd =>
        if mayBegin c (fun y => y.op = .query t pd) then
          modSqOf u (fun q => { q with
            cmds := q.cmds.filter fun y => y.op ≠ .query t pd
            pends := q.pends.map fun p => if p.id = pd then
              { p with ready := true, upd := match p.upd with | .s r _ => .s r ((tileOf c t).ver.setWidth 64) | w => w } else p }) s
        else s
      | _ => s) s

/-- The register of a `tstv` may land: the command is complete, or has faulted (R258, R271). -/
def releaseVec (u : Nat) (op : CmdOp) (s : State) : State :=
  match op with
  | .tstv _ _ _ _ pd => modSqOf u (fun q => { q with pends := q.pends.map fun p => if p.id = pd then { p with ready := true } else p }) s
  | _ => s

/-- Removing a command. -/
def dropCmd (u tag : Nat) (s : State) : State :=
  modSqOf u (fun q => { q with cmds := q.cmds.filter fun x => !isCmd tag x }) s

/-- The arrive add of a command that completes. That of a `tstv`, which writes a register, is made when the register lands
(R39): the pending result takes it. -/
def arriveCmd (u : Nat) (c : Ctx) (x : Cmd) (s : State) : State :=
  match x.arrive, x.op with
  | none, _ => s
  | some a, .tstv _ _ _ _ pd =>
    modSqOf u (fun q => { q with pends := q.pends.map fun p => if p.id = pd then { p with arrive := some a } else p }) s
  | some a, _ =>
    let (s, f, ok) := cmdAdd c.world c.lnch x a 1 s
    match f with | some f => recordFault u f (if ok then s else poisonDest u x.op s) | none => s

/-- A command leaves class C (R257): the register of a `tstv` may land. -/
def leaveCmd (u : Nat) (x : Cmd) (s : State) : State := releaseVec u x.op (dropCmd u x.tag s)

/-- The completion add of a command (R191, R257, R258). One withheld is the command's fault, and its arrive add is withheld with it;
after one that is made the arrive add, an operation of its own (R243), is what it still waits for. -/
def completionAdd (u : Nat) (c : Ctx) (x : Cmd) (a : Nat) (s : State) : State :=
  let (s, f, ok) := cmdAdd c.world c.lnch x a x.amount s
  let s := match f with | some f => recordFault u f (if ok then s else poisonDest u x.op s) | none => s
  if ok && x.arrive.isSome then modCmd u x.tag (fun y => { y with kc := none }) s else leaveCmd u x s

/-- Completion (R257): a fault is recorded (R258); else the completion add is made, and then the arrive add. -/
def completeCmd (u : Nat) (c : Ctx) (x : Cmd) (s : State) : State :=
  match x.fault, x.kc with
  | some f, _ => leaveCmd u x (recordFault u f s)
  | none, some a => completionAdd u c x a s
  | none, none => leaveCmd u x (arriveCmd u c x s)

/-- Whether a command may complete: it has executed and waits for nothing. -/
def mayComplete (x : Cmd) : Bool := x.begun && x.todo.isEmpty && x.pieces.isEmpty

/-- The issue checks of a vector source (R109 items 1 and 2). -/
def sourceCheck (s : State) (v : VReg) : Option FaultInfo :=
  match (rdV s v).tag with
  | .none => some (fault 0x05 0 (BitVec.ofNat 64 v.val))
  | .poison => some (fault 0x11 3 (BitVec.ofNat 64 v.val))
  | _ => none

/-- The tag an issued tile configuration has, checked as R109 for a tile: NONE 0x05, POISON 0x11 (R17). -/
def tileTagCheck (t : Nat) (c : Word) : Option FaultInfo :=
  match cfgTag c with
  | .none => some (fault 0x05 0 (BitVec.ofNat 64 t))
  | .poison => some (fault 0x11 3 (BitVec.ofNat 64 t))
  | _ => none

end Sys2Proof.Machine
end

