-- ==== Sys2Proof/Machine/Scalar.lean ====
section
/-! DEFINITION. Scalar and predicate instructions (R86 to R92). Every meaning reads its registers as they stand when the
group issues and puts its result in flight with the latency of R48. -/

namespace Sys2Proof.Machine

/-- The 64-bit pattern of a sign-extended immediate (R88). -/
def imm26 (i : BitVec 26) : Word := i.signExtend 64

/-- High half of the signed product (R89). -/
def mulHigh (a b : Word) : Word := ((a.signExtend 128 * b.signExtend 128) >>> 64).setWidth 64

/-- High half of the unsigned product. -/
def mulHighU (a b : Word) : Word := ((a.setWidth 128 * b.setWidth 128) >>> 64).setWidth 64

/-- Quotient (R89): -1 for a zero divisor. -/
def quot (u : Bool) (a b : Word) : Word := if b = 0 then -1 else if u then a / b else a.sdiv b

/-- Remainder (R89): the dividend for a zero divisor. -/
def remain (u : Bool) (a b : Word) : Word := if b = 0 then a else if u then a % b else a.srem b

/-- Leading zeros. -/
def clz64 (a : Word) : Nat := if a = 0 then 64 else 63 - Nat.log2 a.toNat

/-- Trailing zeros. -/
def ctz64 (a : Word) : Nat := ((List.range 64).find? fun i => a.getLsbD i).getD 64

/-- One bits of an `n`-bit pattern. -/
def popcount {n : Nat} (a : BitVec n) : Nat := ((List.range n).filter fun i => a.getLsbD i).length

/-- A two-source instruction of latency `lat`. -/
def alu2 (lat : Nat) (f : Word → Word → Word) (d a b : SReg) (s : State) : Out := .next (putS lat d (f (rdS s a) (rdS s b)) s)

/-- A one-source instruction of latency 1. -/
def alu1 (f : Word → Word) (d a : SReg) (s : State) : Out := .next (putS 1 d (f (rdS s a)) s)

/-- `add` (R89). -/
def execAdd (d a b : SReg) (s : State) : Out := alu2 1 (fun a b => a + b) d a b s

/-- `sub` (R89). -/
def execSub (d a b : SReg) (s : State) : Out := alu2 1 (fun a b => a - b) d a b s

/-- `mul` (R89). -/
def execMul (d a b : SReg) (s : State) : Out := alu2 3 (fun a b => a * b) d a b s

/-- `mulh` (R89). -/
def execMulh (d a b : SReg) (s : State) : Out := alu2 3 (fun a b => mulHigh a b) d a b s

/-- `mulhl` (R89). -/
def execMulhl (d a b : SReg) (s : State) : Out := alu2 3 (fun a b => mulHighU a b) d a b s

/-- `and` (R89). -/
def execAnd (d a b : SReg) (s : State) : Out := alu2 1 (fun a b => a &&& b) d a b s

/-- `or` (R89). -/
def execOr (d a b : SReg) (s : State) : Out := alu2 1 (fun a b => a ||| b) d a b s

/-- `xor` (R89). -/
def execXor (d a b : SReg) (s : State) : Out := alu2 1 (fun a b => a ^^^ b) d a b s

/-- `andn` (R89). -/
def execAndn (d a b : SReg) (s : State) : Out := alu2 1 (fun a b => a &&& ~~~b) d a b s

/-- `shl` (R89). -/
def execShl (d a b : SReg) (s : State) : Out := alu2 1 (fun a b => a <<< (b.toNat % 64)) d a b s

/-- `shr` (R89). -/
def execShr (d a b : SReg) (s : State) : Out := alu2 1 (fun a b => a >>> (b.toNat % 64)) d a b s

/-- `sra` (R89). -/
def execSra (d a b : SReg) (s : State) : Out := alu2 1 (fun a b => a.sshiftRight (b.toNat % 64)) d a b s

/-- `rotl` (R89). -/
def execRotl (d a b : SReg) (s : State) : Out := alu2 1 (fun a b => a.rotateLeft (b.toNat % 64)) d a b s

/-- `min` (R89). -/
def execMin (d a b : SReg) (s : State) : Out := alu2 1 (fun a b => if a.slt b then a else b) d a b s

/-- `max` (R89). -/
def execMax (d a b : SReg) (s : State) : Out := alu2 1 (fun a b => if a.slt b then b else a) d a b s

/-- `minl` (R89). -/
def execMinl (d a b : SReg) (s : State) : Out := alu2 1 (fun a b => if a.ult b then a else b) d a b s

/-- `maxl` (R89). -/
def execMaxl (d a b : SReg) (s : State) : Out := alu2 1 (fun a b => if a.ult b then b else a) d a b s

/-- `divq` (R89). -/
def execDivq (d a b : SReg) (u : Bool) (s : State) : Out := alu2 16 (quot u) d a b s

/-- `remq` (R89). -/
def execRemq (d a b : SReg) (u : Bool) (s : State) : Out := alu2 16 (remain u) d a b s

/-- `addi` (R89). -/
def execAddi (d a : SReg) (i : BitVec 26) (s : State) : Out := alu1 (fun a => a + imm26 i) d a s

/-- `andi` (R89). -/
def execAndi (d a : SReg) (i : BitVec 26) (s : State) : Out := alu1 (fun a => a &&& imm26 i) d a s

/-- `ori` (R89). -/
def execOri (d a : SReg) (i : BitVec 26) (s : State) : Out := alu1 (fun a => a ||| imm26 i) d a s

/-- `xori` (R89). -/
def execXori (d a : SReg) (i : BitVec 26) (s : State) : Out := alu1 (fun a => a ^^^ imm26 i) d a s

/-- `shli` (R89). -/
def execShli (d a : SReg) (i : BitVec 26) (s : State) : Out := alu1 (fun a => a <<< i.toNat) d a s

/-- `shri` (R89). -/
def execShri (d a : SReg) (i : BitVec 26) (s : State) : Out := alu1 (fun a => a >>> i.toNat) d a s

/-- `srai` (R89). -/
def execSrai (d a : SReg) (i : BitVec 26) (s : State) : Out := alu1 (fun a => a.sshiftRight i.toNat) d a s

/-- `sext` (R89). -/
def execSext (d a : SReg) (i : BitVec 26) (s : State) : Out := alu1 (fun a => BitVec.ofInt 64 (signExt a.toNat i.toNat)) d a s

/-- `zext` (R89). -/
def execZext (d a : SReg) (i : BitVec 26) (s : State) : Out := alu1 (fun a => BitVec.ofNat 64 (a.toNat % 2 ^ i.toNat)) d a s

/-- `clz` (R89). -/
def execClz (d a : SReg) (s : State) : Out := alu1 (fun a => BitVec.ofNat 64 (clz64 a)) d a s

/-- `ctz` (R89). -/
def execCtz (d a : SReg) (s : State) : Out := alu1 (fun a => BitVec.ofNat 64 (ctz64 a)) d a s

/-- `popc` (R89). -/
def execPopc (d a : SReg) (s : State) : Out := alu1 (fun a => BitVec.ofNat 64 (popcount a)) d a s

/-- `bswap` (R89). -/
def execBswap (d a : SReg) (s : State) : Out := alu1 (fun a => leWord (leBytes 8 a.toNat).reverse) d a s

/-- `mov` (R89). -/
def execMov (d a : SReg) (s : State) : Out := alu1 (fun a => a) d a s

/-- `li` (R90). -/
def execLi (d : SReg) (v : BitVec 32) (sh : Fin 64) (s : State) : Out := .next (putS 1 d (v.signExtend 64 <<< sh.val) s)

/-- `lih` (R90). -/
def execLih (d : SReg) (v : BitVec 32) (sh : Fin 64) (s : State) : Out :=
  let m : Word := 0xFFFFFFFF <<< sh.val
  .next (putS 1 d ((rdS s d &&& ~~~m) ||| (v.setWidth 64 <<< sh.val)) s)

/-- `sel` (R89). -/
def execSel (d a b : SReg) (q : PReg) (inv : Bool) (s : State) : Out :=
  .next (putS 1 d (if (rdP s q ^^ inv) then rdS s a else rdS s b) s)

/-- `addp` (R89). -/
def execAddp (d a b : SReg) (n : Ix8) (s : State) : Out := alu2 1 (fun a b => a + b <<< n.val) d a b s

/-- A predicate pair after a compare (R14, R91): the even member takes the value, the odd one its complement. -/
def putPair (q : PReg) (c : Bool) (s : State) : State := emit 1 (.p (q + 1) (!c)) 0 (emitMore 1 (.p q c) s)

/-- `cmp` (R91). -/
def execCmp (c : Cond) (q : PReg) (a b : SReg) (s : State) : Out :=
  .next (putPair q (iCmp 64 c (rdS s a).toNat (rdS s b).toNat) s)

/-- `cmpi` (R91). -/
def execCmpi (c : Cond) (q : PReg) (a : SReg) (i : BitVec 30) (s : State) : Out :=
  .next (putPair q (iCmp 64 c (rdS s a).toNat (i.signExtend 64).toNat) s)

/-- A predicate result (R92). -/
def putP (d : PReg) (x : Bool) (s : State) : State := emit 1 (.p d x) 0 s

/-- `pand` (R92). -/
def execPand (d a b : PReg) (s : State) : Out := .next (putP d (rdP s a && rdP s b) s)

/-- `por` (R92). -/
def execPor (d a b : PReg) (s : State) : Out := .next (putP d (rdP s a || rdP s b) s)

/-- `pxor` (R92). -/
def execPxor (d a b : PReg) (s : State) : Out := .next (putP d (rdP s a ^^ rdP s b) s)

/-- `pnot` (R92). -/
def execPnot (d a : PReg) (s : State) : Out := .next (putP d (!rdP s a) s)

/-- `pmov` (R92). -/
def execPmov (d a : PReg) (s : State) : Out := .next (putP d (rdP s a) s)

/-- `pset` (R92). -/
def execPset (d : PReg) (a : SReg) (n : Fin 64) (s : State) : Out := .next (putP d ((rdS s a).getLsbD n.val) s)

/-- `pset.all` (R92). -/
def execPsetAll (a : SReg) (s : State) : Out :=
  .next (emit 1 (.ps ((rdS s a).setWidth 16)) 0 s)

/-- `pget` (R92). -/
def execPget (d : SReg) (s : State) : Out := .next (putS 1 d (BitVec.ofNat 64 (rdPAll s)) s)

end Sys2Proof.Machine
end

