-- ==== Sys2Proof/Machine/Control.lean ====
section
/-! DEFINITION. Transfers of control, the return stack, hardware loops, control-register moves, traps and translation
maintenance (R93 to R103, R314, R315, R320). -/

namespace Sys2Proof.Machine

/-- A no-operation (R38). -/
def execNop (s : State) : Out := .next s

/-- A taken transfer (R94): the fourth group after this one is the first at the target. -/
def redirect (t : Word) (s : State) : State :=
  modSq (fun q => { q with redirs := q.redirs ++ [⟨q.group + 4, ⟨t, 0⟩⟩] }) s

/-- The target of a B-format branch (R42). -/
def branchTarget (s : State) (off : BitVec 30) : Word := s.me.sq.at_.pc + (off.signExtend 64 <<< 1)

/-- `br` (R93). -/
def execBr (off : BitVec 30) (s : State) : Out := .next (retireNow (redirect (branchTarget s off) s))

/-- An odd target raises 0x0B (R93). -/
def targetCheck (t : Word) : Option FaultInfo := failIf (bit t 0) (fault 0x0B 0 t)

/-- `jmp` (R93). -/
def execJmp (a : SReg) (s : State) : Out :=
  .next (checked (targetCheck (rdS s a)) (fun s => retireNow (redirect (rdS s a) s)) s)

/-- The link of a call (R95): the PC where the fourth group after this one begins. -/
def linkOf (s : State) : Except FaultInfo Word :=
  match ownGroup s with
  | .error f => .error f
  | .ok g => match skipGroups s 3 g.next g.last with
    | .error f => .error f
    | .ok (p, _) => .ok p.pc

/-- The pieces of a spill or reload, or cause 0x08 (R96). -/
def spillSegs (s : State) (acc : Right) (a : Word) : Except FaultInfo (List Seg) :=
  match vaSegs s s.me.site s.me.world acc a 8 with
  | .error _ => .error (fault 0x08 0 a)
  | .ok gs => if (badLine s gs).isSome then .error (fault 0x08 0 a) else .ok gs

/-- The spill of the oldest entry when the return stack is full (R95). -/
def spillPieces (s : State) : Except FaultInfo (Option (List Seg)) :=
  if s.me.sq.rstack.length < 16 then .ok none
  else match spillSegs s .write s.me.ctl.xstk with
    | .error f => .error f
    | .ok gs => .ok (some gs)

/-- The spill store: the oldest entry goes to memory and `XSTK` rises (R95). -/
def doSpill (gs : Option (List Seg)) (s : State) : State :=
  match gs with
  | none => s
  | some gs =>
    let s := writeSegs (stepSegs .store (some s.me.uid) gs s) gs (leBytes 8 (s.me.sq.rstack.headD 0).toNat)
    modSq (fun q => { q with rstack := q.rstack.drop 1 }) (modCtl (fun c => { c with xstk := c.xstk + 8 }) s)

/-- A call to a target (R95): spill, push, link and redirect. -/
def callTo (t : Word) (s : State) : State :=
  tryWith (linkOf s) (fun link s =>
    tryWith (spillPieces s) (fun gs s =>
      let s := modSq (fun q => { q with rstack := q.rstack ++ [link] }) (doSpill gs s)
      let s := retireNow s
      redirect t (emit 1 (.s 63 link) 0 (setArrive none s))) s) s

/-- `call` (R95). -/
def execCall (off : BitVec 30) (s : State) : Out := .next (callTo (branchTarget s off) s)

/-- `callr` (R93, R95). -/
def execCallr (a : SReg) (s : State) : Out := .next (checked (targetCheck (rdS s a)) (callTo (rdS s a)) s)

/-- A return to an entry, bit 0 cleared (R95). -/
def returnTo (e : Word) (s : State) : State := retireNow (redirect (e &&& ~~~1) s)

/-- `ret` (R95): the top entry, or the word below `XSTK.PTR`. -/
def execRet (s : State) : Out :=
  .next (match s.me.sq.rstack.getLast? with
    | some e => returnTo e (modSq (fun q => { q with rstack := q.rstack.dropLast }) s)
    | none =>
      let a := s.me.ctl.xstk - 8
      tryWith (spillSegs s .read a) (fun gs s =>
        let e := leWord (readSegs s gs)
        returnTo e (modCtl (fun c => { c with xstk := a }) (stepSegs .plain (some s.me.uid) gs s))) s)

/-- The place after the body and its last slot (R97), and where it starts. -/
def loopBody (s : State) (body : Nat) : Except FaultInfo (CodePos × CodePos × CodePos) :=
  match ownGroup s with
  | .error f => .error f
  | .ok g => match skipGroups s body g.next g.last with
    | .error f => .error f
    | .ok (after, last) => .ok (g.next, last, after)

/-- The checks of `loop` before the body is sought (R97). -/
def loopCheck (s : State) (c : Word) : Option FaultInfo :=
  match ownGroup s with
  | .error f => some f
  | .ok g =>
    firstFault [failIf (g.last.slot ≠ 5) (fault 0x03 0 s.me.sq.start.pc), failIf (c.toNat > 2 ^ 32 - 1) (fault 0x07 0 c)]

/-- `loop` with its count (R97): the new level 0 lands one group later; the slot retires as its group issues (R39). -/
def loopWith (body : BitVec 12) (c : Word) (s : State) : State :=
  checked (loopCheck s c) (fun s =>
    tryWith (loopBody s body.toNat) (fun (first, last, after) s =>
      if c = 0 then retireNow (modSq (fun q => { q with skip := some after }) s)
      else checked (failIf (s.me.sq.loops.length ≥ 6) (fault 0x07 0 c)) (fun s =>
        emit 1 (.loop ⟨0, c.setWidth 32, first, last⟩) 0 (setArrive none (retireNow s))) s) s) s

/-- `loop #cnt, #body` (R97). -/
def execLoop (body : BitVec 12) (cnt : BitVec 31) (s : State) : Out := .next (loopWith body (cnt.setWidth 64) s)

/-- `loop sa, #body` (R97). -/
def execLoopReg (body : BitVec 12) (a : SReg) (s : State) : Out := .next (loopWith body (rdS s a) s)

/-- `lbrk` (R100). -/
def execLbrk (s : State) : Out :=
  .next (checked (failIf s.me.sq.loops.isEmpty (fault 0x07 0 0)) (fun s =>
    retireNow (modSq (fun q => { q with loops := q.loops.drop 1 }) s)) s)

/-- A loop register (R98): levels at or beyond the depth read 0. -/
def loopReg (s : State) (j : Nat) (f : LoopLevel → BitVec 32) : Word :=
  match s.me.sq.loops[j]? with
  | some l => (f l).setWidth 64
  | none => 0

/-- `lidx` (R101). -/
def execLidx (d : SReg) (j : Ix8) (s : State) : Out :=
  .next (putS 1 d (loopReg s j.val LoopLevel.idx) s)

/-- `lidx.n` (R101). -/
def execLidxN (d : SReg) (j : Ix8) (s : State) : Out :=
  .next (putS 1 d (loopReg s j.val LoopLevel.cnt) s)

/-- `csrr` (R103). `OUTS` counts the operations of the whole group that holds the `csrr` (R26), so that its value is known
when that group has issued. -/
def execCsrr (d : SReg) (n : BitVec 12) (s : State) : Out :=
  .next (emit 1 (if n.toNat = 0x014 then .outs d else .s d (csrRead s n.toNat)) 0 s)

/-- The tile a control-register number configures, if it is one. -/
def csrTile (n : Nat) : Option Nat := if 0x20 ≤ n && n ≤ 0x27 then some (n - 0x20) else none

/-- The issue checks of a `csrw` on its new value (R24, R27). -/
def csrCheck (s : State) (n : Nat) (v : Word) : Option FaultInfo :=
  firstFault [
    failIf (!s.me.ctl.handler && ((csrRead s n ^^^ v) &&& csrHandler n) ≠ 0) (fault 0x0C 0 (BitVec.ofNat 64 n)),
    failIf ((csrTile n).isSome && !cfgOk v) (fault 0x02 0 v)]

/-- A valid `csrw` takes effect: a tile configuration at its place in the tile order, after the queries issued before it, its issued
value at issue (R27, R256, R262; DEDUCED against R103, which lands every new value after one group, assumption log 96); any other after
one group. -/
def csrEffect (n : Nat) (v : Word) (s : State) : State :=
  match csrTile n with
  | some t =>
    if tileWaits s.me t then holdHere s
    else
      let s := settleQueries s.me.uid s
      emit 1 .none 0 (setIcfg t (fun _ => v) { s with me := modTile t (configure v) s.me })
  | none => emit 1 (.csr n v) 0 s

/-- A `csrw` of one form (R103). -/
def csrWrite (op : CsrOp) (n : BitVec 12) (a : SReg) (s : State) : State :=
  let v := csrNew op n.toNat (csrRead s n.toNat) (rdS s a)
  checked (csrCheck s n.toNat v) (csrEffect n.toNat v) s

/-- `csrw` (R103). -/
def execCsrw (n : BitVec 12) (a : SReg) (s : State) : Out := .next (csrWrite .write n a s)

/-- `csrw.set` (R103). -/
def execCsrwSet (n : BitVec 12) (a : SReg) (s : State) : Out := .next (csrWrite .set n a s)

/-- `csrw.clr` (R103). -/
def execCsrwClr (n : BitVec 12) (a : SReg) (s : State) : Out := .next (csrWrite .clear n a s)

/-- `trap` (R314): it commits, its arrive suffix counts, then the trap is taken; the resume point is the slot after it. -/
def execTrap (i : BitVec 26) (s : State) : Out :=
  let f := fault 0x14 0 (i.setWidth 64)
  let s := retireNow s
  .next (match s.me.sq.queue with
    | r :: _ => takeTrap f ⟨r.pc, r.idx⟩ s
    | [] => let s := endGroup s; takeTrap f s.me.sq.next s)

/-- `xret` (R315): its group issues whole, then the context leaves its handler. -/
def execXret (s : State) : Out :=
  .next (checked (failIf (!s.me.ctl.handler) (fault 0x0C 0 0)) (fun s =>
    retireNow (modSq (fun q => { q with returning := true }) s)) s)

/-- The translations of a world, of one page when an address is given, leave every TLB of the module (R320). -/
def tlbDropAll (world : Bool) (page : Option Nat) (s : State) : State :=
  { s with tlb := s.tlb.filter fun t =>
      !(t.world = world && (match page with | some a => decide (t.va ≤ a) && decide (a < t.va + t.size) | none => true)) }

/-- A `tlbi` in issue: the translations go, and it is outstanding in class S until it retires. -/
def tlbInvalidate (page : Option Nat) (s : State) : State :=
  storeOut true (.tlbi s.me.world page) none (tlbDropAll s.me.world page s)

/-- `tlbi` (R320). -/
def execTlbi (a : SReg) (s : State) : Out := .next (tlbInvalidate (some ((rdS s a).toNat % 2 ^ 57)) s)

/-- `tlbi.all` (R320). -/
def execTlbiAll (s : State) : Out := .next (tlbInvalidate none s)

end Sys2Proof.Machine
end

