-- ==== Sys2Proof/Machine/Window.lean ====
section
/-! DEFINITION. Windows and the issuer's side of remote operations (R364, R365, R371, R374, R378, R379, R382), and the
memory-shape of loads: sign extension, E2M1X blocks in registers and memory (R67 to R69, R140). -/

namespace Sys2Proof.Machine

/-! ### Shapes of loaded data -/

/-- A scalar result of loaded bytes (R140). -/
def extBytes (sg : Bool) (bs : List Byte) : Word :=
  if sg then BitVec.ofInt 64 (signExt (leNat bs) (8 * bs.length)) else leWord bs

/-- Bytes a whole-register access moves under a tag (R138): 864 under E2M1X. -/
def vecLen (t : Tag) : Nat := if t = .e2m1x then 864 else 1024

/-- Register bits of loaded bytes (R140): E2M1X blocks take their places, bytes 864 to 1023 are zero. -/
def vecOfMem (t : Tag) (bs : List Byte) : BitVec 8192 :=
  if t = .e2m1x then
    bytesVec (((List.range 48).flatMap fun b => (bs.drop (18 * b)).take 16) ++ ((List.range 48).map fun b => bs.getD (18 * b + 16) 0)
      ++ (List.range 48).map fun b => bs.getD (18 * b + 17) 0)
  else bytesVec bs

/-- Memory bytes of a register (R142). -/
def memOfVec (t : Tag) (x : BitVec 8192) : List Byte :=
  let bs := vecBytes x 1024
  if t = .e2m1x then (List.range 48).flatMap fun b => ((bs.drop (16 * b)).take 16) ++ [bs.getD (768 + b) 0, bs.getD (816 + b) 0]
  else bs

/-- The special byte of the lowest malformed block in loaded bytes (R69). -/
def badBlock (bs : List Byte) : Option Nat :=
  (List.range 48).findSome? fun b => if specialOk (bs.getD (18 * b + 17) 0).toNat then none else some (18 * b + 17)

/-- The whole mask. -/
def allMask : BitVec 8192 := BitVec.allOnes 8192

/-- The register update of a vector load, with its boundary fault if a block is malformed (R69). -/
def vecUpd (d : VReg) (t : Tag) (bs : List Byte) (A : Word) : Upd × Option FaultInfo :=
  match (if t = .e2m1x then badBlock bs else none) with
  | some i => (.v d 0 0 (some .poison), some { cause := 0x04, sub := 1, addr := A + BitVec.ofNat 64 i, detail := [7] })
  | none => (.v d (vecOfMem t bs) allMask (some t), none)

/-! ### Window entries -/

/-- Fields of a window entry (R371). -/
def winKey (e : BitVec 256) : Word := BitVec.ofNat 64 (fld e.toNat 192 64)
/-- BASE. -/
def winBase (e : BitVec 256) : Nat := fld e.toNat 128 64
/-- LIMIT. -/
def winLimit (e : BitVec 256) : Nat := fld e.toNat 80 48
/-- PEER. -/
def winPeer (e : BitVec 256) : Nat := fld e.toNat 64 12

/-- The cached entry of a handle on a die. -/
def winCached (s : State) (die lnch h : Nat) : Option (BitVec 256) :=
  (s.fab.wins.find? fun w => w.die = die && w.lnch = lnch && w.h = h).map (·.bits)

/-- The entry a handle selects: none when there is no such entry (R371). A fault of the read is the walk's, at the
window address (assumption log 9). -/
def winEntry (s : State) (ag : Agent) (h : Nat) (A : Word) : Except FaultInfo (Option (BitVec 256)) :=
  match (launchOf s ag.lnch).bind (·.win) with
  | none => .ok none
  | some (va, n) =>
    if h ≥ n then .ok none
    else match winCached s ag.die ag.lnch h with
      | some e => .ok (some e)
      | none => match devRead s ag (va + BitVec.ofNat 64 (32 * h)) 32 with
        | .error f => .error { f with addr := A }
        | .ok bs => .ok (some (BitVec.ofNat 256 (leNat bs)))

/-- The die caches an entry it has read; at most 64 for each launch (R371). -/
def winFill (ag : Agent) (h : Nat) (e : BitVec 256) (s : State) : State :=
  if (winCached s ag.die ag.lnch h).isSome then s
  else if (s.fab.wins.filter fun w => w.die = ag.die && w.lnch = ag.lnch).length ≥ 64 then s
  else { s with fab := { s.fab with wins := s.fab.wins ++ [⟨ag.die, ag.lnch, h, e⟩] } }

/-- A window address as checked: handle, offset, entry. -/
structure WinRef where
  h     : Nat
  o     : Nat
  entry : BitVec 256
deriving DecidableEq, Repr

/-- The right bit an operation needs: RD 0, WR 1, A 2 (R371). -/
def rightBit : Right → Nat
  | .write => 1
  | .atomic => 2
  | _ => 0

/-- The window address {h, o}. -/
def winAddr (h o : Nat) : Word := BitVec.ofNat 64 (h * 2 ^ 48 + o)

/-- The checks of R374, in order. `high` says that an `ldw` or `stw` has nonzero high address bits. DESIGN CHOICE (assumption log 90):
R139 puts alignment, of A, before a space's own checks, and R374 puts it last and takes it of BASE + o; R374 is followed. -/
def winCheck (s : State) (ag : Agent) (h o n : Nat) (acc : Right) (align : Nat) (high : Bool) : Except FaultInfo WinRef :=
  let A := winAddr h o
  match winEntry s ag h A with
  | .error f => .error f
  | .ok none => .error (fault 0x13 0 A)
  | .ok (some e) =>
    if !(e.getLsbD 4) then .error (fault 0x13 0 A)
    else if high || o + n > winLimit e then .error (fault 0x13 1 A)
    else if !(e.getLsbD (rightBit acc)) then .error (fault 0x13 2 A)
    else if (winBase e + o) % align ≠ 0 then .error (fault 0x0B 0 A)
    else .ok ⟨h, o, e⟩

/-- Handle and offset of a `.w` address (R136). -/
def winSplit (A : Word) : Nat × Nat := (bits A 48 16, bits A 0 48)

/-! ### Routes (R365, R382) -/

/-- Whether the slot table of a port names a module (R368). -/
def slotsMeet (p : Port) (m : Nat) : Bool :=
  (List.range (bits p.cfg 56 6 + 1)).any fun i => let e := getAt 0 p.slots i; bit e 21 && bits e 22 12 = m

/-- Whether a port names a module: PEER of a held port, the slot table of a rotor port (R365). One in a change holds what
waits for it (R367, R381), so that it still counts (DEDUCED; assumption log 66). -/
def portMeets (p : Port) (m : Nat) : Bool :=
  match p.st with
  | .held => bits p.cfg 20 12 = m
  | .rotor => slotsMeet p m
  | _ => p.chg && (if bit p.cfg 62 then slotsMeet p m else decide (bits p.cfg 20 12 = m))

/-- The module traffic for `m` goes to first: itself, or the relay of its route (R365). -/
def nextHop (s : State) (m : Nat) : Option Nat :=
  let e := getAt (0 : BitVec 32) s.fab.mroute m
  match fld e.toNat 30 2 with
  | 1 => some m
  | 2 => some (fld e.toNat 18 12)
  | _ => none

/-- The ports of a route in one state. -/
def portsIn (s : State) (st : PortSt) (ps : List Nat) : List Nat := ps.filter fun i => (vget Port.reset s.fab.ports i).st = st

/-- The ports by which a route goes (R365): the held ports that name the next module; where there is none, the rotor ports;
else those in a change. -/
def routePorts (s : State) (m : Nat) : List Nat :=
  match nextHop s m with
  | none => []
  | some v =>
    let ps := (List.range 32).filter fun i => portMeets (vget Port.reset s.fab.ports i) v
    if !(portsIn s .held ps).isEmpty then portsIn s .held ps
    else if !(portsIn s .rotor ps).isEmpty then portsIn s .rotor ps
    else ps

/-- A module is reachable (R382). -/
def reachable (s : State) (m : Nat) : Bool := !(routePorts s m).isEmpty

/-- A non-secure agent reaches only non-secure ports (R391). -/
def portsForbidden (s : State) (world : Bool) (m : Nat) : Bool :=
  !world && reachable s m && (routePorts s m).all fun i => bit s.fab.portw i

/-! ### Remote operations of the issuer -/

/-- A remote operation is over for its pending result: when it was the last, the result is ready. -/
def settleLoad (u pd : Nat) (f : Upd → Upd) (keepArrive : Bool) (s : State) : State :=
  let more := s.fab.outs.any fun o => match o.use with | .load p _ => p = pd | _ => false
  modSqOf u (fun q => { q with pends := q.pends.map fun p =>
    if p.id = pd then { p with upd := f p.upd, ready := !more, arrive := if keepArrive then p.arrive else none } else p }) s

/-- The same for an operation of class S. -/
def settleStore (u st : Nat) (keepArrive : Bool) (s : State) : State :=
  let more := s.fab.outs.any fun o => match o.use with | .store x => x = st | _ => false
  modSqOf u (fun q => { q with stores := q.stores.map fun p =>
    if p.id = st then { p with ready := !more, arrive := if keepArrive then p.arrive else none } else p }) s

/-- A load that will bring no data (R146, R379). -/
def noData : Upd → Upd
  | .s r _ => .keepS r
  | .v r _ _ _ => .v r 0 0 (some .poison)
  | .blk r _ _ => .v r 0 0 (some .poison)
  | u => u

/-- Removing an outstanding remote operation. -/
def dropOut (id : Nat) (s : State) : State := { s with fab := { s.fab with outs := s.fab.outs.filter (·.id ≠ id) } }

/-- A remote operation faults (R378, R379, R382): the fault is recorded and its result brings no data. -/
def failOut (o : RemoteOut) (f : FaultInfo) (s : State) : State :=
  let s := dropOut o.id s
  match o.use with
  | .load pd _ => settleLoad o.cid pd noData false (recordFault o.cid f s)
  | .store st => settleStore o.cid st false (recordFault o.cid f s)
  | .engine tag _ =>
    match findCmd o.cid tag s with
    | some x => failCmd o.cid x f s
    | none => s

/-- The engine that issued a remote operation, as R312 numbers them. -/
def engineOf (s : State) (o : RemoteOut) : Nat :=
  match o.use with
  | .engine tag _ => ((findCmd o.cid tag s).map fun x => x.op.engine).getD 7
  | _ => 7

/-- The fault of a remote operation with its two detail words (R312). -/
def remoteFault (s : State) (o : RemoteOut) (sub : Nat) : FaultInfo :=
  { cause := 0x12, sub, addr := o.win, detail := [BitVec.ofNat 64 (engineOf s o), BitVec.ofNat 64 o.retries] }

/-- The flow of a context to a module, and the place of its next operation (R379). -/
def flowOf (c : Ctx) (m : Nat) : Option (Nat × Nat) := (c.flows.find? fun x => x.1 = m).map fun x => x.2

/-- A flow ends (R379): the operation and every later one of its flow fault, in issue order; later operations of the
context to that module begin a new flow. -/
def failFlow (o : RemoteOut) (sub : Nat) (s : State) : State :=
  let later := s.fab.outs.filter fun x => x.cid = o.cid && x.req.flow = o.req.flow && decide (x.req.seq ≥ o.req.seq)
  let s := later.foldl (fun s x => failOut x (remoteFault s x sub) s) s
  modCtx o.cid (fun c => { c with flows := c.flows.filter fun (t, v) => !(t = o.req.target && v.1 = o.req.flow) }) s

/-- This module's number (R364). -/
def myModule (s : State) : Nat := bits s.fab.fabcfg 0 12

/-- The flow of a context to a module, or of one engine command to it, and the place of its next operation (R379). -/
def nextInFlow (s : State) (u m : Nat) (use : RemoteFor) : Nat × Nat :=
  match use with
  | .engine tag _ =>
    match (s.fab.outs.filter fun o => o.cid = u && o.req.target = m && (match o.use with | .engine t _ => t = tag | _ => false)).getLast? with
    | some o => (o.req.flow, o.req.seq + 1)
    | none => (s.ids, 0)
  | _ => (((findCtx u s).bind fun c => flowOf c m)).getD (s.ids, 0)

/-- A remote operation of a thread is issued (R379): an unreachable target ends its flow at once (R382). -/
def issueRemote (u lnch tid : Nat) (q : RemoteReq) (waits : Bool) (win : Word) (use : RemoteFor) (reach : Bool) (s : State) : State :=
  let (flow, seq) := nextInFlow s u q.target use
  let o : RemoteOut :=
    { id := s.ids, cid := u, lnch, tid, req := { q with flow, seq }, st := .queued, retries := 0, waits, win, use, via := none }
  let s := match use with
    | .engine .. => s
    | _ => modCtx u (fun c => { c with flows := insAt c.flows q.target (flow, seq + 1) }) s
  let s := { s with ids := s.ids + 1, fab := { s.fab with outs := s.fab.outs ++ [o] } }
  if reach then s else failFlow o 1 s

/-- A remote operation of a thread is issued through a checked window reference (R374, R379). -/
def sendRemote (u : Nat) (ag : Agent) (tid : Nat) (w : WinRef) (op : RemoteOp) (waits : Bool) (use : RemoteFor) (s : State) : State :=
  let m := winPeer w.entry
  issueRemote u ag.lnch tid
    { src := myModule s, target := m, flow := 0, seq := 0, key := winKey w.entry, store := w.entry.getLsbD 3
      addr := BitVec.ofNat 64 (winBase w.entry + w.o), world := ag.world, port := 0, op }
    waits (winAddr w.h w.o) use (reachable s m) (winFill ag w.h w.entry s)

/-- Remote operations of the context in issue that are not done, engines' apart (R375, R376). -/
def remoteBusy (s : State) : Bool :=
  s.fab.outs.any fun o => o.cid = s.me.uid && (match o.use with | .engine .. => false | _ => true)

/-- Whether a `kaddw` of the context waits for earlier remote operations (R375). -/
def kaddwWaits (s : State) : Bool :=
  s.fab.outs.any fun k => k.cid = s.me.uid && k.waits && s.fab.outs.any fun o => o.cid = s.me.uid && decide (o.id < k.id) &&
    (match o.use with | .engine .. => false | _ => true)

/-- The update that the data of a remote load make (R374). -/
def shapeUpd (sh : LoadShape) (bs : List Byte) (A : Word) (u : Upd) : Upd × Option FaultInfo :=
  match sh, u with
  | .scalar sg, .s r _ => (.s r (extBytes sg bs), none)
  | .lane w i, .v r data mask tag =>
    let m := BitVec.ofNat 8192 ((2 ^ w - 1) * 2 ^ (w * i))
    (.v r ((data &&& ~~~m) ||| BitVec.ofNat 8192 (leNat bs % 2 ^ w * 2 ^ (w * i))) mask tag, none)
  | .vec t, .v r _ _ _ => vecUpd r t bs A
  | _, u => (u, none)

/-- The issue check of a window access in the world of its ports (R391). -/
def winCheckAll (s : State) (ag : Agent) (h o n : Nat) (acc : Right) (align : Nat) (high : Bool) : Except FaultInfo WinRef :=
  match winCheck s ag h o n acc align high with
  | .error f => .error f
  | .ok w => if portsForbidden s ag.world (winPeer w.entry) then .error (accFault 0x0C 0 (winAddr h o) acc.writes) else .ok w

end Sys2Proof.Machine
end

