-- ==== Sys2Proof/Machine/Perform.lean ====
section
/-! DEFINITION. The operations of a slot, performed one at a time (R242 to R244): what a load, a store, a counter add and the
release of a bank do when they are performed, and a slot that has more of them than one (R143, R190, R226). -/

namespace Sys2Proof.Machine

/-! ### Loads and stores performed (R140, R142, R146) -/

/-- The boundary fault of an uncorrectable line (R146). -/
def badFault (A : Word) : FaultInfo := { cause := 0x16, addr := A, detail := [7] }

/-- A load result with its kind of latency: fixed with `lat` groups, or pending and in class L (R141). -/
def loadResult (fixed : Option Nat) (u : Upd) (f : Option FaultInfo) (A : Word) (s : State) : State :=
  match fixed with
  | some l => emitFault l u f s
  | none => pend u true true f (some A) s

/-- The write of an access that has passed, with a report of an uncorrectable line it meets (R146). DESIGN CHOICE (assumption
log 25): the report is the issuer's die's, also for a line of another die, and the line stays uncorrectable after the write. -/
def storeBytes (k : LineAcc) (gs : List Seg) (bs : List Byte) (s : State) : State :=
  let s := match badLine s gs with
    | some x => errRecord s.me.die 0x04 0x16 [x] s
    | none => s
  writeSegs (stepSegs k (some s.me.uid) gs s) gs bs

/-! ### Banks passed on (R220 to R226) -/

/-- The banks of a grant entry. -/
def grantBanks (g : Grant) : List Nat :=
  ((List.range 16).filter fun b => g.banks.getLsbD b).map fun b => g.die * 1024 + g.vat * 16 + b

/-- A launch that has been admitted and has not ended. -/
def Launch.live (l : Launch) : Bool :=
  match l.state with
  | .new | .admitted | .triggered => true
  | _ => false

/-- Whether a launch awaits a bank (R222). DESIGN CHOICE (assumption log 84): one that was passed to it once is awaited no
more, also after the launch has released it. -/
def awaits (b : Nat) (l : Launch) : Bool :=
  l.live && !l.taken.contains b && l.grants.any fun g => g.ho && (grantBanks g).contains b

/-- Whether a line belongs to a bank (R214). -/
def inBank (b line : Nat) : Bool := bankNo (64 * line) = b

/-- A bank's lines become zero and uncounted (R222). -/
def zeroBank (b : Nat) (s : State) : State :=
  { s with store := s.store.filter fun c => !inBank b (c.1 / 64), lines := s.lines.filter fun c => !inBank b c.1 }

/-- A launch takes a bank; a change of world zeroes it first (R222). -/
def takeBank (b : Nat) (l : Launch) (s : State) : State :=
  let s := if getAt false s.bankWorld b ≠ l.world then zeroBank b s else s
  { s with banks := setAt 0 s.banks b l.num, bankWorld := setAt false s.bankWorld b l.world }

/-- The awaiting launch with the lowest number. -/
def nextOwner (s : State) (b : Nat) : Option Launch :=
  (s.launches.filter (awaits b)).foldl (fun r l => match r with
    | some x => if l.num < x.num then some l else some x
    | none => some l) none

/-- COUNTED lines of a bank become EMPTY with an error record of under-read each (R226); a pail slot so freed counts, as
completed by `u` (R239). -/
def emptyBank (u : PailBy) (b : Nat) (s : State) : State :=
  (s.lines.filter fun c => inBank b c.1 && isCounted c.2).foldl (fun s c =>
    errRecord (b / 1024) 0x04 0x0E [BitVec.ofNat 64 (64 * c.1), BitVec.ofNat 64 (match c.2 with | .counted n => n | _ => 0)]
      (pailNotice u (64 * c.1) 64 (setLine (64 * c.1) .empty s))) s

/-- The release of a bank (R223, R226). -/
def releaseBank (u : PailBy) (pass : Bool) (b : Nat) (s : State) : State :=
  let s := if pass then s else emptyBank u b s
  match nextOwner s b with
  | some l => takeBank b l (modLaunch l.num (fun x => { x with taken := x.taken ++ [b] }) s)
  | none => { s with banks := setAt 0 s.banks b 0 }

/-! ### A slot's operations, one at a time (R243) -/

/-- A `kadd` or `kaddr` whose checks have passed is performed (R190). A line that has left counter mode since discards the add
with cause 0x0F, sub-code 0x02 (R190); the old value that a `kaddr` then returns is a free value. DESIGN CHOICE (assumption log 92):
the arrive suffix of such a slot still counts. -/
def performAdd (a n : Nat) (d : Option SReg) (s : State) : State :=
  if lineAt s a = .counter then
    let old := counterAt s a
    let (s, sat) := addCounter a n s
    let f := if sat then some (satFault a) else none
    match d with
    | none => storeOut true .plain f s
    | some d => pend (.s d (BitVec.ofNat 64 old)) true true f none s
  else
    let f := some (lateAddFault a 0x0F)
    match d with
    | none => storeOut true .plain f s
    | some d => pend (.s d (Config.lostOld s.fresh)) true true f none { s with fresh := s.fresh + 1 }

/-- The first of the operations that are left, or the end of the slot when none is; what then is left. DESIGN CHOICE (assumption log
31): a bank that another thread of the launch has released since the check of a `brel` is not released again. -/
def restStep (r : SlotRest) (s : State) : State × Option SlotRest :=
  match r with
  | .read d _ t mask fixed A data bad [] =>
    (match bad with
      | some x => loadResult fixed (.v d 0 0 (some .poison)) (some (badFault x)) A s
      | none => loadResult fixed (.v d data mask (some t)) none A s, none)
  | .read d w t mask fixed A data bad ((i, x, gs) :: ls) =>
    (stepSegs .plain (some s.me.uid) gs s,
     some (.read d w t mask fixed A (data ||| BitVec.ofNat 8192 (leNat (readSegs s gs) * 2 ^ (w * i)))
       (bad.orElse fun _ => if (badLine s gs).isSome then some x else none) ls))
  | .write [] => (storeOut true .mem none s, none)
  | .write ((gs, bs) :: ls) => (storeBytes .store gs bs s, some (.write ls))
  | .add a n d => (performAdd a n d s, none)
  | .release _ [] => (storeOut true .plain none s, none)
  | .release pass (b :: bs) =>
    (if bankOwner s b = s.me.lnch then releaseBank (.thread (some s.me.uid)) pass b s else s, some (.release pass bs))

/-- Whether an access of a launch that has passed its checks still does: its store lines allow it (R229) and its launch owns their banks
(R220). -/
def segsHold (s : State) (lnch : Nat) (k : LineAcc) (gs : List Seg) : Bool :=
  gs.all fun g => !g.st || (lineStarts g.addr g.len).all fun x => bankOwner s (bankNo x) = lnch &&
    match lineNext k (lineAt s x) with | .ok _ => true | .error _ => false

/-- Whether what a slot of a context still has to do would still pass: the lanes it has to read or write, the bank of its counter. -/
def restHolds (s : State) (c : Ctx) : Bool :=
  match c.sq.rest with
  | some (.read _ _ _ _ _ _ _ _ ls) => segsHold s c.lnch .plain (ls.flatMap fun l => l.2.2)
  | some (.write ls) => segsHold s c.lnch .store (ls.flatMap fun l => l.1)
  | some (.add a _ _) => bankOwner s (bankNo a) = c.lnch
  | _ => true

/-- So many operations of a slot, and what is left of it. -/
def runRest : Nat → SlotRest → State → State
  | 0, r, s => modSq (fun q => { q with rest := some r }) s
  | n + 1, r, s =>
    match restStep r s with
    | (s, none) => s
    | (s, some r) => runRest n r s

/-- The steps of a slot: its operations, and its end. -/
def SlotRest.steps : SlotRest → Nat
  | .read _ _ _ _ _ _ _ _ ls => ls.length + 1
  | .write ls => ls.length + 1
  | .add .. => 1
  | .release _ bs => bs.length + 1

/-- A slot performs its operations: all of them, or as many as the agenda says before another agent's may come (R242, R243). -/
def goOn (r : SlotRest) (s : State) : State :=
  match s.agenda with
  | .cut n :: rest => runRest (min n r.steps) r { s with agenda := rest }
  | _ => runRest r.steps r s

end Sys2Proof.Machine
end

