-- ==== Sys2Proof/Machine/Memory.lean ====
section
/-! DEFINITION. Loads, stores, prefetch (R134 to R146), consuming loads and counted stores (R233, R234), atomics (R235,
R236) and the window forms `ldw`, `stw` (R373, R374). -/

namespace Sys2Proof.Machine

/-- Bytes of a size field (R134). -/
def szBytes : Size → Nat
  | .b => 1 | .h => 2 | .wd => 4 | .q => 8

/-- Address with an 18-bit offset (R136). -/
def offAddr (s : State) (a : SReg) (i : BitVec 18) : Word := rdS s a + i.signExtend 64

/-- A misaligned access raises 0x0B (R138). -/
def alignCheck (A : Word) (n : Nat) : Option FaultInfo := failIf (A.toNat % n ≠ 0) (fault 0x0B 0 A)

/-- Whether a store address lies on the context's own die (R141). -/
def ownDie (s : State) (A : Word) : Bool := A.toNat / 2 ^ 28 % 8 = s.me.die

/-- A scalar load of `n` bytes in VA or the store (R140); `lat` is its fixed latency on the own die's store, if it has one. -/
def loadScalar (k : LineAcc) (lat : Option Nat) (st : Bool) (A : Word) (n : Nat) (sg : Bool) (d : SReg) (s : State) : State :=
  checked (alignCheck A n) (fun s =>
    tryWith (accessSegs s (agentOf s.me) st k A n) (fun gs s =>
      let x := extBytes sg (readSegs s gs)
      let bad := (badLine s gs).isSome
      let s := stepSegs k (some s.me.uid) gs s
      let fixed := if st && ownDie s A then lat else none
      loadResult fixed (if bad then .keepS d else .s d x) (if bad then some (badFault A) else none) A s) s) s

/-- A vector load of a whole register (R140). -/
def loadVector (k : LineAcc) (lat : Option Nat) (st : Bool) (A : Word) (t : Tag) (d : VReg) (s : State) : State :=
  checked (alignCheck A 64) (fun s =>
    tryWith (accessSegs s (agentOf s.me) st k A (vecLen t)) (fun gs s =>
      let (u, f) := if (badLine s gs).isSome then (.v d 0 0 (some .poison), some (badFault A)) else vecUpd d t (readSegs s gs) A
      let s := stepSegs k (some s.me.uid) gs s
      loadResult (if st && ownDie s A then lat else none) u f A s) s) s

/-- A pending result that remote operations will fill; its identity is the one `s.ids` names. -/
def pendRemote (u : Upd) (A : Word) (s : State) : State := pend u false true none (some A) s

/-- A remote load into one result (R374). -/
def remoteLoad (h o n : Nat) (align : Nat) (high : Bool) (sh : LoadShape) (u : Upd) (s : State) : State :=
  tryWith (winCheckAll s (agentOf s.me) h o n .read align high) (fun w s =>
    let id := s.ids
    sendRemote s.me.uid (agentOf s.me) s.me.tid w (.load n) false (.load id sh) (pendRemote u (winAddr h o) s)) s

/-- A remote store (R374). -/
def remoteStore (h o : Nat) (align : Nat) (high : Bool) (bs : List Byte) (s : State) : State :=
  tryWith (winCheckAll s (agentOf s.me) h o bs.length .write align high) (fun w s =>
    let id := s.ids
    sendRemote s.me.uid (agentOf s.me) s.me.tid w (.store bs) false (.store id) (storeOut false .mem none s)) s

/-- `lds` (R140, R141). -/
def execLds (d a : SReg) (i : BitVec 18) (sp : Space) (sz : Size) (u : Bool) (s : State) : Out :=
  let A := offAddr s a i
  .next (if sp = .w then
      remoteLoad (winSplit A).1 (winSplit A).2 (szBytes sz) (szBytes sz) false (.scalar (!u)) (.s d 0) s
    else loadScalar .plain (some 16) (sp = .st) A (szBytes sz) (!u) d s)

/-- `ldv` (R140, R141). -/
def execLdv (d : VReg) (a : SReg) (i : BitVec 18) (sp : Space) (t : Tag) (s : State) : Out :=
  let A := offAddr s a i
  .next (if sp = .w then
      remoteLoad (winSplit A).1 (winSplit A).2 (vecLen t) 64 false (.vec t) (.v d 0 allMask (some t)) s
    else loadVector .plain (some 20) (sp = .st) A t d s)

/-- A store of bytes in VA or the store: performed in issue order, outstanding in class S (R142, R145). -/
def storeTo (k : LineAcc) (st : Bool) (A : Word) (align : Nat) (bs : List Byte) (s : State) : State :=
  checked (alignCheck A align) (fun s =>
    tryWith (accessSegs s (agentOf s.me) st k A bs.length) (fun gs s => storeOut true .mem none (storeBytes k gs bs s)) s) s

/-- `sts` (R142). -/
def execSts (d a : SReg) (i : BitVec 18) (sp : Space) (sz : Size) (s : State) : Out :=
  let A := offAddr s a i
  let bs := leBytes (szBytes sz) (rdS s d).toNat
  .next (if sp = .w then remoteStore (winSplit A).1 (winSplit A).2 (szBytes sz) false bs s
    else storeTo .store (sp = .st) A (szBytes sz) bs s)

/-- The tag check of a store's data register (R109, R142). -/
def dataCheck (s : State) (d : VReg) (t : Tag) : Option FaultInfo :=
  firstFault [sourceCheck s d, failIf (t ≠ .raw && (rdV s d).tag ≠ t) (fault 0x04 0 (BitVec.ofNat 64 d.val))]

/-- `stv` (R142). -/
def execStv (d : VReg) (a : SReg) (i : BitVec 18) (sp : Space) (t : Tag) (s : State) : Out :=
  let A := offAddr s a i
  let bs := memOfVec t (rdV s d).bits
  .next (checked (dataCheck s d t) (fun s =>
    if sp = .w then remoteStore (winSplit A).1 (winSplit A).2 64 false bs s
    else storeTo .store (sp = .st) A 64 bs s) s)

/-! ### Strided and indexed accesses -/

/-- The enabled lanes of an access. -/
def enabled (m : BitVec 1024) (l : Nat) : List Nat := (List.range l).filter fun i => m.getLsbD i

/-- The lane address of `ldvs` and `stvs` (R136). -/
def stride (s : State) (a b : SReg) (i : Nat) : Word := rdS s a + BitVec.ofNat 64 i * rdS s b

/-- The scale of `ldvx` and `stvx` (R134). -/
def scaleOf (sc : Fin 4) (w : Nat) : Nat := if sc.val = 0 then 1 else if sc.val = 1 then w / 8 else 64

/-- The lane address of `ldvx` and `stvx` (R136). -/
def indexed (s : State) (a : SReg) (x : VReg) (w : Nat) (sc : Fin 4) (u : Bool) (i : Nat) : Word :=
  let p := laneBits (rdV s x).bits w i
  rdS s a + (if u then BitVec.ofNat 64 p else BitVec.ofInt 64 (signExt p w)) * BitVec.ofNat 64 (scaleOf sc w)

/-- The integer tag of an index vector for lanes of `w` bits (R137). -/
def indexTag (w : Nat) : Tag := if w = 8 then .i8 else if w = 16 then .i16 else .i32

/-- The check of the index vector (R109, R137). -/
def indexCheck (s : State) (x : VReg) (w : Nat) : Option FaultInfo :=
  firstFault [sourceCheck s x, failIf ((rdV s x).tag ≠ indexTag w) (fault 0x04 0 (BitVec.ofNat 64 x.val))]

/-- Lane checks in lane order: the pieces of every enabled lane (R139). -/
def laneSegs (s : State) (st : Bool) (k : LineAcc) (n : Nat) (addr : Nat → Word) : List Nat → Except FaultInfo (List (Nat × List Seg))
  | [] => .ok []
  | i :: is =>
    match alignCheck (addr i) n with
    | some f => .error f
    | none => match accessSegs s (agentOf s.me) st k (addr i) n with
      | .error f => .error f
      | .ok gs => match laneSegs s st k n addr is with
        | .error f => .error f
        | .ok r => .ok ((i, gs) :: r)

/-- The window references of every enabled lane. -/
def laneWins (s : State) (acc : Right) (n : Nat) (addr : Nat → Word) : List Nat → Except FaultInfo (List (Nat × WinRef))
  | [] => .ok []
  | i :: is =>
    match winCheckAll s (agentOf s.me) (winSplit (addr i)).1 (winSplit (addr i)).2 n acc n false with
    | .error f => .error f
    | .ok w => match laneWins s acc n addr is with
      | .error f => .error f
      | .ok r => .ok ((i, w) :: r)

/-- The mask of the lanes a load writes (R108). -/
def laneWriteMask (w l : Nat) (m : BitVec 1024) (z : Bool) : BitVec 8192 :=
  if z then allMask else laneMask w l fun i => m.getLsbD i

/-- Whether a strided or indexed load has the fixed latency (R141). -/
def lanesFixed (s : State) (sp : Space) (addr : Nat → Word) (on : List Nat) : Bool := sp = .st && on.all fun i => ownDie s (addr i)

/-- A strided or indexed load (R140, R141, R143), one operation per enabled lane in ascending order. With no enabled lane it has the fixed latency in the store space alone
(DEDUCED: R141 says so under the loads from the own die's store, and calls every VA and window load pending). A pending one
that is reported uncorrectable on arrival names in XADDR its lowest enabled lane's address, lane 0's with none enabled (DESIGN
CHOICE: R146 says A, of which such a load has one a lane; assumption log 74). -/
def loadLanes (sp : Space) (t : Tag) (m : BitVec 1024) (z : Bool) (addr : Nat → Word) (d : VReg) (s : State) : State :=
  let w := laneW t
  let l := lanes t
  let on := enabled m l
  let mask := laneWriteMask w l m z
  if sp = .w && !on.isEmpty then
    tryWith (laneWins s .read (w / 8) addr on) (fun ws s =>
      let id := s.ids
      let s := pendRemote (.v d 0 mask (some t)) (addr (on.headD 0)) s
      ws.foldl (fun s (i, r) => sendRemote s.me.uid (agentOf s.me) s.me.tid r (.load (w / 8)) false (.load id (.lane w i)) s) s) s
  else
    tryWith (laneSegs s (sp = .st) .plain (w / 8) addr on) (fun ls s =>
      goOn (.read d w t mask (if lanesFixed s sp addr on then some 20 else none) (addr (on.headD 0)) 0 none
        (ls.map fun (i, gs) => (i, addr i, gs))) s) s

/-- A strided or indexed store: one operation per enabled lane in ascending order (R142, R143). -/
def storeLanes (sp : Space) (t : Tag) (m : BitVec 1024) (addr : Nat → Word) (d : VReg) (s : State) : State :=
  let w := laneW t
  let on := enabled m (lanes t)
  let data := fun i => leBytes (w / 8) (laneBits (rdV s d).bits w i)
  if sp = .w && !on.isEmpty then
    tryWith (laneWins s .write (w / 8) addr on) (fun ws s =>
      let id := s.ids
      let s := storeOut false .mem none s
      ws.foldl (fun s (i, r) => sendRemote s.me.uid (agentOf s.me) s.me.tid r (.store (data i)) false (.store id) s) s) s
  else
    tryWith (laneSegs s (sp = .st) .store (w / 8) addr on) (fun ls s =>
      goOn (.write (ls.map fun (i, gs) => (gs, data i))) s) s

/-- `ldvs` (R140). -/
def execLdvs (d : VReg) (a b : SReg) (m : MReg) (sp : Space) (t : Tag) (z : Bool) (s : State) : Out :=
  .next (loadLanes sp t (rdM s m) z (stride s a b) d s)

/-- `stvs` (R142). -/
def execStvs (d : VReg) (a b : SReg) (m : MReg) (sp : Space) (t : Tag) (s : State) : Out :=
  .next (checked (dataCheck s d t) (storeLanes sp t (rdM s m) (stride s a b) d) s)

/-- `ldvx` (R140). -/
def execLdvx (d : VReg) (a : SReg) (x : VReg) (m : MReg) (sp : Space) (t : Tag) (sc : Fin 4) (u z : Bool) (s : State) : Out :=
  .next (checked (indexCheck s x (laneW t)) (loadLanes sp t (rdM s m) z (indexed s a x (laneW t) sc u) d) s)

/-- `stvx` (R142). -/
def execStvx (d : VReg) (a : SReg) (x : VReg) (m : MReg) (sp : Space) (t : Tag) (sc : Fin 4) (u : Bool) (s : State) : Out :=
  .next (checked (firstFault [indexCheck s x (laneW t), dataCheck s d t])
    (storeLanes sp t (rdM s m) (indexed s a x (laneW t) sc u) d) s)

/-- A line is brought into its home slice when it is translated and readable (R144): a fill as of a plain load (R232). -/
def prefetchLine (A : Word) (s : State) : State :=
  match translate s s.me.site s.me.world .read A with
  | .error _ => s
  | .ok pa => stepHome .plain none A pa s

/-- `pfh` (R144): lines beyond the top of the space are not canonical. -/
def execPfh (a : SReg) (i : BitVec 18) (n : Ix8) (s : State) : Out :=
  let A := offAddr s a i
  let base := A.toNat - A.toNat % 64
  .next (retireNow ((List.range (2 ^ n.val)).foldl (fun s j =>
    if base + 64 * j < 2 ^ 64 then prefetchLine (BitVec.ofNat 64 (base + 64 * j)) s else s) s))

/-! ### Counted lines -/

/-- `stc` (R234). -/
def execStc (d : VReg) (a : SReg) (n : BitVec 8) (t : Tag) (s : State) : Out :=
  .next (checked (dataCheck s d t) (storeTo (.counted n.toNat) true (rdS s a) 64 (vecBytes (rdV s d).bits 1024)) s)

/-- `ldc` (R234): its result is pending in both spaces. -/
def execLdc (d a : SReg) (i : BitVec 18) (sp : Space) (sz : Size) (u : Bool) (s : State) : Out :=
  .next (loadScalar .consume none (sp = .st) (offAddr s a i) (szBytes sz) (!u) d s)

/-- `ldvc` (R234). -/
def execLdvc (d : VReg) (a : SReg) (i : BitVec 18) (sp : Space) (t : Tag) (s : State) : Out :=
  .next (loadVector .consume none (sp = .st) (offAddr s a i) t d s)

/-- Whether a store line lies in a defined pail (R234). -/
def inPail (s : State) (a : Nat) : Bool :=
  (dieOf s (a / 2 ^ 28 % 8)).pails.any fun p =>
    decide (p.base ≤ a / 64 * 64) && decide (a / 64 * 64 < p.base + 64 * p.lines * p.depth)

/-- The word `rcq` reads of a store line (R234). -/
def rcqStore (s : State) (a : Nat) : Nat :=
  (match lineAt s a with
    | .uncounted => 255 | .counted n => n | .empty => 0 | .counter => 255 + 256) + (if inPail s a then 512 else 0)

/-- The word `rcq` reads of an HBM line. -/
def rcqHome (s : State) (pa : Nat) : Nat :=
  match homeAt s pa with
  | .counted n => n
  | _ => 255

/-- `rcq` (R234): faults only on address, translation, world and ownership. -/
def execRcq (d a : SReg) (i : BitVec 18) (sp : Space) (s : State) : Out :=
  let A := offAddr s a i
  .next (tryWith (accessSegs s (agentOf s.me) (sp = .st) .query A 1) (fun gs s =>
    let g := gs.headD ⟨false, 0, 0, 0⟩
    pendS d (BitVec.ofNat 64 (if g.st then rcqStore s g.addr else rcqHome s g.addr)) true s) s)

/-! ### Atomics (R235, R236) -/

/-- The new value of an atomic on `w`-bit patterns (R235). -/
def atomNew (op : AtomOp) (w old b c : Nat) : Nat :=
  match op with
  | .add => (old + b) % 2 ^ w
  | .min u => if u then Nat.min old b else if signExt old w ≤ signExt b w then old else b
  | .max u => if u then Nat.max old b else if signExt old w ≤ signExt b w then b else old
  | .and => old &&& b
  | .or => old ||| b
  | .xor => old ^^^ b
  | .swp => b
  | .cas => if old = c then b else old

/-- A queue slot takes a notify by unsigned maximum (R171). -/
def QSlot.notify (x : QSlot) (v : Word) : QSlot := if x.reg.ult v then { x with reg := v } else x

/-- Fields of a queue header (R165). -/
structure QueueHdr where
  notify : Nat
  read   : Nat
  ring   : Word
  w      : Bool
  lsz    : Nat
  qwd    : List Nat
deriving DecidableEq, Repr

/-- A header of 64 bytes. -/
def queueHdr (bs : List Byte) : QueueHdr :=
  let wd := fun i => leWord ((bs.drop (8 * i)).take 8)
  { notify := (wd 0).toNat, read := (wd 1).toNat, ring := wd 2 &&& 0xFFFFFFFFFFFFFFC0, w := bit (wd 2) 5, lsz := bits (wd 2) 0 5
    qwd := [bits (wd 3) 0 32, bits (wd 3) 32 32, bits (wd 4) 0 32] }

/-- The dispatch core's accesses for a queue: VAs of the queue's world, with no launch (assumption log 15). -/
def queueAgent (die : Nat) (world : Bool) : Agent := { world, lnch := 0, die }

/-- The world of a queue: secure when its header, read with the secure root, has W = 1 (assumption log 15). -/
def queueWorld (s : State) (die : Nat) (hdr : Word) : Bool :=
  match devRead s (queueAgent die true) hdr 64 with
  | .ok bs => (queueHdr bs).w
  | .error _ => false

/-- The physical address of the header a slot of a die is mapped to, if it is translated. -/
def headerPa (s : State) (die : Nat) (x : QSlot) : Option Nat :=
  match translate s ⟨die, none⟩ (queueWorld s die x.hdr) .read x.hdr with
  | .ok pa => some pa
  | .error _ => none

/-- The slots mapped to the header at a physical address take a notify: its home slice passes it on (R171, R173). -/
def notifyLine (pa : Nat) (v : Word) (s : State) : State :=
  (List.range 8).foldl (fun t d =>
    modDie d (fun y => { y with q := y.q.map fun x => if x.mapped && headerPa s d x = some pa then x.notify v else x }) t) s

/-- An atomic unsigned maximum on a queue header's NOTIFY word is passed to the slots (R171). -/
def afterAtomic (op : AtomOp) (gs : List Seg) (n new : Nat) (s : State) : State :=
  match gs with
  | g :: _ => if !g.st && op = .max true && n = 8 then notifyLine g.addr (BitVec.ofNat 64 new) s else s
  | [] => s

/-- The result or the store-like retirement of an atomic (R236). -/
def atomResult (d : SReg) (old : Nat) (bad : Bool) (A : Word) (s : State) : State :=
  if d.val = 0 then storeOut true .mem (if bad then some (badFault A) else none) s
  else if bad then pend (.keepS d) true true (some (badFault A)) (some A) s
  else pend (.s d (BitVec.ofNat 64 old)) true true none (some A) s

/-- An atomic in VA or the store, performed indivisibly at its home (R236). DESIGN CHOICE (assumption log 25): one that meets an
uncorrectable line writes nothing, steps the line, and brings the boundary fault of a load (R146), also with sd = 0. -/
def atomHere (op : AtomOp) (st : Bool) (A : Word) (n : Nat) (b c : Word) (d : SReg) (s : State) : State :=
  tryWith (accessSegs s (agentOf s.me) st .atomic A n) (fun gs s =>
    let old := leNat (readSegs s gs)
    let bad := (badLine s gs).isSome
    let new := atomNew op (8 * n) old (b.toNat % 2 ^ (8 * n)) (c.toNat % 2 ^ (8 * n))
    let s := stepSegs .atomic (some s.me.uid) gs s
    let s := if bad then s else afterAtomic op gs n new (writeSegs s gs (leBytes n new))
    atomResult d old bad A s) s

/-- An atomic through a window (R374). -/
def atomRemote (op : AtomOp) (A : Word) (n : Nat) (b c : Word) (d : SReg) (s : State) : State :=
  tryWith (winCheckAll s (agentOf s.me) (winSplit A).1 (winSplit A).2 n .atomic n false) (fun w s =>
    let id := s.ids
    if d.val = 0 then
      sendRemote s.me.uid (agentOf s.me) s.me.tid w (.atomic op n b c) false (.store id) (storeOut false .mem none s)
    else
      sendRemote s.me.uid (agentOf s.me) s.me.tid w (.atomic op n b c) false (.load id (.scalar false)) (pendRemote (.s d 0) A s)) s

/-- An atomic (R236). -/
def atom (op : AtomOp) (d a b : SReg) (c : Word) (sp : Space) (q : Bool) (s : State) : State :=
  let A := rdS s a
  let n := if q then 8 else 4
  if sp = .w then atomRemote op A n (rdS s b) c d s
  else checked (alignCheck A n) (atomHere op (sp = .st) A n (rdS s b) c d) s

/-- `aadd` (R235). -/
def execAadd (d a b : SReg) (sp : Space) (q : Bool) (s : State) : Out := .next (atom .add d a b 0 sp q s)
/-- `amin` (R235). -/
def execAmin (d a b : SReg) (sp : Space) (q u : Bool) (s : State) : Out := .next (atom (.min u) d a b 0 sp q s)
/-- `amax` (R235). -/
def execAmax (d a b : SReg) (sp : Space) (q u : Bool) (s : State) : Out := .next (atom (.max u) d a b 0 sp q s)
/-- `aand` (R235). -/
def execAand (d a b : SReg) (sp : Space) (q : Bool) (s : State) : Out := .next (atom .and d a b 0 sp q s)
/-- `aor` (R235). -/
def execAor (d a b : SReg) (sp : Space) (q : Bool) (s : State) : Out := .next (atom .or d a b 0 sp q s)
/-- `axor` (R235). -/
def execAxor (d a b : SReg) (sp : Space) (q : Bool) (s : State) : Out := .next (atom .xor d a b 0 sp q s)
/-- `aswp` (R235). -/
def execAswp (d a b : SReg) (sp : Space) (q : Bool) (s : State) : Out := .next (atom .swp d a b 0 sp q s)
/-- `acas` (R235). -/
def execAcas (d a b c : SReg) (sp : Space) (q : Bool) (s : State) : Out := .next (atom .cas d a b (rdS s c) sp q s)

/-! ### `ldw`, `stw`, `kaddw`, `fencex` (R373 to R376) -/

/-- The offset of `ldw` and `stw`, and whether the high bits are nonzero (R374). -/
def ldwOff (s : State) (a : SReg) : Nat × Bool := (bits (rdS s a) 0 48, bits (rdS s a) 48 16 ≠ 0)

/-- Scalar `ldw` zero-extends (R374). -/
def execLdw (d : SReg) (h : BitVec 16) (a : SReg) (sz : Size) (s : State) : Out :=
  .next (remoteLoad h.toNat (ldwOff s a).1 (szBytes sz) (szBytes sz) (ldwOff s a).2 (.scalar false) (.s d 0) s)

/-- Vector `ldw` (R374). -/
def execLdwVec (d : VReg) (h : BitVec 16) (a : SReg) (t : Tag) (s : State) : Out :=
  .next (remoteLoad h.toNat (ldwOff s a).1 (vecLen t) 64 (ldwOff s a).2 (.vec t) (.v d 0 allMask (some t)) s)

/-- Scalar `stw` (R374). -/
def execStw (d : SReg) (h : BitVec 16) (a : SReg) (sz : Size) (s : State) : Out :=
  .next (remoteStore h.toNat (ldwOff s a).1 (szBytes sz) (ldwOff s a).2 (leBytes (szBytes sz) (rdS s d).toNat) s)

/-- Vector `stw` (R374). -/
def execStwVec (d : VReg) (h : BitVec 16) (a : SReg) (t : Tag) (s : State) : Out :=
  .next (checked (dataCheck s d t) (remoteStore h.toNat (ldwOff s a).1 64 (ldwOff s a).2 (memOfVec t (rdV s d).bits)) s)

/-- `kaddw` (R375). -/
def execKaddw (a : SReg) (i : BitVec 28) (s : State) : Out :=
  let A := rdS s a
  .next (tryWith (winCheckAll s (agentOf s.me) (winSplit A).1 (winSplit A).2 8 .atomic 8 false) (fun w s =>
    let id := s.ids
    sendRemote s.me.uid (agentOf s.me) s.me.tid w (.add i.toNat) true (.store id) (storeOut false .plain none s)) s)

/-- `fencex` (R376): it retires once every earlier remote operation is done; until then its group is held. -/
def execFencex (s : State) : Out := .next (if remoteBusy s then holdHere s else retireNow s)

/-- `wset` (R377): the table is named and every die drops the launch's entries. -/
def execWset (a b : SReg) (s : State) : Out :=
  let va := rdS s a
  let n := (rdS s b).toNat
  .next (checked (firstFault [failIf (va.toNat % 32 ≠ 0) (fault 0x0B 0 va), failIf (n = 0 || n > 65536) (fault 0x02 0 (rdS s b))])
    (fun s => retireNow (modLaunch s.me.lnch (fun l => { l with win := some (va, n) })
      { s with fab := { s.fab with wins := s.fab.wins.filter fun w => w.lnch ≠ s.me.lnch } })) s)

/-- `wset.inv` (R377). -/
def execWsetInv (a : SReg) (s : State) : Out :=
  let h := bits (rdS s a) 0 16
  .next (retireNow { s with fab := { s.fab with wins := s.fab.wins.filter fun w => !(w.lnch = s.me.lnch && w.h = h) } })

end Sys2Proof.Machine
end

