-- ==== Sys2Proof/Machine/Levels.lean ====
section
/-! DEFINITION. Bank ownership (R220 to R227) and pails (R237 to R239). -/

namespace Sys2Proof.Machine

/-! ### Banks -/

/-- The first bank of the vat a store address names (R224). -/
def vatBank (x : Word) : Nat := bits x 28 3 * 1024 + bits x 22 6 * 16

/-- The banks a mask selects, ascending. -/
def maskBanks (x : Word) (mask : Nat) : List Nat :=
  ((List.range 16).filter fun b => mask / 2 ^ b % 2 = 1).map fun b => vatBank x + b

/-- The first row of R225. -/
def vatCheck (s : State) (x : Word) : Option FaultInfo :=
  failIf (bit x 31 || cacheVat s (bits x 28 3) (bits x 22 6)) (accFault 0x0A 3 x false)

/-- The vat a store address names is secure and the caller's world is the other (R391). -/
def vatWorld (s : State) (x : Word) : Option FaultInfo := failIf (vatForbidden s s.me.world (x.toNat % 2 ^ 31)) (accFault 0x0C 0 x false)

/-- The checks of `brel` (R225, R391). -/
def brelCheck (s : State) (x : Word) (mask : Nat) : Option FaultInfo :=
  firstFault [vatCheck s x, vatWorld s x, failIf ((maskBanks x mask).any fun b => bankOwner s b ≠ s.me.lnch) (fault 0x19 0 x)]

/-- Whether a command is a tile-engine, ladle, re-shard or channel command: not one of the churn or the creamery (R226). -/
def CmdOp.brelWaits : CmdOp → Bool
  | .arrival .. | .query .. | .cred .. => false
  | o => !o.churn

/-- A `brel` waits for every earlier store and for the earlier commands R226 lists. -/
def brelHeld (s : State) : Bool :=
  s.me.sq.stores.any (fun o => decide (o.grp < s.me.sq.group) && (o.kind = .mem)) ||
    s.me.sq.cmds.any fun c => decide (c.grp < s.me.sq.group) && c.op.brelWaits

/-- `brel` in either form (R226): its banks are released in ascending order, one operation each, and it is performed with the
last. DESIGN CHOICE (assumption log 27): one with an empty mask (R225) is held as any other before it retires. -/
def brelWith (pass : Bool) (a b : SReg) (s : State) : State :=
  let x := rdS s a
  let mask := bits (rdS s b) 0 16
  checked (brelCheck s x mask) (fun s =>
    if brelHeld s then holdHere s
    else if mask = 0 then retireNow s
    else goOn (.release pass (maskBanks x mask)) s) s

/-- `brel` (R224). -/
def execBrel (a b : SReg) (s : State) : Out := .next (brelWith false a b s)

/-- `brel.p` (R224). -/
def execBrelP (a b : SReg) (s : State) : Out := .next (brelWith true a b s)

/-- Whether a hand-over entry of the caller's grant list names a bank (R225). -/
def handOver (s : State) (b : Nat) : Bool :=
  match launchOf s s.me.lnch with
  | none => false
  | some l => l.grants.any fun g => g.ho && (grantBanks g).contains b

/-- The checks of `bwait` (R225, R391). -/
def bwaitCheck (s : State) (x : Word) (mask : Nat) : Option FaultInfo :=
  firstFault [vatCheck s x, vatWorld s x, failIf ((maskBanks x mask).any fun b => !handOver s b) (fault 0x19 0 x)]

/-- Whether every bank of the mask is owned (R227). -/
def bwaitDone (s : State) (x : Word) (mask : Nat) : Bool := (maskBanks x mask).all fun b => bankOwner s b = s.me.lnch

/-- `bwait` (R227). -/
def execBwait (a b : SReg) (s : State) : Out :=
  let x := rdS s a
  let mask := bits (rdS s b) 0 16
  .next (checked (bwaitCheck s x mask) (fun s => if bwaitDone s x mask then retireNow s else holdHere s) s)

/-! ### Pails -/

/-- Fields of a pail descriptor (R237). -/
structure PailDesc where
  fillc : Nat
  freec : Nat
  base  : Nat
  lines : Nat
  depth : Nat
deriving DecidableEq, Repr

/-- The fields of 256 descriptor bits. -/
def pailDesc (x : BitVec 256) : PailDesc :=
  { fillc := fld x.toNat 224 32, freec := fld x.toNat 192 32, base := fld x.toNat 160 32, lines := fld x.toNat 144 14
    depth := fld x.toNat 136 8 }

/-- Ranges and reserved bits of a descriptor in memory (R237). -/
def pailFieldsOk (x : BitVec 256) : Bool :=
  let p := pailDesc x
  p.fillc % 8 = 0 && p.freec % 8 = 0 && p.base % 64 = 0 && fld x.toNat 158 2 = 0 && 1 ≤ p.lines && 1 ≤ p.depth &&
    fld x.toNat 0 136 = 0

/-- Bytes a pail spans. -/
def PailDesc.size (p : PailDesc) : Nat := 64 * p.lines * p.depth

/-- Its line addresses. -/
def PailDesc.lineAddrs (p : PailDesc) : List Nat := (List.range (p.lines * p.depth)).map fun i => p.base + 64 * i

/-- Pail lines leave one store-mode vat (R238). -/
def pailRange (s : State) (p : PailDesc) : Option FaultInfo :=
  let die := p.base / 2 ^ 28
  if p.base ≥ 2 ^ 31 || cacheVat s die (p.base / 2 ^ 22 % 64) || p.base % 2 ^ 22 ≥ 0x300000 then
    some (accFault 0x0A 3 (BitVec.ofNat 64 p.base) false)
  else failIf (p.base % 2 ^ 22 + p.size > 0x300000) (accFault 0x0A 3 (BitVec.ofNat 64 (p.base - p.base % 2 ^ 22 + 0x300000)) false)

/-- A line or counter lies in a secure vat and the caller's world is the other (R391). -/
def pailWorld (s : State) (p : PailDesc) : Option FaultInfo :=
  [p.base, p.fillc, p.freec].findSome? fun a => failIf (vatForbidden s s.me.world a) (accFault 0x0C 0 (BitVec.ofNat 64 a) false)

/-- A line or counter bank is not owned. DESIGN CHOICE (assumption log 95): a counter address that is no store address has no cause of
its own in R238; its bank is that of its low 31 bits, and it fails here or, with no counter line there, after. -/
def pailOwned (s : State) (l : Nat) (p : PailDesc) : Option FaultInfo :=
  (p.lineAddrs ++ [p.fillc, p.freec]).findSome? fun a =>
    failIf (bankOwner s (bankNo a) ≠ l) (fault 0x19 0 (BitVec.ofNat 64 a))

/-- A counter line is not in counter mode. -/
def pailArmed (s : State) (p : PailDesc) : Option FaultInfo :=
  [p.fillc, p.freec].findSome? fun a => failIf (lineAt s a ≠ .counter) (fault 0x0F 2 (BitVec.ofNat 64 a))

/-- Whether a live pail has the same fields. -/
def samePail (l : Nat) (p : PailDesc) (q : PailDef) : Bool :=
  q.lnch = l && q.fillc = p.fillc && q.freec = p.freec && q.base = p.base && q.lines = p.lines && q.depth = p.depth

/-- Whether lines overlap a live pail. -/
def overlapPail (p : PailDesc) (q : PailDef) : Bool :=
  decide (p.base < q.base + 64 * q.lines * q.depth) && decide (q.base < p.base + p.size)

/-- A free entry of a die's pail table. -/
def freePail (d : Die) : Option Nat := (List.range 128).find? fun e => d.pails.all (·.entry ≠ e)

/-- What `pdef` does with a descriptor: name a live entry, or make entry `e` (R238). -/
inductive PailPlan where
  | same (entry gen : Nat)
  | make (entry : Nat)
deriving DecidableEq, Repr

/-- The checks of `pdef` after its descriptor is read, in order; `x` is the address its faults name (R238). -/
def pailPlan (s : State) (l : Nat) (p : PailDesc) (x : Word) : Except FaultInfo PailPlan :=
  let d := dieOf s (p.base / 2 ^ 28)
  match firstFault [pailRange s p, pailWorld s p, pailOwned s l p, pailArmed s p] with
  | some f => .error f
  | none =>
    match d.pails.find? (samePail l p) with
    | some q => .ok (.same q.entry q.gen)
    | none =>
      if d.pails.any (overlapPail p) then .error (fault 0x0C 2 x)
      else match freePail d with
        | none => .error (fault 0x0C 1 x)
        | some e =>
          match p.lineAddrs.find? fun a => isCounted (lineAt s a) with
          | some a => .error (fault 0x0E 0 (BitVec.ofNat 64 a))
          | none => .ok (.make e)

/-- The entry is allocated and every pail line becomes EMPTY (R238). -/
def makePail (l : Nat) (p : PailDesc) (e : Nat) (s : State) : State :=
  let die := p.base / 2 ^ 28
  let s := modDie die (fun d => { d with pails := d.pails ++ [
    { entry := e, gen := getAt 0 d.pgens e, lnch := l, fillc := p.fillc, freec := p.freec, base := p.base, lines := p.lines
      depth := p.depth, filled := List.replicate p.depth false, nextF := 0, nextE := 0, owedF := [], owedE := [] }] }) s
  p.lineAddrs.foldl (fun s a => setLine a .empty s) s

/-- The entry is freed and its generation advances (R238). -/
def freePailEntry (die e : Nat) (s : State) : State :=
  modDie die (fun d => { d with pails := d.pails.filter (·.entry ≠ e), pgens := setAt 0 d.pgens e ((getAt 0 d.pgens e + 1) % 2 ^ 16) }) s

/-- The pail register of an entry (R237). -/
def pailReg (x : BitVec 256) (die e gen : Nat) : BitVec 256 :=
  x ||| BitVec.ofNat 256 (2 ^ 31 + die % 8 * 2 ^ 23 + e % 128 * 2 ^ 16 + gen % 2 ^ 16)

/-- The state after a plan, and the generation of its entry. -/
def doPail (l : Nat) (p : PailDesc) (plan : PailPlan) (s : State) : State × Nat × Nat :=
  match plan with
  | .same e g => (s, e, g)
  | .make e => (makePail l p e s, e, getAt 0 (dieOf s (p.base / 2 ^ 28)).pgens e)

/-- A descriptor of `n` bytes at an aligned VA, read as one operation of the context (R139, R264). One on an uncorrectable line gives
its bytes to nothing (R214): as every fault of such a read is precise (R264), its 0x16 is too (DEDUCED, assumption log 25). -/
def readDesc (s : State) (x : Word) (align n : Nat) : Except FaultInfo (List Seg × List Byte) :=
  match alignCheck x align with
  | some f => .error f
  | none =>
    match vaSegs s s.me.site s.me.world .read x n with
    | .error f => .error f
    | .ok gs => if (badLine s gs).isSome then .error (badFault x) else .ok (gs, readSegs s gs)

/-- The read of a descriptor meets its home slices. -/
def touchDesc (gs : List Seg) (s : State) : State := stepSegs .plain (some s.me.uid) gs s

/-- `pdef` (R238). -/
def execPdef (n : Ix8) (a : SReg) (s : State) : Out :=
  let x := rdS s a
  .next (tryWith (readDesc s x 32 32) (fun (gs, bs) s =>
    let raw := BitVec.ofNat 256 (leNat bs)
    let p := pailDesc raw
    checked (failIf (!pailFieldsOk raw) (fault 0x02 0 x)) (fun s =>
      tryWith (pailPlan s s.me.lnch p x) (fun plan s =>
        let (s, e, g) := doPail s.me.lnch p plan (touchDesc gs s)
        emit 1 .none 0 (modRegs (fun r => { r with pl := r.pl.set n (pailReg raw (p.base / 2 ^ 28) e g) }) s)) s) s) s)

/-- The live entry a pail register names, for the caller's launch (R238). -/
def pailOf (s : State) (x : BitVec 256) : Option PailDef :=
  if !x.getLsbD 31 then none
  else (dieOf s (fld x.toNat 23 3)).pails.find? fun q =>
    q.entry = fld x.toNat 16 7 && q.gen = fld x.toNat 0 16 && q.lnch = s.me.lnch

/-- `pdef.rel` (R238). -/
def execPdefRel (n : Ix8) (s : State) : Out :=
  let x := s.me.regs.pl[n]
  .next (match pailOf s x with
    | none => raise (fault 0x0C 0 0) s
    | some q => emit 1 .none 0 (modRegs (fun r => { r with pl := r.pl.set n 0 }) (freePailEntry (fld x.toNat 23 3) q.entry s)))

/-- A fault of a pail's add goes to the access that completed the slot (R239): to its thread, with the tag and engine of its
command if an engine made it (R312), or back to the module whose request it was, as an error answer (R378). -/
def pailFault (u : PailBy) (cause sub a : Nat) (s : State) : State :=
  match u.req with
  | some r => errorAnswer r cause sub (BitVec.ofNat 64 a) s
  | none =>
    recordFault u.uid { cause, sub, addr := BitVec.ofNat 64 a, tag := (u.cmd.map (·.1)).getD 0, detail := [BitVec.ofNat 64 ((u.cmd.map (·.2)).getD 7)] } s

/-- The world of a launch (R391). -/
def launchWorld (s : State) (l : Nat) : Bool := (launchOf s l).any (·.world)

/-- One add of the pail hardware at a counter (R239): withheld with cause 0x11 to the access that completed the slot when
the counter is not armed. An add that fails its check counts as lost, and later slots go on (assumption log 10). The answer
says whether the add was made. -/
def pailAddAt (lnch a : Nat) (u : PailBy) (s : State) : State × Bool :=
  match addCheck s (launchWorld s lnch) lnch a with
  | some _ => (pailFault u 0x11 5 a s, false)
  | none =>
    let (s, sat) := addCounter a 1 s
    (if sat then pailFault u 0x0F 1 a s else s, true)

/-- The module a launch's window handle names, as its die 0 would read it. -/
def winEntryNo (s : State) (lnch h : Nat) : Option Nat :=
  let w := match launchOf s lnch with | some l => l.world | none => false
  match winEntry s { world := w, lnch, die := 0 } h 0 with
  | .ok (some e) => some (winPeer e)
  | _ => none

/-- A free add of a channel's pail returns one credit to the send end, here or on the peer module (R357). -/
def creditBack (die entry : Nat) (s : State) : State :=
  s.chans.foldl (fun s c =>
    match c.rcv with
    | none => s
    | some r =>
      if r.pdie ≠ die || r.pentry ≠ entry then s
      else if r.rem then
        sendMsg ((winEntryNo s c.lnch r.win).getD 0, 3, r.pch, 0, []) s
      else { s with chans := s.chans.map fun x => if x.lnch = c.lnch && x.ch = c.ch then
        { x with snd := x.snd.map fun e => { e with base := e.base + 1 } } else x }) s

/-- PAIL_COUNTER_ADD (R239): the next filled add, else the next free add, if its slot is the next in order. -/
def execPailCounterAdd (die entry : Nat) (s : State) : Out :=
  .next (match (dieOf s die).pails.find? (·.entry = entry) with
    | none => s
    | some p =>
      let put := fun f => modDie die (fun d => { d with pails := d.pails.map fun x => if x.entry = entry then f x else x }) s
      match p.owedF.find? (·.1 = p.nextF % p.depth) with
      | some (j, u) => (pailAddAt p.lnch p.fillc u (put fun x => { x with nextF := x.nextF + 1, owedF := x.owedF.erase (j, u) })).1
      | none =>
        match p.owedE.find? (·.1 = p.nextE % p.depth) with
        | some (j, u) =>
          let (s, ok) := pailAddAt p.lnch p.freec u (put fun x => { x with nextE := x.nextE + 1, owedE := x.owedE.erase (j, u) })
          if ok then creditBack die entry s else s
        | none => s)

/-- The adds of a pail that are due, at most `n`, one after another. -/
def payPail (die entry : Nat) : Nat → State → State
  | 0, s => s
  | n + 1, s => match execPailCounterAdd die entry s with
    | .next t => payPail die entry n t
    | _ => s

/-- A live pail is defined anew under its entry (R356): every line EMPTY, no slot filled. DESIGN CHOICE (assumption log 38): the adds
that are due for what it held are made first, and one that waits for an earlier slot is never made. -/
def renewPail (die entry : Nat) (s : State) : State :=
  match (dieOf s die).pails.find? (·.entry = entry) with
  | none => s
  | some p =>
    let s := payPail die entry (p.owedF.length + p.owedE.length) s
    let s := modDie die (fun d => { d with pails := d.pails.map fun x => if x.entry = entry then
      { x with filled := List.replicate x.depth false, nextF := 0, nextE := 0, owedF := [], owedE := [] } else x }) s
    (List.range (p.lines * p.depth)).foldl (fun s i => setLine (p.base + 64 * i) .empty s) s

end Sys2Proof.Machine
end

