-- ==== Sys2Proof/Machine/Counters.lean ====
section
/-! DEFINITION. Counters (R184 to R193), waits on them (R194 to R196), thread-group barriers (R197, R198), the wait-for
table, priority inheritance and the search for deadlocks (R199 to R208). -/

namespace Sys2Proof.Machine

/-! ### Counter instructions -/

/-- The checks of `kset` at issue (R188). -/
def ksetCheck (s : State) (x : Word) : Option FaultInfo :=
  firstFault [
    failIf (decide (x.toNat ≥ 2 ^ 32)) (accFault 0x0A 3 x false),
    failIf (x.toNat % 8 ≠ 0) (fault 0x0B 0 x),
    failIf (decide (x.toNat ≥ 2 ^ 31) || cacheVat s (x.toNat / 2 ^ 28) (bits x 22 6) || decide (x.toNat % 2 ^ 22 ≥ 0x300000))
      (accFault 0x0A 3 x false)]

/-- A valid handle of a counter (R16, R189). -/
def handleOf (x : Word) : Word := BitVec.ofNat 64 (2 ^ 63 + bits x 3 29 * 8)

/-- `kset` (R189): the handle is written through its pending bit. -/
def execKset (k : KReg) (a : SReg) (s : State) : Out :=
  .next (checked (ksetCheck s (rdS s a)) (fun s => pend (.k k (handleOf (rdS s a))) true false none none s) s)

/-- `kset.clr` (R189). -/
def execKsetClr (k : KReg) (s : State) : Out := .next (pend (.k k 0) true false none none s)

/-- The counter an instruction's handle names. -/
def counterOf (s : State) (k : KReg) : Nat := handleAddr (rdK s k)

/-- The handle, the world of the counter's vat (R391) and the ownership check (R188); `w` says that the access writes (R312). -/
def ownedCheck (s : State) (k : KReg) (w : Bool := false) : Option FaultInfo :=
  firstFault [handleCheck s k,
    failIf (vatForbidden s s.me.world (counterOf s k)) (accFault 0x0C 0 (BitVec.ofNat 64 (counterOf s k)) w),
    failIf (bankOwner s (bankNo (counterOf s k)) ≠ s.me.lnch) (fault 0x19 0 (BitVec.ofNat 64 (counterOf s k)))]

/-- The checks of an instruction that needs an armed line (R188). -/
def armedCheck (s : State) (k : KReg) (w : Bool := false) : Option FaultInfo :=
  firstFault [ownedCheck s k w, failIf (lineAt s (counterOf s k) ≠ .counter) (fault 0x0F 2 (BitVec.ofNat 64 (counterOf s k)))]

/-- Store address of the line of a counter. -/
def lineOf (a : Nat) : Word := BitVec.ofNat 64 (a / 64 * 64)

/-- `kmode.on` (R189): reader count 255 means uncounted or armed already. -/
def execKmodeOn (k : KReg) (s : State) : Out :=
  let a := counterOf s k
  .next (checked (firstFault [ownedCheck s k true,
      failIf (lineAt s a ≠ .uncounted && lineAt s a ≠ .counter) (fault 0x0C 0 (lineOf a))])
    (fun s => storeOut true .plain none (setLine a .counter s)) s)

/-- Whether a WFT entry is an edge or a watch on a counter of a line (R189). -/
def waitsOnLine (a : Nat) (e : WftEntry) : Bool :=
  match e.kind with
  | .edge (.counter x _) => x / 64 = a / 64
  | .watch x _ _ _ => x / 64 = a / 64
  | _ => false

/-- `kmode.off` (R189). -/
def execKmodeOff (k : KReg) (s : State) : Out :=
  let a := counterOf s k
  .next (checked (firstFault [ownedCheck s k true,
      failIf (s.dies.toList.any fun d => d.wft.any (waitsOnLine a)) (fault 0x0F 3 (lineOf a))])
    (fun s => storeOut true .plain none (if lineAt s a = .counter then setLine a .uncounted s else s)) s)

/-- `kadd` (R190): outstanding in class S until performed. -/
def execKadd (k : KReg) (a : SReg) (i : BitVec 28) (s : State) : Out :=
  let c := counterOf s k
  .next (checked (armedCheck s k true) (goOn (.add c ((rdS s a).toNat + i.toNat) none)) s)

/-- `kaddr` (R190): the old value comes through the pending bit. -/
def execKaddr (k : KReg) (d a : SReg) (i : BitVec 16) (s : State) : Out :=
  let c := counterOf s k
  .next (checked (armedCheck s k true) (goOn (.add c ((rdS s a).toNat + i.toNat) (some d))) s)

/-- `kread` (R193). -/
def execKread (k : KReg) (d : SReg) (s : State) : Out :=
  .next (checked (armedCheck s k) (fun s => pendS d (BitVec.ofNat 64 (counterAt s (counterOf s k))) true s) s)

/-- ARRIVE_ADD (R39): a retired slot of a thread that owes an add to a counter makes it. -/
def execArriveAdd (c addr : Nat) (s : State) : Out :=
  .next (payOwed c addr s)

/-! ### Thread groups as their home tables hold them (R157) -/

/-- Fields of a group handle (R157). -/
def hdlDie (h : Word) : Nat := bits h 28 3
/-- Home-table entry. -/
def hdlEntry (h : Word) : Nat := bits h 20 8
/-- Generation. -/
def hdlGen (h : Word) : Nat := bits h 4 16

/-- The live group a handle names, of the caller's launch; none when the checks of `leave` but membership fail (R160). -/
def handleGroup (s : State) (h : Word) : Option Group :=
  if !bit h 63 then none
  else match groupAt s (hdlDie h) (hdlEntry h) (hdlGen h) with
    | some g => if g.lnch = s.me.lnch then some g else none
    | none => none

/-- The present member a thread is. -/
def Group.present (g : Group) (tid : Nat) : Option Member := g.members.find? fun m => m.tid = tid && m.present

/-- The handle checked as for `leave` (R160, R198): the group and the caller's place in it. -/
def memberCheck (s : State) (h : Word) : Except FaultInfo (Group × Member) :=
  match handleGroup s h with
  | none => .error (fault 0x0C 0 h)
  | some g => match g.present s.me.tid with
    | some m => .ok (g, m)
    | none => .error (fault 0x0C 0 h)

/-- Changing a group. -/
def modGroup (die entry : Nat) (f : Group → Group) (s : State) : State :=
  modDie die (fun d => { d with groups := d.groups.map fun g => if g.entry = entry then f g else g }) s

/-- Whether the phase ends (R197): complete, and every present member's bit is set. -/
def Group.phaseEnds (g : Group) : Bool :=
  g.members.length = g.size && !g.present_.isEmpty && g.present_.all (·.bit)

/-- The phase of a group ends if R197 allows: B rises, the bitmap is cleared, the waiters of the barrier are woken. -/
def endPhase (die entry : Nat) (s : State) : State :=
  match (dieOf s die).groups.find? (·.entry = entry) with
  | none => s
  | some g =>
    if g.phaseEnds then
      let gen := genOf (dieOf s die) entry
      let s := modGroup die entry (fun g => { g with b := g.b + 1, members := g.members.map fun m => { m with bit := false } }) s
      { s with tokens := s.tokens ++ edgeTokens (fun w => match w with
          | .barrier d e gn t _ => d = die && e = entry && gn = gen && decide (g.b < t) && decide (t ≤ g.b + 1)
          | _ => false) s }
    else s

/-- A present member leaves (R160, R197): its bit is cleared, the phase may end, an empty group dissolves. -/
def leaveGroup (die entry tid : Nat) (s : State) : State :=
  let s := modGroup die entry (fun g => { g with members := g.members.map fun m =>
    if m.tid = tid && m.present then { m with present := false, bit := false } else m }) s
  match (dieOf s die).groups.find? (·.entry = entry) with
  | none => s
  | some g =>
    if g.present_.isEmpty then
      modDie die (fun d => { d with
        groups := d.groups.filter (·.entry ≠ entry), gens := setAt 0 d.gens entry ((getAt 0 d.gens entry + 1) % 2 ^ 16) }) s
    else endPhase die entry s

/-! ### Owners, walks and inheritance (R202 to R208) -/

/-- What an edge waits for, as the record of a deadlock names it (R207): an address, or a handle with bit 3 set. -/
def edgeName (e : WftEntry) : Word :=
  match e.kind with
  | .edge (.counter a _) => BitVec.ofNat 64 a
  | .edge (.barrier _ _ _ _ h) => BitVec.ofNat 64 h ||| 8
  | _ => 0

/-- How a walk ends (R206). -/
inductive WalkEnd where
  | closed (pairs : List WftEntry) | fine | handed
deriving DecidableEq, Repr

/-- The walk from an edge that thread `u` registered with stamp `n` (R206): `fuel` edges remain. -/
def walk (s : State) (es : List Edge) (u n : Nat) : Nat → WftEntry → List WftEntry → WalkEnd
  | 0, _, _ => .handed
  | fuel + 1, e, seen =>
    let o := ownersOf s e
    if o.outside then .fine
    else if o.unjoined then .handed
    else match o.threads with
      | [] => .fine
      | [t] =>
        if t = u then .closed (seen ++ [e])
        else match es.find? fun x => x.e.uid = t && decide (x.e.stamp < n) with
          | none => .fine
          | some x => walk s es u n fuel x.e (seen ++ [e])
      | _ => .handed

/-- The fault of a deadlock (R207): cause 0x10 with the pairs of the cycle, the trapping context's first. -/
def deadFault (sub : Nat) (pairs : List WftEntry) : FaultInfo :=
  let ps := pairs.take 16
  let addr := match pairs.head?.map (·.kind) with
    | some (.edge (.counter a _)) => BitVec.ofNat 64 a
    | some (.edge (.barrier _ _ _ _ h)) => BitVec.ofNat 64 h
    | _ => 0
  { cause := 0x10, sub, addr
    detail := BitVec.ofNat 64 (ps.length + 256 * sub) :: ps.flatMap fun e => [BitVec.ofNat 64 e.uid, edgeName e] }

/-- A scheduling event of a thread: its effective priority is formed from a base and what it inherits (R175, R205). -/
def Ctx.formPri (base : Nat) (c : Ctx) : Ctx := { c with epri := max base c.ipri, inh := decide (c.ipri > base) }

/-- A scheduling event of the context in issue. -/
def schedEvent (s : State) : State := { s with me := s.me.formPri s.me.bpri }

/-- Entries of a die's table (R199). -/
def wftSize : Nat := 8192

/-- The lowest free entry of a die's WFT. -/
def freeWft (d : Die) : Option Nat :=
  if d.wft.length ≥ wftSize then none else (List.range (d.wft.length + 1)).find? fun e => d.wft.all (·.entry ≠ e)

/-- The registration stamp of R199: one registration is made in a step, and each step advances CLK. -/
def stampOf (s : State) (die : Nat) : Nat := s.clk * 8 + die % 8

/-- The entry paired with an entry of a die: the watch of an edge, or the edge of a watch (R199). -/
def partnerOf (s : State) (die : Nat) (e : WftEntry) : Nat × Nat :=
  match e.kind with
  | .watch _ _ d n => (d, n)
  | .edge _ => ((List.range 8).findSome? fun d => ((dieOf s d).wft.find? fun w => match w.kind with
      | .watch _ _ ed en => ed = die && en = e.entry
      | _ => false).map fun w => (d, w.entry)).getD (0, 0)
  | .owner .. => (0, 0)

/-- SLOTN of a waiter's entry (R199): its bind-table entry, or 0xFF while it is saved. -/
def slotnOf (s : State) (e : WftEntry) : Nat :=
  match (s.me :: s.others).find? fun c => c.uid = 2 ^ 24 * e.lnch + e.tid with
  | some c => c.cid % 256
  | none => 0xFF

/-- The 32 bytes of an entry in use (R199). -/
def wftWord (s : State) (die : Nat) (e : WftEntry) : BitVec 256 :=
  let word := fun (val caddr tid slotn kind okind : Nat) =>
    let (pd, pn) := partnerOf s die e
    BitVec.ofNat 256 (val % 2 ^ 64 * 2 ^ 192 + caddr % 2 ^ 32 * 2 ^ 160 + e.lnch % 2 ^ 32 * 2 ^ 128 + tid % 2 ^ 24 * 2 ^ 104 +
      slotn % 2 ^ 8 * 2 ^ 96 + kind * 2 ^ 93 + okind % 4 * 2 ^ 91 + pd % 8 * 2 ^ 88 + pn % 2 ^ 13 * 2 ^ 75 + e.stamp % 2 ^ 64 * 2 ^ 11)
  match e.kind with
  | .edge (.counter a t) => word t a e.tid (slotnOf s e) 1 0
  | .edge (.barrier d n g t _) => word t (d % 8 * 2 ^ 29 + n % 256 * 2 ^ 21 + g % 2 ^ 16 * 2 ^ 5) e.tid (slotnOf s e) 4 0
  | .watch a t _ _ => word t a e.tid (slotnOf s e) 2 0
  | .owner a k v _ => word (if k = 0 then 0 else v.toNat) a (if k = 0 then e.tid else 0) 0 3 k

/-- An entry is placed in a die's WFT. -/
def placeWft (die : Nat) (e : WftEntry) (s : State) : State := modDie die (fun d => { d with wft := d.wft ++ [e] }) s

/-- The wait goes on unregistered (R201). -/
def waitUnregistered (on : WaitOn) (die : Nat) (s : State) : State :=
  let s := modDie die (fun d => { d with wftOvf := d.wftOvf + 1 }) s
  { s with me := { s.me with
      ctl := { s.me.ctl with wovf := true }
      wt := { s.me.wt with on := some on, unregistered := true } } }

/-- The walk a new registration starts, and what it leads to (R206, R207). -/
def startWalk (e : WftEntry) (s : State) : State :=
  match walk s (waitsOf s) s.me.uid e.stamp 16 e [] with
  | .fine => s
  | .handed => modDie s.me.die (fun d => { d with walks := d.walks ++ [e.entry] }) s
  | .closed ps =>
    let s := dropEdge s.me.uid s
    { s with me := { s.me with wt := { s.me.wt with dead := some (deadFault 0 ps) } } }

/-- The context in issue registers a wait (R200, R201, R206); one already registered, or proceeding unregistered, stays as
it is. `own` is the owner of a channel edge. -/
def registerWait (on : WaitOn) (own : List (Nat × Word)) (s : State) : State :=
  if s.me.wt.on.isSome then s
  else
    let home := match on with
      | .counter a _ => a / 2 ^ 28
      | .barrier .. => s.me.die
    match freeWft (dieOf s s.me.die), freeWft (dieOf s home) with
    -- DESIGN CHOICE (assumption log 83): the statistic that R201 gives "the die" is that of the die whose table is full, the
    -- waiter's own first
    | none, _ => waitUnregistered on s.me.die s
    | some _, none => waitUnregistered on home s
    | some n, some w =>
      let st := stampOf s s.me.die
      let e : WftEntry := { entry := n, lnch := s.me.lnch, tid := s.me.tid, stamp := st, kind := .edge on, owners := own }
      let s := placeWft s.me.die e s
      let s := match on with
        | .counter a t => if home = s.me.die then s else
            placeWft home { entry := w, lnch := s.me.lnch, tid := s.me.tid, stamp := stampOf s home
                            kind := .watch a t s.me.die n, owners := [] } s
        | _ => s
      let s := { s with me := { s.me with wt := { s.me.wt with on := some on, entry := some n, stamp := st } } }
      schedEvent (inherit (startWalk e s))

/-- A wait of the context in issue goes. That of a registered edge is a resolution in the WFT: priorities are formed again (R200,
R205), a scheduling event of the waiter (R175). One that went on unregistered (R201) leaves nothing and is none. -/
def resolveWait (s : State) : State :=
  let t := dropEdge s.me.uid s
  if s.me.wt.entry.isSome then schedEvent (inherit t) else t

/-- A wait of the group that now issues is over (R200). -/
def waitOver (s : State) : State := if s.me.wt.on.isSome then resolveWait s else s

/-! ### `kwait` and the barriers -/

/-- The target of `kwait` (R194). -/
def kwaitTarget (s : State) (a : SReg) (i : BitVec 16) : Nat := min ((rdS s a).toNat + i.toNat) (2 ^ 64 - 1)

/-- The state in which a held `kwait` is left: registered, or about to raise the deadlock its walk found (R200, R207). -/
def kwaitHeld (k : KReg) (a : SReg) (i : BitVec 16) (s : State) : State :=
  registerWait (.counter (counterOf s k) (kwaitTarget s a i)) [] s

/-- Whether a `kwait` may issue: its fault is raised, or its condition holds (R194). -/
def kwaitGo (k : KReg) (a : SReg) (i : BitVec 16) (s : State) : Bool :=
  s.me.wt.dead.isSome || (armedCheck s k).isSome || decide (counterAt s (counterOf s k) ≥ kwaitTarget s a i)

/-- `kwait` (R194): it retires when its condition holds; else the group is held. -/
def execKwait (k : KReg) (a : SReg) (i : BitVec 16) (s : State) : Out :=
  .next (checked (armedCheck s k) (fun s =>
    match s.me.wt.dead with
    | some f => raise f s
    | none =>
      if kwaitGo k a i s then retireNow (waitOver s)
      else
        let s := kwaitHeld k a i s
        match s.me.wt.dead with
        | some f => raise f s
        | none => holdHere s) s)

/-- The caller arrives (R198): its bit is set and the phase ends if R197 allows. The answer is the B it waits for. -/
def arrive (h : Word) (g : Group) (s : State) : State × Nat :=
  let s := modGroup (hdlDie h) g.entry (fun g => { g with members := g.members.map fun m =>
    if m.tid = s.me.tid && m.present then { m with bit := true } else m }) s
  (endPhase (hdlDie h) g.entry s, g.b + 1)

/-- What a `bar` slot waits for: its phase's end when it has arrived, the end of the phase before when its bit is still
set, nothing when it may arrive. -/
inductive BarStep where
  | fault (f : FaultInfo) | wait (target : Nat) | arrive (g : Group) | done
deriving DecidableEq, Repr

/-- The state of a `bar` slot at place `p` of the code (R198). -/
def barStep (s : State) (p : CodePos) (h : Word) : BarStep :=
  match memberCheck s h with
  | .error f => .fault f
  | .ok (g, m) =>
    match (s.me.wt.phases.find? fun x => x.1 = p && x.2.1 = h).map fun x => x.2.2 with
    | some t => if g.b ≥ t then .done else .wait t
    | none => if m.bit then .wait (g.b + 1) else .arrive g

/-- A wait for a barrier is registered (R200). -/
def barHeld (h : Word) (t : Nat) (s : State) : State :=
  registerWait (.barrier (hdlDie h) (hdlEntry h) (hdlGen h) t h.toNat) [] s

/-- The arrival of a `bar` slot, kept until the slot issues (R198, R207). -/
def barArrive (p : CodePos) (h : Word) (g : Group) (s : State) : State :=
  let (s, t) := arrive h g s
  { s with me := { s.me with wt := { s.me.wt with phases := s.me.wt.phases.filter (·.1 ≠ p) ++ [(p, h, t)] } } }

/-- One look at a `bar` slot: it may arrive now, and must wait unless the phase ended. Whether it may issue. -/
def barTry (p : CodePos) (h : Word) (s : State) : State × Bool :=
  if s.me.wt.dead.isSome then (s, true)
  else match barStep s p h with
    | .fault _ => (s, true)
    | .done => (s, true)
    | .wait t => let s := barHeld h t s; (s, s.me.wt.dead.isSome)
    | .arrive g =>
      let s := barArrive p h g s
      match barStep s p h with
      | .wait t => let s := barHeld h t s; (s, s.me.wt.dead.isSome)
      | _ => (s, true)

/-- A `bar` slot whose phase has ended issues. -/
def barDone (p : CodePos) (s : State) : State :=
  retireNow (waitOver { s with me := { s.me with wt := { s.me.wt with phases := s.me.wt.phases.filter (·.1 ≠ p) } } })

/-- `bar` (R198). -/
def execBar (a : SReg) (s : State) : Out :=
  let h := rdS s a
  let p := s.me.sq.at_
  .next (tryWith (memberCheck s h) (fun _ s =>
    let (s, go) := barTry p h s
    match s.me.wt.dead with
    | some f => raise f s
    | none => if go then barDone p s else holdHere s) s)

/-- `bar.a` held because the caller's bit is still set (R198). -/
def barATry (h : Word) (s : State) : State × Bool :=
  if s.me.wt.dead.isSome then (s, true)
  else match memberCheck s h with
    | .error _ => (s, true)
    | .ok (g, m) => if m.bit then (let s := barHeld h (g.b + 1) s; (s, s.me.wt.dead.isSome)) else (s, true)

/-- `bar.a` (R198): the target phase comes through the pending bit. -/
def execBarA (d a : SReg) (s : State) : Out :=
  let h := rdS s a
  .next (tryWith (memberCheck s h) (fun (g, m) s =>
    let (s, _) := barATry h s
    match s.me.wt.dead with
    | some f => raise f s
    | none =>
      if m.bit then holdHere s
      else
        let (s, t) := arrive h g (waitOver s)
        pendS d (BitVec.ofNat 64 t) true s) s)

/-- `bar.w` looks at its phase (R198). -/
def barWTry (h : Word) (t : Nat) (s : State) : State × Bool :=
  if s.me.wt.dead.isSome then (s, true)
  else match memberCheck s h with
    | .error _ => (s, true)
    | .ok (g, _) => if g.b ≥ t then (s, true) else (let s := barHeld h t s; (s, s.me.wt.dead.isSome))

/-- `bar.w` (R198). -/
def execBarW (a b : SReg) (s : State) : Out :=
  let h := rdS s a
  let t := (rdS s b).toNat
  .next (tryWith (memberCheck s h) (fun (g, _) s =>
    let (s, _) := barWTry h t s
    match s.me.wt.dead with
    | some f => raise f s
    | none => if g.b ≥ t then retireNow (waitOver s) else holdHere s) s)

/-! ### Owner records (R202, R203) -/

/-- Whether two records are equal (R202). -/
def sameOwner (lnch tid a k : Nat) (v : Word) (e : WftEntry) : Bool :=
  match e.kind with
  | .owner x k' v' _ => x = a && k' = k && v' = v && e.lnch = lnch && (k ≠ 0 || e.tid = tid)
  | _ => false

/-- An owner record is made at the counter's home die unless an equal one is there (R202); the answer is the status. DESIGN CHOICE
(assumption log 91): an equal record stays that of the thread that declared it first, and no later caller's. -/
def declareOwner (a k tid : Nat) (v : Word) (s : State) : State × Word :=
  let die := a / 2 ^ 28
  if (dieOf s die).wft.any (sameOwner s.me.lnch tid a k v) then (s, 1)
  else match freeWft (dieOf s die) with
    | none => (s, 0)
    | some n =>
      (inherit (placeWft die { entry := n, lnch := s.me.lnch, tid, stamp := stampOf s die, kind := .owner a k v s.me.tid, owners := [] } s), 1)

/-- A `wfown` with its owner. -/
def wfown (c : Option FaultInfo) (k : KReg) (d : SReg) (okind tid : Nat) (v : Word) (s : State) : State :=
  checked (firstFault [handleCheck s k, c, ownedCheck s k]) (fun s =>
    let (s, r) := declareOwner (counterOf s k) okind tid v s
    pendS d r true s) s

/-- `wfown` (R202): the calling thread. -/
def execWfown (k : KReg) (d : SReg) (s : State) : Out := .next (wfown none k d 0 s.me.tid 0 s)

/-- `wfown.t` (R202): a thread of the launch. -/
def execWfownT (k : KReg) (d a : SReg) (s : State) : Out :=
  let x := rdS s a
  .next (wfown (failIf (decide (bits x 0 24 ≥ s.me.nthr)) (fault 0x0C 0 x)) k d 0 (bits x 0 24) 0 s)

/-- The key an owner record takes from a group handle (R199, R202): that of the live group of the caller's launch it names. -/
def handleKey (s : State) (h : Word) : Word :=
  match handleGroup s h with
  | some g => g.key
  | none => Config.staleKey h

/-- `wfown.g` (R202): the members of a thread group. -/
def execWfownG (k : KReg) (d a : SReg) (s : State) : Out :=
  let x := rdS s a
  .next (wfown (failIf (!bit x 63) (fault 0x0C 0 x)) k d 1 0 (handleKey s x) s)

/-- `wfown.e` (R202): an engine command of the caller. -/
def execWfownE (k : KReg) (d a : SReg) (s : State) : Out :=
  .next (wfown none k d 2 s.me.tid (BitVec.ofNat 64 (bits (rdS s a) 0 32)) s)

/-- `wfown.r` (R202): a remote peer. -/
def execWfownR (k : KReg) (d a : SReg) (s : State) : Out :=
  let x := rdS s a
  .next (wfown none k d 3 0 (if bit x 63 then BitVec.ofNat 64 (2 ^ 63 + bits x 0 16) else BitVec.ofNat 64 (bits x 0 6)) s)

/-- Owner records of a counter that `p` names are removed. -/
def dropOwners (a : Nat) (p : WftEntry → Nat → Bool) (s : State) : State :=
  inherit (modDie (a / 2 ^ 28) (fun d => { d with wft := d.wft.filter fun e =>
    match e.kind with | .owner x _ _ by_ => !(x = a && p e by_) | _ => true }) s)

/-- `wfdrop` (R202): the records the caller declared. -/
def execWfdrop (k : KReg) (s : State) : Out :=
  .next (checked (ownedCheck s k) (fun s =>
    storeOut true .plain none (dropOwners (counterOf s k) (fun e by_ => e.lnch = s.me.lnch && by_ = s.me.tid) s)) s)

/-- `wfdrop.all` (R202): the records of the caller's launch. -/
def execWfdropAll (k : KReg) (s : State) : Out :=
  .next (checked (ownedCheck s k) (fun s =>
    storeOut true .plain none (dropOwners (counterOf s k) (fun e _ => e.lnch = s.me.lnch) s)) s)

/-- `wfq.w` (R203): registered waiter edges on the counter, module-wide. -/
def execWfqW (k : KReg) (d : SReg) (s : State) : Out :=
  let a := counterOf s k
  .next (checked (ownedCheck s k) (fun s =>
    pendS d (BitVec.ofNat 64 ((edgesOf s).filter fun x => match x.e.kind with | .edge (.counter y _) => y = a | _ => false).length) true s) s)

/-- `wfq.o` (R203): owner records of the counter. -/
def execWfqO (k : KReg) (d : SReg) (s : State) : Out :=
  let a := counterOf s k
  .next (checked (ownedCheck s k) (fun s =>
    pendS d (BitVec.ofNat 64 ((dieOf s (a / 2 ^ 28)).wft.filter fun e => match e.kind with | .owner y .. => y = a | _ => false).length) true s) s)

/-- `wfq.f` (R203): free entries of the caller's die's WFT. -/
def execWfqF (d : SReg) (s : State) : Out := .next (pendS d (BitVec.ofNat 64 (wftSize - (dieOf s s.me.die).wft.length)) true s)

/-- A thread retires or is killed (R202): the records that name it or that it declared, and its edges, are removed. -/
def dropThread (lnch tid : Nat) (s : State) : State :=
  inherit { s with dies := s.dies.map fun d => { d with wft := d.wft.filter fun e =>
    match e.kind with
    | .owner _ k _ by_ => !(e.lnch = lnch && (by_ = tid || (k = 0 && e.tid = tid)))
    | _ => !(e.lnch = lnch && e.tid = tid) } }

/-! ### Steps of the hardware -/

/-- WAKE_TOKEN (R195, R196): a token on its way to a thread arrives. -/
def execWakeToken (c entry order : Nat) (s : State) : Out :=
  .next (if s.tokens.contains (c, entry, order) then
      let s := { s with tokens := s.tokens.erase (c, entry, order) }
      match findCtx c s with
      | none => s
      | some x =>
        if x.wt.entry ≠ some entry || x.wt.stamp ≠ order then s
        else
          let s := { s with saved := s.saved.map fun v => if v.ctx.uid = c then { v with woken := true } else v }
          modCtx c (fun x => { x with wt := if x.wt.tokens.length ≥ 8 then { x.wt with overflow := true } else
            { x.wt with tokens := x.wt.tokens ++ [(entry, order)] } }) s
    else s)

/-- UNREGISTERED_WAIT_POLL (R201): 256 aclks have passed. -/
def execUnregisteredWaitPoll (c : Nat) (s : State) : Out :=
  .next (modCtx c (fun x => { x with wt := { x.wt with again := x.wt.again || x.wt.unregistered } }) s)

/-- The edges whose owners all stand in a set, and no owner of which is outside it or unjoined (R208). -/
def deadRound (s : State) (es : List Edge) : List Edge :=
  es.filter fun x =>
    let o := ownersOf s x.e
    !o.unjoined && !o.outside && !o.threads.isEmpty && o.threads.all fun t => es.any fun y => y.e.uid = t

/-- The largest deadlocked set (R208). -/
def deadSet (s : State) : Nat → List Edge → List Edge
  | 0, es => es
  | n + 1, es => deadSet s n (deadRound s es)

/-- The edges of a set that an edge leads to, in the order met (R208); `n` bounds the rounds. -/
def reachOf (s : State) (es : List Edge) : Nat → List Edge → List Edge
  | 0, xs => xs
  | n + 1, xs =>
    reachOf s es n (xs ++ (xs.flatMap fun x => (ownersOf s x.e).threads.filterMap fun t => es.find? fun y => y.e.uid = t).dedup.filter
      fun y => !xs.contains y)

/-- The edge of a list with the highest stamp. -/
def newest : List Edge → Option Edge
  | [] => none
  | x :: xs => some (xs.foldl (fun a b => if a.e.stamp < b.e.stamp then b else a) x)

/-- One walk handed to the dispatch core (R208): the newest member of the deadlocked set it leads to traps. -/
def dispatchWalk (die entry : Nat) (s : State) : State :=
  let all := waitsOf s
  let es := deadSet s all.length all
  match es.find? fun x => x.die = die && x.e.entry = entry with
  | none => s
  | some x =>
    match newest (reachOf s es es.length [x]) with
    | none => s
    | some v =>
      let f := deadFault 1 ((reachOf s es es.length [v]).map (·.e))
      modCtx v.e.uid (fun c => { c with wt := { c.wt with dead := some f } }) (dropEdge v.e.uid s)

/-- DISPATCH_DEADLOCK_CHECK (R208): every walk handed to the die's dispatch core is examined. -/
def execDispatchDeadlockCheck (die : Nat) (s : State) : Out :=
  let ws := (dieOf s die).walks
  .next (inherit (ws.foldl (fun s e => dispatchWalk die e s) (modDie die (fun d => { d with walks := [] }) s)))

end Sys2Proof.Machine
end

