-- ==== Sys2Proof/Machine/Threads.lean ====
section
/-! DEFINITION. Thread instructions (R152 to R156), thread groups (R157 to R162), priorities (R181) and `launch` (R183). -/

namespace Sys2Proof.Machine

/-- `tid` (R153). -/
def execTid (d : SReg) (s : State) : Out := .next (pendS d (BitVec.ofNat 64 (s.me.tid % 2 ^ 24)) false s)

/-- `tcount` (R153). -/
def execTcount (d : SReg) (s : State) : Out := .next (pendS d (BitVec.ofNat 64 (s.me.nthr % 2 ^ 25)) false s)

/-! ### Thread groups -/

/-- The dies of a mask in ascending order (R147). -/
def diesOf (mask : Nat) : List Nat := (List.range 8).filter fun d => mask / 2 ^ d % 2 = 1

/-- The die set of the caller's launch; a context placed without a launch has its own die (assumption log 4). -/
def dieSet (s : State) (l : Nat) : List Nat :=
  match launchOf s l with
  | some x => diesOf (bits x.conf 36 8)
  | none => [s.me.die]

/-- A valid handle (R157). -/
def groupHandle (size rank die entry gen : Nat) : Word :=
  BitVec.ofNat 64 (2 ^ 63 + size % 2 ^ 13 * 2 ^ 43 + rank % 2 ^ 12 * 2 ^ 31 + die % 8 * 2 ^ 28 + entry % 256 * 2 ^ 20 + gen % 2 ^ 16 * 2 ^ 4)

/-- An invalid handle with its error (R157). -/
def badHandle (err : Nat) : Word := BitVec.ofNat 64 (err * 2 ^ 56)

/-- Entries of a die's group table. -/
def groupTable : Nat := 256

/-- The lowest free entry of a die's group table. -/
def freeGroup (d : Die) : Option Nat := (List.range groupTable).find? fun e => d.groups.all (·.entry ≠ e)

/-- A new present member. -/
def newMember (tid rank : Nat) : Member := { tid, rank, present := true, bit := false }

/-- A thread remembers a group it has joined (R156). -/
def noteJoin (die entry gen : Nat) (s : State) : State :=
  { s with me := { s.me with groups := s.me.groups ++ [(die, entry, gen)] } }

/-- `join` at the home table (R158): the handle. -/
def joinGroup (key : Word) (size : Nat) (s : State) : State × Word :=
  if size = 0 || size > 4096 then (s, badHandle 2)
  else
    let ds := dieSet s s.me.lnch
    let die := ds.getD (key.toNat % ds.length) s.me.die
    let d := dieOf s die
    match d.groups.find? fun g => g.lnch = s.me.lnch && g.key = key with
    | some g =>
      match g.present s.me.tid with
      | some m => (s, groupHandle g.size m.rank die g.entry (genOf d g.entry))
      | none =>
        if g.size ≠ size then (s, badHandle 3)
        else if g.members.length ≥ g.size then (s, badHandle 4)
        else
          let r := g.members.length
          (noteJoin die g.entry (genOf d g.entry)
            (modGroup die g.entry (fun g => { g with members := g.members ++ [newMember s.me.tid r] }) s),
           groupHandle g.size r die g.entry (genOf d g.entry))
    | none =>
      match freeGroup d with
      | none => (s, badHandle 1)
      | some e =>
        (noteJoin die e (genOf d e)
          (modDie die (fun d => { d with groups := d.groups ++ [
            { entry := e, lnch := s.me.lnch, key, size, members := [newMember s.me.tid 0], b := 0 }] }) s),
         groupHandle size 0 die e (genOf d e))

/-- `join` (R158). -/
def execJoin (d a b : SReg) (s : State) : Out :=
  .next (let (s', h) := joinGroup (rdS s a) (rdS s b).toNat s
    pendS d h true s')

/-- `leave` (R160): outstanding in class S until performed. -/
def execLeave (a : SReg) (s : State) : Out :=
  let h := rdS s a
  .next (tryWith (memberCheck s h) (fun (g, _) s =>
    let s := leaveGroup (hdlDie h) g.entry s.me.tid s
    storeOut true .plain none
      { s with me := { s.me with groups := s.me.groups.erase (hdlDie h, hdlEntry h, hdlGen h) } }) s)

/-- The check of `grank` and `gsize` (R161). -/
def validHandle (h : Word) : Option FaultInfo := failIf (!bit h 63) (fault 0x0C 0 h)

/-- `grank` (R161). -/
def execGrank (d a : SReg) (s : State) : Out :=
  let h := rdS s a
  .next (checked (validHandle h) (pendS d (BitVec.ofNat 64 (bits h 31 12)) false) s)

/-- `gsize` (R161). -/
def execGsize (d a : SReg) (s : State) : Out :=
  let h := rdS s a
  .next (checked (validHandle h) (pendS d (BitVec.ofNat 64 (bits h 43 13)) false) s)

/-- `gsize.j` (R161): P as the home table holds it. -/
def execGsizeJ (d a : SReg) (s : State) : Out :=
  let h := rdS s a
  .next (match handleGroup s h with
    | none => raise (fault 0x0C 0 h) s
    | some g => pendS d (BitVec.ofNat 64 g.present_.length) true s)

/-! ### `exit` and `trig` -/

/-- `exit` (R156): it acts at the boundary after its group. -/
def execExit (s : State) : Out := .next (modSq (fun q => { q with exiting := some q.arrive }) s)

/-- `trig` (R155): it retires when every earlier operation and command is done; it takes its own place among the operations. -/
def execTrig (s : State) : Out :=
  .next { s with me := { s.me with trigs := s.me.trigs ++ [(s.me.sq.arrive, s.ids + 1, s.me.sq.cmdCount)] }, ids := s.ids + 1 }

/-- Whether every operation of a context before a point is performed or completed (R155): its stores and loads, the arrive adds
of slots whose results are in flight or owed (R243), its commands. The read of an item is no operation of the context (R358). -/
def doneBefore (s : State) (c : Ctx) (ids cmds : Nat) : Bool :=
  c.sq.stores.all (fun o => decide (o.id ≥ ids)) &&
    c.sq.pends.all (fun p => decide (p.id ≥ ids) || (p.src = .item && p.arrive.isNone)) &&
    (c.sq.flights ++ c.sq.snap).all (fun f => decide (f.id ≥ ids) || f.arrive.isNone) && c.sq.owed.isEmpty &&
    s.fab.outs.all (fun o => o.cid ≠ c.uid || decide (o.id ≥ ids)) &&
    c.sq.cmds.all fun x => match x.op with
      | .arrival .. | .query .. => true
      | _ => decide ((cmds + 2 ^ 32 - 1 - x.tag) % 2 ^ 32 ≥ 2 ^ 31)

/-- Whether every thread of a launch has been bound once, or has ended unbound (R174). -/
def Launch.allBound (l : Launch) : Bool := decide ((l.bound ++ l.ended).dedup.length ≥ bits l.conf 0 25)

/-- STATE moves forward as the counts change (R169). -/
def Launch.advance (l : Launch) : Launch :=
  let n := bits l.conf 0 25
  match l.state with
  | .new => if l.exitd ≥ n then { l with state := .done } else l
  | .admitted => if l.exitd ≥ n then { l with state := .done } else if l.trigd ≥ n then { l with state := .triggered } else l
  | .triggered => if l.exitd ≥ n then { l with state := .done } else l
  | _ => l

/-- A thread triggers (R155): TRIGD rises unless it had triggered. -/
def countTrig (u : Nat) (s : State) : State :=
  match findCtx u s with
  | none => s
  | some c =>
    if c.triggered then s
    else writeStat c.lnch (modLaunch c.lnch (fun l => { l with trigd := l.trigd + 1 }.advance)
      (modCtx u (fun c => { c with triggered := true }) s))

/-- TRIG_RETIRE (R155): the oldest `trig` of the thread retires if every earlier operation is done; its own arrive add is owed then. -/
def execTrigRetire (c : Nat) (s : State) : Out :=
  .next (match findCtx c s with
    | none => s
    | some x =>
      match x.trigs with
      | [] => s
      | (arr, ids, cmds) :: _ =>
        if doneBefore s x ids cmds then
          countTrig c (modCtx c (fun x => { x with trigs := x.trigs.drop 1, sq := { x.sq with owed := x.sq.owed ++ arr.toList } }) s)
        else s)

/-! ### `prio` (R181) -/

/-- PRI of the caller's launch record; a context without one has its own base priority. -/
def launchPri (s : State) : Nat :=
  match launchOf s s.me.lnch with
  | some l => bits l.conf 44 4
  | none => s.me.bpri

/-- The priority a `prio` names. -/
def prioOf (s : State) (a : SReg) (n : PReg) (r : Bool) : Nat := if r then bits (rdS s a) 0 4 else n.val

/-- The check of `prio`. -/
def prioCheck (s : State) (p : Nat) : Option FaultInfo := failIf (decide (p > launchPri s)) (fault 0x0C 0 (BitVec.ofNat 64 p))

/-- A slot of the group has something to do at its boundary (R154, R181). -/
def addLate (x : Late) (s : State) : State := modSq (fun q => { q with late := q.late ++ [x] }) s

/-- `prio` (R181): the base priority changes at the boundary after the group. -/
def execPrio (d a : SReg) (n : PReg) (r : Bool) (s : State) : Out :=
  let p := prioOf s a n r
  .next (checked (prioCheck s p) (fun s =>
    pendS d (BitVec.ofNat 64 (s.me.bpri % 16)) false (addLate (.prio false p) s)) s)

/-- Every thread of a launch takes a base priority. -/
def setPrioAll (l p : Nat) (s : State) : State :=
  let f := fun (c : Ctx) => if c.lnch = l then { c with bpri := p } else c
  modLaunch l (fun x => { x with pri := p })
    { s with me := f s.me, others := s.others.map f, saved := s.saved.map fun v => { v with ctx := f v.ctx } }

/-- A `prio` acts (R181). -/
def setPrio (all : Bool) (p : Nat) (s : State) : State :=
  inherit (if all then setPrioAll s.me.lnch p s else { s with me := { s.me with bpri := p } })

/-- `prio.all` (R181). -/
def execPrioAll (d a : SReg) (n : PReg) (r : Bool) (s : State) : Out :=
  let p := prioOf s a n r
  .next (checked (prioCheck s p) (fun s =>
    pendS d (BitVec.ofNat 64 (s.me.bpri % 16)) false (addLate (.prio true p) s)) s)

/-! ### The append of R166 -/

/-- VA of the ring entry with an index. -/
def ringVa (h : QueueHdr) (k : Nat) : Word := h.ring + BitVec.ofNat 64 (8 * (k % 2 ^ h.lsz))

/-- The pieces of the first of two accesses, both checked: a VA without a valid translation comes before any that is forbidden
(R183). -/
def bothSegs (x y : Except FaultInfo (List Seg)) : Except FaultInfo (List Seg) :=
  match x, y with
  | .error f, .error g => .error (if f.cause ≠ 0x0A && g.cause = 0x0A then g else f)
  | .error f, .ok _ => .error f
  | .ok _, .error g => .error g
  | .ok gs, .ok _ => .ok gs

/-- The checks of the append before its group issues (R183): where header and ring entry lie, and the header. -/
def appendCheck (s : State) (ag : Agent) (hdr rcd : Word) : Except FaultInfo (List Seg × QueueHdr × List Seg) :=
  match firstFault [failIf (hdr.toNat % 64 ≠ 0) (fault 0x0B 0 hdr), failIf (rcd.toNat % 64 ≠ 0) (fault 0x0B 0 rcd)] with
  | some f => .error f
  | none =>
    match bothSegs (vaSegs s ag.site ag.world .atomic hdr 64) (vaSegs s ag.site ag.world .read rcd 64) with
    | .error f => .error f
    | .ok gs =>
      let h := queueHdr (readSegs s gs)
      if (h.notify + 2 ^ 64 - h.read) % 2 ^ 64 = 2 ^ h.lsz || (h.w && !ag.world) then .ok (gs, h, [])
      else match vaSegs s ag.site h.w .write (ringVa h h.notify) 8 with
        | .error f => .error f
        | .ok rs => .ok (gs, h, rs)

/-- The append as one operation at the home slice of the header line (R166, R183): the result. One that appends nothing has read the
header there (R219). -/
def appendDo (u : Option Nat) (gs : List Seg) (h : QueueHdr) (rs : List Seg) (world : Bool) (rcd : Word) (s : State) : State × Word :=
  if (h.notify + 2 ^ 64 - h.read) % 2 ^ 64 = 2 ^ h.lsz then (stepSegs .plain u gs s, -1)
  else if h.w && !world then (stepSegs .plain u gs s, -2)
  else
    let n := BitVec.ofNat 64 (h.notify + 1)
    let s := writeSegs (stepSegs .store u rs s) rs (leBytes 8 rcd.toNat)
    let s := writeSegs (stepSegs .atomic u gs s) gs (leBytes 8 n.toNat ++ (readSegs s gs).drop 8)
    (match gs with | g :: _ => notifyLine g.addr n s | [] => s, BitVec.ofNat 64 h.notify)

/-- `launch` (R183): its result comes through the pending bit. -/
def execLaunch (d a b : SReg) (s : State) : Out :=
  let hdr := rdS s a
  let rcd := rdS s b
  .next (tryWith (appendCheck s (agentOf s.me) hdr rcd) (fun (gs, h, rs) s =>
    let (s, x) := appendDo (some s.me.uid) gs h rs s.me.world rcd s
    pendS d x true s) s)

end Sys2Proof.Machine
end

