-- ==== Sys2Proof/Machine/Tiles.lean ====
section
/-! DEFINITION. Tile commands, tensor maps, loads and stores of tiles, row moves, receive ports and multicast, and the
separator (R253 to R278). -/

namespace Sys2Proof.Machine

/-! ### Tensor maps (R263 to R268) -/

/-- A dimension of a map (R263). -/
structure MapDim where
  n      : Nat
  ext    : Nat
  stride : Int
  dil    : Nat
  pad    : Nat
deriving DecidableEq, Repr

/-- Dimension `d` of 512 map bits. -/
def mapDim (x : BitVec 512) (d : Nat) : MapDim :=
  let o := 80 + 72 * d
  { n := fld x.toNat o 16 + 1, ext := fld x.toNat (o + 16) 16 + 1, stride := signExt (fld x.toNat (o + 32) 32) 32
    dil := fld x.toNat (o + 64) 4 + 1, pad := fld x.toNat (o + 68) 4 }

/-- BASE. -/
def mapBase (x : BitVec 512) : Word := BitVec.ofNat 64 (fld x.toNat 0 64)
/-- SP: 0 VA, 1 store, 2 window. -/
def mapSp (x : BitVec 512) : Nat := fld x.toNat 64 2
/-- TAG. -/
def mapTag (x : BitVec 512) : Tag := (Tag.ofCode (fld x.toNat 66 4)).getD .none
/-- NQ. -/
def mapNq (x : BitVec 512) : Nat := fld x.toNat 72 7

/-- Bytes of an element in a tile and in memory (R263). -/
def elemSize : Tag → Nat × Nat
  | .i16 | .bf16 => (2, 2)
  | .i32 | .fp32 => (4, 4)
  | .e2m1x => (16, 18)
  | _ => (1, 1)

/-- The alignment of an element address (R263). -/
def elemAlign (t : Tag) : Nat := if t = .e2m1x then 1 else (elemSize t).2

/-- A descriptor that `mset` accepts (R264): bits 79 and 70 are reserved. -/
def mapOk (x : BitVec 512) : Bool :=
  x.getLsbD 71 && mapSp x ≠ 3 && decide (1 ≤ fld x.toNat 66 4) && decide (fld x.toNat 66 4 ≤ 9) && mapNq x = 0 && !x.getLsbD 79 && !x.getLsbD 70

/-- Positions a map traverses. -/
def mapCount (x : BitVec 512) : Nat := (List.range 6).foldl (fun n d => n * (mapDim x d).n) 1

/-- Fields of the placement word (R266). -/
structure Placement where
  wb    : Nat
  fbyte : Nat
  frow  : Nat
  lo    : Nat
  hi    : Nat
deriving DecidableEq, Repr

/-- A placement word. -/
def placement (x : Word) : Placement :=
  { wb := bits x 48 10, fbyte := bits x 39 9, frow := bits x 32 7, lo := bits x 0 16, hi := bits x 16 16 }

/-- The origins of a traversal (R268). -/
def origins (mp : MapReg) (org plc : Word) : List Int :=
  let e := mp.raster.getD (bits plc 0 8) 0
  (List.range 4).map (fun d => signExt (bits org (16 * d) 16) 16) ++
    (if mapNq mp.bits ≠ 0 then [signExt (fld e.toNat 0 16) 16, signExt (fld e.toNat 16 16) 16]
     else [signExt (bits plc 0 16) 16, signExt (bits plc 16 16) 16])

/-- The coordinates of position `k`: dimension 0 fastest. -/
def coords (x : BitVec 512) (k : Nat) : List Nat :=
  ((List.range 6).foldl (fun (r : Nat × List Nat) d => let n := (mapDim x d).n; (r.1 / n, r.2 ++ [r.1 % n])) (k, [])).2

/-- Whether position `k` is padded, and its address (R268). -/
def position (mp : MapReg) (org plc : Word) (k : Nat) : Bool × Word :=
  let o := origins mp org plc
  let i := coords mp.bits k
  (List.range 6).foldl (fun (r : Bool × Word) d =>
    let m := mapDim mp.bits d
    let c : Int := o.getD d 0 + (i.getD d 0 * m.dil : Nat) - m.pad
    (r.1 || decide (c < 0) || decide (c ≥ m.ext), r.2 + BitVec.ofInt 64 (c * m.stride))) (false, mapBase mp.bits)

/-- Every position in the order of its traversal. -/
def positions (mp : MapReg) (org plc : Word) : List (Nat × Bool × Word) :=
  (List.range (mapCount mp.bits)).map fun k => (k, position mp org plc k)

/-- A window of a tile: first row, first byte, width. -/
structure TileWin where
  frow  : Nat
  fbyte : Nat
  w     : Nat
deriving DecidableEq, Repr

/-- Items 4 to 8 of R267 against a configuration: `rows` of a `tldz`, else the tile bytes `total`. -/
def tileWin (cfg : Word) (p : Placement) (u : Nat) (total : Nat) (rows : Option Nat) : Option TileWin :=
  let w := if p.wb = 0 then cfgRB cfg - p.fbyte else p.wb
  let t := match rows with | some n => n * w | none => total
  if cfgRows cfg ≥ 1 && w ≠ 0 && p.fbyte % u = 0 && w % u = 0 && p.fbyte + w ≤ cfgRB cfg && t % w = 0 && p.frow + t / w ≤ cfgRows cfg
  then some ⟨p.frow, p.fbyte, w⟩ else none

/-- Items 1 and 2 of R267. -/
def mapCheck (mp : MapReg) (plc : Word) : Option FaultInfo :=
  firstFault [failIf (!mp.bits.getLsbD 71) (fault 0x02 0 0),
    failIf (mapNq mp.bits ≠ 0 && decide (bits plc 0 8 ≥ mapNq mp.bits)) (fault 0x02 0 plc)]

/-- Tile bytes of a map (R267). -/
def mapTotal (x : BitVec 512) : Nat := mapCount x * (elemSize (mapTag x)).1

/-- The window of a map command against a configuration. -/
def mapWin (cfg : Word) (mp : MapReg) (plc : Word) : Option TileWin :=
  tileWin cfg (placement plc) (elemSize (mapTag mp.bits)).1 (mapTotal mp.bits) none

/-- The checks of `tld` and `tst` at issue (R267). -/
def mapTileCheck (s : State) (t : Ix8) (mp : MapReg) (plc : Word) : Option FaultInfo :=
  firstFault [mapCheck mp plc, failIf (mapWin (tileOf s.me t).icfg mp plc).isNone (fault 0x02 0 plc)]

/-- `mset` (R264). -/
def execMset (mp : Ix8) (a : SReg) (s : State) : Out :=
  let x := rdS s a
  .next (tryWith (readDesc s x 64 64) (fun (gs, bs) s =>
    let raw := BitVec.ofNat 512 (leNat bs)
    checked (failIf (!mapOk raw) (fault 0x02 0 x)) (fun s =>
      emit 1 .none 0 (modRegs (fun r => { r with mp := r.mp.set mp { bits := raw, raster := [] } }) (touchDesc gs s))) s) s)

/-- NQ set in a map. -/
def setNq (x : BitVec 512) (n : Nat) : BitVec 512 :=
  (x &&& ~~~(BitVec.ofNat 512 (127 * 2 ^ 72))) ||| BitVec.ofNat 512 (n % 128 * 2 ^ 72)

/-- `mord` (R265). -/
def execMord (mp : Ix8) (a b : SReg) (s : State) : Out :=
  let x := rdS s a
  let n := (rdS s b).toNat
  let put := fun es => modRegs fun r => { r with mp := r.mp.set mp { bits := setNq (r.mp[mp]).bits n, raster := es } }
  .next (checked (failIf (decide (n > 64) || (n ≠ 0 && !(s.me.regs.mp[mp]).bits.getLsbD 71)) (fault 0x02 0 (rdS s b))) (fun s =>
    if n = 0 then emit 1 .none 0 (put [] s)
    else tryWith (readDesc s x 4 (4 * n)) (fun (gs, bs) s =>
      emit 1 .none 0 (put ((List.range n).map fun i => BitVec.ofNat 32 (leNat ((bs.drop (4 * i)).take 4))) (touchDesc gs s))) s) s)

/-! ### Small tile commands (R261, R262) -/

/-- `tcfg` (R261): the issued configuration is set at once. -/
def execTcfg (t : Ix8) (a : SReg) (s : State) : Out :=
  let v := csrNew .write 0x20 (tileOf s.me t).icfg (rdS s a)
  .next (checked (failIf (!cfgOk (rdS s a)) (fault 0x02 0 (rdS s a)))
    (fun s => issueCmd (.tcfg t v) none (setIcfg t (fun _ => v) s)) s)

/-- `tzero` (R261). -/
def execTzero (t : Ix8) (s : State) : Out := .next (issueCmd (.tzero t) none s)

/-- `tcons` (R261). -/
def execTcons (t : Ix8) (n : BitVec 8) (s : State) : Out := .next (issueCmd (.tcons t n.toNat) none s)

/-- `tcfgq.ver` (R262): it takes a reader's place in the tile order. -/
def execTcfgqVer (b : SReg) (t : Ix8) (s : State) : Out :=
  let id := s.ids
  let s := pend (.s b 0) false true none none s
  .next (settleQueries s.me.uid (modSq (fun q => { q with cmds := q.cmds ++ [
    newCmd 0 (.query t id) none q.group none id] }) s))

/-- The state word of a tile (R253). -/
def tileState (s : State) (t : Nat) : Word :=
  let x := tileOf s.me t
  let port := (coreOf s s.me.die s.me.core).ports.any fun p => p.lnch = s.me.lnch && p.tid = s.me.tid && p.tile.val = t
  BitVec.ofNat 64 (x.ver.toNat * 2 ^ 32 + x.cnt % 256 * 2 ^ 24 + (cfgTag x.cfg).code * 2 ^ 20 + port.toNat * 8
    + (tileBusy s.me true t).toNat * 2 + (tileBusy s.me false t).toNat)

/-- `tcfgq.st` (R262). -/
def execTcfgqSt (b : SReg) (t : Ix8) (s : State) : Out := .next (pendS b (tileState s t) true s)

/-- `tcfgq.tag` (R262). -/
def execTcfgqTag (b : SReg) (s : State) : Out :=
  .next (pendS b (if s.me.sq.cmdCount = 0 then -1 else BitVec.ofNat 64 ((s.me.sq.cmdCount - 1) % 2 ^ 32)) true s)

/-- `tcfgq.sep` (R262, R278). -/
def execTcfgqSep (b : SReg) (s : State) : Out := .next (pendS b (coreOf s s.me.die s.me.core).sep true s)

/-- Whether the limits of a `wait` hold (R259). -/
def waitDone (c : Ctx) (l s k t : PReg) : Bool :=
  decide (outL c ≤ l.val) && decide (outS c ≤ s.val) && decide (outC c ≤ k.val) && decide (outT c ≤ t.val)

/-- `wait` (R259): examined before its group issues; a deadlock found for its channel edge is raised here (R359). -/
def execWait (l st c t : PReg) (s : State) : Out :=
  .next (match s.me.wt.dead with
    | some f => raise f s
    | none => if s.me.sq.passed || waitDone s.me l st c t then retireNow s else holdHere s)

/-! ### Tile loads and stores (R269, R270) -/

/-- The issued tag of a tile is set (R256). -/
def setIssuedTag (t : Ix8) (g : Tag) (s : State) : State := setIcfg t (withTag · g) s

/-- `tld` (R269). -/
def execTld (t mp : Ix8) (a b : SReg) (c : Bool) (k : Option KReg) (s : State) : Out :=
  let m := s.me.regs.mp[mp]
  .next (checked (firstFault [kcCheck s k, mapTileCheck s t m (rdS s b)])
    (fun s => issueCmd (.tld t m (rdS s a) (rdS s b) c (kcAddr s k)) (kcAddr s k) (setIssuedTag t (mapTag m.bits) s)) s)

/-- Item 9 of R267. -/
def tstTagCheck (t : Nat) (cfg : Word) (g : Tag) : Option FaultInfo :=
  firstFault [tileTagCheck t cfg, failIf (cfgTag cfg ≠ g) (fault 0x04 0 (BitVec.ofNat 64 t))]

/-- `tst` (R270). -/
def execTst (t mp : Ix8) (a b : SReg) (n : BitVec 8) (k : Option KReg) (s : State) : Out :=
  let m := s.me.regs.mp[mp]
  .next (checked (firstFault [kcCheck s k, mapTileCheck s t m (rdS s b), tstTagCheck t (tileOf s.me t).icfg (mapTag m.bits)])
    (fun s => issueCmd (.tst t m (rdS s a) (rdS s b) n.toNat (kcAddr s k)) (kcAddr s k) s) s)

/-- An element of padding (R269). -/
def padElem (t : Tag) : List Byte := if t = .e2m1x then List.replicate 16 0 ++ [0x7F, 0] else List.replicate (elemSize t).2 0

/-- A fault of an access of an engine names the element, or the line for line causes (R258). -/
def engAddr (A : Word) (f : FaultInfo) : FaultInfo :=
  if f.cause = 0x0A || f.cause = 0x0C || f.cause = 0x19 then { f with addr := A }
  else if f.cause = 0x0D || f.cause = 0x0E || f.cause = 0x0F then { f with addr := BitVec.ofNat 64 (f.addr.toNat / 64 * 64) }
  else f

/-- The pieces of one access of an engine, after every check (R258, R263). -/
def engSegs (s : State) (ag : Agent) (sp : Nat) (k : LineAcc) (A : Word) (n align : Nat) : Except FaultInfo (List Seg) :=
  match alignCheck A align with
  | some f => .error f
  | none => match accessSegs s ag (sp = 1) k A n with
    | .error f => .error (engAddr A f)
    | .ok gs => .ok gs

/-- One element of a load: its pieces and bytes, or what the engine meets (R258, R269; assumption log 61). -/
def loadElem (s : State) (ag : Agent) (sp : Nat) (t : Tag) (c : Bool) (A : Word) : Except FaultInfo (List Seg × List Byte) :=
  match engSegs s ag sp (if c then .consume else .plain) A (elemSize t).2 (elemAlign t) with
  | .error f => .error f
  | .ok gs =>
    match badLine s gs with
    | some x => .error (fault 0x16 0 (BitVec.ofNat 64 (x.toNat / 64 * 64)))
    | none =>
      let bs := readSegs s gs
      if t = .e2m1x && !specialOk (bs.getD 17 0).toNat then .error (fault 0x11 2 A) else .ok (gs, bs)

/-- All elements of a load in traversal order: pieces and bytes. -/
def loadElems (s : State) (ag : Agent) (sp : Nat) (t : Tag) (c : Bool) : List (Nat × Bool × Word) → Except FaultInfo (List Seg × List (List Byte))
  | [] => .ok ([], [])
  | (_, pad, A) :: ps =>
    match (if pad then .ok ([], padElem t) else loadElem s ag sp t c A) with
    | .error f => .error f
    | .ok (gs, bs) => match loadElems s ag sp t c ps with
      | .error f => .error f
      | .ok (hs, ls) => .ok (gs ++ hs, bs :: ls)

/-- The distinct lines of the pieces of a command, one piece each: a line meets one check (R269, R270). -/
def distinctLines (gs : List Seg) : List Seg :=
  (gs.flatMap fun g => (lineStarts g.addr g.len).map fun x => (⟨g.st, x, 1, g.va + BitVec.ofNat 64 (x - g.addr)⟩ : Seg)).foldl
    (fun ls g => if ls.any fun l => l.st = g.st && l.addr / 64 = g.addr / 64 then ls else ls ++ [g]) []

/-- Bytes of data and side store at row and byte of an element (R67, R268). -/
def placeElem (rb : Nat) (t : Tag) (row byte : Nat) (bs : List Byte) (x : Tile) : Tile :=
  let put := fun x => (bs.take (if t = .e2m1x then 16 else (elemSize t).1)).zipIdx.foldl (fun x (b, i) => setData (row * rb + byte + i) b x) x
  if t = .e2m1x then
    let j := byte / 16
    setSide (64 * row + 32 + j) (bs.getD 17 0) (setSide (64 * row + j) (bs.getD 16 0) (put x))
  else put x

/-- Placing all elements of a window (R268). -/
def placeElems (w : TileWin) (t : Tag) (els : List (List Byte)) (x : Tile) : Tile :=
  let u := (elemSize t).1
  els.zipIdx.foldl (fun x (bs, k) => placeElem (cfgRB x.cfg) t (w.frow + k * u / w.w) (w.fbyte + k * u % w.w) bs x) x

/-- The tile write of a load (R269): under-read, or the tile with the elements, tag and version. -/
def tileWrite (f : Tile → Tile) (t : Tag) (x : Tile) : Option Tile :=
  if 1 ≤ x.cnt && x.cnt ≤ 254 then none
  else
    let x := if x.cnt = 0 then { zeroFor t x with cnt := 255 } else x
    let x := f x
    some { x with cfg := withTag x.cfg t, ver := x.ver + 1 }

/-- A command writes a tile of its thread, or meets under-read. -/
def cmdWrite (u : Nat) (x : Cmd) (t : Nat) (f : Tile → Tile) (tag : Tag) (amount : Nat) (s : State) : State :=
  match findCtx u s with
  | none => s
  | some c =>
    match tileWrite f tag (tileOf c t) with
    | none => failCmd u x (fault 0x0E 0 0) s
    | some y => doneCmd u x amount (modTileOf u t (fun _ => y) s)

/-- The window checks of the elements of a map in their order (R374): the references, each with what belongs to it. -/
def winRefs {α : Type} (s : State) (ag : Agent) (acc : Right) (align : Nat) : List (Word × Nat × α) → Except FaultInfo (List (WinRef × Nat × α))
  | [] => .ok []
  | (A, n, y) :: es =>
    match winCheckAll s ag (winSplit A).1 (winSplit A).2 n acc align false with
    | .error f => .error f
    | .ok w => match winRefs s ag acc align es with
      | .error f => .error f
      | .ok l => .ok ((w, n, y) :: l)

/-- What a reference names at its target. -/
def WinRef.part (w : WinRef) (n : Nat) : RemotePart :=
  { key := winKey w.entry, store := w.entry.getLsbD 3, addr := BitVec.ofNat 64 (winBase w.entry + w.o), n }

/-- The modules that references name, each once. -/
def refPeers {α : Type} (ws : List (WinRef × Nat × α)) : List Nat := (ws.map fun w => winPeer w.1.entry).dedup

/-- The remote operations of an engine command: one for each module its elements are on (R245, R251), operation `j` for
the `j`th of `refPeers`. -/
def sendParts {α : Type} (u : Nat) (c : Ctx) (x : Cmd) (ws : List (WinRef × Nat × α)) (op : List (RemotePart × α) → RemoteOp) (s : State) : State :=
  let s := ws.foldl (fun s w => winFill (agentOf c) w.1.h w.1.entry s) s
  (refPeers ws).zipIdx.foldl (fun s (m, j) =>
    match ws.filter fun w => winPeer w.1.entry = m with
    | [] => s
    | (w, n, y) :: l =>
      sendRemote u (agentOf c) c.tid w (op (((w, n, y) :: l).map fun e => (e.1.part e.2.1, e.2.2))) false (.engine x.tag j) s) s

/-- The mark in a command's list behind the remote reads it waits for. -/
def readEnd : Nat := 4096

/-- The remote read of a map in window space is issued (R251, R263, R374). -/
def remoteReads (u : Nat) (c : Ctx) (x : Cmd) (t : Tag) (cons : Bool) (ps : List (Nat × Bool × Word)) (s : State) : State :=
  let live := ps.filter fun p => !p.2.1
  match winRefs s (agentOf c) .read (elemAlign t) (live.map fun p => (p.2.2, (elemSize t).2, p.1)) with
  | .error f => failCmd u x f s
  | .ok ws =>
    let ms := refPeers ws
    let s := modCmd u x.tag (fun y => { y with
      begun := true, stage := 1, todo := List.range ms.length ++ [readEnd]
      elems := ws.map fun w => (w.2.2, ms.findIdx (· = winPeer w.1.entry), []) }) s
    sendParts u c x ws (fun l => .gather (l.map (·.1)) cons) s

/-- The bytes of remote read `j` as the elements of `n` bytes that wait for it. -/
def fillElems (n j : Nat) : List (Nat × Nat × List Byte) → List Byte → List (Nat × Nat × List Byte)
  | [], _ => []
  | e :: es, bs => if e.2.1 = j then (e.1, j, bs.take n) :: fillElems n j es (bs.drop n) else e :: fillElems n j es bs

/-- The elements a map read has when its remote data are here; a malformed block among them (R258). -/
def remoteElems (x : Cmd) (t : Tag) (ps : List (Nat × Bool × Word)) : Except FaultInfo (List (List Byte)) :=
  ps.foldl (fun (r : Except FaultInfo (List (List Byte))) p => match r with
    | .error f => .error f
    | .ok l =>
      let bs := if p.2.1 then padElem t else ((x.elems.find? fun e => e.1 = p.1).map fun e => e.2.2).getD (padElem t)
      if t = .e2m1x && !specialOk (bs.getD 17 0).toNat then .error (fault 0x11 2 p.2.2) else .ok (l ++ [bs])) (.ok [])

/-- The read of a map command (R268, R269): `f` goes on with the elements. -/
def mapRead (u : Nat) (c : Ctx) (x : Cmd) (mp : MapReg) (org plc : Word) (cons : Bool) (f : List (List Byte) → State → State) (s : State) : State :=
  let ps := positions mp org plc
  let t := mapTag mp.bits
  if mapSp mp.bits = 2 then
    if x.stage = 0 then remoteReads u c x t cons ps s
    else if x.todo = [readEnd] then
      match remoteElems x t ps with
      | .error e => failCmd u x e s
      | .ok els => f els s
    else s
  else match loadElems s (agentOf c) (mapSp mp.bits) t cons ps with
    | .error e => failCmd u x e s
    | .ok (gs, els) => f els (stepFor (if cons then .consume else .plain) u x (distinctLines gs) s)

/-- `tld` executes (R269). -/
def doTld (u : Nat) (c : Ctx) (x : Cmd) (t : Ix8) (mp : MapReg) (org plc : Word) (cons : Bool) (s : State) : State :=
  mapRead u c x mp org plc cons (fun els s =>
    match mapWin (tileOf c t).cfg mp plc with
    | none => failCmd u x (fault 0x11 2 0) s
    | some w => cmdWrite u x t (placeElems w (mapTag mp.bits) els) (mapTag mp.bits) (mapTotal mp.bits) s) s

/-- The bytes of an element of a tile as memory holds them (R67, R270). -/
def tileElem (x : Tile) (t : Tag) (row byte : Nat) : List Byte :=
  let data := fun n => (List.range n).map fun i => tileData x (row * cfgRB x.cfg + byte + i)
  if t = .e2m1x then data 16 ++ [tileSide x (64 * row + byte / 16), tileSide x (64 * row + 32 + byte / 16)]
  else data (elemSize t).1

/-- The elements a `tst` writes: address and bytes, padded positions apart. -/
def storeElems (x : Tile) (w : TileWin) (t : Tag) (ps : List (Nat × Bool × Word)) : List (Word × List Byte) :=
  let u := (elemSize t).1
  (ps.filter fun p => !p.2.1).map fun p => (p.2.2, tileElem x t (w.frow + p.1 * u / w.w) (w.fbyte + p.1 * u % w.w))

/-- The pieces of each element of a `tst`, all checks made (R246, R270). -/
def storeSegs (s : State) (ag : Agent) (sp : Nat) (k : LineAcc) (align : Nat) : List (Word × List Byte) → Except FaultInfo (List (List Seg × List Byte))
  | [] => .ok []
  | (A, bs) :: es =>
    match engSegs s ag sp k A bs.length align with
    | .error f => .error f
    | .ok gs => match storeSegs s ag sp k align es with
      | .error f => .error f
      | .ok r => .ok ((gs, bs) :: r)

/-- An uncorrectable line that a write meets is reported (R146). -/
def reportBad (die : Nat) (gs : List Seg) (s : State) : State :=
  match badLine s gs with
  | some x => errRecord die 0x04 0x16 [x] s
  | none => s

/-- The writes of a command as one step (R246); `lines` makes their line checks. -/
def storeAll (lines : List Seg → State → State) (die : Nat) (es : List (List Seg × List Byte)) (s : State) : State :=
  let gs := es.flatMap (·.1)
  let s := lines (distinctLines gs) (reportBad die gs s)
  es.foldl (fun s (gs, bs) => writeSegs s gs bs) s

/-- The remote write of a `tst` (R251), with the count of its lines. -/
def remoteWrites (u : Nat) (c : Ctx) (x : Cmd) (t : Tag) (cnt : Nat) (es : List (Word × List Byte)) (s : State) : State :=
  match winRefs s (agentOf c) .write (elemAlign t) (es.map fun e => (e.1, e.2.length, e.2)) with
  | .error f => failCmd u x f s
  | .ok ws =>
    let s := modCmd u x.tag (fun y => { y with begun := true, stage := 2, todo := List.range (refPeers ws).length
                                               amount := (ws.map (·.2.1)).sum }) s
    sendParts u c x ws (fun l => .scatter l cnt) s

/-- Over-read or poison of a tile that a command reads (R258, R270, R271). -/
def tileReadCheck (x : Tile) : Option FaultInfo :=
  firstFault [failIf (x.cnt = 0) (fault 0x0D 0 0), failIf (cfgTag x.cfg = .poison) (fault 0x11 3 0)]

/-- `tst` executes (R270). -/
def doTst (u : Nat) (c : Ctx) (x : Cmd) (t : Ix8) (mp : MapReg) (org plc : Word) (n : Nat) (s : State) : State :=
  let tl := tileOf c t
  let g := mapTag mp.bits
  match tileReadCheck tl, mapWin tl.cfg mp plc with
  | some f, _ => failCmd u x f s
  | none, none => failCmd u x (fault 0x11 2 0) s
  | none, some w =>
    let es := storeElems tl w g (positions mp org plc)
    if mapSp mp.bits = 2 then remoteWrites u c x g n es s
    else
      let k := if n = 0 then LineAcc.store else .counted n
      match storeSegs s (agentOf c) (mapSp mp.bits) k (elemAlign g) es with
      | .error f => failCmd u x f s
      | .ok r => doneCmd u x ((es.map (·.2.length)).sum) (storeAll (stepFor k u x) c.die r s)

/-! ### Row moves (R271) -/

/-- The rows of a move fit tile and register. -/
def rowsCheck (cfg a : Word) (n : Nat) (g : Tag) : Option FaultInfo :=
  let rb := cfgRB cfg
  failIf (!(bits a 0 7 + n ≤ cfgRows cfg && (if g = .e2m1x then rb % 16 = 0 && n * rb ≤ 768 else n * rb ≤ 1024))) (fault 0x02 0 a)

/-- `tldv` (R271). -/
def execTldv (t : Ix8) (v : VReg) (a : SReg) (n : BitVec 7) (s : State) : Out :=
  let g := (rdV s v).tag
  .next (checked (firstFault [sourceCheck s v, rowsCheck (tileOf s.me t).icfg (rdS s a) (n.toNat + 1) g])
    (fun s => issueCmd (.tldv t (rdV s v) (bits (rdS s a) 0 7) (n.toNat + 1)) none (setIssuedTag t g s)) s)

/-- `tstv` (R271): the register is written through its pending bit. A tile whose configuration is its reset value is refused
(R27); one tagged POISON is met when the command executes. -/
def execTstv (t : Ix8) (v : VReg) (a : SReg) (n : BitVec 7) (s : State) : Out :=
  let cfg := (tileOf s.me t).icfg
  .next (checked (firstFault [failIf (cfgTag cfg = .none) (fault 0x05 0 (BitVec.ofNat 64 t.val)), rowsCheck cfg (rdS s a) (n.toNat + 1) (cfgTag cfg)]) (fun s =>
    let id := s.ids
    let arr := s.me.sq.arrive
    let s := setArrive arr (pendFrom (.engine (s.me.sq.cmdCount % 2 ^ 32)) (.v v 0 allMask (some (cfgTag cfg))) false false none none (setArrive none s))
    issueCmd (.tstv v t (bits (rdS s a) 0 7) (n.toNat + 1) id) none s) s)

/-- The tile with rows taken from a register (R271). -/
def putRows (v : VData) (row n : Nat) (x : Tile) : Tile :=
  let rb := cfgRB x.cfg
  let bs := vecBytes v.bits 1024
  (List.range n).foldl (fun x i =>
    let x := (List.range rb).foldl (fun x b => setData ((row + i) * rb + b) (bs.getD (i * rb + b) 0) x) x
    if v.tag = .e2m1x then
      (List.range (rb / 16)).foldl (fun x j =>
        setSide (64 * (row + i) + 32 + j) (bs.getD (816 + i * rb / 16 + j) 0)
          (setSide (64 * (row + i) + j) (bs.getD (768 + i * rb / 16 + j) 0) x)) x
    else x) x

/-- The register that rows of a tile give (R271); bytes not filled are zero. -/
def getRows (x : Tile) (row n : Nat) : BitVec 8192 :=
  let rb := cfgRB x.cfg
  let data := (List.range n).flatMap fun i => (List.range rb).map fun b => tileData x ((row + i) * rb + b)
  if cfgTag x.cfg = .e2m1x then
    let side := fun o => (List.range n).flatMap fun i => (List.range (rb / 16)).map fun j => tileSide x (64 * (row + i) + o + j)
    let fit := fun k (l : List Byte) => (l ++ List.replicate k 0).take k
    bytesVec (fit 768 data ++ fit 48 (side 0) ++ fit 48 (side 32))
  else bytesVec (data.take 1024)

/-- `tstv` executes: its register lands once the command is complete, so that a fault of its arrive add still tags the
register POISON (R258). -/
def doTstv (u : Nat) (c : Ctx) (x : Cmd) (t : Ix8) (row n pd : Nat) (s : State) : State :=
  let tl := tileOf c t
  match tileReadCheck tl with
  | some f => failCmd u x f s
  | none => doneCmd u x 0 (modSqOf u (fun q => { q with pends := q.pends.map fun p =>
      if p.id = pd then { p with upd := match p.upd with
        | .v r _ _ _ => .v r (getRows tl row n) allMask (some (cfgTag tl.cfg)) | w => w } else p }) s)

/-! ### Receive ports and multicast (R272 to R274) -/

/-- Whether a port binding is the caller's. -/
def myPort (s : State) (b : PortBind) : Bool := b.lnch = s.me.lnch && b.tid = s.me.tid

/-- The binding of a port. -/
def portOf (s : State) (die core p : Nat) : Option PortBind := (coreOf s die core).ports.find? (·.port = p)

/-- Changing the port bindings of a core. -/
def modPorts (die core : Nat) (f : List PortBind → List PortBind) (s : State) : State :=
  modCore die core (fun c => { c with ports := f c.ports }) s

/-- `trecv` (R272). -/
def execTrecv (t : Ix8) (k : KReg) (n : Ix8) (s : State) : Out :=
  .next (checked (firstFault [handleCheck s k,
      failIf (match portOf s s.me.die s.me.core n.val with | some b => !myPort s b | none => false) (fault 0x0C 0 (BitVec.ofNat 64 n.val))])
    (fun s => emit 1 .none 0 (modPorts s.me.die s.me.core (fun l => l.filter (·.port ≠ n.val) ++ [
      { port := n.val, cid := s.me.cid, lnch := s.me.lnch, tid := s.me.tid, tile := t, addr := counterOf s k }]) s)) s)

/-- `trecv.rel` (R272). -/
def execTrecvRel (n : Ix8) (s : State) : Out :=
  .next (checked (failIf (match portOf s s.me.die s.me.core n.val with | some b => !myPort s b | none => true)
      (fault 0x0C 0 (BitVec.ofNat 64 n.val)))
    (fun s => emit 1 .none 0 (modPorts s.me.die s.me.core (fun l => l.filter (·.port ≠ n.val)) s)) s)

/-- `tmc` (R273): the mask register is read at issue. -/
def execTmc (mp : Ix8) (a b : SReg) (m : MReg) (u : Ix8) (c : Bool) (k : Option KReg) (s : State) : Out :=
  let mr := s.me.regs.mp[mp]
  .next (checked (firstFault [kcCheck s k, mapCheck mr (rdS s b)])
    (fun s => issueCmd (.tmc mr (rdS s a) (rdS s b) ((rdM s m).setWidth 64) u.val c (kcAddr s k)) (kcAddr s k) s) s)

/-- The cores of a mask in ascending order. -/
def coresOf (m : BitVec 64) : List Nat := (List.range 64).filter fun i => m.getLsbD i

/-- `tmc` has read its elements: they wait for the reservations. -/
def doTmc (u : Nat) (c : Ctx) (x : Cmd) (mp : MapReg) (org plc : Word) (mask : BitVec 64) (cons : Bool) (s : State) : State :=
  mapRead u c x mp org plc cons (fun els s =>
    modCmd u x.tag (fun y => { y with begun := true, stage := 2, todo := coresOf mask, reserved := [], amount := 0
                                      elems := els.zipIdx.map fun (bs, k) => (k, 0, bs) }) s) s

/-- Whether a command in a receiver's list is the arrival of a command of `src`. -/
def isArrival (src tag : Nat) (x : Cmd) : Bool :=
  match x.op with
  | .arrival _ s t => s = src && t = tag
  | _ => false

/-- One branch buffer of a core is given back. -/
def freeBranch (die core : Nat) (s : State) : State := modCore die core (fun c => { c with branch := c.branch - 1 }) s

/-- The thread that holds a port. -/
def PortBind.uid (b : PortBind) : Nat := 2 ^ 24 * b.lnch + b.tid

/-- An arrival has left a receiver's tile order: queries behind it may take their result. -/
def leaveOrder (u tag rcv : Nat) (s : State) : State :=
  settleQueries rcv (modSqOf rcv (fun q => { q with cmds := q.cmds.filter fun y => !isArrival u tag y }) s)

/-- A multicast gives up: every buffer it holds is released and no arrival is left (R273). -/
def dropReserved (u : Nat) (c : Ctx) (x : Cmd) (s : State) : State :=
  x.landings.foldl (fun s l => leaveOrder u x.tag l.uid (freeBranch c.die l.core s)) s

/-- The check of one destination (R273). -/
def destCheck (s : State) (die core port : Nat) (mp : MapReg) (plc : Word) : Except FaultInfo PortBind :=
  match portOf s die core port with
  | none => .error (fault 0x11 5 (BitVec.ofNat 64 core))
  | some b =>
    if lineAt s b.addr ≠ .counter then .error (fault 0x11 5 (BitVec.ofNat 64 b.addr))
    else match findCtx b.uid s with
      | none => .error (fault 0x11 5 (BitVec.ofNat 64 core))
      | some r => if (mapWin (tileOf r b.tile).icfg mp plc).isNone then .error (fault 0x11 2 0) else .ok b

/-- MULTICAST_RESERVATION (R273): the next destination in ascending order, if a buffer is free there. -/
def execMulticastReservation (u tag : Nat) (s : State) : Out :=
  .next (match findCtx u s, findCmd u tag s with
    | some c, some x =>
      match x.op, x.todo.find? fun k => !x.reserved.contains k with
      | .tmc mp _ plc _ port _ _, some k =>
        if x.stage ≠ 2 || x.amount ≠ 0 || x.fault.isSome || (coreOf s c.die k).branch ≥ 4 then s
        else match destCheck s c.die k port mp plc with
          | .error f => failCmd u x f (modCmd u tag (fun y => { y with reserved := [], landings := [] }) (dropReserved u c x s))
          | .ok b =>
            let s := modCore c.die k (fun r => { r with branch := r.branch + 1 }) s
            let s := modSqOf b.uid (fun q => { q with cmds := q.cmds ++ [
              newCmd tag (.arrival b.tile u tag) none q.group none s.ids] }) s
            modCmd u tag (fun y => { y with reserved := y.reserved ++ [k], landings := y.landings ++ [⟨k, b.uid, b.tile, b.addr⟩] }) s
      | _, _ => s
    | _, _ => s)

/-- What a slot still holds of a receiver that has ended. -/
def modLeft (u : Nat) (f : Ctx → Ctx) (s : State) : State := { s with left := s.left.map fun c => if c.uid = u then f c else c }

/-- The tile write and the counter add of one arrival (R273): the fault, if any, and whether it was made. They go to the
binding that was reserved (R274), whatever became of the port; of a receiver that has ended only the slot's tile, if it
still holds it, is left to write (DESIGN CHOICE; assumption log 65). DESIGN CHOICE (assumption log 85): a tile that no longer
fits the map is tagged POISON, and the command takes 0x11, sub-code 2. -/
def arrivalWrite (x : Cmd) (b : Landing) (world : Bool) (lnch : Nat) (mp : MapReg) (plc : Word) (s : State) : State × Option FaultInfo × Bool :=
  match findCtx b.uid s with
  | none =>
    let put := fun c => modTile b.tile (fun t => match mapWin t.cfg mp plc with
      | none => t
      | some w => (tileWrite (placeElems w (mapTag mp.bits) (x.elems.map fun e => e.2.2)) (mapTag mp.bits) t).getD t) c
    cmdAdd world lnch x b.addr (mapTotal mp.bits) (modLeft b.uid put s)
  | some r =>
    let tl := tileOf r b.tile
    match mapWin tl.cfg mp plc with
    | none => (poisonTileOf b.uid b.tile s, some (fault 0x11 2 0), false)
    | some w =>
      match tileWrite (placeElems w (mapTag mp.bits) (x.elems.map fun e => e.2.2)) (mapTag mp.bits) tl with
      | none => (s, some (fault 0x0E 0 0), false)
      | some y =>
        let s := modCtx b.uid (fun c => tagIssued b.tile (mapTag mp.bits) (modTile b.tile (fun _ => y) c)) s
        let (s, f, ok) := cmdAdd world lnch x b.addr (mapTotal mp.bits) s
        (if ok then s else poisonTileOf b.uid b.tile s, f, ok)

/-- MULTICAST_ARRIVAL (R273, R274): the next arrival in ascending core order, at its place in the tile order. After one that faults the
command makes no other arrival, and releases what it has reserved (R258; DEDUCED, assumption log 85). -/
def execMulticastArrival (u tag : Nat) (s : State) : Out :=
  .next (match findCtx u s, findCmd u tag s with
    | some c, some x =>
      match x.op, x.todo with
      | .tmc mp _ plc _ _ _ _, k :: ks =>
        if x.stage ≠ 2 || !(x.todo.all fun k => x.reserved.contains k) then s
        else match x.landings.find? (·.core = k) with
          | none => s
          | some b =>
            if (findCtx b.uid s).any fun r => !mayBegin r (isArrival u tag) then s
            else
              let (s, f, ok) := arrivalWrite x b c.world c.lnch mp plc s
              let s := leaveOrder u tag b.uid (freeBranch c.die k s)
              let next := modCmd u tag fun y => { y with
                todo := ks, reserved := y.reserved.erase k, landings := y.landings.filter (·.core ≠ k), amount := y.amount + mapTotal mp.bits }
              match f, ok with
              | none, _ => next s
              | some f, true => next (recordFault u f s)
              | some f, false => failCmd u x f (modCmd u tag (fun y => { y with reserved := [], landings := [] })
                  (dropReserved u c { x with landings := x.landings.filter (·.core ≠ k) } s))
      | _, _ => s
    | _, _ => s)

/-! ### The separator (R275 to R278) -/

/-- CRC-32C of bytes (R276): one bit at a time, reflected. -/
def crcBit (c : Nat) : Nat := if c % 2 = 1 then (c / 2) ^^^ 0x82F63B78 else c / 2

/-- CRC-32C. -/
def crc32c (bs : List Byte) : Nat :=
  (bs.foldl (fun c b => let c := c ^^^ b.toNat
    crcBit (crcBit (crcBit (crcBit (crcBit (crcBit (crcBit (crcBit c)))))))) 0xFFFFFFFF) ^^^ 0xFFFFFFFF

/-- A code table is valid (R275): the sum of 2^-len over its symbols, taken over 2^15, is at most 1. -/
def tableOk (t : List Nat) : Bool :=
  t.all (· ≤ 15) && t.any (· ≠ 0) && decide (((t.filter (· ≠ 0)).map fun l => 2 ^ (15 - l)).sum ≤ 2 ^ 15)

/-- Symbols of a length in ascending order. -/
def symsOf (t : List Nat) (l : Nat) : List Nat := (List.range 256).filter fun s => t.getD s 0 = l

/-- The first code of each length (R275). -/
def firstCode (t : List Nat) : Nat → Nat
  | 0 => 0
  | 1 => 0
  | l + 1 => 2 * (firstCode t l + (symsOf t l).length)

/-- The symbol of a code of a length. -/
def symbolOf (t : List Nat) (l code : Nat) : Option Nat :=
  if code < firstCode t l then none else (symsOf t l)[code - firstCode t l]?

/-- One symbol from payload bits (R277): at most 15 are read. -/
def oneSymbol (t : List Nat) : Nat → Nat → Nat → List Bool → Option (Nat × List Bool)
  | 0, _, _, _ => none
  | _, _, _, [] => none
  | fuel + 1, l, code, b :: bs =>
    let code := 2 * code + b.toNat
    match symbolOf t (l + 1) code with
    | some s => some (s, bs)
    | none => oneSymbol t fuel (l + 1) code bs

/-- `Decode` (R277). -/
def sepDecode (t : List Nat) : Nat → List Bool → Option (List Byte)
  | 0, _ => some []
  | n + 1, bs =>
    match oneSymbol t 15 0 0 bs with
    | none => none
    | some (s, r) => (sepDecode t n r).map fun l => BitVec.ofNat 8 s :: l

/-- Payload bits from bit 0 of each byte upwards. -/
def bitsOf (bs : List Byte) : List Bool := bs.flatMap fun b => (List.range 8).map fun i => b.getLsbD i

/-- A block header (R276). -/
structure SepHdr where
  table : Nat
  raw   : Nat
  cod   : Nat
  crc   : Nat
  last  : Bool
  stored : Bool
deriving DecidableEq, Repr

/-- A header of 32 bytes, if MAGIC, TAG, lengths and reserved bits are right. -/
def sepHdr (t : Tag) (bs : List Byte) : Option SepHdr :=
  let f := fun i n => leNat ((bs.drop i).take n)
  if f 0 2 = 0x5EB4 && f 3 1 = t.code && 1 ≤ f 4 4 && f 4 4 ≤ 73728 && 1 ≤ f 8 4 && f 8 4 ≤ 2 ^ 20 && f 16 1 < 4 &&
      (bs.drop 17).all (· = 0)
  then some { table := f 2 1, raw := f 4 4, cod := f 8 4, crc := f 12 4, last := f 16 1 % 2 = 1, stored := f 16 1 / 2 % 2 = 1 }
  else none

/-- A read of the separator: pieces and bytes, or the engine's fault. Where it fails translation, XADDR is the first byte that fails
(DEDUCED, assumption log 80). -/
def sepRead (s : State) (ag : Agent) (A : Word) (n : Nat) : Except FaultInfo (List Seg × List Byte) :=
  match vaSegs s ag.site ag.world .read A n with
  | .error f => .error f
  | .ok gs => match badLine s gs with
    | some x => .error (fault 0x16 0 (BitVec.ofNat 64 (x.toNat / 64 * 64)))
    | none => .ok (gs, readSegs s gs)

/-- The checks of a block before its payload is read (R277): its table, which is none when the header's number names none of the four,
and the length of a STORED payload, whose header is then the bad one (R258). The table to decode with. -/
def sepTable (tabs : Vector (Option (List Nat)) 4) (h : SepHdr) (p : Word) : Except FaultInfo (List Nat) :=
  match vget none tabs h.table with
  | none => .error (fault 0x11 6 (BitVec.ofNat 64 h.table))
  | some t => if h.stored && h.cod ≠ h.raw then .error (fault 0x11 2 p) else .ok t

/-- Bytes of one coded block from its payload, before the checksum (R277). A failure to decode has XADDR 0 (R258). -/
def sepBlock (t : List Nat) (h : SepHdr) (pay : List Byte) : Except FaultInfo (List Byte) :=
  if h.stored then .ok pay
  else match sepDecode t h.raw (bitsOf pay) with
    | some b => .ok b
    | none => .error (fault 0x11 2 0)

/-- Whether a block of E2M1X that `out` completes beyond its first `old` bytes is malformed (R277). -/
def newBadSpecial (old : Nat) (out : List Byte) : Bool :=
  (List.range (out.length / 18 + 1)).any fun b =>
    decide (old ≤ 18 * b + 17) && decide (18 * b + 17 < out.length) && !specialOk (out.getD (18 * b + 17) 0).toNat

/-- The blocks of a stream (R277), with the pieces read; each block holds at least one byte, so `need` bounds their number. -/
def sepStream (s : State) (ag : Agent) (tabs : Vector (Option (List Nat)) 4) (t : Tag) (need : Nat) :
    Nat → Word → List Byte → Except FaultInfo (List Seg × List Byte)
  | 0, _, out => .ok ([], out)
  | fuel + 1, p, out =>
    if out.length ≥ need then .ok ([], out)
    else match sepRead s ag p 32 with
      | .error f => .error f
      | .ok (g1, hb) =>
        match sepHdr t hb with
        | none => .error (fault 0x11 2 p)
        | some h =>
          match sepTable tabs h p with
          | .error f => .error f
          | .ok tab =>
          match sepRead s ag (p + 32) h.cod with
          | .error f => .error f
          | .ok (g2, pay) =>
            match sepBlock tab h pay with
            | .error f => .error f
            | .ok b =>
              let all := out ++ b
              if crc32c b ≠ h.crc then
                .error { fault 0x11 1 p with detail := [0, BitVec.ofNat 64 (crc32c b), BitVec.ofNat 64 h.crc] }
              else if all.length > need || (h.last && decide (all.length < need)) || (!h.last && all.length = need) then
                .error (fault 0x11 2 0)
              else if t = .e2m1x && newBadSpecial out.length all then .error (fault 0x11 2 p)
              else match sepStream s ag tabs t need fuel (p + BitVec.ofNat 64 ((32 + h.cod + 63) / 64 * 64)) all with
                | .error f => .error f
                | .ok (gs, r) => .ok (g1 ++ g2 ++ gs, r)

/-- `dtab` (R275). -/
def execDtab (n : Fin 4) (a : SReg) (s : State) : Out := .next (issueCmd (.dtab n.val (rdS s a)) none s)

/-- The table that a `dtab` has read is set, with its arrive add; one that is not valid makes the table invalid (R258, R275). -/
def setTable (u : Nat) (c : Ctx) (x : Cmd) (n : Nat) (bs : List Byte) (s : State) : State :=
  let put := fun t => modCtx u (fun c => { c with regs := { c.regs with sep := vmod c.regs.sep n fun _ => t } })
  let t := bs.map (·.toNat)
  if tableOk t then withArrive u c x (put (some t)) s
  else failCmd u x (fault 0x11 6 (BitVec.ofNat 64 n)) (put none s)

/-- `dtab` executes: it reads its table, and then sets it (R243). A misaligned address reads nothing (R258). -/
def doDtab (u : Nat) (c : Ctx) (x : Cmd) (n : Nat) (A : Word) (s : State) : State :=
  match x.elems with
  | (_, _, bs) :: _ => setTable u c x n bs s
  | [] =>
    if A.toNat % 64 ≠ 0 then failCmd u x (fault 0x0B 0 A) s
    else match sepRead s (agentOf c) A 256 with
      | .error f => failCmd u x f s
      | .ok (gs, bs) =>
        modCmd u x.tag (fun y => { y with begun := true, stage := 1, todo := [0], elems := [(0, 0, bs)] }) (stepFor .plain u x gs s)

/-- The window of a `tldz` (R267). -/
def tldzWin (cfg : Word) (plc : Word) (g : Tag) : Option TileWin :=
  tileWin cfg (placement plc) (elemSize g).1 0 (some (bits plc 0 8))

/-- `tldz` (R277). -/
def execTldz (t : Ix8) (a b : SReg) (g : Tag) (k : Option KReg) (s : State) : Out :=
  let plc := rdS s b
  .next (checked (firstFault [kcCheck s k, failIf (bits plc 0 8 = 0 || (tldzWin (tileOf s.me t).icfg plc g).isNone) (fault 0x02 0 plc)])
    (fun s => issueCmd (.tldz t g (rdS s a) plc (kcAddr s k)) (kcAddr s k) (setIssuedTag t g s)) s)

/-- `tldz` executes (R277): the separator stalls as long as it likes (R278). -/
def doTldz (u : Nat) (c : Ctx) (x : Cmd) (t : Ix8) (g : Tag) (A plc : Word) (s : State) : State :=
  let s := { modCore c.die c.core (fun r => { r with sep := r.sep + BitVec.ofNat 64 (Config.sepStalls s.fresh) }) s with fresh := s.fresh + 1 }
  if A.toNat % 64 ≠ 0 then failCmd u x (fault 0x0B 0 A) s
  else match tldzWin (tileOf c t).cfg plc g with
    | none => failCmd u x (fault 0x11 2 0) s
    | some w =>
      let (us, um) := elemSize g
      let n := bits plc 0 8 * w.w / us
      match sepStream s (agentOf c) c.regs.sep g (n * um) (n * um + 1) A [] with
      | .error f => failCmd u x f s
      | .ok (gs, bs) =>
        let els := (List.range n).map fun k => (bs.drop (k * um)).take um
        cmdWrite u x t (placeElems w g els) g (bits plc 0 8 * w.w) (stepFor .plain u x (distinctLines gs) s)

/-! ### Other small commands as they execute (R261) -/

/-- `tcfg`, `tzero` and `tcons` execute. A `tcfg` or `tcons` that faults changes nothing (R258). -/
def doSmall (u : Nat) (c : Ctx) (x : Cmd) (s : State) : State :=
  match x.op with
  | .tcfg t v => withArrive u c x (modTileOf u t (configure v)) s
  | .tzero t =>
    let tl := tileOf c t
    if 1 ≤ tl.cnt && tl.cnt ≤ 254 then failCmd u x (fault 0x0E 0 0) s
    else doneCmd u x 0 (modTileOf u t (fun y => { zeroTile y with cnt := 255, ver := y.ver + 1 }) s)
  | .tcons t n =>
    let tl := tileOf c t
    if tl.cnt = 0 then failCmd u x (fault 0x0D 0 0) s
    else if tl.cnt ≠ 255 then failCmd u x (fault 0x0E 0 0) s
    else withArrive u c x (modTileOf u t (fun y => { y with cnt := n })) s
  | _ => s

end Sys2Proof.Machine
end

