-- ==== Sys2Proof/Machine/Churn.lean ====
section
/-! DEFINITION. The churn (R279 to R300): operands at the array edge, `mma`, stored corrections, the drain chain. -/

namespace Sys2Proof.Machine

/-- Changing the churn state of a thread. -/
def modChurn (u : Nat) (f : Churn → Churn) (s : State) : State :=
  modCtx u (fun c => { c with regs := { c.regs with churn := f c.regs.churn } }) s

/-- Index of an accumulator set or of its corrections. -/
def setNo (n : Bool) : Nat := n.toNat

/-- An accumulator set. -/
def accOf (h : Churn) (n : Bool) : AccSet := vget { elems := [], atag := .none, itag := .none } h.acc (setNo n)

/-- Changing an accumulator set. -/
def modAcc (n : Bool) (f : AccSet → AccSet) (h : Churn) : Churn := { h with acc := vmod h.acc (setNo n) f }

/-- A fault tags an accumulator set POISON (R279, R290). -/
def poisonAcc (n : Bool) (h : Churn) : Churn := modAcc n (fun a => { a with atag := .poison, itag := .poison }) h

/-! ### Corrections (R280, R291) -/

/-- V of a descriptor. -/
def Corr.v (c : Corr) : Bool := bit c.desc 14
/-- ROWS. -/
def Corr.rows (c : Corr) : Nat := bits c.desc 0 8
/-- Entry `e`: those from ROWS on read as zero. -/
def Corr.entry (c : Corr) (e : Nat) : BitVec 48 := if e < c.rows then getAt 0 c.entries e else 0

/-- A descriptor word. -/
def corrDesc (ver : BitVec 32) (rb : Nat) (t : Tag) (tile rows : Nat) : Word :=
  BitVec.ofNat 64 (ver.toNat * 2 ^ 32 + rb % 1024 * 2 ^ 22 + t.code * 2 ^ 18 + tile % 8 * 2 ^ 15 + 2 ^ 14 + rows % 256)

/-- `qa` or `qb` of a set. -/
def corrOf (h : Churn) (n qb : Bool) : Corr := vget Corr.reset (if qb then h.qb else h.qa) (setNo n)

/-- Setting it. -/
def setCorr (n qb : Bool) (c : Corr) (h : Churn) : Churn :=
  if qb then { h with qb := vmod h.qb (setNo n) fun _ => c } else { h with qa := vmod h.qa (setNo n) fun _ => c }

/-- A register that becomes unformed. -/
def Corr.unform (c : Corr) : Corr := { c with desc := c.desc &&& ~~~(BitVec.ofNat 64 (2 ^ 14)) }

/-! ### Operands at the array edge (R286, R287) -/

/-- The operand tags of `mma`. -/
def mmaTag : Tag → Bool
  | .i8 | .e4m3 | .bf16 | .e2m1x => true
  | _ => false

/-- The number of K blocks of a row of RB bytes (R286). -/
def kBlocks (t : Tag) (rb : Nat) : Nat :=
  match t with
  | .i8 => 1
  | .bf16 => (rb / 2 + 15) / 16
  | _ => (rb + 15) / 16

/-- One K block of a row: the integers, the block exponent, and whether it is NaN (R287). -/
structure EdgeBlock where
  ints : List Int
  e    : Int
  nan  : Bool
deriving DecidableEq, Repr

/-- The element patterns of block `b` of row `r` (R67, R286). -/
def edgeBytes (x : Tile) (t : Tag) (r b : Nat) : List Nat :=
  let rb := cfgRB x.cfg
  let at_ := fun i => (tileData x (r * rb + i)).toNat
  match t with
  | .i8 => (List.range rb).map at_
  | .bf16 => ((List.range (rb / 2)).drop (16 * b)).take 16 |>.map fun k => at_ (2 * k) + 256 * at_ (2 * k + 1)
  | .e2m1x => (((List.range rb).drop (16 * b)).take 16).flatMap fun i => [at_ i % 16, at_ i / 16]
  | _ => (((List.range rb).drop (16 * b)).take 16).map at_

/-- Alignment of a floating block to its largest exponent (R287): `keep` is 6 for E4M3, 14 for BF16. -/
def edgeFloat (t : Tag) (keep : Int) (xs : List Nat) : EdgeBlock :=
  let vs := xs.map (decodeReal t)
  let lg := fun (v : Real) => match v with
    | .fin _ n e => if n = 0 then none else some (e + Nat.log2 n : Int)
    | _ => none
  let emax := vs.foldl (fun m v => match lg v with | some k => max m k | none => m) (fmtOf t).emin
  let e := emax - keep
  { ints := vs.map fun v => match v with | .fin ng n x => roundInt .rne ng n (x - e) | _ => 0
    e, nan := vs.any fun v => match v with | .fin .. => false | _ => true }

/-- `Edge(row r, block b)` (R287). -/
def edgeBlock (x : Tile) (t : Tag) (r b : Nat) : EdgeBlock :=
  let xs := edgeBytes x t r b
  match t with
  | .i8 => { ints := xs.map fun v => signExt v 8, e := 0, nan := false }
  | .bf16 => edgeFloat .bf16 14 xs
  | .e2m1x =>
    let sc := (tileSide x (64 * r + b)).toNat
    let h := specialH (tileSide x (64 * r + 32 + b)).toNat
    { ints := xs.map (e2Twice h), e := (sc : Int) - 128, nan := sc = 0xFF }
  | _ => edgeFloat .e4m3 6 xs

/-- Sum of squares. -/
def sumSq (xs : List Int) : Int := (xs.map fun x => x * x).sum

/-- The block partial (R288): the difference in 48 bits, halved. -/
def blockPartial (a b : List Int) (qa qb : Int) : Int :=
  (BitVec.ofInt 48 ((List.zipWith (fun x y => (x + y) * (x + y)) a b).sum - qa - qb)).toInt / 2

/-- One accumulation (R288). -/
def accumulate (t : Tag) (wrap nan : Bool) (c : BitVec 48) (p e : Int) : BitVec 48 :=
  if t = .i8 then
    let y := signExt (c.toNat % 2 ^ 32) 32 + p
    BitVec.ofNat 48 (ofInt 32 (if wrap then wrapS 32 y else (satS 32 y).1))
  else if nan then BitVec.ofNat 48 (canonNaN fmtFP32)
  else
    let (y, _) := Real.add .rne (decodeFmt fmtFP32 (c.toNat % 2 ^ 32)) (.fin (decide (p < 0)) p.natAbs e)
    BitVec.ofNat 48 (y.round fmtFP32 .rne).1

/-! ### `mma` -/

/-- Tag of the accumulators under operands of a tag. -/
def accTag (t : Tag) : Tag := if t = .i8 then .i32 else .fp32

/-- The check of an accumulator's issued tag (R285, R295). -/
def itagCheck (n : Bool) (it : Tag) (want : Option Tag) : Option FaultInfo :=
  let a := BitVec.ofNat 64 (setNo n)
  match it with
  | .none => some (fault 0x05 0 a)
  | .poison => some (fault 0x11 3 a)
  | t => failIf (match want with | some w => t ≠ w | none => false) (fault 0x04 0 a)

/-- Rows and columns fit from their origin (R285, R295). -/
def originFits (org : Word) (m n : Nat) : Bool := bits org 0 7 + m ≤ 128 && bits org 8 7 + n ≤ 128

/-- The tag of an operand tile at issue (R285): the fault of a POISON tile has XADDR 0 (R258, R313). -/
def opTileCheck (t : Nat) (c : Word) : Option FaultInfo := (tileTagCheck t c).map fun f => if f.cause = 0x11 then { f with addr := 0 } else f

/-- The checks of `mma` at issue, in order (R285). -/
def mmaCheck (s : State) (n : Bool) (t u : Ix8) (org : Word) (z ua ub : Bool) : Option FaultInfo :=
  let a := (tileOf s.me t).icfg
  let b := (tileOf s.me u).icfg
  let g := cfgTag a
  firstFault [
    opTileCheck t a, opTileCheck u b,
    failIf (!mmaTag g) (fault 0x04 0 (BitVec.ofNat 64 t.val)),
    failIf (cfgTag b ≠ g) (fault 0x04 0 (BitVec.ofNat 64 u.val)),
    failIf (cfgRB a ≠ cfgRB b || (g = .bf16 && cfgRB a % 2 = 1)) (fault 0x02 0 org),
    failIf (!originFits org (cfgRows a) (cfgRows b)) (fault 0x02 0 org),
    (if z then none else itagCheck n (accOf s.me.regs.churn n).itag (some (accTag g))),
    failIf ((ua || ub) && decide (kBlocks g (cfgRB a) > 1)) (fault 0x02 0 org)]

/-- The issued accumulator tag is set (R279). -/
def setItag (n : Bool) (t : Tag) (s : State) : State :=
  modRegs (fun r => { r with churn := modAcc n (fun a => { a with itag := t }) r.churn }) s

/-- `mma` (R283, R285): the command keeps the issued tag of `ta`. -/
def execMma (n : Bool) (t u : Ix8) (a : SReg) (z w ca cb ua ub : Bool) (s : State) : Out :=
  let org := rdS s a
  .next (checked (mmaCheck s n t u org z ua ub) (fun s =>
    issueCmd (.mma n t u org z w ca cb ua ub (cfgTag (tileOf s.me t).icfg)) none
      (if z then setItag n (accTag (cfgTag (tileOf s.me t).icfg)) s else s)) s)

/-- Whether stored corrections may be reused (R291). -/
def reuseOk (c : Corr) (g : Tag) (tile : Nat) (x : Tile) : Bool :=
  c.desc = corrDesc x.ver (cfgRB x.cfg) g tile (cfgRows x.cfg)

/-- The checks of `mma` at its read (R290). XADDR is 0 for a POISON set and for a stale correction, as R258 has it for a POISON tile
(DESIGN CHOICE, assumption log 80). -/
def mmaReadCheck (c : Ctx) (n : Bool) (t u : Ix8) (z ua ub : Bool) (g : Tag) : Option FaultInfo :=
  let a := tileOf c t
  let b := tileOf c u
  let h := c.regs.churn
  firstFault [
    failIf (cfgTag a.cfg = .poison || cfgTag b.cfg = .poison) (fault 0x11 3 0),
    failIf (a.cnt = 0 || b.cnt = 0) (fault 0x0D 0 0),
    failIf (!z && (accOf h n).atag = .poison) (fault 0x11 3 0),
    failIf (ua && !reuseOk (corrOf h n false) g t a || ub && !reuseOk (corrOf h n true) g u b) (fault 0x11 4 0)]

/-- The rectangle of a set that `mma` starts from under Z (R288). -/
def mmaClear (t : Tag) (r0 c0 m n : Nat) (a : AccSet) : AccSet :=
  if a.atag ≠ accTag t then { a with elems := [], atag := accTag t }
  else { a with elems := a.elems.filter fun e =>
    !(decide (r0 ≤ e.1 / 128) && decide (e.1 / 128 < r0 + m) && decide (c0 ≤ e.1 % 128) && decide (e.1 % 128 < c0 + n)) }

/-- One K block accumulated into the rectangle (R288). `qa` and `qb` give the corrections of a row. -/
def mmaBlock (t : Tag) (w : Bool) (r0 c0 : Nat) (as bs : List EdgeBlock) (qa qb : Nat → EdgeBlock → Int) (el : SMap (BitVec 48)) :
    SMap (BitVec 48) :=
  as.zipIdx.foldl (fun el (a, i) => bs.zipIdx.foldl (fun el (b, j) =>
    let k := 128 * (r0 + i) + c0 + j
    putAt 0 el k (accumulate t w (a.nan || b.nan) (getAt 0 el k) (blockPartial a.ints b.ints (qa i a) (qb j b)) (a.e + b.e))) el) el

/-- The correction of a row as formed, or as stored (R288, R291). -/
def corrUse (reuse : Bool) (c : Corr) (i : Nat) (b : EdgeBlock) : Int := if reuse then ((c.entry i).toNat : Int) else sumSq b.ints

/-- The correction register after an `mma` (R291): a NaN block's entry is not stated (assumption log 5). -/
def corrNext (fresh : Nat) (reuse : Bool) (nb : Nat) (g : Tag) (tile : Nat) (x : Tile) (bs : List EdgeBlock) (c : Corr) : Corr :=
  if reuse then c
  else if nb = 1 then
    { desc := corrDesc x.ver (cfgRB x.cfg) g tile (cfgRows x.cfg)
      entries := bs.zipIdx.foldl (fun m (b, i) =>
        setAt 0 m i (if b.nan then Config.nanCorrection (fresh + i) else BitVec.ofInt 48 (sumSq b.ints))) [] }
  else c.unform

/-- A consuming read of a tile (R231, R290). -/
def consumeTile (x : Tile) : Tile := if 1 ≤ x.cnt && x.cnt ≤ 254 then { x with cnt := x.cnt - 1 } else x

/-- `mma` executes (R288) under tag `g`, the issued tag of `ta` (R285). -/
def doMma (v : Nat) (c : Ctx) (x : Cmd) (n : Bool) (t u : Ix8) (org : Word) (z w ca cb ua ub : Bool) (g : Tag) (s : State) : State :=
  let a := tileOf c t
  let b := tileOf c u
  let h := c.regs.churn
  match mmaReadCheck c n t u z ua ub g with
  | some f => failCmd v x f (modChurn v (poisonAcc n) s)
  | none =>
    let r0 := bits org 0 7
    let c0 := bits org 8 7
    let nb := kBlocks g (cfgRB a.cfg)
    let rows := fun (y : Tile) k => (List.range (cfgRows y.cfg)).map fun i => edgeBlock y g i k
    let qa := corrOf h n false
    let qb := corrOf h n true
    let acc := if z then mmaClear g r0 c0 (cfgRows a.cfg) (cfgRows b.cfg) (accOf h n) else accOf h n
    let el := (List.range nb).foldl (fun el k => mmaBlock g w r0 c0 (rows a k) (rows b k) (corrUse ua qa) (corrUse ub qb) el) acc.elems
    let s := modChurn v (fun h => setCorr n true (corrNext (s.fresh + 128) ub nb g u b (rows b 0) qb)
      (setCorr n false (corrNext s.fresh ua nb g t a (rows a 0) qa) (modAcc n (fun y => { acc with elems := el, itag := y.itag }) h))) s
    let s := { s with fresh := s.fresh + 256 }
    let s := if ca then modTileOf v t consumeTile s else s
    let s := if cb && !(ca && t = u) then modTileOf v u consumeTile s else s
    doneCmd v x 0 s

/-! ### Other commands -/

/-- `mmz.i32` (R293). -/
def execMmzI32 (n : Bool) (s : State) : Out := .next (issueCmd (.mmz n false) none (setItag n .i32 s))
/-- `mmz.fp32` (R293). -/
def execMmzFp32 (n : Bool) (s : State) : Out := .next (issueCmd (.mmz n true) none (setItag n .fp32 s))

/-- A finite FP32 pattern. -/
def finite32 (x : Nat) : Bool := match decodeFmt fmtFP32 x with | .fin .. => true | _ => false

/-- `eset.rng` (R294). -/
def execEsetRng (a : SReg) (s : State) : Out :=
  let v := rdS s a
  let lo := bits v 0 32
  let hi := bits v 32 32
  .next (checked (failIf (!(finite32 lo && finite32 hi && decide (Real.cmp (decodeFmt fmtFP32 lo) (decodeFmt fmtFP32 hi) < 0))) (fault 0x02 0 v))
    (issueCmd (.eset false v) none) s)

/-- `eset.q` (R294). -/
def execEsetQ (a : SReg) (s : State) : Out :=
  let v := rdS s a
  .next (checked (failIf (!finite32 (bits v 0 32)) (fault 0x02 0 v)) (issueCmd (.eset true v) none) s)

/-- `etab` (R294). -/
def execEtab (a : SReg) (s : State) : Out := .next (issueCmd (.etab (rdS s a)) none s)

/-- `qld` (R292). -/
def execQld (n qb st : Bool) (a : SReg) (s : State) : Out := .next (issueCmd (.qld n qb st (rdS s a) none) none s)
/-- `qld.bind` (R292). -/
def execQldBind (n qb st : Bool) (a : SReg) (t : Ix8) (s : State) : Out := .next (issueCmd (.qld n qb st (rdS s a) (some t)) none s)
/-- `qst` (R292). -/
def execQst (n qb st : Bool) (a : SReg) (s : State) : Out := .next (issueCmd (.qst n qb st (rdS s a)) none s)

/-- A read of an engine of `n` bytes at an aligned address (R292, R294). -/
def engRead (s : State) (ag : Agent) (st : Bool) (A : Word) (n : Nat) : Except FaultInfo (List Seg × List Byte) :=
  match engSegs s ag st.toNat .plain A n 64 with
  | .error f => .error f
  | .ok gs => match badLine s gs with
    | some x => .error (fault 0x16 0 (BitVec.ofNat 64 (x.toNat / 64 * 64)))
    | none => .ok (gs, readSegs s gs)

/-- The memory image of a correction register (R292). -/
def corrImage (c : Corr) : List Byte :=
  leBytes 8 c.desc.toNat ++ List.replicate 56 0 ++ (List.range 128).flatMap fun e => leBytes 8 (c.entry e).toNat

/-- A correction register from its image, if it is well formed (R292). -/
def corrParse (bs : List Byte) : Option Corr :=
  let d := leWord (bs.take 8)
  let e := fun i => leNat ((bs.drop (64 + 8 * i)).take 8)
  let okTag := match Tag.ofCode (bits d 18 4) with | some t => mmaTag t | none => false
  if bits d 8 6 = 0 && ((bs.drop 8).take 56).all (· = 0) && (List.range 128).all (fun i => decide (e i < 2 ^ 48)) &&
      (!bit d 14 || (1 ≤ bits d 0 8 && bits d 0 8 ≤ 128 && okTag)) then
    some { desc := d, entries := (List.range 128).foldl (fun m i => setAt 0 m i (BitVec.ofNat 48 (e i))) [] }
  else none

/-- The descriptor bound to a tile's version (R292). -/
def corrBind (t : Nat) (ver : BitVec 32) (c : Corr) : Corr :=
  { c with desc := (c.desc &&& 0x00000000FFFC7FFF) ||| BitVec.ofNat 64 (ver.toNat * 2 ^ 32 + t % 8 * 2 ^ 15) }

/-- `qld` executes (R292). -/
def doQld (v : Nat) (c : Ctx) (x : Cmd) (n qb st : Bool) (A : Word) (bind : Option Ix8) (s : State) : State :=
  let bad := fun f => failCmd v x f (modChurn v (fun h => setCorr n qb (corrOf h n qb).unform h) s)
  match engRead s (agentOf c) st A 1088 with
  | .error f => bad f
  | .ok (gs, bs) =>
    match corrParse bs with
    | none => bad (fault 0x11 2 A)
    | some r =>
      let r := match bind with | some t => corrBind t (tileOf c t).ver r | none => r
      doneCmd v x 0 (modChurn v (setCorr n qb r) (stepFor .plain v x gs s))

/-- `qst` executes (R292). -/
def doQst (v : Nat) (c : Ctx) (x : Cmd) (n qb st : Bool) (A : Word) (s : State) : State :=
  match engSegs s (agentOf c) st.toNat .store A 1088 64 with
  | .error f => failCmd v x f s
  | .ok gs => doneCmd v x 0 (writeSegs (stepFor .store v x gs (reportBad c.die gs s)) gs (corrImage (corrOf c.regs.churn n qb)))

/-- `etab` executes (R294). -/
def doEtab (v : Nat) (c : Ctx) (x : Cmd) (A : Word) (s : State) : State :=
  match engRead s (agentOf c) false A 2048 with
  | .error f => failCmd v x f s
  | .ok (gs, bs) =>
    let w := fun i => BitVec.ofNat 32 (leNat ((bs.drop (4 * i)).take 4))
    doneCmd v x 0 (modChurn v (fun h => { h with etab := (List.range 256).map fun k => (w (2 * k), w (2 * k + 1)) })
      (stepFor .plain v x gs s))

/-- `mmz` and `eset` execute (R293, R294). -/
def doParam (v : Nat) (x : Cmd) (s : State) : State :=
  match x.op with
  | .mmz n fp => doneCmd v x 0 (modChurn v (modAcc n fun a => { a with elems := [], atag := if fp then .fp32 else .i32 }) s)
  | .eset q w => doneCmd v x 0 (modChurn v (fun h =>
      if q then { h with qs := BitVec.ofNat 32 (bits w 0 32), zp := BitVec.ofNat 32 (bits w 32 32) }
      else { h with lo := BitVec.ofNat 32 (bits w 0 32), hi := BitVec.ofNat 32 (bits w 32 32) }) s)
  | _ => s

/-! ### The drain chain (R295 to R299) -/

/-- The destination tags of `mmdr`. -/
def drainTag : Tag → Bool
  | .fp32 | .bf16 | .i32 | .i16 | .i8 | .e4m3 => true
  | _ => false

/-- The checks of `mmdr` at issue, in order (R295). -/
def mmdrCheck (s : State) (t : Ix8) (n : Bool) (org : Word) (bv : Option VReg) (x : Option Ix8) : Option FaultInfo :=
  let a := (tileOf s.me t).icfg
  let g := cfgTag a
  let u := (elemSize g).1
  let it := (accOf s.me.regs.churn n).itag
  firstFault [
    itagCheck n it none,
    failIf (a = 0) (fault 0x02 0 org),
    failIf (!drainTag g) (fault 0x04 0 (BitVec.ofNat 64 t.val)),
    failIf (cfgRB a % u ≠ 0 || !originFits org (cfgRows a) (cfgRB a / u)) (fault 0x02 0 org),
    (match bv with
      | none => none
      | some r => firstFault [sourceCheck s r, failIf ((rdV s r).tag ≠ it) (fault 0x04 0 (BitVec.ofNat 64 r.val))]),
    (match x with
      | none => none
      | some y =>
        let b := (tileOf s.me y).icfg
        firstFault [failIf (y = t || decide (cfgRB b < 4) || decide (cfgRows b < cfgRows a)) (fault 0x02 0 org),
          failIf (cfgTag b ≠ .i32) (fault 0x04 0 (BitVec.ofNat 64 y.val))])]

/-- `mmdr` (R283, R295): the bias register is read at issue; the command keeps the issued tag of `ta`. -/
def execMmdr (t : Ix8) (n : Bool) (a : SReg) (bv : Option VReg) (x : Option Ix8) (act q z : Bool) (s : State) : Out :=
  .next (checked (mmdrCheck s t n (rdS s a) bv x)
    (fun s => issueCmd (.mmdr t n (rdS s a) (bv.map (rdV s)) x act q z (cfgTag (tileOf s.me t).icfg)) none s) s)

/-- A value on its way through the drain: an integer, or an FP32 pattern. -/
inductive Drain where
  | int (y : Int) | flt (p : Nat)
deriving DecidableEq, Repr

/-- Its exact value. -/
def Drain.real : Drain → Real
  | .int y => Real.ofInt y
  | .flt p => decodeFmt fmtFP32 p

/-- Bias (R296). -/
def addBias (x : Drain) (lane : Nat) : Drain :=
  match x with
  | .int y => .int (satS 32 (y + signExt lane 32)).1
  | .flt p => .flt (fAdd fmtFP32 .rne (decodeFmt fmtFP32 p) (decodeFmt fmtFP32 lane)).1

/-- The segment of a clamped value (R297): exact. -/
def segmentOf (x lo hi : Real) : Nat :=
  let k := max x.frac (max lo.frac hi.frac)
  let d := hi.fixedAt k - lo.fixedAt k
  min ((x.fixedAt k - lo.fixedAt k) * 256 / d).toNat 255

/-- A value clamped to bounds (R297): the maximum and minimum of R75, for which -0 stands below +0. -/
def clampTo (lo hi x : Real) : Real :=
  let y := if x.below lo then lo else x
  if hi.below y then hi else y

/-- `Act` (R297) on an FP32 pattern. -/
def actOf (h : Churn) (p : Nat) : Nat :=
  let x := decodeFmt fmtFP32 p
  if x.isNaN then canonNaN fmtFP32
  else
    let lo := decodeFmt fmtFP32 h.lo.toNat
    let hi := decodeFmt fmtFP32 h.hi.toNat
    let xc := clampTo lo hi x
    let (sl, ic) := h.etab.getD (segmentOf xc lo hi) (0x3F800000, 0)
    (fFma fmtFP32 .rne (decodeFmt fmtFP32 sl.toNat) xc (decodeFmt fmtFP32 ic.toNat)).1

/-- Activation (R296): an integer is rounded to FP32 first. -/
def activate (h : Churn) (x : Drain) : Drain :=
  .flt (actOf h (match x with | .int y => ((Real.ofInt y).round fmtFP32 .rne).1 | .flt p => p))

/-- A real as an integer output (R298). -/
def outInt (w : Nat) (zp : Int) (x : Real) : Nat :=
  match x with
  | .nan _ => 0
  | .inf neg => ofInt w (if neg then -(2 ^ (w - 1) : Int) else (2 ^ (w - 1) : Int) - 1)
  | .fin neg n e => ofInt w (satS w (roundInt .rne neg n e + zp)).1

/-- `Out` (R298): the pattern under the destination tag. -/
def drainOut (h : Churn) (t : Tag) (q : Bool) (x : Drain) : Nat :=
  let w := laneW t
  let z := if q then (Real.mul x.real (decodeFmt fmtFP32 h.qs.toNat)).1 else x.real
  if isInt t then
    match q, x with
    | false, .int y => ofInt w (satS w y).1
    | _, _ => outInt w (if q then signExt h.zp.toNat 32 else 0) z
  else (z.round (fmtOf t) .rne).1

/-- Whether a value beats the pair held (R299). -/
def argBeats (x held : Drain) : Bool :=
  match x, held with
  | .int a, .int b => decide (b < a)
  | a, b =>
    if b.real.isNaN then !a.real.isNaN
    else if a.real.isNaN then false
    else Real.below b.real a.real

/-- One row of the drain: the values after bias and activation (R296). -/
def drainRow (h : Churn) (a : AccSet) (bv : Option VData) (act : Bool) (row c0 n : Nat) : List Drain :=
  (List.range n).map fun j =>
    let e := (getAt 0 a.elems (128 * row + c0 + j)).toNat % 2 ^ 32
    let x := if a.atag = .i32 then Drain.int (signExt e 32) else .flt e
    let x := match bv with | some v => addBias x (laneBits v.bits 32 (c0 + j)) | none => x
    if act then activate h x else x

/-- The index `ArgStep` leaves (R299). -/
def argRow (xs : List Drain) : Nat :=
  match xs with
  | [] => 0
  | x :: r => (r.zipIdx.foldl (fun (b : Drain × Nat) (y, j) => if argBeats y b.1 then (y, j + 1) else b) (x, 0)).2

/-- The tile after the drain's rows (R296) under the tag of the drain. -/
def putDrain (h : Churn) (q : Bool) (g : Tag) (rows : List (List Drain)) (x : Tile) : Tile :=
  let u := (elemSize g).1
  rows.zipIdx.foldl (fun x (r, i) => r.zipIdx.foldl (fun x (y, j) =>
    placeElem (cfgRB x.cfg) g i (j * u) (leBytes u (drainOut h g q y)) x) x) x

/-- The arg-max tile after the drain (R296). -/
def putArg (rows : List (List Drain)) (x : Tile) : Tile :=
  rows.zipIdx.foldl (fun x (r, i) => (leBytes 4 (argRow r)).zipIdx.foldl (fun x (b, k) => setData (i * cfgRB x.cfg + k) b x) x) x

/-- A drain's write of a tile: the data of an EMPTY tile are zeroed first (R67); the tag stays, the version advances. -/
def drainWrite (f : Tile → Tile) (x : Tile) : Tile :=
  let x := f (if x.cnt = 0 then { zeroData x with cnt := 255 } else x)
  { x with ver := x.ver + 1 }

/-- A COUNTED tile. -/
def tileCounted (x : Tile) : Bool := 1 ≤ x.cnt && x.cnt ≤ 254

/-- `mmdr` executes (R296): its element size is that of the issued tag of `ta` (R295). XADDR is 0 for a POISON set (DESIGN CHOICE,
assumption log 80). -/
def doMmdr (v : Nat) (c : Ctx) (x : Cmd) (t : Ix8) (n : Bool) (org : Word) (bv : Option VData) (y : Option Ix8) (act q z : Bool) (g : Tag) (s : State) : State :=
  let h := c.regs.churn
  let a := accOf h n
  let tl := tileOf c t
  if a.atag = .poison then failCmd v x (fault 0x11 3 0) s
  else if tileCounted tl || (match y with | some b => tileCounted (tileOf c b) | none => false) then failCmd v x (fault 0x0E 0 0) s
  else
    let r0 := bits org 0 7
    let c0 := bits org 8 7
    let m := cfgRows tl.cfg
    let w := cfgRB tl.cfg / (elemSize g).1
    let rows := (List.range m).map fun i => drainRow h a bv act (r0 + i) c0 w
    let s := modTileOf v t (drainWrite (putDrain h q g rows)) s
    let s := match y with | some b => modTileOf v b (drainWrite (putArg rows)) s | none => s
    doneCmd v x 0 (if z then modChurn v (modAcc n fun a => { mmaClear (if a.atag = .i32 then .i8 else .bf16) r0 c0 m w a with atag := a.atag }) s else s)

end Sys2Proof.Machine
end

