-- ==== Sys2Proof/Machine/Flags.lean ====
section
/-! DEFINITION. Flags of vector results (R76, R85): the union over the lanes computed, and the integer helpers that raise
SAT. -/

namespace Sys2Proof.Machine

/-- The union of flags (R76). -/
def orFlags (gs : List Flags) : Flags := gs.foldl (fun a g => a ||| g) 0

/-- A lane result: its pattern and what it raises. -/
abbrev LaneR := Nat × Flags

/-- The flags of a list of lane results. -/
def laneFlags (ys : List LaneR) : Flags := orFlags (ys.map fun y => y.2)

/-- A pattern that raises nothing. -/
def quiet (x : Nat) : LaneR := (x, 0)

/-- `Fit(y)` (R113): `Wrap` where W is 1, else `SatS`. -/
def fit (w : Nat) (wr : Bool) (y : Int) : LaneR :=
  if wr then (ofInt w y, 0) else (ofInt w (satS w y).1, (satS w y).2)

/-- A conversion of floating source `x` raises NV if it is a signalling NaN (R74, R81). -/
def withSig (x : Real) (y : LaneR) : LaneR := (y.1, y.2 ||| sigFlag [x])

end Sys2Proof.Machine
end

