-- ==== Sys2Proof/Machine/Operands.lean ====
section
/-! DEFINITION. Operand forms of the vector instructions (R107 to R111): the rounding field, the tag checks of the sources
in their order, lanes, and results under a write mask. -/

namespace Sys2Proof.Machine

/-- The mode a rounding field selects (R111); `VMODE.RM` is read at issue. -/
def rmOf (s : State) (rm : Rm) : Rm :=
  match rm with
  | .vmode => match s.me.ctl.vmode.toNat with | 0 => .rne | 1 => .rtz | 2 => .rdn | _ => .rup
  | rm => rm

/-- Cause 0x04 with sub-code 0 at a register (R109 item 3). -/
def tagFault (r : VReg) : FaultInfo := fault 0x04 0 (BitVec.ofNat 64 r.val)

/-- Checks of one source in the order of R109: NONE, POISON, a tag that is not accepted. -/
def srcCheck (s : State) (accept : Tag → Bool) (r : VReg) : Option FaultInfo :=
  (sourceCheck s r).orElse fun _ => failIf (!accept (rdV s r).tag) (tagFault r)

/-- Checks of sources that must all carry the operating tag, the tag of the first (R107, R109). -/
def srcsCheck (s : State) (accept : Tag → Bool) : List VReg → Option FaultInfo
  | [] => none
  | a :: rest => (srcCheck s accept a).orElse fun _ => rest.findSome? (srcCheck s fun t => t = (rdV s a).tag)

/-- Lane `i` of a register's data as a pattern under a tag. -/
def lane (t : Tag) (x : VData) (i : Nat) : Nat := laneBits x.bits (laneW t) i

/-- The result of a write under a mask (R108): lanes enabled take `f`, masked-off lanes are kept, or zero where Z is 1. -/
def maskedResult (t : Tag) (m : BitVec 1024) (z : Bool) (f : Nat → LaneR) : BitVec 8192 × BitVec 8192 × Flags :=
  let n := lanes t
  let w := laneW t
  let ys := (List.range n).map fun i => if m.getLsbD i then f i else quiet 0
  (packLanes w (ys.map fun y => y.1), if z then BitVec.allOnes 8192 else laneMask w n fun i => m.getLsbD i, laneFlags ys)

/-- A vector result under a write mask lands after `lat` groups with its flags. -/
def putMasked (lat : Nat) (d : VReg) (t : Tag) (m : BitVec 1024) (z : Bool) (f : Nat → LaneR) (s : State) : State :=
  let (data, mask, g) := maskedResult t m z f
  emit lat (.v d data mask (some t)) g s

/-- A vector result of all lanes. -/
def putAll (lat : Nat) (d : VReg) (t : Tag) (data : BitVec 8192) (g : Flags) (s : State) : State :=
  emit lat (.v d data (BitVec.allOnes 8192) (some t)) g s

/-- Lanes put together. -/
def ofLanes (t : Tag) (f : Nat → Nat) : BitVec 8192 := packLanes (laneW t) ((List.range (lanes t)).map f)

/-- A lane-wise instruction under a write mask (R107 to R109): `f` takes the operating tag, the mode and the lanes of the
sources, in the order va, vb, vd; a source the instruction does not have reads 0. -/
def lanewise (lat : Nat) (accept : Tag → Bool) (srcs : List VReg) (d : VReg) (m : MReg) (z : Bool) (rm : Rm)
    (f : Tag → Rm → Nat → Nat → Nat → LaneR) (s : State) : State :=
  checked (srcsCheck s accept srcs) (fun s =>
    let xs := srcs.map (rdV s)
    let t := (xs.headD { bits := 0, tag := .none }).tag
    let rm := rmOf s rm
    let at_ := fun k i => match xs[k]? with | some x => lane t x i | none => 0
    putMasked lat d t (rdM s m) z (fun i => f t rm (at_ 0 i) (at_ 1 i) (at_ 2 i)) s) s

end Sys2Proof.Machine
end

