-- ==== Sys2Proof/Machine/Vectors.lean ====
section
/-! DEFINITION. Vector arithmetic and logic, moves, selects, compares and conversion (R112 to R118). -/

namespace Sys2Proof.Machine

/-- Integer tags and RAW, for the bitwise instructions (R112). -/
def isBits (t : Tag) : Bool := t = .raw || isInt t

/-- An arithmetic lane (R113): the integer rule on signed values, or the floating rule on decoded ones. -/
def arith (wr : Bool) (fi : Int → Int → Int) (ff : Fmt → Rm → Real → Real → LaneR) (t : Tag) (rm : Rm) (a b : Nat) : LaneR :=
  if isInt t then fit (laneW t) wr (fi (signExt a (laneW t)) (signExt b (laneW t)))
  else ff (fmtOf t) rm (decodeReal t a) (decodeReal t b)

/-- An integer lane that needs no fitting. -/
def exactInt (t : Tag) (y : Int) : LaneR := quiet (ofInt (laneW t) y)

/-- `vadd` (R113). -/
def execVadd (d a b : VReg) (m : MReg) (z w : Bool) (rm : Rm) (s : State) : Out :=
  .next (lanewise 2 isComp [a, b] d m z rm (fun t rm x y _ => arith w (fun x y => x + y) fAdd t rm x y) s)

/-- `vsub` (R113). -/
def execVsub (d a b : VReg) (m : MReg) (z w : Bool) (rm : Rm) (s : State) : Out :=
  .next (lanewise 2 isComp [a, b] d m z rm (fun t rm x y _ =>
    arith w (fun x y => x - y) fSub t rm x y) s)

/-- `vmul` (R113). -/
def execVmul (d a b : VReg) (m : MReg) (z w : Bool) (rm : Rm) (s : State) : Out :=
  .next (lanewise 4 isComp [a, b] d m z rm (fun t rm x y _ => arith w (fun x y => x * y) fMul t rm x y) s)

/-- `vfma` (R113). -/
def execVfma (d a b : VReg) (m : MReg) (z : Bool) (rm : Rm) (s : State) : Out :=
  .next (lanewise 4 isFloat [a, b, d] d m z rm (fun t rm x y c =>
    fFma (fmtOf t) rm (decodeReal t x) (decodeReal t y) (decodeReal t c)) s)

/-- `vfms` (R113): the addend minus the exact product. -/
def execVfms (d a b : VReg) (m : MReg) (z : Bool) (rm : Rm) (s : State) : Out :=
  .next (lanewise 4 isFloat [a, b, d] d m z rm (fun t rm x y c =>
    fFms (fmtOf t) rm (decodeReal t x) (decodeReal t y) (decodeReal t c)) s)

/-- A floating pattern with its sign replaced by `sg` of its sign; a NaN gives the canonical NaN (R113). -/
def signLane (sg : Bool → Bool) (t : Tag) (x : Nat) : LaneR :=
  let f := fmtOf t
  let v := decodeReal t x
  if v.isNaN then (canonNaN f, sigFlag [v]) else quiet ((sg v.neg).toNat * f.signBit + x % f.signBit)

/-- `vneg` (R113). -/
def execVneg (d a : VReg) (m : MReg) (z w : Bool) (s : State) : Out :=
  .next (lanewise 2 isComp [a] d m z .rne (fun t _ x _ _ =>
    if isInt t then fit (laneW t) w (-(signExt x (laneW t))) else signLane (fun n => !n) t x) s)

/-- `vabs` (R113). -/
def execVabs (d a : VReg) (m : MReg) (z w : Bool) (s : State) : Out :=
  .next (lanewise 2 isComp [a] d m z .rne (fun t _ x _ _ =>
    if isInt t then fit (laneW t) w (signExt x (laneW t)).natAbs else signLane (fun _ => false) t x) s)

/-- Minimum or maximum of two lanes (R75, R113). -/
def maxMin (isMax : Bool) (t : Tag) (x y : Nat) : LaneR :=
  if isInt t then
    let a := signExt x (laneW t)
    let b := signExt y (laneW t)
    exactInt t (if isMax then max a b else min a b)
  else fMaxMin (fmtOf t) isMax x y

/-- `vmin` (R113). -/
def execVmin (d a b : VReg) (m : MReg) (z : Bool) (s : State) : Out :=
  .next (lanewise 2 isComp [a, b] d m z .rne (fun t _ x y _ => maxMin false t x y) s)

/-- `vmax` (R113). -/
def execVmax (d a b : VReg) (m : MReg) (z : Bool) (s : State) : Out :=
  .next (lanewise 2 isComp [a, b] d m z .rne (fun t _ x y _ => maxMin true t x y) s)

/-- `vand` (R113). -/
def execVand (d a b : VReg) (m : MReg) (z : Bool) (s : State) : Out :=
  .next (lanewise 2 isBits [a, b] d m z .rne (fun _ _ x y _ => quiet (x &&& y)) s)

/-- `vor` (R113). -/
def execVor (d a b : VReg) (m : MReg) (z : Bool) (s : State) : Out :=
  .next (lanewise 2 isBits [a, b] d m z .rne (fun _ _ x y _ => quiet (x ||| y)) s)

/-- `vxor` (R113). -/
def execVxor (d a b : VReg) (m : MReg) (z : Bool) (s : State) : Out :=
  .next (lanewise 2 isBits [a, b] d m z .rne (fun _ _ x y _ => quiet (x ^^^ y)) s)

/-- `vshl` (R113). -/
def execVshl (d a b : VReg) (m : MReg) (z : Bool) (s : State) : Out :=
  .next (lanewise 2 isInt [a, b] d m z .rne (fun t _ x y _ => quiet (x * 2 ^ (y % laneW t) % 2 ^ laneW t)) s)

/-- `vshr` (R113). -/
def execVshr (d a b : VReg) (m : MReg) (z : Bool) (s : State) : Out :=
  .next (lanewise 2 isInt [a, b] d m z .rne (fun t _ x y _ => quiet (x / 2 ^ (y % laneW t))) s)

/-- `vsra` (R113). -/
def execVsra (d a b : VReg) (m : MReg) (z : Bool) (s : State) : Out :=
  .next (lanewise 2 isInt [a, b] d m z .rne (fun t _ x y _ =>
    exactInt t (signExt x (laneW t) / (2 ^ (y % laneW t) : Nat))) s)

/-- `vclamp` (R113): the lower bound is in `vd`, the upper in `vb`. -/
def execVclamp (d a b : VReg) (m : MReg) (z : Bool) (s : State) : Out :=
  .next (lanewise 2 isComp [a, b, d] d m z .rne (fun t _ x hi lo =>
    let (y, g) := maxMin true t x lo
    let (y, h) := maxMin false t y hi
    (y, g ||| h)) s)

/-- `vsplat` (R114). -/
def execVsplat (t : Tag) (d : VReg) (b : SReg) (m : MReg) (z : Bool) (s : State) : Out :=
  .next (putMasked 2 d t (rdM s m) z (fun _ => quiet ((rdS s b).toNat % 2 ^ laneW t)) s)

/-- `vmovs` (R114). -/
def execVmovs (b : SReg) (a : VReg) (j : Fin 1024) (s : State) : Out :=
  .next (checked (srcCheck s isLaned a) (fun s =>
    let x := rdV s a
    let y := lane x.tag x (j.val % lanes x.tag)
    putS 2 b (if isInt x.tag then BitVec.ofInt 64 (signExt y (laneW x.tag)) else BitVec.ofNat 64 y) s) s)

/-- `vins` (R114). -/
def execVins (d a : VReg) (b : SReg) (j : Fin 1024) (s : State) : Out :=
  .next (checked (srcCheck s isLaned a) (fun s =>
    let x := rdV s a
    let t := x.tag
    putAll 2 d t (ofLanes t fun i => if i = j.val % lanes t then (rdS s b).toNat % 2 ^ laneW t else lane t x i) 0 s) s)

/-- `vmov` (R115). -/
def execVmov (d a : VReg) (m : MReg) (z : Bool) (s : State) : Out :=
  .next (checked ((sourceCheck s a).orElse fun _ => failIf ((rdV s a).tag = .e2m1x && m.val ≠ 0) (tagFault a)) (fun s =>
    let x := rdV s a
    if x.tag = .e2m1x then putAll 2 d x.tag x.bits 0 s
    else putMasked 2 d x.tag (rdM s m) z (fun i => quiet (lane x.tag x i)) s) s)

/-- `vsel` (R115). -/
def execVsel (d a b : VReg) (m : MReg) (s : State) : Out :=
  .next (checked (srcsCheck s isLaned [a, b]) (fun s =>
    let x := rdV s a
    let y := rdV s b
    putAll 2 d x.tag (ofLanes x.tag fun i => lane x.tag (if (rdM s m).getLsbD i then x else y) i) 0 s) s)

/-- Whether a condition is one of the unsigned ones (R75). -/
def condUnsigned : Cond → Bool
  | .ltl | .lel | .gtl | .gel => true
  | _ => false

/-- The tags under which `vcmp` accepts a condition (R116). -/
def cmpAccepts (c : Cond) (t : Tag) : Bool :=
  if t = .raw then c = .eq || c = .ne else if isInt t then true else isFloat t && !condUnsigned c

/-- One lane of `vcmp`. -/
def cmpLane (c : Cond) (t : Tag) (x y : Nat) : Bool × Flags :=
  if isFloat t then fCmp c (decodeReal t x) (decodeReal t y) else (iCmp (laneW t) c x y, 0)

/-- A mask made of bits. -/
def maskOf (f : Nat → Bool) : BitVec 1024 := BitVec.ofNat 1024 (packLanes 1 ((List.range 1024).map fun i => (f i).toNat)).toNat

/-- `vcmp` (R116): the mask pair. -/
def execVcmp (c : Cond) (d : MReg) (a b : VReg) (m : MReg) (s : State) : Out :=
  .next (checked (srcsCheck s (cmpAccepts c) [a, b]) (fun s =>
    let t := (rdV s a).tag
    let on := fun i => decide (i < lanes t) && (rdM s m).getLsbD i
    let r := fun i => if on i then cmpLane c t (lane t (rdV s a) i) (lane t (rdV s b) i) else (false, 0)
    let rs := (List.range (lanes t)).map r
    let yes := BitVec.ofNat 1024 (packLanes 1 (rs.map fun x => x.1.toNat)).toNat
    let all := maskOf on
    emit 2 (.m (d + 1) (all &&& ~~~yes)) (orFlags (rs.map fun x => x.2)) (emitMore 2 (.m d yes) s)) s)

/-- Conversion of one element between tags (R81 to R83). A signalling NaN raises NV whatever the destination (R74). -/
def cvtLane (u t : Tag) (wr : Bool) (rm : Rm) (x : Nat) : LaneR :=
  if isInt u && isInt t then fit (laneW t) wr (signExt x (laneW u))
  else
    let v := if isInt u then Real.ofInt (signExt x (laneW u)) else decodeReal u x
    withSig v (if t = .e8m0 then toE8M0 rm v
      else if isInt t then
        let (y, g) := cvtInt (laneW t) rm v
        (ofInt (laneW t) y, g)
      else v.round (fmtOf t) rm)

/-- The first malformed block of a register read as E2M1X blocks (R67, R69). -/
def badRegBlock (x : BitVec 8192) : Option Nat := (List.range 48).find? fun b => !specialOk (laneBits x 8 (816 + b))

/-- A register's data with the bytes beyond its blocks zero (R67). -/
def blockBytes (x : BitVec 8192) : BitVec 8192 := BitVec.ofNat 8192 (x.toNat % 2 ^ (8 * 864))

/-- The checks of `vcvt` (R109, R110, R118); `md` is its `mod` field. Of a retag that has m or H nonzero and a malformed block too,
no rule says which fault comes first (DESIGN CHOICE: the 0x02 of the encoded fields, then
the 0x04 of the data; assumption log 70). -/
def cvtCheck (s : State) (a : VReg) (m : MReg) (t : Tag) (h md : Nat) : Option FaultInfo :=
  let u := (rdV s a).tag
  let part := fault 0x02 0 (BitVec.ofNat 64 md)
  (sourceCheck s a).orElse fun _ =>
    if u = .raw || t = .raw then
      (failIf (m.val ≠ 0 || h ≠ 0) part).orElse fun _ =>
        if t = .e2m1x then (badRegBlock (rdV s a).bits).map fun b => fault 0x04 1 (BitVec.ofNat 64 (b * 2 ^ 16 + a.val)) else none
    else if u = .e2m1x || t = .e2m1x then some (tagFault a)
    else
      let n := min (lanes u) (lanes t)
      failIf (h ≥ max (lanes u) (lanes t) / n) part

/-- `vcvt` (R118). -/
def execVcvt (d a : VReg) (m : MReg) (t : Tag) (h : Fin 4) (w : Bool) (rm : Rm) (s : State) : Out :=
  .next (checked (cvtCheck s a m t h.val (h.val * 256 + t.code * 16 + w.toNat * 8 + rm.code)) (fun s =>
    let x := rdV s a
    let u := x.tag
    if u = .raw || t = .raw then putAll 3 d t (if t = .e2m1x then blockBytes x.bits else x.bits) 0 s
    else
      let n := min (lanes u) (lanes t)
      let lo := if lanes t > lanes u then n * h.val else 0
      let from_ := if lanes t > lanes u then 0 else n * h.val
      let rm := rmOf s rm
      let on := fun i => decide (lo ≤ i) && decide (i < lo + n) && (rdM s m).getLsbD i
      let ys := (List.range (lanes t)).map fun i => if on i then cvtLane u t w rm (lane u x (from_ + (i - lo))) else quiet 0
      emit 3 (.v d (packLanes (laneW t) (ys.map fun y => y.1)) (laneMask (laneW t) (lanes t) on) (some t)) (laneFlags ys) s) s)

end Sys2Proof.Machine
end

