-- ==== Sys2Proof/Machine/Permute.lean ====
section
/-! DEFINITION. Transcendentals, register indirection, the permute network, reductions and scans (R119 to R127). -/

namespace Sys2Proof.Machine

/-! ### Transcendentals (R119) -/

/-- A transcendental: latency 10. -/
def trans (op : TransOp) (d a : VReg) (m : MReg) (z : Bool) (rm : Rm) (s : State) : State :=
  lanewise 10 isFloat [a] d m z rm (fun t rm x _ _ => fTrans op (fmtOf t) rm (decodeReal t x)) s

/-- `vrcp` (R119). -/
def execVrcp (d a : VReg) (m : MReg) (z : Bool) (rm : Rm) (s : State) : Out := .next (trans .rcp d a m z rm s)
/-- `vrsqrt` (R119). -/
def execVrsqrt (d a : VReg) (m : MReg) (z : Bool) (rm : Rm) (s : State) : Out := .next (trans .rsqrt d a m z rm s)
/-- `vsqrt` (R119). -/
def execVsqrt (d a : VReg) (m : MReg) (z : Bool) (rm : Rm) (s : State) : Out := .next (trans .sqrt d a m z rm s)
/-- `vexp2` (R119). -/
def execVexp2 (d a : VReg) (m : MReg) (z : Bool) (rm : Rm) (s : State) : Out := .next (trans .exp2 d a m z rm s)
/-- `vlog2` (R119). -/
def execVlog2 (d a : VReg) (m : MReg) (z : Bool) (rm : Rm) (s : State) : Out := .next (trans .log2 d a m z rm s)

/-! ### Register indirection (R120 to R122) -/

/-- Bits of a granule. -/
def granW (g : Bool) : Nat := if g then 16 else 32
/-- Granules of a register. -/
def granN (g : Bool) : Nat := if g then 512 else 256

/-- The enabled granules with the register numbers they name: base plus the unsigned I16 index (R121). -/
def granRegs (s : State) (base a : VReg) (m : MReg) (g : Bool) : List (Nat × Nat) :=
  ((List.range (granN g)).filter fun i => (rdM s m).getLsbD i).map fun i => (i, base.val + laneBits (rdV s a).bits 16 i)

/-- `XADDR` of a granule's fault (R121, R122). -/
def granAddr (i r : Nat) : Word := BitVec.ofNat 64 (i * 2 ^ 16 + min r 0x3FF)

/-- The footprint check of computed numbers (R122). -/
def granFoot (c : Ctx) (xs : List (Nat × Nat)) : Option FaultInfo :=
  xs.findSome? fun x => failIf (x.2 ≥ c.foot) (fault 0x06 0 (granAddr x.1 x.2))

/-- A register by a number that has passed the footprint check. -/
def regNo (r : Nat) : VReg := Fin.ofNat 640 r

/-- The two passes of `vgetl` over the registers it reads (R121). -/
def getlTags (s : State) (xs : List (Nat × Nat)) : Option FaultInfo :=
  let tagOf := fun (x : Nat × Nat) => (rdV s (regNo x.2)).tag
  (xs.findSome? fun x =>
    match tagOf x with
    | .none => some (fault 0x05 0 (granAddr x.1 x.2))
    | .poison => some (fault 0x11 3 (granAddr x.1 x.2))
    | .e2m1x => some (fault 0x04 0 (granAddr x.1 x.2))
    | _ => none).orElse fun _ =>
      match xs with
      | [] => none
      | x :: _ => xs.findSome? fun y => failIf (tagOf y ≠ tagOf x) (fault 0x04 0 (granAddr y.1 y.2))

/-- `vgetl` (R121). -/
def execVgetl (d a : VReg) (m : MReg) (b : VReg) (g z : Bool) (s : State) : Out :=
  let xs := granRegs s b a m g
  .next (checked (firstFault [srcCheck s (fun t => t = .i16) a, granFoot s.me xs, getlTags s xs]) (fun s =>
    let at_ := fun i => laneBits (rdV s (regNo (b.val + laneBits (rdV s a).bits 16 i))).bits (granW g) i
    let on := fun i => (rdM s m).getLsbD i
    let data := packLanes (granW g) ((List.range (granN g)).map fun i => if on i then at_ i else 0)
    let mask := if z then BitVec.allOnes 8192 else laneMask (granW g) (granN g) on
    emit 3 (.v d data mask ((xs.head?).map fun x => (rdV s (regNo x.2)).tag)) 0 s) s)

/-- The registers `vputl` may write (R121): each carries the tag of the data, or NONE. -/
def putlTags (s : State) (t : Tag) (xs : List (Nat × Nat)) : Option FaultInfo :=
  xs.findSome? fun x =>
    let u := (rdV s (regNo x.2)).tag
    failIf (u ≠ t && u ≠ .none) (fault 0x04 0 (granAddr x.1 x.2))

/-- What one register of a `vputl` takes: its granules, and under NONE the tag and a free value for the others (R121), the
`n`th of those drawn. -/
def putlReg (s : State) (x : VData) (g : Bool) (xs : List (Nat × Nat)) (r n : Nat) : VReg × BitVec 8192 × Option (Tag × BitVec 8192) :=
  let mask := laneMask (granW g) (granN g) fun i => xs.contains (i, r)
  (regNo r, mask, if (rdV s (regNo r)).tag = .none then some (x.tag, Config.granules (s.fresh + n)) else none)

/-- `vputl` (R121). -/
def execVputl (d a b : VReg) (m : MReg) (g : Bool) (s : State) : Out :=
  let xs := granRegs s d a m g
  .next (checked (firstFault [srcCheck s (fun t => t = .i16) a, srcCheck s isLaned b, granFoot s.me xs, putlTags s (rdV s b).tag xs])
    (fun s =>
      let rs := (xs.map fun x => x.2).eraseDups
      emit 3 (.puts (rdV s b).bits (rs.zipIdx.map fun (r, n) => putlReg s (rdV s b) g xs r n)) 0 { s with fresh := s.fresh + rs.length }) s)

/-- The checks on a computed register that is copied whole (R121, R122). -/
def wholeReg (s : State) (r : Nat) (reads : Bool) : Option FaultInfo :=
  (failIf (r ≥ s.me.foot) (fault 0x06 0 (granAddr 0 r))).orElse fun _ => if reads then sourceCheck s (regNo r) else none

/-- `vmovx` (R121). -/
def execVmovx (d a : VReg) (b : SReg) (s : State) : Out :=
  let r := a.val + (rdS s b).toNat
  .next (checked (wholeReg s r true) (fun s => putAll 3 d (rdV s (regNo r)).tag (rdV s (regNo r)).bits 0 s) s)

/-- `vstx` (R121). -/
def execVstx (d a : VReg) (b : SReg) (s : State) : Out :=
  let r := d.val + (rdS s b).toNat
  .next (checked ((sourceCheck s a).orElse fun _ => wholeReg s r false) (fun s =>
    putAll 3 (regNo r) (rdV s a).tag (rdV s a).bits 0 s) s)

/-- The vector registers an instruction reaches through computed numbers: its group stalls while one is pending (R122). -/
def computedRegs (s : State) (i : Instr) : List VReg :=
  let ok := fun (rs : List Nat) => (rs.filter fun r => decide (r < 640)).map regNo
  match i with
  | .vgetl _ a m b g _ => ok ((granRegs s b a m g).map fun x => x.2)
  | .vputl d a _ m g => ok ((granRegs s d a m g).map fun x => x.2)
  | .vmovx _ a b => ok [a.val + (rdS s b).toNat]
  | .vstx d _ b => ok [d.val + (rdS s b).toNat]
  | _ => []

/-! ### The permute network (R123 to R125)

A lane that is only moved keeps its bits, also those of a NaN (DESIGN CHOICE: R63 makes the NaNs that an operation writes
canonical and R115 says of `vmov` and `vsel` alone that a NaN passes unchanged; the moves of R121 and R124 name no format). -/

/-- Tags of an index vector for data lanes of `w` bits (R123). -/
def permIndexTag (w : Nat) (t : Tag) : Bool :=
  match w with
  | 8 => t = .i8 || t = .raw
  | 16 => t = .i16
  | _ => t = .i32

/-- `vperm` (R124): lanes move as bit patterns, NaNs among them (DESIGN CHOICE, assumption log 71). -/
def execVperm (d a b : VReg) (m : MReg) (z : Bool) (s : State) : Out :=
  .next (checked ((srcCheck s isLaned a).orElse fun _ => srcCheck s (permIndexTag (laneW (rdV s a).tag)) b) (fun s =>
    let x := rdV s a
    let t := x.tag
    let w := laneW t
    putMasked 3 d t (rdM s m) z (fun i =>
      let u := laneBits (rdV s b).bits w i
      quiet (lane t x (if w = 8 then 256 * (i / 256) + u else u % lanes t))) s) s)

/-- The lane an amount names: register plus immediate modulo L (R124). -/
def laneSum (s : State) (b : SReg) (n : Fin 1024) (t : Tag) : Nat := ((rdS s b).toNat + n.val) % lanes t

/-- `vrot` (R124). -/
def execVrot (d a : VReg) (b : SReg) (n : Fin 1024) (m : MReg) (z : Bool) (s : State) : Out :=
  .next (checked (srcCheck s isLaned a) (fun s =>
    let x := rdV s a
    let t := x.tag
    let k := laneSum s b n t
    putMasked 3 d t (rdM s m) z (fun i => quiet (lane t x ((i + k) % lanes t))) s) s)

/-- The source of unit `u` of U under a pattern of `vshuf`: whether it is `vb`, and the unit there (R125). -/
def shufUnit (pat U u : Nat) : Bool × Nat :=
  match pat with
  | 0 => (u % 2 == 1, u / 2)
  | 1 => (u % 2 == 1, U / 2 + u / 2)
  | 4 => (u % 2 == 1, u / 2 * 2)
  | 5 => (u % 2 == 1, u / 2 * 2 + 1)
  | 2 => (decide (u ≥ U / 2), 2 * (u % (U / 2)))
  | _ => (decide (u ≥ U / 2), 2 * (u % (U / 2)) + 1)

/-- `vshuf` (R125). -/
def execVshuf (d a b : VReg) (m : MReg) (pat g : Ix8) (z : Bool) (s : State) : Out :=
  .next (checked (srcsCheck s isLaned [a, b]) (fun s =>
    let t := (rdV s a).tag
    let n := 2 ^ g.val
    putMasked 3 d t (rdM s m) z (fun i =>
      let (second, u) := shufUnit pat.val (lanes t / n) (i / n)
      quiet (lane t (rdV s (if second then b else a)) (u * n + i % n))) s) s)

/-- `vbcast` (R124). -/
def execVbcast (d a : VReg) (b : SReg) (n : Fin 1024) (m : MReg) (z : Bool) (s : State) : Out :=
  .next (checked (srcCheck s isLaned a) (fun s =>
    let x := rdV s a
    let t := x.tag
    let k := laneSum s b n t
    putMasked 3 d t (rdM s m) z (fun _ => quiet (lane t x k)) s) s)

/-- The lanes a mask selects, in ascending order. -/
def selected (m : BitVec 1024) (n : Nat) : List Nat := (List.range n).filter fun i => m.getLsbD i

/-- `vcomp` (R124). -/
def execVcomp (d a : VReg) (m : MReg) (s : State) : Out :=
  .next (checked (srcCheck s isLaned a) (fun s =>
    let x := rdV s a
    let t := x.tag
    putAll 3 d t (packLanes (laneW t) ((selected (rdM s m) (lanes t)).map (lane t x))) 0 s) s)

/-- `vexpd` (R124): the i-th selected lane takes lane i. -/
def execVexpd (d a : VReg) (m : MReg) (z : Bool) (s : State) : Out :=
  .next (checked (srcCheck s isLaned a) (fun s =>
    let x := rdV s a
    let t := x.tag
    let sel := selected (rdM s m) (lanes t)
    putMasked 3 d t (rdM s m) z (fun i => quiet (lane t x (sel.idxOf i))) s) s)

/-! ### Reductions and scans (R126, R127) -/

/-- What a reduction combines. -/
inductive RedOp where
  | add | max | min
deriving DecidableEq, Repr

/-- The identity of a floating reduction (R78). -/
def redIdent (op : RedOp) (f : Fmt) : Nat :=
  match op with
  | .add => f.signBit
  | .max => infPat f true
  | .min => infPat f false

/-- `Comb` (R78). -/
def redComb (op : RedOp) (f : Fmt) (rm : Rm) (x y : Nat) : LaneR :=
  match op with
  | .add => fAdd f rm (decodeFmt f x) (decodeFmt f y)
  | .max => fMaxMin f true x y
  | .min => fMaxMin f false x y

/-- What a masked-off lane enters an integer reduction as (R80). -/
def intIdent (op : RedOp) (w : Nat) : Int :=
  match op with
  | .add => 0
  | .max => -(2 ^ (w - 1) : Int)
  | .min => (2 ^ (w - 1) : Int) - 1

/-- The exact combination of integers (R80). -/
def intComb (op : RedOp) (x y : Int) : Int :=
  match op with
  | .add => x + y
  | .max => max x y
  | .min => min x y

/-- The lanes that enter, as patterns, identities in the masked-off places. -/
def redLanes (op : RedOp) (x : VData) (m : BitVec 1024) : List Nat :=
  (List.range (lanes x.tag)).map fun i => if m.getLsbD i then lane x.tag x i else redIdent op (fmtOf x.tag)

/-- The integers that enter. -/
def redInts (op : RedOp) (x : VData) (m : BitVec 1024) : List Int :=
  (List.range (lanes x.tag)).map fun i =>
    if m.getLsbD i then signExt (lane x.tag x i) (laneW x.tag) else intIdent op (laneW x.tag)

/-- The value of a reduction (R126). -/
def reduceVal (op : RedOp) (rm : Rm) (x : VData) (m : BitVec 1024) : LaneR :=
  if isInt x.tag then fit (laneW x.tag) false ((redInts op x m).foldl (intComb op) (intIdent op (laneW x.tag)))
  else
    let (ys, g) := tree (redComb op (fmtOf x.tag) rm) 10 (redLanes op x m)
    (ys.headD 0, g)

/-- A reduction into lane 0; the other lanes become zero (R126). -/
def reduce (op : RedOp) (d a : VReg) (m : MReg) (rm : Rm) (s : State) : State :=
  checked (srcCheck s isComp a) (fun s =>
    let x := rdV s a
    let (y, g) := reduceVal op (rmOf s rm) x (rdM s m)
    putAll 6 d x.tag (BitVec.ofNat 8192 y) g s) s

/-- `vredadd` (R126). -/
def execVredadd (d a : VReg) (m : MReg) (rm : Rm) (s : State) : Out := .next (reduce .add d a m rm s)
/-- `vredmax` (R126). -/
def execVredmax (d a : VReg) (m : MReg) (s : State) : Out := .next (reduce .max d a m .rne s)
/-- `vredmin` (R126). -/
def execVredmin (d a : VReg) (m : MReg) (s : State) : Out := .next (reduce .min d a m .rne s)

/-- A pair of the arg-max tree: enabled, pattern, index. -/
abbrev ArgPair := Bool × Nat × Nat

/-- Whether the value of pattern `y` is larger than that of `x` by the rules 2 and 3 of R127. -/
def argLarger (t : Tag) (y x : Nat) : Bool :=
  if isInt t then decide (signExt y (laneW t) > signExt x (laneW t))
  else
    let a := decodeReal t x
    let b := decodeReal t y
    if b.isNaN then false else if a.isNaN then true else a.below b

/-- A node of the tree (R127): of two equal values the lower index stays, whichever side holds it. -/
def argNode (t : Tag) (x y : ArgPair) : ArgPair × Flags :=
  (if x.1 != y.1 then (if x.1 then x else y)
   else if argLarger t y.2.1 x.2.1 then y
   else if argLarger t x.2.1 y.2.1 then x
   else if y.2.2 < x.2.2 then y else x, 0)

/-- `vargmax` (R127). -/
def execVargmax (d a : VReg) (m : MReg) (s : State) : Out :=
  .next (checked (srcCheck s isComp a) (fun s =>
    let x := rdV s a
    let t := x.tag
    let ps : List ArgPair := (List.range (lanes t)).map fun i => ((rdM s m).getLsbD i, lane t x i, i)
    let r := ((tree (argNode t) 10 ps).1).headD (false, 0, 0)
    let g := if isFloat t then orFlags (ps.map fun p => if p.1 then sigFlag [decodeReal t p.2.1] else 0) else 0
    putAll 6 d .i32 (BitVec.ofNat 8192 (if r.1 then r.2.2 else 0xFFFFFFFF)) g s) s)

/-- Exact prefixes. -/
def prefixes (f : Int → Int → Int) (acc : Int) : List Int → List Int
  | [] => []
  | x :: xs => f acc x :: prefixes f (f acc x) xs

/-- The scan's lanes with their flags (R79, R80); the lane that is only kept is written with a canonical NaN too (R63). -/
def scanVal (op : RedOp) (rm : Rm) (x : VData) (m : BitVec 1024) : List Nat × Flags :=
  if isInt x.tag then
    let ys := (prefixes (intComb op) (intIdent op (laneW x.tag)) (redInts op x m)).map (fit (laneW x.tag) false)
    (ys.map fun y => y.1, laneFlags ys)
  else
    let r := scan (redComb op (fmtOf x.tag) rm) 10 1 (redLanes op x m)
    (r.1.map (canonPat (fmtOf x.tag)), r.2)

/-- `vscan` (R126). -/
def execVscan (d a : VReg) (m : MReg) (op : Fin 4) (rm : Rm) (s : State) : Out :=
  .next (checked (srcCheck s isComp a) (fun s =>
    let x := rdV s a
    let (ys, g) := scanVal (match op.val with | 0 => .add | 1 => .max | _ => .min) (rmOf s rm) x (rdM s m)
    putAll 6 d x.tag (packLanes (laneW x.tag) ys) g s) s)

end Sys2Proof.Machine
end

