-- ==== Sys2Proof/Machine/Blocks.lean ====
section
/-! DEFINITION. Packing, E2M1X blocks, Winograd transforms and mask instructions (R128 to R133). -/

namespace Sys2Proof.Machine

/-! ### Packing (R128) -/

/-- The result tag of `vpack`. -/
def packTag : Tag → Option Tag
  | .i32 => some .i16
  | .i16 => some .i8
  | .fp32 => some .bf16
  | _ => none

/-- The result tag of `vunpk`. -/
def unpackTag : Tag → Option Tag
  | .i8 => some .i16
  | .i16 => some .i32
  | .bf16 => some .fp32
  | .e4m3 => some .bf16
  | _ => none

/-- `vpack` (R128). The result has twice the lanes of va's tag, to which R107 limits a mask (DESIGN CHOICE: bit i of the mask
serves result lane i for all of them; assumption log 72). -/
def execVpack (d a b : VReg) (m : MReg) (z w : Bool) (rm : Rm) (s : State) : Out :=
  .next (checked (srcsCheck s (fun t => (packTag t).isSome) [a, b]) (fun s =>
    let u := (rdV s a).tag
    let t := (packTag u).getD .none
    let n := lanes u
    let rm := rmOf s rm
    putMasked 3 d t (rdM s m) z (fun i => cvtLane u t w rm (lane u (rdV s (if i < n then a else b)) (i % n))) s) s)

/-- `vunpk` (R128). -/
def execVunpk (d a : VReg) (m : MReg) (h z : Bool) (s : State) : Out :=
  .next (checked (srcCheck s (fun t => (unpackTag t).isSome) a) (fun s =>
    let u := (rdV s a).tag
    let t := (unpackTag u).getD .none
    putMasked 3 d t (rdM s m) z (fun i => cvtLane u t false .rne (lane u (rdV s a) (lanes t * h.toNat + i))) s) s)

/-! ### E2M1X blocks (R129, R130) -/

/-- Magnitude order of two values that are not NaN. -/
def magLess (x y : Real) : Bool :=
  let p := fun (v : Real) => match v with | .fin _ n e => Real.fin false n e | .inf _ => .inf false | v => v
  Real.cmp (p x) (p y) < 0

/-- The value of largest magnitude, the lowest element on a tie. -/
def largest (xs : List Real) : Real := xs.foldl (fun a x => if magLess a x then x else a) (.fin false 0 0)

/-- The fitted exponent `ceil(log2(amax / Q))` of a nonzero finite magnitude, Q = 15.5 or 6 (R129). -/
def fitExp (x : Bool) (num : Nat) (exp : Int) : Int :=
  let l := Nat.log2 num
  if x then (if num * 16 ≤ 31 * 2 ^ l then exp + l - 3 else exp + l - 2)
  else if num * 2 ≤ 3 * 2 ^ l then exp + l - 2 else exp + l - 1

/-- The fitted scale of a block (R129). -/
def fitScale (x : Bool) (amax : Real) : Nat :=
  match amax with
  | .fin _ 0 _ => 0x7F
  | .fin _ num exp => (min (max (fitExp x num exp) (-127)) 127 + 127).toNat
  | _ => 254

/-- A value divided by 2^k. -/
def scaleDown (k : Int) : Real → Real
  | .fin n m e => .fin n m (e - k)
  | v => v

/-- The special of a block: halves of the value of largest magnitude (R129). -/
def pickSpecial (k : Int) (y : Real) : Int :=
  match scaleDown (k - 1) y with
  | .inf neg => if neg then -31 else 31
  | .fin neg num exp => min (max (roundInt .rne neg num exp) (-31)) 31
  | _ => 0

/-- One block of `vblk`: scale, special, codes and flags (R129). -/
def quantBlock (x : Bool) (sp : Option Nat) (rm : Rm) (es : List Real) : Nat × Int × List Nat × Flags :=
  if es.any Real.isNaN then (0xFF, 0, List.replicate 32 0, fNV)
  else
    let y := largest es
    let scale := sp.getD (fitScale x y)
    let k : Int := (scale : Int) - 127
    let h := if x then pickSpecial k y else 0
    let cs := es.map fun e => qE2M1 h rm (scaleDown k e)
    (scale, h, cs.map fun c => c.1, laneFlags cs)

/-- Code bytes of a block, element 2n in the low half of byte n (R67). -/
def codeBytes : List Nat → List Nat
  | a :: b :: cs => (a + 16 * b) :: codeBytes cs
  | _ => []

/-- The bytes of a register at `at_` upwards, as a number in the register's place. -/
def placed (at_ : Nat) (bs : List Nat) : Nat := (packLanes 8 bs).toNat * 2 ^ (8 * at_)

/-- Data and mask of a block written at place `k` of a register (R67). -/
def blockUpd (k : Nat) (r : Nat × Int × List Nat × Flags) : Nat × Nat :=
  (placed (16 * k) (codeBytes r.2.2.1) + placed (768 + k) [r.1] + placed (816 + k) [ofInt 6 r.2.1],
   placed (16 * k) (List.replicate 16 0xFF) + placed (768 + k) [0xFF] + placed (816 + k) [0xFF])

/-- `vblk` (R129); its `mod` field is B, X, SP, RM. Bytes 864 to 1,023 are written zero. The tag of vb is checked before the block
base (DESIGN CHOICE: no rule orders the two; assumption log 70). -/
def execVblk (d a : VReg) (sv : Option VReg) (m : MReg) (n : PReg) (x : Bool) (rm : Rm) (s : State) : Out :=
  let md := n.val * 64 + x.toNat * 32 + sv.isSome.toNat * 16 + rm.code
  .next (checked (firstFault
      [srcCheck s isFloat a, sv.bind (srcCheck s fun t => t = .e8m0),
       failIf (n.val > (if (rdV s a).tag = .fp32 then 5 else 2)) (fault 0x02 0 (BitVec.ofNat 64 md))]) (fun s =>
    let v := rdV s a
    let t := v.tag
    let nb := lanes t / 32
    let rm := rmOf s rm
    let es := (List.range (lanes t)).map fun i => if (rdM s m).getLsbD i then decodeReal t (lane t v i) else Real.fin false 0 0
    let rs := (List.range nb).map fun j =>
      let k := nb * n.val + j
      (k, quantBlock x (sv.map fun b => laneBits (rdV s b).bits 8 k) rm ((es.drop (32 * j)).take 32))
    let us := rs.map fun r => blockUpd r.1 r.2
    let rest := placed 864 (List.replicate 160 0xFF)
    emit 6 (.blk d (BitVec.ofNat 8192 (us.map fun u => u.1).sum) (BitVec.ofNat 8192 ((us.map fun u => u.2).sum + rest)))
      (orFlags (rs.map fun r => r.2.2.2.2)) s) s)

/-- `Elem` of a register tagged E2M1X (R66, R67). -/
def elemReal (x : BitVec 8192) (i : Nat) : Real :=
  let b := i / 32
  let scale := laneBits x 8 (768 + b)
  let code := laneBits x 4 i
  if scale = 0xFF then .nan false
  else
    let y := e2Twice (specialH (laneBits x 8 (816 + b))) code
    .fin (y < 0) y.natAbs ((scale : Int) - 128)

/-- `vunblk` (R130). -/
def execVunblk (d a : VReg) (m : MReg) (n : Ix8) (fp32 z : Bool) (rm : Rm) (s : State) : Out :=
  .next (checked (srcCheck s (fun t => t = .e2m1x) a) (fun s =>
    let t : Tag := if fp32 then .fp32 else .bf16
    let rm := rmOf s rm
    putMasked 6 d t (rdM s m) z (fun i => (elemReal (rdV s a).bits (lanes t * n.val + i)).round (fmtOf t) rm) s) s)

/-! ### Winograd transforms (R131, R132) -/

/-- FP32 addition under RNE, with the flags of its operands kept. -/
def wAdd (x y : LaneR) : LaneR :=
  let r := fAdd fmtFP32 .rne (decodeFmt fmtFP32 x.1) (decodeFmt fmtFP32 y.1)
  (r.1, x.2 ||| y.2 ||| r.2)

/-- FP32 subtraction under RNE. -/
def wSub (x y : LaneR) : LaneR :=
  let r := fSub fmtFP32 .rne (decodeFmt fmtFP32 x.1) (decodeFmt fmtFP32 y.1)
  (r.1, x.2 ||| y.2 ||| r.2)

/-- FP32 halving under RNE. -/
def wHalf (x : LaneR) : LaneR :=
  let r := fMul fmtFP32 .rne (decodeFmt fmtFP32 x.1) (.fin false 1 (-1))
  (r.1, x.2 ||| r.2)

/-- An input that a step passes on: a NaN is written canonical (R63). -/
def wKeep (x : LaneR) : LaneR := (canonPat fmtFP32 x.1, x.2)

/-- The three steps of R132. -/
def wgStep (op : Nat) (x : Nat → LaneR) : List LaneR :=
  match op with
  | 0 => [wSub (x 0) (x 2), wAdd (x 1) (x 2), wSub (x 2) (x 1), wSub (x 1) (x 3)]
  | 1 => [wAdd (wAdd (x 0) (x 1)) (x 2), wSub (wSub (x 1) (x 2)) (x 3)]
  | _ => [wKeep (x 0), wHalf (wAdd (wAdd (x 0) (x 1)) (x 2)), wHalf (wAdd (wSub (x 0) (x 1)) (x 2)), wKeep (x 2)]

/-- One cell: `n` by `n` inputs, `k` outputs a step; down the columns, then along the rows (R132). -/
def wgCell (op n k : Nat) (x : Nat → LaneR) : List LaneR :=
  let cols := (List.range n).map fun c => wgStep op (fun r => x (n * r + c))
  (List.range k).flatMap fun r => wgStep op (fun c => (cols.getD c []).getD r (quiet 0))

/-- A Winograd transform: the mask bit of a cell's first lane decides for the cell (R131). -/
def winograd (op n k : Nat) (d a : VReg) (m : MReg) (z : Bool) (s : State) : State :=
  checked (srcCheck s (fun t => t = .fp32) a) (fun s =>
    let x := rdV s a
    let on := fun i => (rdM s m).getLsbD (16 * (i / 16))
    let ys := (List.range 16).flatMap fun c =>
      if on (16 * c) then (wgCell op n k (fun i => quiet (laneBits x.bits 32 (16 * c + i))) ++ List.replicate 16 (quiet 0)).take 16
      else List.replicate 16 (quiet 0)
    emit 6 (.v d (packLanes 32 (ys.map fun y => y.1)) (if z then BitVec.allOnes 8192 else laneMask 32 256 on) (some .fp32))
      (laneFlags ys) s) s

/-- `vwgin` (R132). -/
def execVwgin (d a : VReg) (m : MReg) (z : Bool) (s : State) : Out := .next (winograd 0 4 4 d a m z s)
/-- `vwgout` (R132). -/
def execVwgout (d a : VReg) (m : MReg) (z : Bool) (s : State) : Out := .next (winograd 1 4 2 d a m z s)
/-- `vwgfil` (R132). -/
def execVwgfil (d a : VReg) (m : MReg) (z : Bool) (s : State) : Out := .next (winograd 2 3 4 d a m z s)

/-! ### Masks (R133) -/

/-- A mask result. -/
def putM (d : MReg) (x : BitVec 1024) (s : State) : State := emit 2 (.m d x) 0 s

/-- `vmask.n` (R133). -/
def execVmaskN (d : MReg) (a : SReg) (s : State) : Out :=
  .next (putM d (BitVec.ofNat 1024 (2 ^ min (rdS s a).toNat 1024 - 1)) s)

/-- Whether a lane counts as nonzero, judged by value (R133). -/
def laneNonzero (t : Tag) (x : Nat) : Bool :=
  match t with
  | .e8m0 => true
  | .bf16 | .fp32 | .e4m3 => !(decodeReal t x).isZero
  | _ => x != 0

/-- `vmask.nz` (R133). -/
def execVmaskNz (d : MReg) (a : VReg) (s : State) : Out :=
  .next (checked (srcCheck s isLaned a) (fun s =>
    let x := rdV s a
    putM d (maskOf fun i => decide (i < lanes x.tag) && laneNonzero x.tag (lane x.tag x i)) s) s)

/-- `vmask.q` (R133). -/
def execVmaskQ (d : MReg) (a : SReg) (q : PReg) (s : State) : Out :=
  let mask : BitVec 1024 := BitVec.ofNat 1024 ((2 ^ 64 - 1) * 2 ^ (64 * q.val))
  .next (putM d ((rdM s d &&& ~~~mask) ||| BitVec.ofNat 1024 ((rdS s a).toNat * 2 ^ (64 * q.val))) s)

/-- `mand` (R133). -/
def execMand (d a b : MReg) (s : State) : Out := .next (putM d (rdM s a &&& rdM s b) s)
/-- `mor` (R133). -/
def execMor (d a b : MReg) (s : State) : Out := .next (putM d (rdM s a ||| rdM s b) s)
/-- `mxor` (R133). -/
def execMxor (d a b : MReg) (s : State) : Out := .next (putM d (rdM s a ^^^ rdM s b) s)
/-- `mnot` (R133). -/
def execMnot (d a : MReg) (s : State) : Out := .next (putM d (~~~(rdM s a)) s)

/-- `mcnt` (R133). -/
def execMcnt (d : SReg) (a : MReg) (s : State) : Out := .next (putS 2 d (BitVec.ofNat 64 (popcount (rdM s a))) s)

/-- `mfirst` (R133). -/
def execMfirst (d : SReg) (a : MReg) (s : State) : Out :=
  .next (putS 2 d (BitVec.ofNat 64 (((List.range 1024).find? fun i => (rdM s a).getLsbD i).getD 1024)) s)

end Sys2Proof.Machine
end

