-- ==== Sys2Proof/Machine/Dies.lean ====
section
/-! DEFINITION. Eight dies: layouts, the ladle, re-shard, the creamery's reductions and channels (R334 to R360), and the
execution and completion of every engine command. -/

namespace Sys2Proof.Machine

/-! ### The torus (R334 to R336) -/

/-- Modules along axis `a`, N_a (R335). -/
def modExt (s : State) (a : Nat) : Nat := bits s.fab.mpos (15 + 5 * a) 5 + 1
/-- This module's coordinate along an axis. -/
def modCoord (s : State) (a : Nat) : Nat := bits s.fab.mpos (5 * a) 5
/-- Brick coordinate of a die (R6). -/
def dieBit (d a : Nat) : Nat := d / 2 ^ a % 2
/-- Torus coordinate of a die of this module. -/
def torusAt (s : State) (d a : Nat) : Nat := 2 * modCoord s a + dieBit d a
/-- The three torus coordinates of a die. -/
def torusOf (s : State) (d : Nat) : List Nat := (List.range 3).map (torusAt s d)
/-- The die number of torus coordinates within its module (R345). -/
def dieAt (c : List Nat) : Nat := c.getD 0 0 % 2 + 2 * (c.getD 1 0 % 2) + 4 * (c.getD 2 0 % 2)

/-- How face traffic leaves for torus coordinates (R336): none within the module, else the module there and the port of
the die's outward face along the first axis in which the modules differ. Face traffic names its module by place:
4096 plus the module coordinates, five bits each (assumption log 11). -/
def faceTarget (s : State) (d : Nat) (c : List Nat) : Option (Nat × Nat) :=
  match (List.range 3).find? fun a => c.getD a 0 / 2 ≠ modCoord s a with
  | none => none
  | some a => some (4096 + c.getD 0 0 / 2 + 32 * (c.getD 1 0 / 2) + 1024 * (c.getD 2 0 / 2), 3 * d + a)

/-- A port carries face traffic only while it is held as a torus face (R336). -/
def facePort (s : State) (p : Nat) : Bool :=
  let x := vget Port.reset s.fab.ports p
  x.st = .held && bit x.cfg 19

/-- Whether a port is a torus face for traffic that waits: held as one, or in a change that keeps it one (R381). -/
def faceRoute (s : State) (p : Nat) : Bool :=
  let x := vget Port.reset s.fab.ports p
  facePort s p || (x.chg && bit x.cfg 19)

/-- A creamery function is secure and the caller is not (R391): reduction 0, re-shard 1, channels 2, relay 3. The manual
gives the fault no address: a free value (assumption log 12). -/
def crwCheck (s : State) (n : Nat) : Option FaultInfo := failIf (bit s.fab.crw n && !s.me.world) (fault 0x0C 0 (Config.openAddr n))

/-! ### Layouts (R338 to R341) -/

/-- A layout descriptor's raw bits. -/
abbrev Lay := BitVec 512

/-- G_k. -/
def layG (x : Lay) (k : Nat) : Nat := fld x.toNat (488 - 24 * k) 24 + 1
/-- B_k. -/
def layB (x : Lay) (k : Nat) : Nat := fld x.toNat (392 - 24 * k) 24 + 1
/-- STBASE. -/
def layBase (x : Lay) : Nat := fld x.toNat 288 32
/-- KEY. -/
def layKey (x : Lay) : Nat := fld x.toNat 272 16
/-- Grid origin along an axis. -/
def layO (x : Lay) (a : Nat) : Nat := fld x.toNat (266 - 6 * a) 6
/-- Grid extent along an axis. -/
def layE (x : Lay) (a : Nat) : Nat := fld x.toNat (248 - 6 * a) 6 + 1
/-- HALO. -/
def layHalo (x : Lay) : Nat := fld x.toNat 233 3
/-- TAG. -/
def layTag (x : Lay) : Tag := (Tag.ofCode (fld x.toNat 229 4)).getD .none
/-- KIND. -/
def layKind (x : Lay) : Nat := fld x.toNat 226 3
/-- V. -/
def layV (x : Lay) : Bool := x.getLsbD 225
/-- Grid size P. -/
def layP (x : Lay) : Nat := layE x 0 * layE x 1 * layE x 2
/-- Bytes of an element, u. -/
def layU (x : Lay) : Nat := laneW (layTag x) / 8
/-- H: the halo of BLOCK. -/
def layH (x : Lay) : Nat := if layKind x = 1 then layHalo x else 0
/-- Q_k (R341). -/
def layQ (x : Lay) (k : Nat) : Nat := if k = 0 then layB x 0 else layB x k + 2 * layH x

/-- Tags of elements in layouts and channels: 0x1 to 0x7 and 0x9. -/
def elemTag (c : Nat) : Bool := (1 ≤ c && c ≤ 7) || c = 9

/-- The extents and the halo fit the kind (R339). -/
def layExtents (x : Lay) : Bool :=
  match layKind x with
  | 1 => layB x 0 = layG x 0 && ((List.range 3).all fun a => layG x (a + 1) = layB x (a + 1) * layE x a && layHalo x ≤ layB x (a + 1))
  | 2 | 3 => layHalo x = 0 && ((List.range 4).all fun k => layG x k = layB x k * (if k = layKind x then layP x else 1))
  | 4 => layHalo x = 0 && ((List.range 4).all fun k => layG x k = layB x k)
  | _ => false

/-- A well-formed descriptor (R339). -/
def layOk (s : State) (x : Lay) : Bool :=
  layV x && elemTag (fld x.toNat 229 4) && fld x.toNat 0 225 = 0 &&
    ((List.range 3).all fun a => decide (layO x a + layE x a - 1 ≤ 2 * modExt s a - 1)) &&
    layBase x < 2 ^ 31 && layBase x % 64 = 0 &&
    decide (layBase x % 2 ^ 22 + layU x * layB x 0 * layQ x 1 * layQ x 2 * layQ x 3 ≤ 0x300000) && layExtents x

/-- Grid coordinates of torus coordinates, if they are in the grid (R340). -/
def gridOf (x : Lay) (c : List Nat) : Option (List Nat) :=
  if (List.range 3).all fun a => decide (layO x a ≤ c.getD a 0) && decide (c.getD a 0 - layO x a < layE x a) then
    some ((List.range 3).map fun a => c.getD a 0 - layO x a)
  else none

/-- Rank of grid coordinates (R340). -/
def rankOf (x : Lay) (g : List Nat) : Nat := g.getD 0 0 + layE x 0 * (g.getD 1 0 + layE x 1 * g.getD 2 0)

/-- Grid coordinates of a rank. -/
def gridOfRank (x : Lay) (r : Nat) : List Nat := [r % layE x 0, r / layE x 0 % layE x 1, r / (layE x 0 * layE x 1)]

/-- Global origin of the block at grid coordinates (R340). -/
def blockOrigin (x : Lay) (g : List Nat) : List Nat :=
  let r := rankOf x g
  match layKind x with
  | 1 => [0, g.getD 0 0 * layB x 1, g.getD 1 0 * layB x 2, g.getD 2 0 * layB x 3]
  | 2 => [0, 0, r * layB x 2, 0]
  | 3 => [0, 0, 0, r * layB x 3]
  | _ => [0, 0, 0, 0]

/-- `Addr(l)` on a die (R341). -/
def layAddr (x : Lay) (die : Nat) (l : List Int) : Nat :=
  let h : Int := layH x
  let k := fun i => l.getD i 0
  let off : Int := k 0 + layQ x 0 * ((k 1 + h) + layQ x 1 * ((k 2 + h) + layQ x 2 * (k 3 + h)))
  layBase x % 2 ^ 28 + layBase x / 2 ^ 31 * 2 ^ 31 + die * 2 ^ 28 + layU x * off.toNat

/-- Index tuples of ranges, dimension 0 fastest: each range is its first index and its length. -/
def boxOf (r : List (Int × Nat)) : List (List Int) :=
  match r with
  | [] => [[]]
  | (lo, n) :: rest => (boxOf rest).flatMap fun t => (List.range n).map fun (i : Nat) => (lo + (i : Int)) :: t

/-- A named layout register is valid and the caller's die is in its grid (R343). -/
def layCheck (s : State) (n : Ix8) : Except FaultInfo (Lay × List Nat) :=
  let x := s.me.regs.lay[n]
  if !layV x then .error (fault 0x17 0 (BitVec.ofNat 64 n.val))
  else match gridOf x (torusOf s s.me.die) with
    | none => .error (fault 0x17 1 (BitVec.ofNat 64 n.val))
    | some g => .ok (x, g)

/-- `lset` (R344). -/
def execLset (n : Ix8) (a : SReg) (s : State) : Out :=
  let A := rdS s a
  .next (tryWith (readDesc s A 64 64) (fun (gs, bs) s =>
    let x := BitVec.ofNat 512 (leNat bs)
    checked (failIf (!layOk s x) (fault 0x17 2 A)) (fun s =>
      emit 1 .none 0 (modRegs (fun r => { r with lay := r.lay.set n x }) (touchDesc gs s))) s) s)

/-- `lcoord` (R344). -/
def execLcoord (b : SReg) (n q : Ix8) (s : State) : Out :=
  .next (tryWith (layCheck s n) (fun (x, g) s =>
    let v := if q.val < 4 then (blockOrigin x g).getD q.val 0 else if q.val = 4 then rankOf x g else layP x
    pendS b (BitVec.ofNat 64 v) true s) s)

/-- The neighbour's torus coordinates along an axis of the layout's grid (R345). -/
def neighbour (s : State) (x : Lay) (die ax : Nat) (dir : Bool) : List Nat :=
  let c := torusOf s die
  let e := layE x ax
  let k := c.getD ax 0 - layO x ax
  c.set ax (layO x ax + (if dir then k + 1 else k + e - 1) % e)

/-- The word of `lnbr` (R345). -/
def nbrWord (s : State) (x : Lay) (die ax : Nat) (dir : Bool) : Word :=
  let c := neighbour s x die ax dir
  let g := (gridOf x c).getD []
  let self := decide (c = torusOf s die)
  let rem := (List.range 3).any fun a => c.getD a 0 / 2 ≠ modCoord s a
  BitVec.ofNat 64 (rankOf x g % 2 ^ 18 * 2 ^ 32 + self.toNat * 2 ^ 25 + rem.toNat * 2 ^ 24 + c.getD 2 0 * 2 ^ 18
    + c.getD 1 0 * 2 ^ 12 + c.getD 0 0 * 2 ^ 6 + dieAt c)

/-- `lnbr` (R345). -/
def execLnbr (b : SReg) (n : Ix8) (ax : Fin 4) (dir : Bool) (s : State) : Out :=
  .next (tryWith (layCheck s n) (fun (x, _) s => pendS b (nbrWord s x s.me.die ax.val dir) true s) s)

/-! ### Receive bindings (R346) -/

/-- The binding of a world and KEY on a die. -/
def bindingOf (s : State) (die : Nat) (world : Bool) (key : Nat) : Option RecvBind :=
  (dieOf s die).recvs.find? fun b => b.world = world && b.key = key

/-- Receive bindings of a die. -/
def recvTable : Nat := 32

/-- The checks of `hrecv` after its layout's (R343, R346). -/
def hrecvCheck (s : State) (key addr : Nat) : Option FaultInfo :=
  let K := BitVec.ofNat 64 key
  let b := bindingOf s s.me.die s.me.world key
  firstFault [
    failIf (b.isNone && decide ((dieOf s s.me.die).recvs.length ≥ recvTable)) (fault 0x17 5 K),
    failIf (match b with | some x => x.lnch ≠ s.me.lnch | none => false) (fault 0x17 6 K),
    failIf (addr / 2 ^ 28 % 8 ≠ s.me.die) (fault 0x17 7 (BitVec.ofNat 64 addr))]

/-- Bindings of a die without one of them. -/
def dropBinding (die : Nat) (world : Bool) (key : Nat) (s : State) : State :=
  modDie die (fun d => { d with recvs := d.recvs.filter fun b => !(b.world = world && b.key = key) }) s

/-- `hrecv` (R346). -/
def execHrecv (n : Ix8) (k : KReg) (s : State) : Out :=
  .next (checked (handleCheck s k) (fun s =>
    tryWith (layCheck s n) (fun (x, _) s =>
      let key := layKey x
      let addr := counterOf s k
      checked (hrecvCheck s key addr) (fun s =>
        emit 1 .none 0 (modDie s.me.die (fun d => { d with recvs := d.recvs ++ [⟨s.me.world, key, s.me.lnch, addr⟩] })
          (dropBinding s.me.die s.me.world key s))) s) s) s)

/-- `hrecv.rel` (R346). -/
def execHrecvRel (n : Ix8) (s : State) : Out :=
  .next (tryWith (layCheck s n) (fun (x, _) s =>
    let key := layKey x
    match bindingOf s s.me.die s.me.world key with
    | none => emit 1 .none 0 s
    | some b => checked (failIf (b.lnch ≠ s.me.lnch) (fault 0x17 6 (BitVec.ofNat 64 key)))
        (fun s => emit 1 .none 0 (dropBinding s.me.die s.me.world key s)) s) s)

/-! ### Arrivals (R348, R350, R354) -/

/-- The checks of the write of bytes at store addresses of a die for the launch of a binding (R346). -/
def arriveSegs (s : State) (b : RecvBind) (die : Nat) (cells : List Host.Cell) : Except FaultInfo (List (List Seg × List Byte)) :=
  storeSegs s { world := b.world, lnch := b.lnch, die } 1 .store 1 (cells.map fun c => (BitVec.ofNat 64 c.1, [c.2]))

/-- Bytes with their store addresses written on a die for the launch of a binding, as one write (R346, R245). -/
def arriveBytes (u : Nat) (b : RecvBind) (die : Nat) (cells : List Host.Cell) (s : State) : Except FaultInfo State :=
  match arriveSegs s b die cells with
  | .error f => .error f
  | .ok r => .ok (storeAll (stepSegs .store (some u)) die r s)

/-- The write of an arrival at a die of this module, and the add it then owes; nothing is written when the binding or its counter is
not ready (R348). -/
def arriveAtDie (u : Nat) (world : Bool) (p : Piece) (s : State) : Except FaultInfo (State × Nat × Nat) :=
  match bindingOf s p.die world p.key with
  | none => .error (fault 0x11 5 (BitVec.ofNat 64 p.key))
  | some b =>
    if lineAt s b.addr ≠ .counter then .error (fault 0x11 5 (BitVec.ofNat 64 b.addr))
    else match arriveBytes u b p.die p.cells s with
      | .error f => .error f
      | .ok s => .ok (s, b.lnch, b.addr)

/-- A die has a landing buffer for traffic from another die (R354). -/
def bufferFree (s : State) (src die : Nat) : Bool := src = die || decide ((dieOf s die).landing < 8)

/-- An arrival takes a landing buffer, or gives its back, unless it comes from the die itself (R354). -/
def useBuffer (src die : Nat) (f : Nat → Nat) (s : State) : State := if src = die then s else modDie die (fun d => { d with landing := f d.landing }) s

/-- The first piece of a command is delivered: the next one follows; after the last the command has executed. -/
def pieceDone (u : Nat) (x : Cmd) (s : State) : State :=
  modCmd u x.tag (fun y => { y with
    stage := 2, todo := y.todo.drop 1, pieces := y.pieces.drop 1
    amount := y.amount + ((y.pieces.head?).map fun p => p.cells.length).getD 0 }) s

/-- The first piece of a command is written: its add is owed. -/
def pieceWritten (u : Nat) (x : Cmd) (w : Nat × Nat) (s : State) : State :=
  modCmd u x.tag (fun y => { y with pieces := match y.pieces with | p :: ps => { p with owes := some w } :: ps | [] => [] }) s

/-- An arrival at a die of this module (R348, R354): it takes a buffer and is written; then, an operation of its own (R243), its add is
made and the buffer released. -/
def arrivePiece (u : Nat) (c : Ctx) (x : Cmd) (p : Piece) (s : State) : State :=
  match p.owes with
  | none =>
    if !bufferFree s c.die p.die then s
    else match arriveAtDie u c.world p s with
      | .error f => failCmd u x f s
      | .ok (s, w) => pieceWritten u x w (useBuffer c.die p.die (· + 1) s)
  | some (l, a) =>
    let (s, f, ok) := cmdAdd c.world l x a p.cells.length (useBuffer c.die p.die (· - 1) s)
    match f, ok with
    | none, _ => pieceDone u x s
    | some f, true => pieceDone u x (recordFault u f s)
    | some f, false => failCmd u x f s

/-- A piece leaves for another module: the engine command's own flow (R336, R379). -/
def sendPiece (u : Nat) (c : Ctx) (x : Cmd) (m : Nat) (p : Piece) (port : Nat) (s : State) : State :=
  if bit s.fab.portw port && !c.world then failCmd u x (fault 0x0C 0 (Config.openAddr 4)) s
  else issueRemote u c.lnch c.tid
    { src := myModule s, target := m, flow := 0, seq := 0, key := 0, store := true, addr := 0, world := c.world, port
      op := .face p.die p.key p.cells }
    false 0 (.engine x.tag 0) (faceRoute s port) (modCmd u x.tag (fun y => { y with stage := 3 }) s)

/-- The next arrival of an `hsend` or a `reshard` (R348, R350). -/
def nextArrival (u tag : Nat) (s : State) : State :=
  match findCtx u s, findCmd u tag s with
  | some c, some x =>
    match x.pieces with
    | [] => s
    | p :: _ =>
      if x.stage ≠ 2 || x.fault.isSome then s
      else match p.mod with
        | some m => if earlierRemote s u x then s else sendPiece u c x (m % 2 ^ 16) p (m / 2 ^ 16) s
        | none => arrivePiece u c x p s
  | _, _ => s

/-- LADLE_ARRIVAL (R348). -/
def execLadleArrival (c tag : Nat) (s : State) : Out :=
  .next (match findCmd c tag s with
    | some x => (match x.op with | .hsend .. => nextArrival c tag s | _ => s)
    | none => s)

/-- RESHARD_ARRIVAL (R350). -/
def execReshardArrival (c tag : Nat) (s : State) : Out :=
  .next (match findCmd c tag s with
    | some x => (match x.op with | .reshard .. => nextArrival c tag s | _ => s)
    | none => s)

/-- A piece for torus coordinates: destination addresses with the bytes read (R336, R341). -/
def mkPiece (s : State) (src : Nat) (c : List Nat) (key : Nat) (dst : List Nat) (els : List (List Byte)) : Piece :=
  { mod := (faceTarget s src c).map fun x => x.1 + 2 ^ 16 * x.2, die := dieAt c, key, owes := none
    cells := (dst.zip els).flatMap fun x => x.2.zipIdx.map fun b => (x.1 + b.2, b.1) }

/-- A command whose pieces are read waits for their arrivals. -/
def setPieces (u : Nat) (x : Cmd) (ps : List Piece) (s : State) : State :=
  modCmd u x.tag (fun y => { y with begun := true, stage := 2, todo := List.range ps.length, pieces := ps, amount := 0 }) s

/-- Elements of the store read as one read of an engine (R245). -/
def readElems (s : State) (c : Ctx) (t : Tag) (as : List Nat) : Except FaultInfo (List Seg × List (List Byte)) :=
  loadElems s (agentOf c) 1 t false (as.map fun a => (0, false, BitVec.ofNat 64 a))

/-! ### The ladle (R347 to R349) -/

/-- Local coordinates of the face along an axis (R347). -/
def faceBox (x : Lay) (ax : Nat) (dir : Bool) : List (List Int) :=
  let h : Int := layH x
  boxOf ((0, layB x 0) :: (List.range 3).map fun k =>
    let b := layB x (k + 1)
    if k = ax then (if dir then (b : Int) - h else 0, layH x)
    else if k < ax then (-h, b + 2 * layH x) else (0, b))

/-- Where an element of a face lands, in local coordinates of the neighbour (R347). -/
def faceShift (x : Lay) (ax : Nat) (dir : Bool) (l : List Int) : List Int :=
  let b : Int := layB x (ax + 1)
  l.set (ax + 1) (l.getD (ax + 1) 0 + if dir then -b else b)

/-- `hsend` (R348). -/
def execHsend (n : Ix8) (ax : Fin 4) (dir : Bool) (k : Option KReg) (s : State) : Out :=
  .next (checked (kcCheck s k) (fun s =>
    tryWith (layCheck s n) (fun (x, _) s =>
      checked (failIf (layKind x ≠ 1 || layHalo x = 0) (fault 0x17 4 (BitVec.ofNat 64 n.val)))
        (fun s => issueCmd (.hsend x ax.val dir (kcAddr s k)) (kcAddr s k) s) s) s) s)

/-- `hsend` executes: the face is read (R348). -/
def doHsend (u : Nat) (c : Ctx) (x : Cmd) (l : Lay) (ax : Nat) (dir : Bool) (s : State) : State :=
  let q := neighbour s l c.die ax dir
  let box := faceBox l ax dir
  match readElems s c (layTag l) (box.map (layAddr l c.die)) with
  | .error f => failCmd u x f s
  | .ok (gs, els) =>
    setPieces u x [mkPiece s c.die q (layKey l) (box.map fun i => layAddr l (dieAt q) (faceShift l ax dir i)) els]
      (stepFor .plain u x (distinctLines gs) s)

/-! ### Re-shard (R350, R351) -/

/-- The checks of `reshard` (R350). -/
def reshardCheck (s : State) (d n : Ix8) : Except FaultInfo (Lay × Lay) :=
  let x := s.me.regs.lay[d]
  let y := s.me.regs.lay[n]
  match firstFault [failIf (!layV x) (fault 0x17 0 (BitVec.ofNat 64 d.val)), failIf (!layV y) (fault 0x17 0 (BitVec.ofNat 64 n.val))] with
  | some f => .error f
  | none =>
    match layCheck s n with
    | .error f => .error f
    | .ok _ =>
      if layTag x = layTag y && ((List.range 4).all fun k => layG x k = layG y k) then .ok (x, y)
      else .error (fault 0x17 3 (BitVec.ofNat 64 n.val))

/-- `reshard` (R350). -/
def execReshard (d n : Ix8) (k : Option KReg) (s : State) : Out :=
  .next (checked (firstFault [kcCheck s k, crwCheck s 1]) (fun s =>
    tryWith (reshardCheck s d n) (fun (x, y) s => issueCmd (.reshard x y (kcAddr s k)) (kcAddr s k) s) s) s)

/-- Whether a command is a `reshard`. -/
def isReshard (x : Cmd) : Bool :=
  match x.op with
  | .reshard .. => true
  | _ => false

/-- `reshard` commands of a die that have not completed (R351), those of saved threads among them. -/
def reshardsOf (s : State) (die : Nat) : Nat :=
  (((s.me :: s.others ++ s.saved.map (·.ctx)).filter fun c => c.die = die).map fun c => (c.sq.cmds.filter isReshard).length).sum

/-- The global box of a piece: first index and length in each dimension (R350); `g` is the destination's place, `me` the
source's. -/
def shardBox (d y : Lay) (g me : List Nat) : List (Int × Nat) :=
  let od := blockOrigin d g
  let os := blockOrigin y me
  (List.range 4).map fun k =>
    let lo := od.getD k 0
    let hi := lo + layB d k
    if layKind y = 4 then (if rankOf y me = rankOf d g % layP y then ((lo : Int), layB d k) else ((lo : Int), 0))
    else
      let lo' := max lo (os.getD k 0)
      ((lo' : Int), min hi (os.getD k 0 + layB y k) - lo')

/-- Local coordinates of a global index. -/
def toLocal (o : List Nat) (i : List Int) : List Int := (List.range 4).map fun k => i.getD k 0 - o.getD k 0

/-- `reshard` executes: every piece is read, as one read (R350). -/
def doReshard (u : Nat) (c : Ctx) (x : Cmd) (d y : Lay) (s : State) : State :=
  let me := (gridOf y (torusOf s c.die)).getD []
  let plan := (List.range (layP d)).filterMap fun r =>
    let g := gridOfRank d r
    let is := boxOf (shardBox d y g me)
    let q := (List.range 3).map fun a => layO d a + g.getD a 0
    if is.isEmpty then none
    else some (q, is.map fun i => layAddr y c.die (toLocal (blockOrigin y me) i),
      is.map fun i => layAddr d (dieAt q) (toLocal (blockOrigin d g) i))
  match readElems s c (layTag y) (plan.flatMap fun p => p.2.1) with
  | .error f => failCmd u x f s
  | .ok (gs, els) =>
    let ps := (plan.foldl (fun (r : List Piece × List (List Byte)) p =>
      (r.1 ++ [mkPiece s c.die p.1 (layKey d) p.2.2 (r.2.take p.2.1.length)], r.2.drop p.2.1.length)) ([], els)).1
    setPieces u x ps (stepFor .plain u x (distinctLines gs) s)

/-! ### Creamery reduction (R352 to R354) -/

/-- The operands of `cred` (R352). -/
structure CredOps where
  src : Nat
  dst : Nat
  n   : Nat
  m   : Nat
  r   : Nat
  key : Nat
deriving DecidableEq, Repr

/-- Fields of s(sa) and s(sb). -/
def credOps (x y : Word) : CredOps :=
  { src := bits x 0 32, dst := bits x 32 32, n := bits y 0 20, m := bits y 32 8, r := bits y 40 8, key := bits y 48 16 }

/-- The checks of `cred` (R352). -/
def credCheck (s : State) (x y : Word) (ch : Bool) : Option FaultInfo :=
  let o := credOps x y
  firstFault [
    failIf (o.n = 0 || bits y 20 12 ≠ 0 || o.m / 2 ^ s.me.die % 2 = 0 || o.r &&& o.m ≠ o.r || (!ch && o.r = 0) || (ch && o.r ≠ 0))
      (fault 0x02 0 y),
    failIf (o.src / 2 ^ 28 % 8 ≠ s.me.die) (fault 0x02 0 x),
    failIf (o.src % 64 ≠ 0) (fault 0x0B 0 (BitVec.ofNat 64 o.src)),
    failIf (o.dst % 64 ≠ 0) (fault 0x0B 0 (BitVec.ofNat 64 o.dst))]

/-- How many `cred`s of a KEY a die of a launch has issued (R352). -/
def credCount (s : State) (lnch key die : Nat) : Nat :=
  ((s.credSeq.find? fun x => x.1 = lnch && x.2.1 = key && x.2.2.1 = die).map fun x => x.2.2.2).getD 0

/-- Reduction `j` of a KEY. -/
def findRed (s : State) (lnch key j : Nat) : Option Reduction := s.reductions.find? fun r => r.lnch = lnch && r.key = key && r.j = j

/-- Changing it. -/
def modRed (lnch key j : Nat) (f : Reduction → Reduction) (s : State) : State :=
  { s with reductions := s.reductions.map fun r => if r.lnch = lnch && r.key = key && r.j = j then f r else r }

/-- A `cred` joins its reduction (R352). -/
def joinRed (lnch key j : Nat) (x : Contrib) (s : State) : State :=
  if (findRed s lnch key j).isSome then modRed lnch key j (fun r => { r with ins := r.ins ++ [x] }) s
  else { s with reductions := s.reductions ++ [{ lnch, key, j, ins := [x], result := none, toBuf := [], held := [], written := [], fault := none }] }

/-- `cred` in either form (R352). -/
def credWith (a b : SReg) (ch : Option Nat) (k : Option KReg) (s : State) : State :=
  let x := rdS s a
  let y := rdS s b
  let o := credOps x y
  checked (firstFault [kcCheck s k, crwCheck s 0, if ch.isSome then crwCheck s 2 else none, credCheck s x y ch.isSome]) (fun s =>
    let l := s.me.lnch
    let j := credCount s l o.key s.me.die
    let tag := s.me.sq.cmdCount % 2 ^ 32
    let s := { s with credSeq := (s.credSeq.filter fun x => !(x.1 = l && x.2.1 = o.key && x.2.2.1 = s.me.die)) ++ [(l, o.key, s.me.die, j + 1)] }
    joinRed l o.key j { die := s.me.die, cid := s.me.uid, tag, src := o.src, dst := o.dst, n := o.n, m := o.m, r := o.r, ch }
      (issueCmd (.cred o.src o.dst o.n o.m o.r o.key ch j (kcAddr s k)) (kcAddr s k) s)) s

/-- `cred` (R352). -/
def execCred (a b : SReg) (k : Option KReg) (s : State) : Out := .next (credWith a b none k s)
/-- `cred.ch` (R352, R353). -/
def execCredCh (a b : SReg) (c : Fin 64) (k : Option KReg) (s : State) : Out := .next (credWith a b (some c.val) k s)

/-- The contribution of a `cred` is read; a fault of the read is kept for the reduction (R353). -/
def doCred (u : Nat) (c : Ctx) (x : Cmd) (src n : Nat) (s : State) : State :=
  let put := fun f => modCmd u x.tag (fun y => f { y with begun := true, stage := 1, todo := [0] })
  match engSegs s (agentOf c) 1 .plain (BitVec.ofNat 64 src) (4 * n) 64 with
  | .error f => put (fun y => { y with fault := some (engFault x f) }) s
  | .ok gs =>
    match badLine s gs with
    | some a => put (fun y => { y with fault := some (cmdFault x 0x16 0 (BitVec.ofNat 64 (a.toNat / 64 * 64))) }) s
    | none => put (fun y => { y with elems := [(0, 0, readSegs s gs)] }) (stepFor .plain u x (distinctLines gs) s)

/-- Every die named in the M of a joined command has joined (R352). -/
def redComplete (r : Reduction) : Bool :=
  !r.ins.isEmpty && r.ins.all fun x => (List.range 8).all fun d => x.m / 2 ^ d % 2 = 0 || r.ins.any fun y => y.die = d

/-- RNE_fp32 of a sum of two patterns (R353). -/
def sum32 (a b : Nat) : Nat := (fAdd fmtFP32 .rne (decodeFmt fmtFP32 a) (decodeFmt fmtFP32 b)).1

/-- The fixed order of R353 on eight patterns. -/
def sum8 (x : Nat → Nat) : Nat := sum32 (sum32 (sum32 (x 0) (x 1)) (sum32 (x 2) (x 3))) (sum32 (sum32 (x 4) (x 5)) (sum32 (x 6) (x 7)))

/-- The command of a contribution. -/
def contribCmd (s : State) (x : Contrib) : Option Cmd := findCmd x.cid x.tag s

/-- FP32 words of bytes. -/
def words32 (bs : List Byte) : List Nat := (List.range (bs.length / 4)).map fun i => leNat ((bs.drop (4 * i)).take 4)

/-- The result of a reduction from its contributions (R353). -/
def redResult (s : State) (r : Reduction) (n m : Nat) : List (BitVec 32) :=
  let cols := (List.range 8).map fun d =>
    match r.ins.find? fun x => x.die = d with
    | some x => if m / 2 ^ d % 2 = 1 then some (words32 (((contribCmd s x).bind fun y => (y.elems.head?).map fun e => e.2.2).getD [])) else none
    | none => none
  (List.range n).map fun e => BitVec.ofNat 32 (sum8 fun d => match cols.getD d none with | some w => w.getD e 0 | none => 0x80000000)

/-- The reduction is over: every contributor completes with its add, or faults; the buffers are free. -/
def endRed (r : Reduction) (f : Option FaultInfo) (amount : Nat) (s : State) : State :=
  let s := r.ins.foldl (fun s x =>
    match contribCmd s x with
    | none => s
    | some y =>
      match f with
      | some f => modCmd x.cid x.tag (fun y => { y with begun := true, fault := some (engFault y f), todo := [] }) s
      | none => doneCmd x.cid y amount s) s
  { s with reductions := s.reductions.filter fun x => !(x.lnch = r.lnch && x.key = r.key && x.j = r.j) }

/-- A fault with the cause and address of a contributor's read, to be given each command's own tag. -/
def plainFault (f : FaultInfo) : FaultInfo := { f with tag := 0, detail := if f.cause = 0x0A || f.cause = 0x0C then f.detail else [] }

/-- The channel of a launch with a number. -/
def chanOf (s : State) (lnch ch : Nat) : Option Chan := s.chans.find? fun c => c.lnch = lnch && c.ch = ch

/-- Changing a channel. -/
def modChan (lnch ch : Nat) (f : Chan → Chan) (s : State) : State :=
  { s with chans := s.chans.map fun c => if c.lnch = lnch && c.ch = ch then f c else c }

/-- Channel causes name the channel (R343). -/
def chanFault (sub ch : Nat) : FaultInfo := fault 0x18 sub (BitVec.ofNat 64 ch)

/-- The result of a reduction with CH = 1 joins the queue of its channel, or faults (R353). -/
def redToChan (r : Reduction) (x : Contrib) (ch : Nat) (ys : List (BitVec 32)) (s : State) : State :=
  let low := ((List.range 8).find? fun d => x.m / 2 ^ d % 2 = 1).getD 0
  match (chanOf s r.lnch ch).bind fun c => c.snd.map fun e => (c, e) with
  | none => endRed r (some (chanFault 0 ch)) 0 s
  | some (c, e) =>
    if ((findCtx e.cid s).map fun k => k.die) ≠ some low then endRed r (some (chanFault 0 ch)) 0 s
    else if e.lanes ≠ x.n || e.tag ≠ .fp32 then endRed r (some (chanFault 1 ch)) 0 s
    else if c.rcvGone then endRed r (some (chanFault 2 ch)) 0 s
    else modRed r.lnch r.key r.j (fun r => { r with result := some ys })
      (modChan r.lnch ch (fun c => { c with snd := c.snd.map fun e => { e with queue := e.queue ++ [
        { cid := e.cid, lnch := r.lnch, tid := e.tid, op := r.key, item := ys.flatMap fun y => leBytes 4 y.toNat, n := r.j + 1 }] } }) s)

/-- The contributions that are not read yet are read (R353). -/
def redReads (r : Reduction) (s : State) : State :=
  r.ins.foldl (fun s y =>
    match findCtx y.cid s, contribCmd s y with
    | some c, some k => if k.stage = 0 then doCred y.cid c k y.src y.n s else s
    | _, _ => s) s

/-- The fault of the lowest die's read, if a read faulted (R353). -/
def redFault (r : Reduction) (s : State) : Option FaultInfo :=
  (List.range 8).findSome? fun d => (r.ins.find? fun y => y.die = d).bind fun y => (contribCmd s y).bind fun k => k.fault

/-- CREAMERY_REDUCTION (R353): every contribution that is not read yet is read; the result is formed. -/
def execCreameryReduction (lnch key j : Nat) (s : State) : Out :=
  .next (match findRed s lnch key j with
    | none => s
    | some r =>
      if !redComplete r || r.result.isSome then s
      else match r.ins with
        | [] => s
        | x :: _ =>
          if r.ins.any fun y => y.n ≠ x.n || y.m ≠ x.m || y.r ≠ x.r || y.ch ≠ x.ch then endRed r (some (fault 0x11 2 0)) 0 s
          else
            let s := redReads r s
            match redFault r s with
            | some f => endRed r (some (plainFault f)) 0 s
            | none =>
              let ys := redResult s r x.n x.m
              match x.ch with
              | some ch => redToChan r x ch ys s
              | none => modRed lnch key j (fun r => { r with result := some ys, toBuf := (List.range 8).filter fun d => x.r / 2 ^ d % 2 = 1 }) s)

/-- The write of a result on one die of R, at the destination that die's own `cred` names (R352, R354). -/
def redWrite (r : Reduction) (d : Nat) (ys : List (BitVec 32)) (s : State) : Except FaultInfo State :=
  match r.ins.find? fun x => x.die = d with
  | none => .ok s
  | some x =>
    let A := BitVec.ofNat 64 (x.dst / 2 ^ 31 * 2 ^ 31 + d * 2 ^ 28 + x.dst % 2 ^ 28)
    let w := match findCtx x.cid s with | some c => c.world | none => false
    match storeSegs s { world := w, lnch := r.lnch, die := d } 1 .store 64 [(A, ys.flatMap fun y => leBytes 4 y.toNat)] with
    | .error f => .error f
    | .ok g => .ok (storeAll (stepSegs .store (some x.cid)) d g s)

/-- REDUCTION_DELIVERY (R354): the next landing buffer in ascending die order is taken, if one is free; when all are
held, the next die is written and its buffer released. -/
def execReductionDelivery (lnch key j : Nat) (s : State) : Out :=
  .next (match findRed s lnch key j with
    | none => s
    | some r =>
      match r.result, r.toBuf, r.held with
      | none, _, _ => s
      | some _, d :: ds, _ =>
        if (dieOf s d).landing ≥ 8 then s
        else modRed lnch key j (fun r => { r with toBuf := ds, held := r.held ++ [d] }) (modDie d (fun x => { x with landing := x.landing + 1 }) s)
      | some ys, [], d :: ds =>
        let (s, f) := match redWrite r d ys s with
          | .ok s => (s, r.fault)
          | .error f => (s, r.fault.orElse fun _ => some (plainFault f))
        let s := modDie d (fun x => { x with landing := x.landing - 1 }) s
        let r' := { r with held := ds, written := r.written ++ [d], fault := f }
        if ds.isEmpty then endRed r' f (4 * ys.length * r'.written.length) s
        else modRed lnch key j (fun _ => r') s
      | some _, [], [] => s)

/-! ### Channels (R355 to R358, R360) -/

/-- The end a descriptor declares (R355), for thread `tid` with context `u`. -/
def chanEnd (x : BitVec 256) (tid u : Nat) : ChanEnd :=
  let f := fun lo w => fld x.toNat lo w
  { tid, cid := u, tag := (Tag.ofCode (f 108 4)).getD .none, lanes := f 118 10 + 1, depth := f 112 6 + 1, rem := x.getLsbD 107
    win := f 144 16, pch := f 138 6, pail := f 224 32, fillc := f 192 32, freec := f 160 32, pdie := 0, pentry := 0, count := 0
    base := 0, queue := [] }

/-- A descriptor of the receive end. -/
def chanIsRcv (x : BitVec 256) : Bool := x.getLsbD 106

/-- Bytes of an item, and lines of a slot (R355). -/
def itemBytes (e : ChanEnd) : Nat := e.lanes * laneW e.tag / 8
/-- Λ. -/
def slotLines (e : ChanEnd) : Nat := (itemBytes e + 63) / 64

/-- Ranges and reserved bits (R355, R356). -/
def chanFieldsOk (x : BitVec 256) : Bool :=
  let e := chanEnd x 0 0
  fld x.toNat 0 106 = 0 && fld x.toNat 128 10 = 0 && elemTag (fld x.toNat 108 4) && decide (e.lanes ≤ lanes e.tag) &&
    (if chanIsRcv x then e.pail % 64 = 0 && e.fillc % 8 = 0 && e.freec % 8 = 0 else e.pail = 0 && e.fillc = 0 && e.freec = 0)

/-- The pail of a receive end (R356). -/
def chanPail (e : ChanEnd) : PailDesc := { fillc := e.fillc, freec := e.freec, base := e.pail, lines := slotLines e, depth := e.depth }

/-- Whether two ends of one side are the same declaration. -/
def sameEnd (a b : ChanEnd) : Bool :=
  a.tid = b.tid && a.tag = b.tag && a.lanes = b.lanes && a.depth = b.depth && a.rem = b.rem && a.win = b.win && a.pch = b.pch &&
    a.pail = b.pail && a.fillc = b.fillc && a.freec = b.freec

/-- The ends of a channel: the one a descriptor declares, and the other. -/
def chanEnds (c : Option Chan) (rcv : Bool) : Option ChanEnd × Option ChanEnd :=
  match c with
  | none => (none, none)
  | some c => if rcv then (c.rcv, c.snd) else (c.snd, c.rcv)

/-- The channel table (R356). -/
def chanTable : Nat := 1024

/-- The last checks of `chset` (R356). -/
def chsetCheck (s : State) (ch : Nat) (rcv : Bool) (e : ChanEnd) : Option FaultInfo :=
  let c := chanOf s s.me.lnch ch
  let (own, other) := chanEnds c rcv
  firstFault [
    failIf ((match own with | some o => o.tid ≠ s.me.tid | none => false) || (c.isNone && decide (s.chans.length ≥ chanTable))) (chanFault 3 ch),
    failIf (match other with | some o => o.tag ≠ e.tag || o.lanes ≠ e.lanes || o.depth ≠ e.depth | none => false) (chanFault 1 ch)]

/-- What is queued on an end that its holder declares anew stays queued on it, oldest first. DESIGN CHOICE (assumption log 38):
the manual says only that the counts start again, so receives that are queued are the first that the new declaration counts. -/
def keepQueue (rcv : Bool) (old : Option ChanEnd) (e : ChanEnd) : ChanEnd :=
  let q := (old.map fun o => o.queue).getD []
  if rcv then { e with queue := q.zipIdx.map fun x => { x.1 with n := x.2 }, count := q.length } else { e with queue := q }

/-- A channel with an end replaced. -/
def putEnd (lnch ch : Nat) (rcv : Bool) (e : ChanEnd) (s : State) : State :=
  let s := if (chanOf s lnch ch).isSome then s
    else { s with chans := s.chans ++ [{ lnch, ch, snd := none, rcv := none, sndGone := false, rcvGone := false, written := 0 }] }
  modChan lnch ch (fun c =>
    if rcv then { c with rcv := some (keepQueue true c.rcv e), rcvGone := false, written := 0 }
    else { c with snd := some (keepQueue false c.snd e), sndGone := false }) s

/-- The pail of a receive end that is declared (R356): a new one, or the live one of the same fields, defined anew. Its entry. -/
def declarePail (p : PailDesc) (plan : PailPlan) (s : State) : State × Nat :=
  match plan with
  | .same n _ => (renewPail (p.base / 2 ^ 28) n s, n)
  | .make n => (makePail s.me.lnch p n s, n)

/-- The declaration of an end whose checks have passed (R356). -/
def declareEnd (ch : Nat) (rcv : Bool) (e : ChanEnd) (plan : Option PailPlan) (s : State) : State :=
  let (own, _) := chanEnds (chanOf s s.me.lnch ch) rcv
  if (match own with | some o => sameEnd o e | none => false) then s
  else match plan with
    | none => putEnd s.me.lnch ch rcv e s
    | some p =>
      let (s, n) := declarePail (chanPail e) p s
      putEnd s.me.lnch ch rcv { e with pdie := e.pail / 2 ^ 28, pentry := n, base := counterAt s e.fillc } s

/-- `chset` (R356). -/
def execChset (c : Fin 64) (a : SReg) (s : State) : Out :=
  let A := rdS s a
  .next (checked (crwCheck s 2) (tryWith (readDesc s A 32 32) (fun (gs, bs) s =>
    let x := BitVec.ofNat 256 (leNat bs)
    let e := chanEnd x s.me.tid s.me.uid
    checked (failIf (!chanFieldsOk x) (fault 0x02 0 A)) (fun s =>
      tryWith (if chanIsRcv x then (match pailPlan s s.me.lnch (chanPail e) A with | .error f => .error f | .ok p => .ok (some p)) else .ok none)
        (fun plan s => checked (chsetCheck s c.val (chanIsRcv x) e)
          (fun s => emit 1 .none 0 (declareEnd c.val (chanIsRcv x) e plan (touchDesc gs s))) s) s) s)) s)

/-- Failing the commands of queued sends (R360). -/
def failSends (ch : Nat) (q : List ChanOp) (s : State) : State :=
  q.foldl (fun s o =>
    if o.n ≠ 0 then match findRed s o.lnch o.op (o.n - 1) with | some r => endRed r (some (chanFault 2 ch)) 0 s | none => s
    else match findCmd o.cid o.op s with | some x => failCmd o.cid x (chanFault 2 ch) s | none => s) s

/-- A pending receive that gets no item: `vn` is tagged POISON and a boundary fault comes with it (R343, R358, R360). -/
def failRecv (f : FaultInfo) (o : ChanOp) (s : State) : State :=
  modSqOf o.cid (fun q => { q with pends := q.pends.map fun p =>
    if p.id = o.op then { p with ready := true, arrive := none, fault := some f, upd := noData p.upd } else p }) s

/-- Tells the module of a remote peer that an end is gone (R360). -/
def tellGone (lnch : Nat) (e : ChanEnd) (s : State) : State :=
  if e.rem then sendMsg ((winEntryNo s lnch e.win).getD 0, 4, e.pch, 0, []) s else s

/-- The effect on the receiver of the send end's going: receives whose item was never written fault (R360). -/
def sendEndGone (c : Chan) (s : State) : State :=
  let lost := fun (o : ChanOp) => decide (o.n ≥ c.written)
  let q := (c.rcv.map fun e => e.queue).getD []
  let s := (q.filter lost).foldl (fun s o => failRecv { chanFault 2 c.ch with detail := [4] } o s) s
  modChan c.lnch c.ch (fun c => { c with sndGone := true, rcv := c.rcv.map fun e => { e with queue := e.queue.filter fun o => !lost o } }) s

/-- The effect on the sender of the receive end's going (R360). -/
def recvEndGone (c : Chan) (s : State) : State :=
  let q := (c.snd.map fun e => e.queue).getD []
  modChan c.lnch c.ch (fun c => { c with rcvGone := true, snd := c.snd.map fun e => { e with queue := [] } }) (failSends c.ch q s)

/-- The send end of a channel is released (R356, R360). -/
def releaseSnd (c : Chan) (e : ChanEnd) (s : State) : State :=
  let s := failSends c.ch (e.queue.filter fun o => o.n ≠ 0) s
  modChan c.lnch c.ch (fun c => { c with snd := none }) (sendEndGone c (tellGone c.lnch e s))

/-- The receive end is released: its pail is freed (R356, R360). -/
def releaseRcv (c : Chan) (e : ChanEnd) (s : State) : State :=
  let s := freePailEntry e.pdie e.pentry (tellGone c.lnch e s)
  modChan c.lnch c.ch (fun c => { c with rcv := none }) (recvEndGone c s)

/-- Both ends that a thread holds of a channel are released; a channel without ends leaves the table. -/
def releaseEnds (lnch ch tid : Nat) (s : State) : State :=
  let mine := fun (e : Option ChanEnd) => match e with | some e => decide (e.tid = tid) | none => false
  let s := match chanOf s lnch ch with
    | some c => (match c.snd with | some e => if mine c.snd then releaseSnd c e s else s | none => s)
    | none => s
  let s := match chanOf s lnch ch with
    | some c => (match c.rcv with | some e => if mine c.rcv then releaseRcv c e s else s | none => s)
    | none => s
  { s with chans := s.chans.filter fun c => !(c.lnch = lnch && c.ch = ch && c.snd.isNone && c.rcv.isNone) }

/-- Whether the caller holds an end of a channel. -/
def holdsEnd (s : State) (ch : Nat) (rcv : Bool) : Option (Chan × ChanEnd) :=
  match chanOf s s.me.lnch ch with
  | none => none
  | some c => (if rcv then c.rcv else c.snd).bind fun e => if e.tid = s.me.tid then some (c, e) else none

/-- Whether a command is a `cred.ch` or a `chsend` on a channel. -/
def onChannel (ch : Nat) (x : Cmd) : Bool :=
  match x.op with
  | .cred _ _ _ _ _ _ (some c) _ _ => c = ch
  | .chsend c _ => c = ch
  | _ => false

/-- Commands and receives of the caller on a channel that are outstanding (R356). -/
def chanBusy (s : State) (ch : Nat) : Bool :=
  s.me.sq.cmds.any (onChannel ch) || match chanOf s s.me.lnch ch with
  | none => false
  | some c =>
    (match c.snd with | some e => e.queue.any fun o => o.cid = s.me.uid && o.n = 0 | none => false) ||
      (match c.rcv with | some e => e.queue.any fun o => o.cid = s.me.uid | none => false)

/-- `chset.rel` (R356): it waits until nothing of the caller's is outstanding on the channel. -/
def execChsetRel (c : Fin 64) (s : State) : Out :=
  .next (checked (firstFault [crwCheck s 2,
      failIf ((holdsEnd s c.val false).isNone && (holdsEnd s c.val true).isNone) (chanFault 0 c.val)]) (fun s =>
    if chanBusy s c.val then holdHere s else emit 1 .none 0 (releaseEnds s.me.lnch c.val s.me.tid s)) s)

/-- The checks of `chsend` (R357, R360). -/
def chsendCheck (s : State) (ch : Nat) (v : VReg) : Except FaultInfo (Chan × ChanEnd) :=
  match crwCheck s 2, holdsEnd s ch false with
  | some f, _ => .error f
  | none, none => .error (chanFault 0 ch)
  | none, some (c, e) =>
    match firstFault [failIf c.rcvGone (chanFault 2 ch), srcCheck s (fun t => t = e.tag) v] with
    | some f => .error f
    | none => .ok (c, e)

/-- `chsend` (R357): the item is read at issue and queued. -/
def execChsend (c : Fin 64) (v : VReg) (s : State) : Out :=
  .next (tryWith (chsendCheck s c.val v) (fun (_, e) s =>
    let item := vecBytes (rdV s v).bits (itemBytes e)
    let o : ChanOp := { cid := s.me.uid, lnch := s.me.lnch, tid := s.me.tid, op := s.me.sq.cmdCount % 2 ^ 32, item, n := 0 }
    modChan s.me.lnch c.val (fun x => { x with snd := x.snd.map fun e => { e with queue := e.queue ++ [o] } })
      (issueCmd (.chsend c.val item) none s)) s)

/-- `chrecv` (R358): its number is taken at issue. -/
def execChrecv (v : VReg) (c : Fin 64) (s : State) : Out :=
  .next (match holdsEnd s c.val true with
    | none => checked (crwCheck s 2) (raise (chanFault 0 c.val)) s
    | some (x, e) =>
      checked (firstFault [crwCheck s 2, failIf (x.sndGone && decide (e.count ≥ x.written)) (chanFault 2 c.val)]) (fun s =>
        let o : ChanOp := { cid := s.me.uid, lnch := s.me.lnch, tid := s.me.tid, op := s.ids, item := [], n := e.count }
        modChan s.me.lnch c.val (fun x => { x with rcv := x.rcv.map fun e => { e with count := e.count + 1, queue := e.queue ++ [o] } })
          (pendFrom .item (.v v 0 allMask (some e.tag)) false true none none s)) s)

/-- Whether a queued send is over without a write: its command has faulted or gone. -/
def sendOver (s : State) (o : ChanOp) : Option FaultInfo × Bool :=
  if o.n ≠ 0 then
    match findRed s o.lnch o.op (o.n - 1) with
    | none => (none, true)
    | some r => match (r.ins.head?).bind fun x => (contribCmd s x).bind fun y => y.fault with
      | some f => (some (plainFault f), true)
      | none => (none, false)
  else match findCmd o.cid o.op s with
    | none => (none, true)
    | some x => (none, x.fault.isSome)

/-- The head of a channel's sends is done. -/
def dropSend (c : Chan) (ok : Bool) (s : State) : State :=
  modChan c.lnch c.ch (fun c => { c with
    written := if ok then c.written + 1 else c.written
    snd := c.snd.map fun e => { e with queue := e.queue.drop 1, count := if ok then e.count + 1 else e.count } }) s

/-- The end of one send: its command completes, or the contributors of its reduction do (R353, R357). -/
def endSend (c : Chan) (o : ChanOp) (f : Option FaultInfo) (s : State) : State :=
  let s := dropSend c f.isNone s
  if o.n ≠ 0 then
    match findRed s o.lnch o.op (o.n - 1) with
    | none => s
    | some r => endRed r f o.item.length s
  else match findCmd o.cid o.op s with
    | none => s
    | some x => match f with
      | some f => failCmd o.cid x f s
      | none => doneCmd o.cid x 0 s

/-- Where the next item of a send end goes in the pail of the receive end (R357). -/
def itemSlot (e r : ChanEnd) : Nat := r.pail + 64 * slotLines r * (e.count % r.depth)

/-- The write of an item into a slot of the pail (R357): each line must be EMPTY and takes a counted store with count 1. -/
def itemWrite (u lnch : Nat) (e r : ChanEnd) (world : Bool) (item : List Byte) (s : State) : Except FaultInfo State :=
  let n := 64 * slotLines r
  let a := itemSlot e r
  let ag : Agent := { world, lnch, die := r.pdie }
  match (lineStarts a n).find? fun x => lineAt s x ≠ .empty with
  | some x => .error (fault 0x0E 0 (BitVec.ofNat 64 x))
  | none =>
    match accessSegs s ag true (.counted 1) (BitVec.ofNat 64 a) n with
    | .error f => .error f
    | .ok gs => .ok (writeSegs (stepSegs (.counted 1) (some u) gs s) gs (item ++ List.replicate (n - item.length) 0))

/-- The commands that issued a queued send, with their threads: those of all contributors, for a reduction (R353). -/
def sendBy (s : State) (o : ChanOp) : List (Nat × Nat) :=
  if o.n ≠ 0 then ((findRed s o.lnch o.op (o.n - 1)).map fun r => r.ins.map fun x => (x.cid, x.tag)).getD [] else [(o.cid, o.op)]

/-- An item leaves for the peer module of a channel (R355, R356): through the window the end names, once the earlier remote
operations of every thread that issued it are done (R252). -/
def sendItem (c : Chan) (e : ChanEnd) (o : ChanOp) (s : State) : State :=
  let w := match launchOf s c.lnch with | some l => l.world | none => false
  let own := sendBy s o
  let who := (own.head?).getD (o.cid, o.op)
  match findCtx who.1 s with
  | none => s
  | some k =>
    if own.any fun x => (findCmd x.1 x.2 s).any (earlierRemote s x.1) then s
    else match winCheckAll s { world := w, lnch := c.lnch, die := k.die } e.win 0 0 .write 1 false with
    | .error f => endSend c o (some f) s
    | .ok r =>
      sendRemote who.1 (agentOf k) k.tid r (.item e.pch c.ch e.tag e.lanes e.depth o.item) false (.engine who.2 0)
        (modCmd who.1 who.2 (fun y => { y with begun := true, stage := 3, todo := if y.todo.isEmpty then [0] else y.todo }) s)

/-- CHANNEL_ITEM_WRITE (R357): the oldest queued send, when there is credit. DESIGN CHOICE (assumption log 86): of the items to
another module, one is on its way at a time. -/
def execChannelItemWrite (lnch ch : Nat) (s : State) : Out :=
  .next (match chanOf s lnch ch with
    | none => s
    | some c =>
      match c.snd with
      | none => s
      | some e =>
        match e.queue with
        | [] => s
        | o :: _ =>
          match sendOver s o with
          | (some f, true) => endSend c o (some f) s
          | (none, true) => dropSend c false s
          | _ =>
            if e.rem then
              (if decide (e.count - e.base < e.depth) && !(s.fab.outs.any fun x => match x.req.op with
                  | .item _ p .. => p = ch && x.lnch = lnch | _ => false) then sendItem c e o s else s)
            else match c.rcv with
              | none => s
              | some r =>
                if e.count - e.base ≥ e.depth then s
                else
                  let w := match launchOf s lnch with | some l => l.world | none => (findCtx e.cid s).any (·.world)
                  match itemWrite o.cid lnch e r w o.item s with
                  | .ok s => endSend c o none s
                  | .error f => endSend c o (some f) s)

/-- A vector result of the bytes of an item (R358): the other bytes are zero. -/
def itemUpd (t : Tag) (bs : List Byte) (u : Upd) : Upd :=
  match u with
  | .v r _ _ _ => .v r (bytesVec bs) allMask (some t)
  | u => u

/-- CHANNEL_ITEM_READ (R358): the oldest queued receive, when its item is filled. -/
def execChannelItemRead (lnch ch : Nat) (s : State) : Out :=
  .next (match chanOf s lnch ch with
    | none => s
    | some c =>
      match c.rcv with
      | none => s
      | some e =>
        match e.queue with
        | [] => s
        | o :: _ =>
          if counterAt s e.fillc < e.base + o.n + 1 then s
          else
            let n := 64 * slotLines e
            let a := e.pail + n * (o.n % e.depth)
            let w := match launchOf s lnch with | some l => l.world | none => (findCtx e.cid s).any (·.world)
            let s := modChan lnch ch (fun c => { c with rcv := c.rcv.map fun e => { e with queue := e.queue.drop 1 } }) s
            match accessSegs s { world := w, lnch, die := e.pdie } true .consume (BitVec.ofNat 64 a) n with
            | .error f => failRecv { f with detail := if f.detail.isEmpty then [4] else f.detail } o s
            | .ok gs =>
              match badLine s gs with
              | some x => failRecv { (fault 0x16 0 x) with detail := [4] } o s
              | none =>
                let bs := (readSegs s gs).take (itemBytes e)
                modSqOf o.cid (fun q => { q with pends := q.pends.map fun p =>
                  if p.id = o.op then { p with ready := true, upd := itemUpd e.tag bs p.upd } else p })
                  (stepSegs .consume (some o.cid) gs s))

/-! ### Engine commands -/

/-- What a command does when it begins, or when its remote data are here. -/
def doCmd (u : Nat) (c : Ctx) (x : Cmd) (s : State) : State :=
  match x.op with
  | .tcfg .. | .tzero .. | .tcons .. => doSmall u c x s
  | .tld t mp org plc cons _ => doTld u c x t mp org plc cons s
  | .tst t mp org plc n _ => if x.begun then s else doTst u c x t mp org plc n s
  | .tldv t v row n => cmdWrite u x t (putRows v row n) v.tag 0 s
  | .tstv _ t row n pd => doTstv u c x t row n pd s
  | .tmc mp org plc mask _ cons _ => doTmc u c x mp org plc mask cons s
  | .dtab n A => doDtab u c x n A s
  | .tldz t g A plc _ => doTldz u c x t g A plc s
  | .mma n t y org z w ca cb ua ub g => doMma u c x n t y org z w ca cb ua ub g s
  | .mmz .. | .eset .. => doParam u x s
  | .mmdr t n org bv y act q z g => doMmdr u c x t n org bv y act q z g s
  | .qld n qb st A b => doQld u c x n qb st A b s
  | .qst n qb st A => doQst u c x n qb st A s
  | .etab A => doEtab u c x A s
  | .hsend l ax dir _ => doHsend u c x l ax dir s
  | .reshard d y _ => doReshard u c x d y s
  | .cred src _ n _ _ _ _ _ _ => doCred u c x src n s
  | .chsend .. | .arrival .. | .query .. => s

/-- Whether a command has all that it reads: a map through a window whose elements are here, with only the end mark left to do; the
table of a `dtab`. -/
def mapHere (x : Cmd) : Bool :=
  match x.op with
  | .tld .. | .tmc .. => x.stage = 1 && x.todo.length = 1
  | .dtab .. => x.stage = 1
  | _ => false

/-- Whether the memory side of a map command lies on other modules. -/
def CmdOp.remote : CmdOp → Bool
  | .tld _ mp .. | .tst _ mp .. | .tmc mp .. => mapSp mp.bits = 2
  | _ => false

/-- Whether a command may act now: it has not begun and may begin in the tile order (R255), in the order in which its engine
takes commands (R257, R349) and after the earlier remote operations of its thread if it is remote itself (R252); or the remote
elements of its map are here. Tile and churn commands of a thread that is saved, and not begun, wait for its restore (R322,
R323). -/
def mayAct (s : State) (c : Ctx) (x : Cmd) : Bool :=
  x.fault.isNone && !x.done && !(c.status = .saving && !x.begun && decide (x.op.engine ≤ 1)) &&
    if x.begun then mapHere x else mayBegin c (isCmd x.tag) && engineTurn s c x && !(x.op.remote && earlierRemote s c.uid x)

/-- ENGINE_COMMAND_EXECUTE (R255): command `tag` of a thread begins. -/
def execEngineCommandExecute (c tag : Nat) (s : State) : Out :=
  .next (match findCtx c s, findCmd c tag s with
    | some k, some x => if mayAct s k x then settleQueries c (doCmd c k x s) else s
    | _, _ => s)

/-- ENGINE_COMMAND_COMPLETE (R257): command `tag` completes. -/
def execEngineCommandComplete (c tag : Nat) (s : State) : Out :=
  .next (match findCtx c s, findCmd c tag s with
    | some k, some x => if mayComplete x then settleQueries c (completeCmd c k x s) else s
    | _, _ => s)

/-- The acknowledgement of a remote operation of an engine command, with load data (R251, R252). -/
def engineAck (u tag piece : Nat) (data : List Byte) (s : State) : State :=
  match findCmd u tag s with
  | none => s
  | some x =>
    match x.op with
    | .tld _ mp .. | .tmc mp .. =>
      modCmd u tag (fun y => { y with elems := fillElems (elemSize (mapTag mp.bits)).2 piece y.elems data, todo := y.todo.erase piece }) s
    | .tst .. => modCmd u tag (fun y => { y with todo := y.todo.erase piece }) s
    | .hsend .. | .reshard .. => pieceDone u x s
    | _ =>
      match s.chans.find? fun c => match c.snd with
        | some e => e.rem && (match e.queue with
          | o :: _ => if o.n ≠ 0 then (findRed s o.lnch o.op (o.n - 1)).any fun r => r.ins.any fun y => y.cid = u && y.tag = tag
                      else o.cid = u && o.op = tag
          | [] => false)
        | none => false with
      | none => s
      | some c => match (c.snd.map fun e => e.queue).bind fun q => q.head? with
        | some o => endSend c o none s
        | none => s

end Sys2Proof.Machine
end

