-- ==== Sys2Proof/Machine/Fabric.lean ====
section
/-! DEFINITION. Modules on fibre: requests at their target, answers at the issuer, relays, ports and rotor slots (R364 to
R382). What another module sends is the operand of a step of the table. -/

namespace Sys2Proof.Machine

/-! ### A request at its target (R372, R378) -/

/-- Answers of R378: performed, with load data; receiver-not-ready; error with cause, sub-code and line; no answer is owed; or
none yet, since the arrival waits for a landing buffer (R354). -/
inductive Answer where
  | ok (data : List Byte) | rnr | err (cause sub : Nat) (line : Word) | silent | hold
deriving DecidableEq, Repr

/-- Bytes an operation covers, and the right it needs: RD 2, WR 3, A 4 of an export entry (R372). -/
def opSpan : RemoteOp → Nat × Nat
  | .load n => (n, 2)
  | .store bs => (bs.length, 3)
  | .atomic _ n _ _ => (n, 4)
  | .add _ => (8, 4)
  | .gather .. => (0, 2)
  | .face .. | .scatter .. => (0, 3)
  | .item .. | .credit .. | .endGone .. => (0, 3)

/-- Whether an export entry admits an access in a world that needs right `r` (R372). -/
def exportFits (world : Bool) (p : RemotePart) (r : Nat) (e : BitVec 256) : Bool :=
  let base := fld e.toNat 128 64
  e.getLsbD 7 && fld e.toNat 192 64 = p.key.toNat && e.getLsbD 5 = p.store && e.getLsbD 6 = world && e.getLsbD r &&
    decide (base ≤ p.addr.toNat) && decide (p.addr.toNat + p.n ≤ base + fld e.toNat 80 48)

/-- Whether an export entry admits a request (R372). -/
def exportAdmits (q : RemoteReq) (e : BitVec 256) : Bool :=
  exportFits q.world { key := q.key, store := q.store, addr := q.addr, n := (opSpan q.op).1 } (opSpan q.op).2 e

/-- The launch for which an admitted request acts. -/
def admittedFor (s : State) (q : RemoteReq) : Option Nat := (s.fab.exports.find? fun x => exportAdmits q x.2).map fun x => fld x.2.toNat 48 32

/-- The line of an address. -/
def lineWord (a : Word) : Word := BitVec.ofNat 64 (a.toNat / 64 * 64)

/-- The answer for a check that fails at the target (R378). -/
def refusalOf (f : FaultInfo) : Answer :=
  if f.cause = 0x0D || f.cause = 0x0E || f.cause = 0x0F || f.cause = 0x16 then .err f.cause f.sub (lineWord f.addr) else .rnr

/-- An uncorrectable line that a request meets, whatever it does there (R378). -/
def badAnswer (s : State) (gs : List Seg) : Option Answer := (badLine s gs).map fun a => .err 0x16 0 (lineWord a)

/-- The pieces of an admitted access; VAs are translated with the roots of die 0 (R316; assumption log 13). No launch has number 0:
an export that names it reaches no store bank (R220). -/
def targetSegs (s : State) (q : RemoteReq) (lnch : Nat) (k : LineAcc) (n : Nat) : Except Answer (List Seg) :=
  if q.store && lnch = 0 then .error .rnr
  else match accessSegs s { world := q.world, lnch, die := 0 } q.store k q.addr n with
  | .error f => .error (refusalOf f)
  | .ok gs => match badAnswer s gs with
    | some a => .error a
    | none => .ok gs

/-- The pieces of the elements of an engine command's access, each admitted with right `r` (R246, R251). -/
def targetParts (s : State) (q : RemoteReq) (k : LineAcc) (r : Nat) : List RemotePart → Except Answer (List (List Seg))
  | [] => .ok []
  | p :: ps =>
    match s.fab.exports.find? fun x => exportFits q.world p r x.2 with
    | none => .error .rnr
    | some x => match targetSegs s { q with store := p.store, addr := p.addr } (fld x.2.toNat 48 32) k p.n with
      | .error a => .error a
      | .ok gs => match targetParts s q k r ps with
        | .error a => .error a
        | .ok l => .ok (gs :: l)

/-- The read of an engine command at its target: one operation, each line checked once (R243, R251). -/
def targetGather (s : State) (q : RemoteReq) (ps : List RemotePart) (cons : Bool) : State × Answer :=
  let k := if cons then LineAcc.consume else .plain
  match targetParts s q k 2 ps with
  | .error a => (s, a)
  | .ok l => (stepSegsBy k none ⟨0, none, some q⟩ (distinctLines l.flatten) s, .ok (l.flatMap (readSegs s)))

/-- The write of an engine command at its target: every check before any byte (R246, R251). -/
def targetScatter (s : State) (q : RemoteReq) (ps : List (RemotePart × List Byte)) (cnt : Nat) : State × Answer :=
  let k := if cnt = 0 then LineAcc.store else .counted cnt
  match targetParts s q k 3 (ps.map (·.1)) with
  | .error a => (s, a)
  | .ok l =>
    ((l.zip (ps.map (·.2))).foldl (fun s e => writeSegs s e.1 e.2) (stepSegsBy k none ⟨0, none, some q⟩ (distinctLines l.flatten) s), .ok [])

/-- The piece of a counter's word. -/
def wordSeg (a : Nat) : List Seg := [⟨true, a, 8, BitVec.ofNat 64 a⟩]

/-- A counter add at the target (R375). -/
def targetAdd (s : State) (q : RemoteReq) (lnch i : Nat) : State × Answer :=
  let a := q.addr.toNat
  if !q.store then (s, .err 0x0F 2 (lineWord q.addr))
  else if lnch = 0 then (s, .rnr)
  else match storeCheck s { world := q.world, lnch, die := 0 } true q.addr 8 with
    | some f => (s, refusalOf f)
    | none =>
      if lineAt s a ≠ .counter then (s, .err 0x0F 2 (lineWord q.addr))
      else match badAnswer s (wordSeg a) with
        | some b => (s, b)
        | none =>
          let (s, sat) := addCounter a i s
          (s, if sat then .err 0x0F 1 (lineWord q.addr) else .ok [])

/-- The add of a face of another module that is written (R348): its buffer is released. DESIGN CHOICE (assumption log 31): one that
is withheld, because its counter went meanwhile, is answered as an error, for the write stands. -/
def targetFaceAdd (s : State) (q : RemoteReq) (die key n : Nat) : State × Answer :=
  let s := modDie die (fun d => { d with landing := d.landing - 1 }) { s with fab := { s.fab with half := s.fab.half.filter fun x => x.1 ≠ q } }
  match bindingOf s die q.world key with
  | none => (s, .err 0x0F 2 0)
  | some b =>
    if (addCheck s b.world b.lnch b.addr).isSome then (s, .err 0x0F 2 (lineWord (BitVec.ofNat 64 b.addr)))
    else
      let (s, sat) := addCounter b.addr n s
      (s, if sat then .err 0x0F 1 (lineWord (BitVec.ofNat 64 b.addr)) else .ok [])

/-- A face or piece of another module (R348, R378). It waits for a landing buffer (R354), takes it and is written; then its add is
made, an operation of its own (R243). -/
def targetFace (s : State) (q : RemoteReq) (die key : Nat) (cells : List Host.Cell) : State × Answer :=
  if s.fab.half.any fun x => x.1 = q then targetFaceAdd s q die key cells.length
  else match bindingOf s die q.world key with
  | none => (s, .rnr)
  | some b =>
    if lineAt s b.addr ≠ .counter || (addCheck s b.world b.lnch b.addr).isSome then (s, .rnr)
    else if (dieOf s die).landing ≥ 8 then (s, .hold)
    else match arriveSegs s b die cells with
      | .error f => (s, refusalOf f)
      | .ok r => match badAnswer s (r.flatMap (·.1) ++ wordSeg b.addr) with
        | some a => (s, a)
        | none =>
          let s := modDie die (fun d => { d with landing := d.landing + 1 }) (storeAll (stepSegs .store (some 0)) die r s)
          ({ s with fab := { s.fab with half := s.fab.half ++ [(q, false)] } }, .hold)

/-- An item of a channel whose send end is on another module (R356, R357): it waits until the receive end is declared; the
ends must name each other and agree. One of the non-secure world does not reach a secure channel function (R391). -/
def targetItem (s : State) (world : Bool) (src lnch ch own : Nat) (t : Tag) (ln depth : Nat) (data : List Byte) : State × Answer :=
  if bit s.fab.crw 2 && !world then (s, .rnr)
  else match (chanOf s lnch ch).bind fun c => c.rcv.map fun r => (c, r) with
  | none => (s, if (chanOf s lnch ch).any (·.rcvGone) then .rnr else .hold)
  | some (c, r) =>
    if !r.rem || winEntryNo s lnch r.win ≠ some src || r.pch ≠ own || r.tag ≠ t || r.lanes ≠ ln || r.depth ≠ depth then (s, .err 0x18 1 0)
    else
      let w := match launchOf s lnch with | some l => l.world | none => false
      let e := { r with count := c.written }
      match itemWrite 0 lnch e r w data s with
      | .error f => (s, refusalOf f)
      | .ok t => match badAnswer s [⟨true, itemSlot e r, 64 * slotLines r, BitVec.ofNat 64 (itemSlot e r)⟩] with
        | some a => (s, a)
        | none => (modChan lnch ch (fun c => { c with written := c.written + 1 }) t, .ok [])

/-- A message about a channel with an end on another module (R357, R360). -/
def targetNote (s : State) (lnch ch : Nat) (gone : Bool) : State :=
  match chanOf s lnch ch with
  | none => s
  | some c =>
    if !gone then modChan lnch ch (fun c => { c with snd := c.snd.map fun e => { e with base := e.base + 1 } }) s
    else match c.snd, c.rcv with
      | some e, _ => if e.rem then recvEndGone c s else s
      | none, some e => if e.rem then sendEndGone c s else s
      | none, none => s

/-- A request performed at its target, or its refusal (R378). A port that is secure brings no non-secure request (R391). -/
def perform (q : RemoteReq) (s : State) : State × Answer :=
  if bit s.fab.portw q.port && !q.world then (s, .rnr)
  else match q.op with
    | .face die key cells => targetFace s q die key cells
    | .gather ps cons => targetGather s q ps cons
    | .scatter ps cnt => targetScatter s q ps cnt
    | op =>
      match admittedFor s q with
      | none => (s, .rnr)
      | some l =>
        let b : PailBy := ⟨0, none, some q⟩
        match op with
        | .load n =>
          match targetSegs s q l .plain n with
          | .error a => (s, a)
          | .ok gs => (stepSegsBy .plain none b gs s, .ok (readSegs s gs))
        | .store bs =>
          match targetSegs s q l .store bs.length with
          | .error a => (s, a)
          | .ok gs => (writeSegs (stepSegsBy .store none b gs s) gs bs, .ok [])
        | .atomic op n x y =>
          match targetSegs s q l .atomic n with
          | .error a => (s, a)
          | .ok gs =>
            let old := leNat (readSegs s gs)
            let new := atomNew op (8 * n) old (x.toNat % 2 ^ (8 * n)) (y.toNat % 2 ^ (8 * n))
            (afterAtomic op gs n new (writeSegs (stepSegsBy .atomic none b gs s) gs (leBytes n new)), .ok (leBytes n old))
        | .add i => targetAdd s q l i
        | .item ch own t ln d data => targetItem s q.world q.src l ch own t ln d data
        | .credit ch => (targetNote s l ch false, .silent)
        | .endGone ch => (targetNote s l ch true, .silent)
        | .face .. | .gather .. | .scatter .. => (s, .rnr)

/-- An answer is sent to the source: kinds 0 acknowledgement, 1 receiver-not-ready, 2 error with cause and sub-code. -/
def answer (q : RemoteReq) (a : Answer) (s : State) : State :=
  match a with
  | .ok data => sendReply (replyPort q) (q.src, 0, q.flow, q.seq, data) s
  | .rnr => sendReply (replyPort q) (q.src, 1, q.flow, q.seq, []) s
  | .err c b l => errorAnswer q c b l s
  | .silent | .hold => s

/-- The next sequence number expected of a flow (R379). -/
def expected (s : State) (q : RemoteReq) : Nat :=
  ((s.fab.expect.find? fun x => x.1 = q.src && x.2.1 = q.flow).map fun x => x.2.2).getD 0

/-- A request in its place in the flow: performed or answered; unless it was answered RNR, or waits, the flow moves on. -/
def performInOrder (q : RemoteReq) (s : State) : State × Bool :=
  let (s, a) := perform q { s with fab := { s.fab with early := s.fab.early.erase q } }
  let s := answer q a s
  if a = .rnr then (s, false)
  else if a = .hold then ({ s with fab := { s.fab with early := s.fab.early ++ [q] } }, false)
  else ({ s with fab := { s.fab with
    expect := (s.fab.expect.filter fun x => !(x.1 = q.src && x.2.1 = q.flow)) ++ [(q.src, q.flow, q.seq + 1)] } }, true)

/-- Requests that arrived ahead of a gap follow when it closes (R379); the fuel is their number. -/
def drainEarly (src flow : Nat) : Nat → State → State
  | 0, s => s
  | n + 1, s =>
    match s.fab.early.find? fun q => q.src = src && q.flow = flow && q.seq = expected s q with
    | none => s
    | some q =>
      let (s, ok) := performInOrder q s
      if ok then drainEarly src flow n s else s

/-- Whether what a held request waits for is there: a landing buffer (R354), and for a face that is written the step after (R243); or the
receive end of a channel (R357). -/
def holdOver (s : State) (q : RemoteReq) : Bool :=
  match q.op with
  | .face die .. =>
    match s.fab.half.find? fun x => x.1 = q with
    | some x => x.2
    | none => decide ((dieOf s die).landing < 8)
  | .item ch .. => ((admittedFor s q).bind fun l => chanOf s l ch).any fun c => c.rcv.isSome || c.rcvGone
  | _ => false

/-- Requests that were held in their place are looked at again (R354, R357). -/
def settleHeld (s : State) : State :=
  let s := (s.fab.early.filter fun q => q.seq = expected s q && holdOver s q).foldl (fun s q => drainEarly q.src q.flow s.fab.early.length s) s
  { s with fab := { s.fab with half := s.fab.half.map fun x => (x.1, true) } }

/-- Whether a drain marker of another module still has a message ahead of it that is neither performed nor answered (R379): one
held here, or one that is to be forwarded. -/
def markWaits (s : State) (x : Nat × Nat × Nat) : Bool :=
  (s.fab.early ++ s.fab.relay.map (·.req)).any fun q => q.port = x.1 && q.src = x.2.1 && q.flow = x.2.2

/-- Drain markers of other modules are answered once every message ahead of them is done (R379). -/
def settleMarks (s : State) : State :=
  let due := s.fab.marks.filter fun x => !markWaits s x
  due.foldl (fun s x => sendReply (some x.1) (x.2.1, 6, x.2.2, 0, []) s)
    { s with fab := { s.fab with marks := s.fab.marks.filter (markWaits s) } }

/-- The entry of the slot a rotor port is in (R368). -/
def slotEntry (p : Port) : Word := getAt 0 p.slots p.slot

/-- Whether a request that came in by a port may be accepted there: relayed traffic, which comes from a module that is not its
source, only in a slot that permits it (R368). -/
def slotAccepts (s : State) (q : RemoteReq) : Bool :=
  let p := vget Port.reset s.fab.ports q.port
  p.st ≠ .rotor || bits (slotEntry p) 22 12 = q.src || bit (slotEntry p) 20

/-- Where face traffic for this module is addressed. -/
def myPlace (s : State) : Nat := 4096 + modCoord s 0 + 32 * modCoord s 1 + 1024 * modCoord s 2

/-- Whether this module is a request's final target. -/
def isMine (s : State) (q : RemoteReq) : Bool :=
  match q.op with
  | .face .. => q.target = myPlace s
  | _ => q.target = myModule s

/-- REMOTE_REQUEST_ARRIVES (R378, R379): in its place it is performed or answered; ahead of a gap it is held, up to 256 on a
port; one that was performed before is acknowledged by nothing. Without a buffer of its class, or relayed in a slot that does
not permit it, it is answered RNR (R368, R378, R380). -/
def execRemoteRequestArrives (a : Incoming) (s : State) : Out :=
  let q := a.req
  .next (if q.port ≥ 32 || !isMine s q then s
    else if !a.room || !slotAccepts s q then answer q .rnr s
    else if q.seq = expected s q then
      let (s, ok) := performInOrder q s
      settleMarks (if ok then drainEarly q.src q.flow s.fab.early.length s else s)
    else if q.seq > expected s q then
      if (s.fab.early.filter fun x => x.port = q.port).length ≥ 256 then answer q .rnr s
      else if s.fab.early.contains q then s
      else { s with fab := { s.fab with early := s.fab.early ++ [q] } }
    else s)

/-! ### Answers at the issuer -/

/-- A remote operation by its identity. -/
def outOf (s : State) (op : Nat) : Option RemoteOut := s.fab.outs.find? (·.id = op)

/-- Changing one. -/
def modOut (op : Nat) (f : RemoteOut → RemoteOut) (s : State) : State :=
  { s with fab := { s.fab with outs := s.fab.outs.map fun o => if o.id = op then f o else o } }

/-- Whether an operation waits for the earlier remote operations of its context: a `kaddw` that is not sent (R375). -/
def mustWait (s : State) (o : RemoteOut) : Bool :=
  o.waits && s.fab.outs.any fun x => x.cid = o.cid && decide (x.id < o.id) && (match x.use with | .engine .. => false | _ => true)

/-- Whether an operation may be answered: it has been sent and not answered since. -/
def answerable (o : RemoteOut) : Bool := o.st = .sent

/-- A request that this module relays, by its identity (R380). -/
def fwdOf (s : State) (op : Nat) : Option RelayFwd := s.fab.relay.find? fun f => f.id = op && decide (f.st = .sent)

/-- Changing one. -/
def modFwd (op : Nat) (f : RelayFwd → RelayFwd) (s : State) : State :=
  { s with fab := { s.fab with relay := s.fab.relay.map fun x => if x.id = op then f x else x } }

/-- A relayed request is over: its answer goes on to the source and its room is free (R380). -/
def endFwd (f : RelayFwd) (a : Answer) (s : State) : State :=
  answer f.req a { s with fab := { s.fab with relay := s.fab.relay.filter (·.id ≠ f.id) } }

/-- A pending load takes its data: a malformed block in them is recorded when the result lands (R69). -/
def takeData (o : RemoteOut) (pd : Nat) (sh : LoadShape) (data : List Byte) (s : State) : State :=
  let s := modSqOf o.cid (fun q => { q with pends := q.pends.map fun p =>
    if p.id = pd then { p with fault := p.fault.orElse fun _ => (shapeUpd sh data o.win p.upd).2 } else p }) s
  settleLoad o.cid pd (fun u => (shapeUpd sh data o.win u).1) true s

/-- ACKNOWLEDGEMENT_ARRIVES (R252): of an operation of this module, or of a request it relays (R380). -/
def execAcknowledgementArrives (op : Nat) (data : List Byte) (s : State) : Out :=
  .next (match outOf s op with
    | none => (match fwdOf s op with | some f => endFwd f (.ok data) s | none => s)
    | some o =>
      if !answerable o then s
      else
        let s := dropOut op s
        match o.use with
        | .load pd sh => takeData o pd sh data s
        | .store st => settleStore o.cid st true s
        | .engine tag piece => engineAck o.cid tag piece data s)

/-- RLIM (R364). -/
def retryLimit (s : State) : Nat := max 1 (bits s.fab.fabcfg 24 4)

/-- RECEIVER_NOT_READY (R378): the next retry waits for its back-off, or the flow ends. A relayed request stays in the relay
buffer and is retried, until the limit sends the answer on to its source (R380). -/
def execReceiverNotReady (op : Nat) (s : State) : Out :=
  .next (match outOf s op with
    | none => (match fwdOf s op with
      | some f => if f.retries ≥ retryLimit s then endFwd f .rnr s
        else modFwd op (fun f => { f with st := .backoff, retries := f.retries + 1 }) s
      | none => s)
    | some o =>
      if !answerable o then s
      else if o.retries ≥ retryLimit s then failFlow o 0 s
      else modOut op (fun o => { o with st := .backoff, retries := o.retries + 1 }) s)

/-- RETRY_BACKOFF_EXPIRY (R378): the request is queued again. -/
def execRetryBackoffExpiry (op : Nat) (s : State) : Out :=
  .next (modFwd op (fun f => if f.st = .backoff then { f with st := .queued } else f)
    (modOut op (fun o => if o.st = .backoff then { o with st := .queued } else o) s))

/-- The fault that an error answer brings (R378): XADDR is the window address of a window access of a core, the line of an
engine's (R258), and of two ends that disagree the sender's own channel (R343, R356). None for other causes. -/
def errorFault (o : RemoteOut) (cause sub : Nat) (line : Word) : Option FaultInfo :=
  if cause = 0x0D || cause = 0x0E || cause = 0x0F || cause = 0x16 then
    match o.use with
    | .engine .. => some { cause, sub, addr := line }
    | _ => some { cause, sub, addr := o.win, detail := [7] }
  else match o.req.op with
    | .item _ own .. => if cause = 0x18 then some { cause, sub, addr := BitVec.ofNat 64 own } else none
    | _ => none

/-- ERROR_ANSWER (R378): the target's cause comes back as a boundary fault, or as the fault of an engine command; that of a
relayed request goes on to its source (R380). -/
def execErrorAnswer (op cause : Nat) (e : ErrorInfo) (s : State) : Out :=
  .next (match outOf s op with
    | none => (match fwdOf s op with | some f => endFwd f (.err cause e.sub e.line) s | none => s)
    | some o =>
      match errorFault o cause e.sub e.line with
      | some f => if answerable o then failOut o f s else s
      | none => s)

/-! ### Relays (R372, R380) -/

/-- Bytes of the relay buffer (R380). -/
def relayRoom : Nat := 16 * 2 ^ 20

/-- Payload of a request in whole 64-byte units (R369). -/
def payload (q : RemoteReq) : Nat :=
  let n := match q.op with
    | .store bs => bs.length
    | .atomic .. => 8
    | .face _ _ cells => cells.length
    | .item _ _ _ _ _ bs => bs.length
    | .scatter ps _ => (ps.map fun p => p.2.length).sum
    | _ => 0
  (n + 63) / 64 * 64

/-- A queue is served in a slot with `budget` bytes (R369), oldest first; each entry is a message's identity and what is left to send
of its payload. What is sent whole, the message cut at the allowance with its bytes sent, and what is left of the budget. -/
def serveQueue (budget : Nat) : List (Nat × Nat) → List Nat × Option (Nat × Nat) × Nat
  | [] => ([], none, budget)
  | (id, n) :: os =>
    if n ≤ budget then
      let (ids, rest) := serveQueue (budget - n) os
      (id :: ids, rest)
    else ([], some (id, budget), 0)

/-- The bytes of a message not yet sent by a port (R369). -/
def unsent (p : Port) (x : Nat × Nat) : Nat × Nat := (x.1, x.2 - getAt 0 p.allow x.1)

/-- A port's account of a message that was cut. -/
def addCut (x : Option (Nat × Nat)) (allow : SMap Nat) : SMap Nat :=
  match x with
  | some (id, n) => setAt 0 allow id (getAt 0 allow id + n)
  | none => allow

/-- Messages have gone whole: no port has an account of them. -/
def forgetCut (ids : List Nat) (s : State) : State :=
  { s with fab := { s.fab with ports := s.fab.ports.map fun p => { p with allow := p.allow.filter fun x => !ids.contains x.1 } } }

/-- The port by which relayed traffic for a module may go now: a held one, else a rotor port in a slot that permits it (R368,
R380). -/
def relayPath (s : State) (m : Nat) : Option Nat :=
  if fld (getAt (0 : BitVec 32) s.fab.mroute m).toNat 30 2 ≠ 1 then none
  else (routePorts s m).find? fun i =>
    let p := vget Port.reset s.fab.ports i
    match p.st with
    | .held => true
    | .rotor => bit (slotEntry p) 21 && bit (slotEntry p) 20 && bits (slotEntry p) 22 12 = m
    | _ => false

/-- Whether a forward waits for port `n`: it goes to its target by a direct route (R372, R380). -/
def fwdBy (s : State) (n : Nat) (f : RelayFwd) : Bool :=
  decide (nextHop s f.req.target = some f.req.target) && (routePorts s f.req.target).contains n

/-- The destinations of the traffic that waits for a port, in its order (R369): requests, responses and forwards. -/
def waitingFor (s : State) (n : Nat) : List Nat :=
  ((s.fab.outs.filter fun o => decide (o.st = .queued) && (routePorts s o.req.target).contains n).filterMap (fun o => nextHop s o.req.target) ++
    s.fab.resp.filterMap (fun r => match r.port with
      | some p => if p = n then some r.msg.1 else none
      | none => if (routePorts s r.msg.1).contains n then nextHop s r.msg.1 else none) ++
    (s.fab.relay.filter fun f => decide (f.st = .queued) && fwdBy s n f).map (·.req.target)).dedup

/-- The send queues of a port after traffic has come or gone (R369): one that is empty is free, a destination without one takes
one of the 64. -/
def bindQueues (s : State) (n : Nat) (old : List Nat) : List Nat :=
  let w := waitingFor s n
  let keep := old.filter w.contains
  keep ++ (w.filter fun d => !keep.contains d).take (64 - keep.length)

/-- A forward leaves by a port: by a rotor port only from a send queue and as far as the allowance of the slot goes (R369,
R380). -/
def sendFwd (f : RelayFwd) (i : Nat) (s : State) : State :=
  let p := vget Port.reset s.fab.ports i
  let m := f.req.target
  let go := fun s => modFwd f.id (fun f => { f with st := .sent, via := some i })
    { s with fab := { s.fab with sent := s.fab.sent ++ [(m, 5, f.req.flow, f.req.seq, [])] } }
  let queues := bindQueues s i p.queues
  if p.st = .held then go (forgetCut [f.id] s)
  else if !queues.contains m then s
  else
    let (ids, cut, left) := serveQueue p.left [unsent p (f.id, payload f.req)]
    let s := { s with fab := { s.fab with ports := vmod s.fab.ports i fun p => { p with left, queues, allow := addCut cut p.allow } } }
    if ids.isEmpty then s else go (forgetCut ids s)

/-- Whether a forward has a path to its target, now or after a change of a port. -/
def fwdReach (s : State) (m : Nat) : Bool := decide (nextHop s m = some m) && reachable s m

/-- Forwards whose target has no path left are answered RNR: R380 has every request performed or answered in the end, and does
not say how this one is (DESIGN CHOICE, assumption log 89). -/
def failForwards (p : RelayFwd → Bool) (s : State) : State :=
  (s.fab.relay.filter fun f => p f && !fwdReach s f.req.target).foldl (fun s f => endFwd f .rnr s) s

/-- RELAY_FORWARD (R380): a request for another module is accepted when the buffer has room, the slot it came in permits it
(R368), the relay function is open to its world (R391) and its target has a path, else answered RNR; one that is held is sent
when a path for it is open. -/
def execRelayForward (q : RemoteReq) (s : State) : Out :=
  .next (match s.fab.relay.find? (·.req = q) with
    | some f => if f.st = .queued then (match relayPath s q.target with | some i => sendFwd f i s | none => s) else s
    | none =>
      let p := vget Port.reset s.fab.ports q.port
      if q.port ≥ 32 || isMine s q then s
      else if (bit s.fab.crw 3 && !q.world) || !fwdReach s q.target || decide ((s.fab.relay.map fun f => payload f.req).sum + payload q > relayRoom) ||
          (decide (p.st = .rotor) && !bit (slotEntry p) 20) then answer q .rnr s
      else { s with ids := s.ids + 1, fab := { s.fab with relay := s.fab.relay ++ [⟨s.ids, q, .queued, 0, none⟩] } })

/-! ### Unreachable peers (R382) -/

/-- Whether an operation's target is reachable: face traffic by its port (R336), other traffic by its route. -/
def outReach (s : State) (o : RemoteOut) : Bool :=
  match o.req.op with
  | .face .. => faceRoute s o.req.port
  | _ => reachable s o.req.target

/-- Operations to modules that have become unreachable fault, in issue order (R382); the fuel is their number. -/
def failUnreachable (p : RemoteOut → Bool) : Nat → State → State
  | 0, s => s
  | n + 1, s =>
    match s.fab.outs.find? fun o => p o && !outReach s o with
    | none => s
    | some o => failUnreachable p n (dropOut o.id (failFlow o 1 s))

/-- Routes are looked at again (R380, R382). -/
def reroute (s : State) : State := failForwards (fun _ => true) (failUnreachable (fun _ => true) s.fab.outs.length s)

/-- PEER_UNREACHABLE (R380, R382). -/
def execPeerUnreachable (m : Nat) (s : State) : Out :=
  .next (failForwards (fun f => f.req.target = m) (failUnreachable (fun o => o.req.target = m) s.fab.outs.length s))

/-! ### Ports (R366 to R368) -/

/-- A port. -/
def portAt (s : State) (n : Nat) : Port := vget Port.reset s.fab.ports n
/-- Changing it. -/
def modPort (n : Nat) (f : Port → Port) (s : State) : State := { s with fab := { s.fab with ports := vmod s.fab.ports n f } }

/-- A refused write is reported (R366, R389): the address or port it named. -/
def refusedWrite (src : Nat) (what x : Word) (s : State) : State := errRecord src 0x05 0 [what, x] s

/-- An optical report (R367): the port and the directions concerned, transmit 1, receive 2. -/
def opticalRecord (n dirs : Nat) (s : State) : State := errRecord 8 0x06 dirs [BitVec.ofNat 64 n] s

/-- Ranges of `OPCFG` (R366). -/
def opcfgOk (x : Word) : Bool :=
  let per := bits x 48 8
  let grd := bits x 44 4
  let tx := bits x 38 6
  let rx := bits x 32 6
  4 ≤ per && per ≤ 200 && 1 ≤ grd && grd ≤ 10 && tx ≤ 32 && rx ≤ 32 && tx + rx ≤ 32 && grd < per

/-- The stored bits of a write: ports 0 to 23 ignore MODE, reserved bits read 0. -/
def opcfgValue (n : Nat) (x : Word) : Word :=
  let x := x &&& 0xFFFFFFFFFFF80000
  if n < 24 then x &&& 0xBFFFFFFFFFFFFFFF else x

/-- A port goes DOWN (R367): routes are looked at again. -/
def portDown (n : Nat) (s : State) : State :=
  reroute (modPort n (fun p => { p with
    st := .down, txok := 0, rxok := 0, markers := 0, allow := [], chg := false, left := 0, queues := [] }) s)

/-- The flows with a message that a port carried and that is not answered, this module's and forwarded ones: each is followed by a
drain marker (R379). -/
def flowsOn (s : State) (n : Nat) : Nat :=
  ((s.fab.relay.filter fun f => decide (f.st = .sent) && decide (f.via = some n)).map fun f => (f.req.src, f.req.flow)).dedup.length +
    ((s.fab.outs.filter fun o => answerable o && decide (o.via = some n)).map fun o => (o.cid, o.req.flow)).dedup.length

/-- A port enters QUIESCE (R367, R379). -/
def quiesce (n : Nat) (s : State) : State :=
  let k := flowsOn s n
  modPort n (fun p => { p with st := .quiesce, markers := k, chg := true }) s

/-- Whether a write asks for a change of PEER, MODE, TXW or RXW, or, of a rotor port, of NSM1, the length of its slot table (R367,
R368). -/
def asksChange (old new : Word) : Bool :=
  bits old 20 12 ≠ bits new 20 12 || bits old 62 1 ≠ bits new 62 1 || bits old 38 6 ≠ bits new 38 6 || bits old 32 6 ≠ bits new 32 6 ||
    (bit old 62 && bits old 56 6 ≠ bits new 56 6)

/-- A valid `OPCFG` value acts by the port's state (R367): a change asked of a port in use is a request, and the write of
the new configuration follows in DARK. DESIGN CHOICE (assumption log 88): a write while the port is LOCKING makes it lock afresh. -/
def opcfgAct (n : Nat) (x : Word) (s : State) : State :=
  let p := portAt s n
  let put := fun st => modPort n (fun p => { p with cfg := x, st }) s
  if !bit x 63 then (if p.st = .down then put .down else portDown n (put p.st))
  else match p.st with
    | .down => if bit p.cfg 63 then put .down else put .locking
    | .dark => reroute (put .locking)
    | .locking => reroute (put .locking)
    | .held | .rotor => if asksChange p.cfg x then quiesce n s else put p.st
    | .quiesce => s

/-- OPCFG_WRITE (R366, R367). -/
def execOpcfgWrite (port : Nat) (x : Word) (s : State) : Out :=
  .next (if port ≥ 32 then s
    else if opcfgOk x then opcfgAct port (opcfgValue port x) s
    else refusedWrite 8 (BitVec.ofNat 64 (0x1000 + 8 * port)) x s)

/-- Working wavelengths as `OPST` counts them, over 8 fibres. -/
def okCount (n : Nat) : Nat := min 255 n

/-- The place of a rotor port before its first slot. -/
def noSlot : Nat := 64

/-- A port begins to send (R367): HELD or ROTOR by MODE. After a change the allowances go on as they were (R381). -/
def portUp (n tx rx : Nat) (s : State) : State :=
  modPort n (fun p =>
    let rotor := bit p.cfg 62
    { p with st := if rotor then .rotor else .held, rot := 0, slot := noSlot, txok := okCount tx, rxok := okCount rx
             allow := if p.chg then p.allow else [], chg := false, left := 0 }) s

/-- PORT_LOCKED (R367). -/
def execPortLocked (port : Nat) (s : State) : Out :=
  let p := portAt s port
  .next (if port < 32 && p.st = .locking then portUp port (8 * bits p.cfg 38 6) (8 * bits p.cfg 32 6) s else s)

/-- PORT_LOCK_TIMEOUT (R367). -/
def execPortLockTimeout (port tx rx : Nat) (s : State) : Out :=
  let p := portAt s port
  .next (if port < 32 && p.st = .locking then
      if tx = 0 || rx = 0 then opticalRecord port ((decide (tx = 0)).toNat + 2 * (decide (rx = 0)).toNat) (portDown port s)
      else
        let tx := min tx (8 * bits p.cfg 38 6)
        let rx := min rx (8 * bits p.cfg 32 6)
        let lost := (decide (tx < 8 * bits p.cfg 38 6)).toNat + 2 * (decide (rx < 8 * bits p.cfg 32 6)).toNat
        let s := portUp port tx rx s
        if lost = 0 then s else opticalRecord port lost s
    else s)

/-- DRAIN_MARKER (R379): the peer answers one that this module sent, or a marker of a flow of another module comes in and is
answered once every message ahead of it is performed or answered RNR. -/
def execDrainMarker (m : Marker) (s : State) : Out :=
  .next (if m.port ≥ 32 then s else match m.peer with
    | none => if (portAt s m.port).st = .quiesce then modPort m.port (fun p => { p with markers := p.markers - 1 }) s else s
    | some x => settleMarks { s with fab := { s.fab with marks := s.fab.marks ++ [(m.port, x.1, x.2)] } })

/-- QUIESCE_DONE (R367). -/
def execQuiesceDone (port : Nat) (s : State) : Out :=
  .next (if (portAt s port).st = .quiesce && (portAt s port).markers = 0 then modPort port (fun p => { p with st := .dark }) s else s)

/-- Whether a failure takes every configured wavelength of a direction: in LOCKING none works yet, and only the configured
ones count (R367). -/
def lockLost (p : Port) (tx rx : Nat) : Bool :=
  (decide (tx > 0) && decide (8 * bits p.cfg 38 6 ≤ tx)) || (decide (rx > 0) && decide (8 * bits p.cfg 32 6 ≤ rx))

/-- WAVELENGTH_FAILURE (R367): the rate drops, or a port with a direction gone goes DOWN. -/
def execWavelengthFailure (port tx rx : Nat) (s : State) : Out :=
  let p := portAt s port
  .next (if port ≥ 32 || p.st = .down then s
    else if p.st = .locking then
      if lockLost p tx rx then portDown port (opticalRecord port ((decide (tx > 0)).toNat + 2 * (decide (rx > 0)).toNat) s) else s
    else
      let s := opticalRecord port ((decide (tx > 0)).toNat + 2 * (decide (rx > 0)).toNat)
        (modPort port (fun p => { p with txok := p.txok - tx, rxok := p.rxok - rx }) s)
      if p.txok ≤ tx || p.rxok ≤ rx then portDown port s else s)

/-! ### What the ports send (R365, R368, R369) -/

/-- The held port by which traffic for a module goes now. -/
def heldRoute (s : State) (m : Nat) : Option Nat := (routePorts s m).find? fun i => (portAt s i).st = .held

/-- The held port by which an operation goes now. -/
def outHeld (s : State) (o : RemoteOut) : Option Nat :=
  match o.req.op with
  | .face .. => if facePort s o.req.port then some o.req.port else none
  | _ => heldRoute s o.req.target

/-- An operation that a held port sends now. -/
def sendsHeld (s : State) (o : RemoteOut) : Bool := o.st = .queued && (outHeld s o).isSome && !mustWait s o

/-- Whether an answer or message goes by a held port now. -/
def replyHeld (s : State) (r : Reply) : Bool :=
  match r.port with
  | some p => (portAt s p).st = .held
  | none => (heldRoute s r.msg.1).isSome

/-- What has a held port to go by is sent: it has no allowance (R369). -/
def sendHeld (s : State) : State :=
  forgetCut ((s.fab.resp.filter (replyHeld s)).map (·.id) ++ (s.fab.outs.filter (sendsHeld s)).map (·.id)) { s with fab := { s.fab with
    resp := s.fab.resp.filter fun r => !replyHeld s r
    sent := s.fab.sent ++ (s.fab.resp.filter (replyHeld s)).map (·.msg)
    outs := s.fab.outs.map fun o => if sendsHeld s o then { o with st := .sent, via := outHeld s o } else o } }

/-- Whether traffic for module `t` may go by rotor port `n` in a slot with entry `e` (R365, R368): to its peer, or by it as the
relay when the slot permits that. -/
def slotTakes (s : State) (n : Nat) (e : Word) (t : Nat) : Bool :=
  (routePorts s t).contains n && nextHop s t = some (bits e 22 12) && (decide (t = bits e 22 12) || bit e 20)

/-- The queued operations and the answers that a rotor port may send in a slot with entry `e`, with their payloads. -/
def slotOuts (s : State) (n : Nat) (e : Word) : List (Nat × Nat) :=
  (s.fab.outs.filter fun o => o.st = .queued && !mustWait s o && (match o.req.op with
    | .face .. => false
    | _ => slotTakes s n e o.req.target)).map fun o => (o.id, payload o.req)

/-- See `slotOuts`: only the data of a load response are payload. -/
def slotReplies (s : State) (n : Nat) (e : Word) : List (Nat × Nat) :=
  (s.fab.resp.filter fun r => match r.port with
    | some p => p = n && r.msg.1 = bits e 22 12
    | none => slotTakes s n e r.msg.1).map fun r => (r.id, (r.msg.2.2.2.2.length + 63) / 64 * 64 * (decide (r.msg.2.1 = 0)).toNat)

/-- What a rotor port sends in its slot as far as the allowance goes (R368, R369): responses and requests for its peer, each
class oldest first, from the peer's send queue. -/
def serveSlot (n : Nat) (s : State) : State :=
  let p := portAt s n
  let e := slotEntry p
  let m := bits e 22 12
  let queues := bindQueues s n p.queues
  if p.st ≠ .rotor then s
  else if !bit e 21 || !queues.contains m then modPort n (fun p => { p with queues }) s
  else
    let (ra, ca, left) := serveQueue p.left ((slotReplies s n e).map (unsent p))
    let (ro, co, left) := serveQueue left ((slotOuts s n e).map (unsent p))
    let s := forgetCut (ra ++ ro) (modPort n (fun p => { p with left, queues, allow := addCut co (addCut ca p.allow) }) s)
    { s with fab := { s.fab with
      resp := s.fab.resp.filter fun r => !ra.contains r.id
      sent := s.fab.sent ++ (s.fab.resp.filter fun r => ra.contains r.id).map (·.msg)
      outs := s.fab.outs.map fun o => if ro.contains o.id then { o with st := .sent, via := some n } else o } }

/-- After every step the ports send what may go: by held ports, and by rotor ports in their present slots (R365, R369); and
what was held in its place is looked at again (R354, R357, R379). -/
def pump (s : State) : State :=
  if s.fab.outs.isEmpty && s.fab.resp.isEmpty && s.fab.early.isEmpty && s.fab.marks.isEmpty then s
  else (List.range 32).foldl (fun s n => if (portAt s n).st = .rotor then serveSlot n s else s) (sendHeld (settleMarks (settleHeld s)))

/-- ROTOR_SLOT_START (R368, R369): the next slot, with its allowance; what waits for its peer is sent as far as that goes. -/
def execRotorSlotStart (port : Nat) (s : State) : Out :=
  let p := portAt s port
  .next (if port ≥ 32 || p.st ≠ .rotor then s
    else
      let n := if p.slot ≥ bits p.cfg 56 6 then 0 else p.slot + 1
      let left := bits (getAt 0 p.slots n) 0 20 * 64
      serveSlot port (modPort port (fun p => { p with
        slot := n, left, rot := if p.slot ≥ bits p.cfg 56 6 && p.slot ≠ noSlot then (p.rot + 1) % 2 ^ 32 else p.rot }) s))

end Sys2Proof.Machine
end

