-- ==== Sys2Proof/Machine/Hash.lean ====
section
/-! DEFINITION. SHA-256 and HMAC-SHA-256 (R327, R392), which the spec names by their standards (FIPS 180-4, RFC 2104;
assumption log 5). Words are big-endian there. -/

namespace Sys2Proof.Machine

/-- A word of the hash. -/
abbrev HWord := BitVec 32

/-- The round constants. -/
def shaK : List HWord :=
    [0x428A2F98, 0x71374491, 0xB5C0FBCF, 0xE9B5DBA5, 0x3956C25B, 0x59F111F1, 0x923F82A4, 0xAB1C5ED5] ++
    [0xD807AA98, 0x12835B01, 0x243185BE, 0x550C7DC3, 0x72BE5D74, 0x80DEB1FE, 0x9BDC06A7, 0xC19BF174] ++
    [0xE49B69C1, 0xEFBE4786, 0x0FC19DC6, 0x240CA1CC, 0x2DE92C6F, 0x4A7484AA, 0x5CB0A9DC, 0x76F988DA] ++
    [0x983E5152, 0xA831C66D, 0xB00327C8, 0xBF597FC7, 0xC6E00BF3, 0xD5A79147, 0x06CA6351, 0x14292967] ++
    [0x27B70A85, 0x2E1B2138, 0x4D2C6DFC, 0x53380D13, 0x650A7354, 0x766A0ABB, 0x81C2C92E, 0x92722C85] ++
    [0xA2BFE8A1, 0xA81A664B, 0xC24B8B70, 0xC76C51A3, 0xD192E819, 0xD6990624, 0xF40E3585, 0x106AA070] ++
    [0x19A4C116, 0x1E376C08, 0x2748774C, 0x34B0BCB5, 0x391C0CB3, 0x4ED8AA4A, 0x5B9CCA4F, 0x682E6FF3] ++
    [0x748F82EE, 0x78A5636F, 0x84C87814, 0x8CC70208, 0x90BEFFFA, 0xA4506CEB, 0xBEF9A3F7, 0xC67178F2]

/-- The initial hash value. -/
def shaInit : List HWord := [0x6A09E667, 0xBB67AE85, 0x3C6EF372, 0xA54FF53A, 0x510E527F, 0x9B05688C, 0x1F83D9AB, 0x5BE0CD19]

/-- A rotation to the right. -/
def rotr (n : Nat) (x : HWord) : HWord := (x >>> n) ||| (x <<< (32 - n))

/-- The small functions of the message schedule. -/
def shaS0 (x : HWord) : HWord := (rotr 7 x ^^^ rotr 18 x) ^^^ (x >>> 3)
/-- The second. -/
def shaS1 (x : HWord) : HWord := (rotr 17 x ^^^ rotr 19 x) ^^^ (x >>> 10)

/-- The words of the schedule from a window of sixteen on. -/
def shaSchedule : Nat → List HWord → List HWord
  | 0, _ => []
  | n + 1, w =>
    let x := w.getD 0 0
    x :: shaSchedule n (w.drop 1 ++ [shaS1 (w.getD 14 0) + w.getD 9 0 + shaS0 (w.getD 1 0) + x])

/-- One round on the eight working variables. -/
def shaRound (v : List HWord) (kw : HWord × HWord) : List HWord :=
  match v with
  | [a, b, c, d, e, f, g, h] =>
    let t1 := h + ((rotr 6 e ^^^ rotr 11 e) ^^^ rotr 25 e) + ((e &&& f) ^^^ (~~~e &&& g)) + kw.1 + kw.2
    let t2 := ((rotr 2 a ^^^ rotr 13 a) ^^^ rotr 22 a) + (((a &&& b) ^^^ (a &&& c)) ^^^ (b &&& c))
    [t1 + t2, a, b, c, d + t1, e, f, g]
  | v => v

/-- A big-endian word of four bytes. -/
def beWord (bs : List Byte) : HWord := bs.foldl (fun x b => x <<< 8 ||| b.setWidth 32) 0

/-- The bytes of a word, big-endian. -/
def beBytes (x : HWord) : List Byte := [24, 16, 8, 0].map fun i => (x >>> i).setWidth 8

/-- One block of 64 bytes. -/
def shaBlock (h : List HWord) (bs : List Byte) : List HWord :=
  let w := (List.range 16).map fun i => beWord ((bs.drop (4 * i)).take 4)
  List.zipWith (· + ·) h ((shaK.zip (shaSchedule 64 w)).foldl shaRound h)

/-- So many blocks. -/
def shaBlocks : Nat → List HWord → List Byte → List HWord
  | 0, h, _ => h
  | n + 1, h, bs => shaBlocks n (shaBlock h (bs.take 64)) (bs.drop 64)

/-- A message with its padding: a 1 bit, zeros, its length in bits. -/
def shaPad (m : List Byte) : List Byte :=
  m ++ [0x80] ++ List.replicate ((119 - m.length % 64) % 64) 0 ++
    (beBytes (BitVec.ofNat 32 (8 * m.length / 2 ^ 32)) ++ beBytes (BitVec.ofNat 32 (8 * m.length)))

/-- SHA-256 of bytes: the 32 bytes of the digest. -/
def sha256 (m : List Byte) : List Byte :=
  (shaBlocks ((m.length + 72) / 64) shaInit (shaPad m)).flatMap beBytes

/-- HMAC-SHA-256 of bytes under a key of 32 bytes. -/
def hmacBytes (key m : List Byte) : List Byte :=
  let k := key ++ List.replicate (64 - key.length) 0
  sha256 (k.map (· ^^^ 0x5C) ++ sha256 (k.map (· ^^^ 0x36) ++ m))

end Sys2Proof.Machine
end

