-- ==== Sys2Proof/Machine/System.lean ====
section
/-! DEFINITION. The control port, management registers, queue slots, boot, keys, error records, power (R171 to R173, R215,
R388 to R400). -/

namespace Sys2Proof.Machine

/-- The module issues nothing and answers RECORDS only: the alarm, or a thermal trip (R394, R398). -/
def halted (s : State) : Bool := s.sys.alarm || s.sys.tripped

/-! ### Queue headers seen by the dispatch hardware -/

/-- The header at a VA. -/
def readHdr (s : State) (die : Nat) (hdr : Word) : Except FaultInfo QueueHdr :=
  match devRead s (queueAgent die (queueWorld s die hdr)) hdr 64 with
  | .ok bs => .ok (queueHdr bs)
  | .error f => .error f

/-- An atomic unsigned maximum into a header's NOTIFY word (R173), which its home slice passes on to the slots mapped to it
(R171). -/
def headerMax (die : Nat) (hdr v : Word) (s : State) : State :=
  let ag := queueAgent die (queueWorld s die hdr)
  match readHdr s die hdr, vaSegs s ag.site ag.world .read hdr 8 with
  | .ok h, .ok (g :: _) =>
    let n := max h.notify v.toNat
    notifyLine g.addr (BitVec.ofNat 64 n) (devWrite ag hdr (leBytes 8 n) s)
  | _, _ => s

/-- A queue slot. -/
def slotAt (s : State) (die q : Nat) : QSlot := vget QSlot.reset (dieOf s die).q q

/-- Changing it. -/
def modSlot (die q : Nat) (f : QSlot → QSlot) (s : State) : State := modDie die (fun d => { d with q := vmod d.q q f }) s

/-- The unmap event (R173): the register goes to the header's NOTIFY word. -/
def unmapSlot (die q : Nat) (s : State) : State :=
  let x := slotAt s die q
  if x.mapped then headerMax die x.hdr x.reg (modSlot die q (fun x => { x with mapped := false, cand := none, head := none }) s) else s

/-- The launch whose record stands at the head of a queue: one admitted leaves it when its threads have been bound, or at the
next map if the queue was unmapped then (R173, R174). -/
def headLaunch (s : State) (die : Nat) (hdr : Word) : Option Nat :=
  match readHdr s die hdr with
  | .ok h => (s.launches.find? fun l => l.place = some (queueWorld s die hdr, hdr, h.read)).map (·.num)
  | .error _ => none

/-- The map event (R173); a header that cannot be read counts as one whose NOTIFY is 0, and is reported (assumption log 15). -/
def mapSlot (die q : Nat) (fw : Bool) (hdr : Word) (s : State) : State :=
  let x := slotAt s die q
  let (n, s) := match readHdr s die hdr with
    | .ok h => (BitVec.ofNat 64 h.notify, devTouch (queueAgent die (queueWorld s die hdr)) hdr 64 s)
    | .error f => ((0 : Word), errRecord die 0x03 f.cause [hdr, BitVec.ofNat 64 q] s)
  let r := if x.ever && x.hdr = hdr then (if n.ult x.reg then x.reg else n) else n
  modSlot die q (fun _ => { mapped := true, ever := true, fw, hdr, reg := r, cand := none, head := headLaunch s die hdr }) s

/-- The header VA a QMAP value names (R172). -/
def qmapHdr (x : Word) : Word := BitVec.ofInt 64 (signExt (bits x 6 51 * 64) 57)

/-- QMAP_MAP (R172, R173): a mapped slot is unmapped first. -/
def execQmapMap (die q : Nat) (x : Word) (s : State) : Out :=
  .next (if die ≥ 8 || q ≥ 32 then s else mapSlot die q (bit x 62) (qmapHdr x) (unmapSlot die q s))

/-- QMAP_UNMAP (R173). -/
def execQmapUnmap (die q : Nat) (s : State) : Out := .next (if die ≥ 8 || q ≥ 32 then s else unmapSlot die q s)

/-- A notify at a slot's port (R173). -/
def notifySlot (die q : Nat) (v : Word) (s : State) : State :=
  let x := slotAt s die q
  if x.mapped then modSlot die q (fun x => x.notify v) s
  else if x.ever then headerMax die x.hdr v s
  else errRecord die 0x03 0 [BitVec.ofNat 64 q, v] s

/-- NOTIFY (R173, R388). -/
def execNotify (die q : Nat) (x : Word) (s : State) : Out :=
  .next (if halted s || die ≥ 8 || q ≥ 32 then s else notifySlot die q x s)

/-! ### Management registers (R389) -/

/-- What a management address names. -/
inductive MReg where
  | mpos | fabcfg | rotep | portw | crw
  | opcfg (n : Nat) | opst (n : Nat) | oslot (n i : Nat) | mroute (m : Nat) | xport (e w : Nat) | region (e : Nat)
  | dmcfg (d : Nat) | trt0 (d : Nat) | trt1 (d : Nat) | vatw (d : Nat) | stat (d k : Nat) | qmap (d q : Nat) | notify (d q : Nat)
deriving DecidableEq, Repr

/-- The register of a die's block. -/
def dieReg (d o : Nat) : Option MReg :=
  if d ≥ 8 || o % 8 ≠ 0 then none
  else if o = 0 then some (.dmcfg d)
  else if o = 8 then some (.trt0 d)
  else if o = 0x10 then some (.trt1 d)
  else if o = 0x18 then some (.vatw d)
  else if 0x100 ≤ o && o ≤ 0x120 then some (.stat d ((o - 0x100) / 8))
  else if 0x600 ≤ o && o < 0x700 then some (.qmap d ((o - 0x600) / 8))
  else if 0x800 ≤ o && o < 0x900 then some (.notify d ((o - 0x800) / 8))
  else none

/-- The register at a management address (R389). An export entry is reached as its four words (assumption log 14). -/
def regAt (a : Nat) : Option MReg :=
  if a ≥ 0x100000 then dieReg (a / 0x100000 - 1) (a % 0x100000)
  else if 0x20000 ≤ a && a < 0x24000 then (if a % 4 = 0 then some (.mroute ((a - 0x20000) / 4)) else none)
  else if a % 8 ≠ 0 then none
  else if a = 0 then some .mpos
  else if a = 8 then some .fabcfg
  else if a = 0x10 then some .rotep
  else if a = 0x18 then some .portw
  else if a = 0x20 then some .crw
  else if 0x1000 ≤ a && a < 0x1100 then some (.opcfg ((a - 0x1000) / 8))
  else if 0x1100 ≤ a && a < 0x1200 then some (.opst ((a - 0x1100) / 8))
  else if 0x2000 ≤ a && a < 0x6000 then some (.oslot ((a - 0x2000) / 512) ((a - 0x2000) % 512 / 8))
  else if 0x40000 ≤ a && a < 0x60000 then some (.xport ((a - 0x40000) / 32) (a % 32 / 8))
  else if 0x60000 ≤ a && a < 0x68000 then some (.region ((a - 0x60000) / 8))
  else none

/-- The STATE code of a port (R366). -/
def PortSt.code : PortSt → Nat
  | .down => 0 | .locking => 1 | .held => 2 | .rotor => 3 | .quiesce => 4 | .dark => 5

/-- `OPST` as it reads (R366). -/
def opstWord (p : Port) : Word :=
  BitVec.ofNat 64 (p.rot % 2 ^ 32 * 2 ^ 32 + min 255 p.txok * 2 ^ 24 + min 255 p.rxok * 2 ^ 16 + p.st.code)

/-- `QMAP` as it reads (R172). -/
def qmapWord (x : QSlot) : Word := BitVec.ofNat 64 (x.mapped.toNat * 2 ^ 63 + x.fw.toNat * 2 ^ 62 + bits x.hdr 6 51 * 64)

/-- A statistic of a die, in the order of their addresses (R389). -/
def statWord (d : Die) : Nat → Word
  | 0 => d.slices
  | 1 => d.wftOvf
  | 2 => d.overs
  | 3 => d.unders
  | _ => d.lost

/-- A management register as it reads. -/
def regRead (s : State) : MReg → Word
  | .mpos => s.fab.mpos
  | .fabcfg => s.fab.fabcfg
  | .rotep => s.fab.rotep
  | .portw => s.fab.portw
  | .crw => s.fab.crw
  | .opcfg n => (portAt s n).cfg
  | .opst n => opstWord (portAt s n)
  | .oslot n i => getAt 0 (portAt s n).slots i
  | .mroute m => (getAt (0 : BitVec 32) s.fab.mroute m).setWidth 64
  | .xport e w => BitVec.ofNat 64 (fld (getAt (0 : BitVec 256) s.fab.exports e).toNat (64 * w) 64)
  | .region e => getAt 0 s.fab.regions e
  | .dmcfg d => (dieOf s d).dmcfg
  | .trt0 d => (dieOf s d).trt0
  | .trt1 d => (dieOf s d).trt1
  | .vatw d => (dieOf s d).vatw
  | .stat d k => statWord (dieOf s d) k
  | .qmap d q => qmapWord (slotAt s d q)
  | .notify d q => (slotAt s d q).reg

/-- `DMCFG` as a write stores it (R215). -/
def dmcfgValue (x : Word) : Word :=
  let x := x &&& 0xFF
  let x := if bits x 3 2 = 3 then x &&& ~~~(0x10 : Word) else x
  if bits x 0 3 = 0 then x ||| 1 else x

/-- A bank of the die is owned, or a live launch has a grant there (R215). -/
def grantHeld (s : State) (die : Nat) : Bool :=
  s.banks.any (fun b => b.1 / 1024 = die && b.2 ≠ 0) || s.launches.any fun l => l.live && l.grants.any fun g => g.die = die

/-- A home slice of the die holds a dirty line (R215, R218). -/
def dirtyHeld (s : State) (die : Nat) : Bool := s.home.any fun h => h.2 = .dirty && h.1 * 64 / 2 ^ 36 % 8 = die

/-- A write of `DMCFG` (R215), and whether it was taken. -/
def writeDmcfg (die : Nat) (x : Word) (s : State) : State × Bool :=
  let old := (dieOf s die).dmcfg
  let v := dmcfgValue x
  if bit old 7 then (s, false)
  else if bits v 0 5 ≠ bits old 0 5 && (grantHeld s die || dirtyHeld s die) then (refusedWrite die 0 x s, false)
  else (modDie die (fun d => { d with dmcfg := v }) s, true)

/-- DMCFG_WRITE (R215). -/
def execDmcfgWrite (die : Nat) (x : Word) (s : State) : Out := .next (if die ≥ 8 then s else (writeDmcfg die x s).1)

/-- A write of `VATW` (R391), and whether it was taken. -/
def writeVatw (die : Nat) (x : Word) (s : State) : State × Bool :=
  let d := x ^^^ (dieOf s die).vatw
  if s.banks.any fun b => b.1 / 1024 = die && b.2 ≠ 0 && bit d (b.1 / 16 % 64) then (refusedWrite die 0x18 x s, false)
  else (modDie die (fun d => { d with vatw := x }) s, true)

/-- VATW_WRITE (R391). -/
def execVatwWrite (die : Nat) (x : Word) (s : State) : Out := .next (if die ≥ 8 then s else (writeVatw die x s).1)

/-- Changing the fabric's registers. -/
def modFab (f : Fabric → Fabric) (s : State) : State := { s with fab := f s.fab }

/-- `FABCFG` as a write stores it (R364). -/
def fabcfgValue (x : Word) : Word :=
  let x := x &&& 0x800000000F000FFF
  if bits x 24 4 = 0 then x ||| 0x01000000 else x

/-- A route entry as a write stores it (R365). -/
def mrouteValue (x : Word) : BitVec 32 :=
  let x := x.setWidth 32 &&& 0xFFFC0000
  if fld x.toNat 30 2 = 3 then x &&& 0x3FFC0000 else x

/-- The bits that one word of an export entry stores (R372). -/
def exportMask (w : Nat) : Word := if w = 0 then 0xFFFF0000000000FC else 0xFFFFFFFFFFFFFFFF

/-- One word of an export entry is written. -/
def exportPut (e : BitVec 256) (w : Nat) (x : Word) : BitVec 256 :=
  let m := BitVec.ofNat 256 ((2 ^ 64 - 1) * 2 ^ (64 * w))
  (e &&& ~~~m) ||| BitVec.ofNat 256 ((x &&& exportMask w).toNat * 2 ^ (64 * w))

/-- A write of a slot-table entry (R367, R368): of a port in use a change is a request; a port that drains holds. -/
def writeOslot (n i : Nat) (x : Word) (s : State) : State :=
  let x := x &&& 0x3FFFFFFFF
  let p := portAt s n
  match p.st with
  | .held | .rotor => if getAt 0 p.slots i = x then s else quiesce n s
  | .quiesce => s
  | _ => reroute (modPort n (fun p => { p with slots := setAt 0 p.slots i x }) s)

/-- A write of a management register by an agent that may write it; whether it was taken. `QMAP` registers take writes from
the dispatch core only (R172). -/
def regWrite (r : MReg) (x : Word) (s : State) : State × Bool :=
  match r with
  | .mpos => if bit s.fab.mpos 63 then (s, false) else (modFab (fun f => { f with mpos := x &&& 0x800000003FFFFFFF }) s, true)
  | .fabcfg => if bit s.fab.fabcfg 63 then (s, false) else (modFab (fun f => { f with fabcfg := fabcfgValue x }) s, true)
  | .rotep => (modFab (fun f => { f with rotep := x }) s, true)
  | .portw => (modFab (fun f => { f with portw := x &&& 0xFFFFFFFF }) s, true)
  | .crw => (modFab (fun f => { f with crw := x &&& 0xF }) s, true)
  | .opcfg n =>
    if opcfgOk x then (opcfgAct n (opcfgValue n x) s, true) else (refusedWrite 8 (BitVec.ofNat 64 (0x1000 + 8 * n)) x s, false)
  | .opst _ => (s, true)
  | .oslot n i => (writeOslot n i x s, true)
  | .mroute m => (reroute (modFab (fun f => { f with mroute := setAt 0 f.mroute m (mrouteValue x) }) s), true)
  | .xport e w => (modFab (fun f => { f with exports := setAt 0 f.exports e (exportPut (getAt 0 f.exports e) w x) }) s, true)
  | .region e => (modFab (fun f => { f with regions := setAt 0 f.regions e (x &&& 0xC000000FFFFFFFFF) }) s, true)
  | .dmcfg d => writeDmcfg d x s
  | .trt0 d => (modDie d (fun y => { y with trt0 := x &&& 0x8000007FFFFFF000 }) s, true)
  | .trt1 d => (modDie d (fun y => { y with trt1 := x &&& 0x8000007FFFFFF000 }) s, true)
  | .vatw d => writeVatw d x s
  | .stat _ _ => (s, true)
  | .qmap d q => (refusedWrite d (BitVec.ofNat 64 (0x600 + 8 * q)) x s, false)
  | .notify d q => (notifySlot d q x s, true)

/-- MANAGEMENT_REGISTER_WRITE (R389): boot firmware or a service launch writes. -/
def execManagementRegisterWrite (addr : Nat) (x : Word) (s : State) : Out :=
  .next (match regAt addr with
    | none => s
    | some r => (regWrite r x s).1)

/-- The die that reports a refused write; the creamery for the module's registers. -/
def regSource : MReg → Nat
  | .dmcfg d | .trt0 d | .trt1 d | .vatw d | .stat d _ | .qmap d _ | .notify d _ => d
  | _ => 8

/-- Registers that a CWRITE may not write (R389). -/
def cwriteRefused (r : MReg) (x : Word) : Bool :=
  match r with
  | .trt1 _ | .portw | .crw | .vatw _ | .region _ | .qmap _ _ => true
  | .xport _ w => w = 0 && bit x 6
  | _ => false

/-! ### TZ commands (R388, R400) -/

/-- An answer on a TZ port. -/
def tzAnswer (port status : Nat) (data : List Byte) (s : State) : State :=
  { s with sys := { s.sys with answers := s.sys.answers ++ [{ port, status, data }] } }

/-- The status of an MREAD or MWRITE of `n` bytes before it meets its data (R389, R400). -/
def paStatus (s : State) (pa n : Nat) : Nat :=
  if n % 8 ≠ 0 || n < 8 || n > 4096 || pa % 8 ≠ 0 || pa % 4096 + n > 4096 then 1
  else if pa ≥ 2 ^ 39 then 2
  else if regionSecure s pa || (lineStarts pa n).any (homeSecure s) then 3
  else 0

/-- A physical access as one piece of HBM. -/
def paSegs (pa n : Nat) : List Seg := [⟨false, pa, n, BitVec.ofNat 64 pa⟩]

/-- A TZ port takes commands: it is one of the two, and the module is not halted (R2, R6, R394). -/
def tzTakes (s : State) (port : Nat) : Bool := decide (port < 2) && !halted s

/-- MREAD (R388, R389). -/
def execMread (port pa n : Nat) (s : State) : Out :=
  let st := paStatus s pa n
  .next (if !tzTakes s port then s
    else if st ≠ 0 then tzAnswer port st [] s
    else if (badLine s (paSegs pa n)).isSome then tzAnswer port 4 [] s
    else tzAnswer port 0 (readSegs s (paSegs pa n)) (stepSegs .plain none (paSegs pa n) s))

/-- MWRITE (R388, R389). -/
def execMwrite (port pa : Nat) (data : List Byte) (s : State) : Out :=
  let st := paStatus s pa data.length
  let gs := paSegs pa data.length
  .next (if !tzTakes s port then s
    else if st ≠ 0 then tzAnswer port st [] s
    else tzAnswer port 0 [] (writeSegs (stepSegs .store none gs (reportBad (pa / 2 ^ 36 % 8) gs s)) gs data))

/-- The status of an APPEND whose checks fail (R400). -/
def appendStatus (f : FaultInfo) : Nat := if f.cause = 0x0B then 1 else if f.cause = 0x0A then 2 else 3

/-- APPEND (R166, R388, R400): as `launch`, in the non-secure world. -/
def execAppend (port : Nat) (hdr rec : Word) (s : State) : Out :=
  .next (if !tzTakes s port then s
    else match appendCheck s (queueAgent 0 false) hdr rec with
      | .error f => tzAnswer port (appendStatus f) [] s
      | .ok (gs, h, rs) =>
        if (badLine s (gs ++ rs)).isSome then tzAnswer port 4 [] s
        else
          let (s, x) := appendDo none gs h rs false rec s
          tzAnswer port 0 (leBytes 8 x.toNat) s)

/-- CREAD (R388). -/
def execCread (port addr : Nat) (s : State) : Out :=
  .next (if !tzTakes s port then s
    else match regAt addr with
      | none => tzAnswer port 2 [] s
      | some r => tzAnswer port 0 (leBytes 8 (regRead s r).toNat) s)

/-- CWRITE (R388, R389, R400). -/
def execCwrite (port addr : Nat) (x : Word) (s : State) : Out :=
  .next (if !tzTakes s port then s
    else match regAt addr with
      | none => tzAnswer port 2 [] s
      | some r =>
        if cwriteRefused r x then tzAnswer port 5 [] (refusedWrite (regSource r) (BitVec.ofNat 64 addr) x s)
        else
          let (s, ok) := regWrite r x s
          tzAnswer port (if ok then 0 else 5) [] s)

/-! ### Reports -/

/-- A measured-boot report (R395). -/
def measureReport (y : Sys) (nonce : List Byte) : List Byte :=
  let body := (List.range 3).flatMap (fun k => leBytes 32 (vget 0 y.meas k).toNat)
    ++ ((List.range 3).flatMap fun k => leBytes 8 (vget 0 y.svn k).toNat) ++ nonce
  body ++ Config.sign body

/-- One report is sent; where the device identity key is gone (R394) no answer is sent (R395; DESIGN CHOICE, assumption log 87). -/
def sendReport (port : Nat) (nonce : List Byte) (s : State) : State :=
  if s.sys.wrapKey && !s.sys.keysHeld then tzAnswer port 0 (measureReport s.sys nonce) s else s

/-- MEASURE (R395): during boot it waits for boot to end. -/
def execMeasure (port : Nat) (nonce : List Byte) (s : State) : Out :=
  .next (if !tzTakes s port then s
    else if s.sys.booted then sendReport port nonce s
    else { s with sys := { s.sys with measures := s.sys.measures ++ [(port, nonce)] } })

/-- The order of the merged stream (R397). -/
def recBefore (a b : ErrRec) : Bool :=
  a.time.ult b.time || (a.time = b.time && (decide (a.src < b.src) || (a.src = b.src && a.seq.ult b.seq)))

/-- Insertion of a record at its place. -/
def insRec (r : ErrRec) : List ErrRec → List ErrRec
  | [] => [r]
  | x :: xs => if recBefore r x then r :: x :: xs else x :: insRec r xs

/-- The 64 bytes of an error record (R396). -/
def recordBytes (r : ErrRec) : List Byte :=
  leBytes 8 r.time.toNat ++ leBytes 4 r.seq.toNat ++ leBytes 1 r.src ++ leBytes 1 r.cls ++ leBytes 2 r.code ++
    (List.range 6).flatMap fun i => leBytes 8 (r.detail.getD i 0).toNat

/-- The records buffered at every source, merged (R397). -/
def mergedRecords (s : State) : List ErrRec :=
  ((s.dies.toList.flatMap fun d => d.errs) ++ s.sys.crErrs).foldl (fun l r => insRec r l) []

/-- Every buffered record goes out, merged, on each port that has asked (R397). -/
def sendRecords (s : State) : State :=
  if s.sys.asked.isEmpty then s
  else
    let bs := (mergedRecords s).flatMap recordBytes
    { s with
      dies := s.dies.map fun d => { d with errs := [] }
      sys := { s.sys with
        crErrs := []
        streams := s.sys.asked.foldl (fun (v : Vector (List Byte) 2) p => vmod v p fun x => x ++ bs) s.sys.streams } }

/-- RECORDS (R397): the port has asked for the stream. -/
def execRecords (port : Nat) (s : State) : Out :=
  .next (if port ≥ 2 then s else sendRecords { s with sys := { s.sys with asked := if s.sys.asked.contains port then s.sys.asked else s.sys.asked ++ [port] } })

/-- RECORDS_LOST_REPORT (R397): when the buffer of a source has room, one record gives the number lost. -/
def execRecordsLostReport (src : Nat) (s : State) : Out :=
  .next (if src < 8 then
      let d := dieOf s src
      if d.errLost = 0 || d.errs.length ≥ 256 then s
      else errRecord src 0x09 0 [BitVec.ofNat 64 d.errLost] (modDie src (fun d => { d with errLost := 0 }) s)
    else if src = 8 then
      if s.sys.crLost = 0 || s.sys.crErrs.length ≥ 256 then s
      else errRecord 8 0x09 0 [BitVec.ofNat 64 s.sys.crLost] { s with sys := { s.sys with crLost := 0 } }
    else s)

/-! ### Boot and reset (R392, R393) -/

/-- Field `n` bytes long at offset `o` of an image (R393). -/
def fwField (x : List Byte) (o n : Nat) : Nat := leNat ((x.drop o).take n)

/-- Whether an image is one of kind `k` that may run (R392, R393): its header, its length, its security version against the
fused minimum, and its signature over header and body. A header whose MAGIC, KIND, zeros or LEN are wrong fails as a bad
signature does (assumption log 62). -/
def fwGood (k : Nat) (x : List Byte) : Bool :=
  let m := 128 + fwField x 0x10 8
  decide (fwField x 0 4 = 0x4B525946) && decide (fwField x 4 1 = k) && decide (fwField x 5 3 = 0) &&
    decide (fwField x 0x18 104 = 0) && decide (x.length = m + 7856) && decide (Config.minSvn ≤ fwField x 8 8) &&
    Config.vendorSigned (x.take m) (x.drop m)

/-- Every port goes DOWN (R394). -/
def portsDown (s : State) : State :=
  (List.range 32).foldl (fun s n => if (portAt s n).st = .down then s else portDown n s) s

/-- The alarm (R394). -/
def raiseAlarm (s : State) : State :=
  let s := errRecord 8 0x08 2 [] (portsDown s)
  { s with
    sys := { s.sys with
      alarm := true
      wrapKey := s.sys.wrapKey && Config.almh
      imageKey := if Config.almh then s.sys.imageKey else 0
      keysHeld := Config.almh } }

/-- SECURITY_ALARM (R394). -/
def execSecurityAlarm (s : State) : Out := .next (raiseAlarm s)

/-- The state right after a module reset, later than the first: an erased wrapping key stays erased (R394), a MEASURE taken
while the module boots is still to be answered, and the model's own counters go on. What HBM then holds the spec does not
say: here it is as State.reset has it (DESIGN CHOICE, assumption log 2). -/
def afterReset (s : State) : State :=
  { State.reset with
    fresh := s.fresh, agenda := s.agenda
    sys := { Sys.reset with
      wrapKey := s.sys.wrapKey, resets := s.sys.resets + 1, measures := if s.sys.booted then [] else s.sys.measures } }

/-- A good image is measured and runs (R392). -/
def fwLoad (k : Nat) (x : List Byte) (s : State) : State :=
  { s with sys := { s.sys with
      runs := vmod s.sys.runs k fun _ => true
      meas := vmod s.sys.meas k fun m => BitVec.ofNat 256 (leNat (sha256 (leBytes 32 m.toNat ++ sha256 x)))
      svn := vmod s.sys.svn k fun _ => BitVec.ofNat 64 (fwField x 8 8) } }

/-- Boot comes to copy `c` of image `k`, after `bad` failures: it loads it unless the first copy runs; a failure is reported,
and the third raises the alarm, which ends the boot (R392, R394). -/
def bootCopy (x : State × Nat) (k c : Nat) : State × Nat :=
  let (s, bad) := x
  if s.sys.alarm || vget false s.sys.runs k then (s, bad)
  else if fwGood k (Config.flashImage k c) then (fwLoad k (Config.flashImage k c) s, bad)
  else
    let s := errRecord 8 0x08 1 [BitVec.ofNat 64 k, BitVec.ofNat 64 c] s
    (if bad = 2 then raiseAlarm s else s, bad + 1)

/-- The boot sequence (R392, R395): images, the image key, the reports asked for meanwhile. -/
def boot (s : State) : State :=
  let s := ([(0, 0), (0, 1), (1, 0), (1, 1), (2, 0), (2, 1)].foldl (fun x p => bootCopy x p.1 p.2) (s, 0)).1
  if s.sys.alarm then s
  else
    let s := { s with sys := { s.sys with imageKey := Config.imageKey s.sys.resets, booted := true } }
    s.sys.measures.foldl (fun s x => sendReport x.1 x.2 s) { s with sys := { s.sys with measures := [] } }

/-- Module reset and boot (R392). -/
def resetModule (s : State) : State := boot (afterReset s)

/-- The firmware image that a step of the hardware is the work of (R392): one that failed its check does not run, and
what it would do does not happen. -/
def firmwareOf : Instr → Option Nat
  | .dispatchSelect .. | .bind .. | .dispatchDeadlockCheck .. | .sliceExpiry .. | .watchdogT1 .. | .watchdogT2 .. | .watchdogT3 ..
  | .qmapMap .. | .qmapUnmap .. => some 0
  | .creameryReduction .. | .reductionDelivery .. | .reshardArrival .. | .channelItemWrite .. | .channelItemRead .. | .relayForward .. => some 1
  | .portLocked .. | .portLockTimeout .. | .rotorSlotStart .. => some 2
  | _ => none

/-- Whether an image runs. -/
def fwRuns (s : State) (k : Nat) : Bool := vget false s.sys.runs k

/-- MODULE_RESET (R392). -/
def execModuleReset (s : State) : Out := .next (resetModule s)

/-- I2C_RESET_REQUEST (R399): register 0x0B is written; 0xA5 requests a reset, another value is ignored. What the
register reads as, 0, is the model's choice (assumption log 63). -/
def execI2cResetRequest (x : Byte) (s : State) : Out := .next (if x = 0xA5 then resetModule s else s)

/-- The board-management register at a number, as it reads (R399). -/
def i2cRead (s : State) (n : Nat) : Byte :=
  if n = 0x0A then BitVec.ofNat 8 (s.sys.alarm.toNat + 2 * s.sys.tripped.toNat + 4 * s.sys.booted.toNat)
  else if n = 0x0B then s.sys.mgmt
  else Config.sensor s.fresh n

/-! ### Power and cores -/

/-- THERMAL_THROTTLE (R398): time only. -/
def execThermalThrottle (die : Nat) (s : State) : Out := .next (modDie die (fun d => { d with throttled := true }) s)

/-- THERMAL_TRIP (R398): the module halts as at the alarm; the keys stay. -/
def execThermalTrip (die : Nat) (s : State) : Out :=
  .next (if die ≥ 8 then s
    else
      let s := errRecord die 0x08 3 [BitVec.ofNat 64 die] (portsDown s)
      { s with sys := { s.sys with tripped := true } })

/-- FENCED_CORE_RESTORE (R182). R177 gives no way out of FENCED: an entry of the core is KILLING again, and may drain (DESIGN
CHOICE, assumption log 48). -/
def execFencedCoreRestore (die core : Nat) (s : State) : Out :=
  .next (if die ≥ 8 || core ≥ 64 then s
    else
      let free := fun (c : Ctx) => if c.die = die && c.core = core && c.status = .fenced then { c with status := .killing } else c
      let s := modDie die (fun d => { d with binds := d.binds.map fun r => if r.core = core then { r with fenced := false } else r }) s
      modCore die core (fun c => { c with fenced := false }) { s with me := free s.me, others := s.others.map free })

end Sys2Proof.Machine
end

