-- ==== Sys2Proof/Machine/Image.lean ====
section
/-! DEFINITION. The image of a saved thread: its areas (R326), its integrity tags (R327), its check before a restore (R328),
and what a result that lands in it changes (R324). -/

/-- R326: the bytes of the state area of an image, laid out as the device likes, from the number drawn for the image and what it
saves (assumption log 56). -/
opaque Sys2Proof.Config.stateByte : Nat → Sys2Proof.Machine.Ctx → Nat → Sys2Proof.Byte

namespace Sys2Proof.Machine

/-- Data of a snapshot entry: a vector or mask result frozen in Snap (R326). -/
def snapData (f : Flight) : Option (List Byte) :=
  match f.upd with
  | .v _ d .. | .blk _ d _ => some (vecBytes d 1024)
  | .m _ x => some (leBytes 1024 x.toNat)
  | .puts d _ => some (vecBytes d 1024)
  | _ => none

/-- The entries of the snapshot area of a context: at most 64 (R326). DESIGN CHOICE (assumption log 56): a switch in handler mode
saves the handler's own results in flight before those of Snap, and what the area has no room for lies in the state area. -/
def snapEntries (c : Ctx) : List (List Byte) := ((c.sq.flights ++ c.sq.snap).filterMap snapData).take 64

/-- The snapshot area of a context. -/
def snapArea (c : Ctx) : List Byte := (snapEntries c).flatten

/-- What follows the elements in the churn area (R279 to R281, R292, R326), one after another (DESIGN CHOICE: R326 lists them
and gives no places; assumption log 56): status words, correction images, drain parameters, activation table. -/
def churnWords (h : Churn) : List Byte :=
  (h.acc.toList.flatMap fun a => leBytes 8 a.atag.code) ++ ((h.qa.toList ++ h.qb.toList).flatMap corrImage) ++
    ([h.lo, h.hi, h.qs, h.zp].flatMap fun x => leBytes 4 x.toNat) ++
    h.etab.flatMap fun x => leBytes 4 x.1.toNat ++ leBytes 4 x.2.toNat

/-- The churn area: `acc0`, `acc1` as 32-bit elements, the words above, and free bytes up to 136 KiB (R326). -/
def churnArea (salt : Nat) (h : Churn) : List Byte :=
  ((List.range 2).flatMap fun n => (List.range 16384).flatMap fun i =>
    leBytes 4 (((h.acc[n]?).map fun a => (getAt 0 a.elems i).toNat).getD 0)) ++
    (churnWords h ++ (List.range 8192).map fun i => Config.imageByte salt (8192 + i)).take 8192

/-- The areas of an image but the last (R326): state, vector, tile, churn, snapshot. Of the state area only the size and what it
saves are architectural, the tags of the registers among it: its bytes are a free function of what is saved. -/
def imageBytes (salt : Nat) (c : Ctx) : List Byte :=
  (List.range 8192).map (Config.stateByte salt c) ++
    ((List.range c.foot).flatMap fun i => vecBytes (vget { bits := 0, tag := .none } c.regs.v i).bits 1024) ++
    ((List.range c.tiles).flatMap fun i =>
      (List.range 65536).map (tileData (tileOf c i)) ++ (List.range 8192).map (tileSide (tileOf c i))) ++
    (if c.churnOn then churnArea salt c.regs.churn else []) ++ snapArea c

/-- Bytes of the areas that the tags cover. -/
def coveredSize (c : Ctx) : Nat :=
  1024 * (8 + c.foot + 72 * c.tiles + 136 * c.churnOn.toNat + (snapEntries c).length)

/-- The 4 KiB blocks of `n` bytes (R327). -/
def blocksOf (n : Nat) : Nat := (n + 4095) / 4096

/-- Bytes of an image (R326). -/
def imageSize (c : Ctx) : Nat := coveredSize c + (16 * blocksOf (coveredSize c) + 63) / 64 * 64

/-- HMAC-SHA-256 of bytes under a key of 256 bits (R327). -/
def hmac (key : BitVec 256) (m : List Byte) : List Byte := hmacBytes (leBytes 32 key.toNat) m

/-- Block `b` of bytes. -/
def imageBlock (bs : List Byte) (b : Nat) : List Byte := (bs.drop (4096 * b)).take 4096

/-- The tag of block `b` with its bytes, in the image at a VA with a save count (R327). -/
def blockTag (key : BitVec 256) (va : Word) (count b : Nat) (bs : List Byte) : List Byte :=
  (hmac key (bs ++ leBytes 8 va.toNat ++ leBytes 4 b ++ leBytes 8 count)).take 16

/-- The save area of a thread: a 4 KiB-aligned VA (R326) that is not 0, which would name a first bind (R176). -/
def saveVa (l t : Nat) : Word :=
  let x := Config.saveArea l t &&& 0xFFFFFFFFFFFFF000
  if x = 0 then 0x1000 else x

/-- The integrity area of an image (R326, R327). -/
def integrityArea (key : BitVec 256) (va : Word) (count : Nat) (bs : List Byte) : List Byte :=
  let n := blocksOf bs.length
  ((List.range n).flatMap fun b => blockTag key va count b (imageBlock bs b)) ++ List.replicate ((64 - 16 * n % 64) % 64) 0

/-- An image is written whole at its save area (R322, R326, R327). -/
def writeImage (v : Saved) (s : State) : State :=
  let bs := imageBytes v.salt v.ctx
  devWrite (agentOf v.ctx) v.va (bs ++ integrityArea s.sys.imageKey v.va v.count bs) s

/-- What a context switched out leaves: its image at its save area, with the next save count (R322, R327). A wake that had
reached the context is not lost (R195). -/
def imageOf (s : State) (c : Ctx) : Saved :=
  { va := saveVa c.lnch c.tid, count := c.saves + 1, salt := s.fresh, woken := !c.wt.tokens.isEmpty || c.wt.overflow
    ctx := { c with status := .saving, saves := c.saves + 1, preReq := false } }

/-- A saved thread has changed: the blocks of its image that differ are written, each with its tag (R324). -/
def landImage (old new : Saved) (s : State) : State :=
  let v := { new with salt := s.fresh }
  let a := imageBytes old.salt old.ctx
  let b := imageBytes v.salt v.ctx
  let ag := agentOf v.ctx
  let tags := v.va + BitVec.ofNat 64 b.length
  let s := { s with fresh := s.fresh + 1, saved := s.saved.map fun x => if x.ctx.uid = v.ctx.uid then v else x }
  ((List.range (blocksOf b.length)).filter fun i => imageBlock a i ≠ imageBlock b i).foldl (fun s i =>
    devWrite ag (tags + BitVec.ofNat 64 (16 * i)) (blockTag s.sys.imageKey v.va v.count i (imageBlock b i))
      (devWrite ag (v.va + BitVec.ofNat 64 (4096 * i)) (imageBlock b i) s)) s

/-- What a step changed in threads that stay saved lands in their images (R324). -/
def keepImages (s t : State) : State :=
  t.saved.foldl (fun t v => match s.saved.find? fun w => w.ctx.uid = v.ctx.uid with
    | some w => if w.count = v.count && w.ctx ≠ v.ctx then landImage w v t else t
    | none => t) t

/-- The check of an image reads it (R219). -/
def touchImage (v : Saved) (img : Word) (s : State) : State :=
  if !s.sys.alarm && v.va = img then devTouch (agentOf v.ctx) img (imageSize v.ctx) s else s

/-- Whether the image at a VA restores (R327, R328): it is translated, no line of it is uncorrectable, and every block has
the tag that the image key, the VA and the thread's save count give it. -/
def imageOk (s : State) (v : Saved) (img : Word) : Bool :=
  let ag := agentOf v.ctx
  !s.sys.alarm && v.va = img &&
    match vaSegs s ag.site ag.world .read img (imageSize v.ctx) with
    | .error _ => false
    | .ok gs =>
      let bs := readSegs s gs
      let n := coveredSize v.ctx
      (badLine s gs).isNone && (List.range (blocksOf n)).all fun b =>
        decide ((bs.drop (n + 16 * b)).take 16 = blockTag s.sys.imageKey img v.count b (((bs.take n).drop (4096 * b)).take 4096))

end Sys2Proof.Machine
end

