-- ==== Sys2Proof/Machine/Sched.lean ====
section
/-! DEFINITION. The dispatch of work: launch records and their check, admission, selection and binding, slices, the watchdog,
the end of threads and launches (R147 to R182, R221 to R223, R323, R326 to R329). -/

namespace Sys2Proof.Machine

/-! ### Fields of a launch (R147, R168) -/

/-- N. -/
def Launch.n (l : Launch) : Nat := bits l.conf 0 25
/-- The gang bit. -/
def Launch.gang (l : Launch) : Bool := bit l.conf 26
/-- Footprint F. -/
def Launch.foot (l : Launch) : Nat := 64 * bits l.conf 27 4
/-- Tile count T. -/
def Launch.tiles (l : Launch) : Nat := bits l.conf 31 4
/-- Churn flag C. -/
def Launch.churn (l : Launch) : Bool := bit l.conf 35
/-- The die set. -/
def Launch.dies (l : Launch) : List Nat := diesOf (bits l.conf 36 8)
/-- The die of a thread (R147). -/
def Launch.dieOf (l : Launch) (t : Nat) : Nat := l.dies.getD (t * l.dies.length / l.n) 0

/-! ### What a core has bound (R19, R34) -/

/-- A context's share of a core: context slot, registers, tiles, churn, dictionary. -/
structure Share where
  hctx  : Nat
  fb    : Nat
  foot  : Nat
  tb    : Nat
  tiles : Nat
  churn : Bool
  dict  : Word
deriving DecidableEq, Repr

/-- The share of a bound context. -/
def shareOf (c : Ctx) : Share := ⟨c.hctx, c.fb, c.foot, c.tb, c.tiles, c.churnOn, c.ctl.dictb⟩

/-- The share a bind record takes. -/
def shareOfRec (s : State) (r : BindRec) : Share :=
  match launchOf s r.lnch with
  | some l => ⟨r.hctx, r.fb, l.foot, r.tb, l.tiles, l.churn, l.dict⟩
  | none => ⟨r.hctx, r.fb, 0, r.tb, 0, false, 0⟩

/-- The shares of a core; the threads that `ex` names are left out. -/
def sharesOf (s : State) (ex : Nat → Bool) (die core : Nat) : List Share :=
  ((bound s).filter fun c => c.die = die && c.core = core && !ex c.uid).map shareOf ++
    ((dieOf s die).binds.filter fun r => r.core = core).map (shareOfRec s)

/-- Dictionary entries that a list of shares needs: equal `DICTB` values share a copy (R34). -/
def dictRoom (xs : List Share) : Nat := (((xs.map (·.dict)).dedup).map fun d => bits d 0 12).sum

/-- Two windows of registers or tiles are apart. -/
def apart (a n b m : Nat) : Bool := n = 0 || m = 0 || decide (a + n ≤ b) || decide (b + m ≤ a)

/-- A share can be added to a core (R19, R34). -/
def fits (xs : List Share) (x : Share) : Bool :=
  decide (x.hctx < 4) && xs.all (fun y => y.hctx ≠ x.hctx && apart x.fb x.foot y.fb y.foot && apart x.tb x.tiles y.tb y.tiles) &&
    decide (x.fb + x.foot ≤ 768) && decide (x.tb + x.tiles ≤ 8) && !(x.churn && xs.any (·.churn)) &&
    decide (dictRoom (x :: xs) ≤ 4096)

/-- A place of the dispatch core's choice (R147). -/
structure Place where
  core : Nat
  hctx : Nat
  fb   : Nat
  tb   : Nat
deriving DecidableEq, Repr

/-- What a thread needs of a core: its footprint, tiles, churn, dictionary; the core it must return to, if any (R272). -/
structure Need where
  die   : Nat
  foot  : Nat
  tiles : Nat
  churn : Bool
  dict  : Word
  pin   : Option Nat
deriving DecidableEq, Repr

/-- The share a need makes at a place. -/
def Need.share (n : Need) (p : Place) : Share := ⟨p.hctx, p.fb, n.foot, p.tb, n.tiles, n.churn, n.dict⟩

/-- The context in a bind entry. -/
def ctxAt (s : State) (die entry : Nat) : Option Ctx := (bound s).find? fun c => c.cid = 256 * die + entry

/-- Whether an entry is BINDING: its record is not yet obeyed. -/
def entryBinding (s : State) (die entry : Nat) : Bool := (dieOf s die).binds.any (·.entry = entry)

/-- Whether an entry is FREE. -/
def entryFree (s : State) (die entry : Nat) : Bool := (ctxAt s die entry).isNone && !entryBinding s die entry

/-- A place can take a thread. -/
def placeOk (s : State) (ex : Nat → Bool) (n : Need) (p : Place) : Bool :=
  p.core < 64 && !(coreOf s n.die p.core).fenced && (match n.pin with | some c => c = p.core | none => true) &&
    fits (sharesOf s ex n.die p.core) (n.share p)

/-- A place of the dispatch core's choice: its entry, 4 core + hctx, is free. -/
def placeFree (s : State) (ex : Nat → Bool) (n : Need) (p : Place) : Bool :=
  placeOk s ex n p && (entryFree s n.die (4 * p.core + p.hctx) || (ctxAt s n.die (4 * p.core + p.hctx)).any fun c => ex c.uid)

/-- Places to try on a core: each context slot, from 0 or the end of a window taken. -/
def placesOn (xs : List Share) (core : Nat) : List Place :=
  (List.range 4).flatMap fun h => (0 :: xs.map fun x => x.fb + x.foot).flatMap fun f =>
    (0 :: xs.map fun x => x.tb + x.tiles).map fun t => ⟨core, h, f, t⟩

/-- The first place on a die that can take a thread. -/
def firstPlace (s : State) (ex : Nat → Bool) (n : Need) : Option Place :=
  (List.range 64).findSome? fun c => (placesOn (sharesOf s ex n.die c) c).find? (placeFree s ex n)

/-- Threads named by no exception. -/
def noOne : Nat → Bool := fun _ => false

/-! ### The check of a record at the head (R167 to R170) -/

/-- An 8-byte word of a record. -/
def recWord (bs : List Byte) (o : Nat) : Word := leWord ((bs.drop o).take 8)
/-- A 4-byte word of a record. -/
def recHalf (bs : List Byte) (o : Nat) : Nat := leNat ((bs.drop o).take 4)
/-- Whether bytes of a record are all zero. -/
def recZero (bs : List Byte) (o n : Nat) : Bool := ((bs.drop o).take n).all (· = 0)

/-- The smaller of two limits; 0 is no limit (R182). -/
def limitOf (a b : Nat) : Nat := if a = 0 then b else if b = 0 then a else min a b

/-- The order of the present limits (R182). -/
def limitsOk (w : List Nat) : Bool :=
  let a := w.getD 0 0
  let b := w.getD 1 0
  let c := w.getD 2 0
  (a = 0 || b = 0 || decide (a ≤ b)) && (a = 0 || c = 0 || decide (a ≤ c)) && (b = 0 || c = 0 || decide (b < c))

/-- A failed check: code and EINFO. -/
abbrev RecErr := Nat × Word

/-- The entries of a bank-grant list (R221). -/
def grantOf (e : Word) : Grant := { ho := bit e 40, die := bits e 34 3, vat := bits e 28 6, banks := BitVec.ofNat 16 (bits e 0 16) }

/-- Reserved bits of a grant entry, and its vat (R221). -/
def grantOk (s : State) (e : Word) : Bool :=
  bits e 41 23 = 0 && bits e 37 3 = 0 && bits e 16 12 = 0 && !cacheVat s (bits e 34 3) (bits e 28 6)

/-- The grant list at a VA. -/
def readGrants (s : State) (ag : Agent) (va : Word) : Except RecErr (List Grant) :=
  let bad : RecErr := (0x81, 0x60)
  if va = 0 then .ok []
  else if va.toNat % 8 ≠ 0 then .error bad
  else match devRead s ag va 8 with
    | .error _ => .error bad
    | .ok hb =>
      let h := leWord hb
      let n := bits h 0 10
      if bits h 10 54 ≠ 0 || n < 1 || n > 512 then .error bad
      else match devRead s ag (va + 8) (8 * n) with
        | .error _ => .error bad
        | .ok bs =>
          let es := (List.range n).map fun i => recWord bs (8 * i)
          if es.all (grantOk s) then .ok (es.map grantOf) else .error bad

/-- The layout descriptors at LAYP (R148, R339). -/
def readLays (s : State) (ag : Agent) (va : Word) (n : Nat) : Except RecErr (List (BitVec 512)) :=
  let bad : RecErr := (0x81, 0x58)
  if n = 0 then .ok []
  else if va.toNat % 64 ≠ 0 then .error bad
  else match devRead s ag va (64 * n) with
    | .error _ => .error bad
    | .ok bs =>
      let ls := (List.range n).map fun i => BitVec.ofNat 512 (leNat ((bs.drop (64 * i)).take 64))
      if ls.all (layOk s) then .ok ls else .error bad

/-- Ranges of CONF (R168). -/
def confOk (c : Word) : Bool :=
  bits c 57 7 = 0 && !bit c 25 && 1 ≤ bits c 0 25 && bits c 0 25 ≤ 2 ^ 24 && 1 ≤ bits c 27 4 && bits c 27 4 ≤ 10 &&
    bits c 31 4 ≤ 8 && bits c 36 8 ≠ 0 && bits c 50 3 ≤ 4 && bits c 53 4 ≤ 8

/-- Threads of a gang on its busiest die fit 64 cores (R149). -/
def gangFits (l : Launch) : Bool :=
  let per := min 4 (min (768 / l.foot) (min (if l.tiles = 0 then 4 else 8 / l.tiles) (if l.churn then 1 else 4)))
  (l.n + l.dies.length - 1) / l.dies.length ≤ 64 * per

/-- A launch as its record gives it (R167); `num` is the number it will have. -/
def launchOfRec (num : Nat) (va : Word) (bs : List Byte) (fw : Bool) (q : QueueHdr) (lays : List (BitVec 512)) (gs : List Grant)
    (place : Option (Bool × Word × Nat)) : Launch :=
  let conf := recWord bs 0x10
  { num, recVa := va, world := bit conf 48, service := bit conf 48 && fw, conf
    entry := recWord bs 0, dict := recWord bs 8, slice := recHalf bs 0x18
    wd := (List.range 3).map fun i => limitOf (recHalf bs (0x20 + 4 * i)) (q.qwd.getD i 0)
    xvec := recWord bs 0x30, xrec := recWord bs 0x38, xstk := recWord bs 0x40, sp := recWord bs 0x48, gp := recWord bs 0x50
    lays, grants := gs, taken := [], args := (List.range 15).map fun i => recWord bs (0x88 + 8 * i)
    state := .new, err := 0, einfo := 0, kill := false, trigd := 0, exitd := 0, bound := [], ended := [], pri := bits conf 44 4
    win := none, preds := (List.range (bits conf 50 3)).map fun i => recWord bs (0x68 + 8 * i), place }

/-- The checks of R170 on a record's own words, in the model's order (DESIGN CHOICE, assumption log 82: R170 gives none for a
record that fails several). -/
def fieldErr (bs : List Byte) (q : QueueHdr) : Option RecErr :=
  let conf := recWord bs 0x10
  if !confOk conf then some (0x81, 0x10)
  else if bits (recWord bs 8) 0 12 > 2048 then some (0x81, 0x08)
  else if recHalf bs 0x18 < 4 || recHalf bs 0x18 > 10000 then some (0x81, 0x18)
  else if !recZero bs 0x1C 4 then some (0x81, 0x1C)
  else if !recZero bs 0x2C 4 then some (0x81, 0x2C)
  else if !recZero bs 0x120 32 then some (0x81, 0x120)
  else match (List.range (bits conf 50 3)).find? fun i => (recWord bs (0x68 + 8 * i)).toNat % 64 ≠ 0 with
    | some i => some (0x81, BitVec.ofNat 64 (0x68 + 8 * i))
    | none => if bit conf 48 && !q.w then some (0x83, 0) else none

/-- The agent that reads what a record names. -/
def recAgent (bs : List Byte) (die num : Nat) : Agent := { world := bit (recWord bs 0x10) 48, lnch := num, die }

/-- The check of R170 on the 320 bytes of a record: its words, then its layouts and grants, then its limits, whose EINFO is
theirs whether the record's or the queue's break the order (DESIGN CHOICE, assumption log 82), and its gang. -/
def checkRecord (s : State) (die num : Nat) (va : Word) (bs : List Byte) (fw : Bool) (q : QueueHdr)
    (place : Option (Bool × Word × Nat)) : Except RecErr Launch :=
  let ag := recAgent bs die num
  match fieldErr bs q with
  | some e => .error e
  | none =>
    match readLays s ag (recWord bs 0x58) (bits (recWord bs 0x10) 53 4), readGrants s ag (recWord bs 0x60) with
    | .error e, _ => .error e
    | .ok _, .error e => .error e
    | .ok ls, .ok gs =>
      let l := launchOfRec num va bs fw q ls gs place
      if !limitsOk l.wd then .error (0x81, 0x20)
      else if l.gang && !gangFits l then .error (0x82, 0)
      else .ok l

/-- What the check reads beside the record (R219): the layouts, the length of the grant list and the list. -/
def touchLists (die num : Nat) (bs : List Byte) (q : QueueHdr) (s : State) : State :=
  let ag := recAgent bs die num
  let n := bits (recWord bs 0x10) 53 4
  let la := recWord bs 0x58
  let ga := recWord bs 0x60
  if (fieldErr bs q).isSome then s
  else
    let s := if n = 0 || la.toNat % 64 ≠ 0 then s else devTouch ag la (64 * n) s
    if ga = 0 || ga.toNat % 8 ≠ 0 then s
    else match devRead s ag ga 8 with
      | .error _ => s
      | .ok hb =>
        let k := bits (leWord hb) 0 10
        let s := devTouch ag ga 8 s
        if k < 1 || k > 512 then s else devTouch ag (ga + 8) (8 * k) s

/-! ### The ends of threads and launches (R156, R169, R223) -/

/-- A core's ports that a thread holds are released (R272). -/
def releasePorts (lnch tid : Nat) (s : State) : State :=
  { s with cores := s.cores.map fun (k, c) => (k, { c with ports := c.ports.filter fun b => !(b.lnch = lnch && b.tid = tid) }) }

/-- The channel ends a thread holds are released (R360). -/
def releaseChans (lnch tid : Nat) (s : State) : State :=
  (s.chans.filter fun c => c.lnch = lnch).foldl (fun s c => releaseEnds lnch c.ch tid s) s

/-- A thread leaves the groups it joined, in the order of its joins (R156, R160). -/
def leaveAll (c : Ctx) (s : State) : State :=
  c.groups.foldl (fun s (d, e, g) => match groupAt s d e g with
    | some x => if x.lnch = c.lnch && (x.present c.tid).isSome then leaveGroup d e c.tid s else s
    | none => s) s

/-- What a launch holds is freed when it has ended (R223, R238, R346). -/
def freeLaunch (l : Nat) (s : State) : State :=
  let s := (s.banks.filter fun b => b.2 = l).foldl (fun s b => releaseBank (.thread none) false b.1 s) s
  let s := (List.range 8).foldl (fun s d =>
    ((dieOf s d).pails.filter fun p => p.lnch = l).foldl (fun s p => freePailEntry d p.entry s) s) s
  let s := (s.reductions.filter fun r => r.lnch = l).foldl (fun s r =>
    r.held.foldl (fun s d => modDie d (fun y => { y with landing := y.landing - 1 }) s) s) s
  { s with
    dies := s.dies.map fun d => { d with recvs := d.recvs.filter fun b => b.lnch ≠ l }
    chans := s.chans.filter fun c => c.lnch ≠ l
    reductions := s.reductions.filter fun r => r.lnch ≠ l
    credSeq := s.credSeq.filter fun x => x.1 ≠ l
    fab := { s.fab with wins := s.fab.wins.filter fun w => w.lnch ≠ l } }

/-- Whether a launch has ended: DONE or FAILED, with every bound thread retired (R169, R223). -/
def Launch.over (l : Launch) : Bool := (l.state = .done || l.state = .failed) && l.bound.all fun t => l.ended.contains t

/-- A launch that has just ended frees what it holds. -/
def endCheck (l : Nat) (s : State) : State :=
  match launchOf s l with
  | some x => if x.over then freeLaunch l s else s
  | none => s

/-- A thread that is killed, or whose restore fails, counts as ended (R169, R328): in TRIGD and in EXITD, as far as its own adds are not
made. -/
def countEnd (l tid : Nat) (triggered exited kill : Bool) (s : State) : State :=
  writeStat l (modLaunch l (fun x =>
    { x with
      trigd := if triggered then x.trigd else x.trigd + 1
      exitd := if exited then x.exitd else x.exitd + 1
      kill := x.kill || kill
      ended := x.ended ++ [tid] }.advance) s)

/-- The EXITD add of an `exit` (R156). -/
def countExit (c : Ctx) (s : State) : State :=
  writeStat c.lnch (modLaunch c.lnch (fun x => { x with exitd := x.exitd + 1 }.advance) (modCtx c.uid (fun c => { c with exited := true }) s))

/-- Faults recorded for a thread after its `exit` go to its launch's error record (R156, R169). -/
def faultsToLaunch (u lnch tid : Nat) (s : State) : State :=
  match findCtx u s with
  | none => s
  | some x => x.sq.faults.foldl (fun s f => setErr lnch 0x85 (BitVec.ofNat 64 (f.cause % 256 + 2 ^ 24 * tid)) false s)
      (modSqOf u (fun q => { q with faults := [] }) s)

/-- What a context slot holds stays there until a thread is bound in it (R304). -/
def leaveSlot (c : Ctx) (s : State) : State :=
  { s with left := s.left.filter (fun x => !(x.die = c.die && x.core = c.core && x.hctx = c.hctx)) ++ [{ c with status := .free }] }

/-- The context of a thread goes: its slot is free, or its image is discarded. -/
def removeCtx (u : Nat) (s : State) : State :=
  let t := { s with others := s.others.filter fun c => c.uid ≠ u, saved := s.saved.filter fun v => v.ctx.uid ≠ u }
  let t := if s.me.uid = u && s.me.status ≠ .free then { t with me := Ctx.reset } else t
  match (bound s).find? fun c => c.uid = u with
  | some c => leaveSlot c t
  | none => t

/-- The slot and resources of a thread that counts as ended are freed, and the arrive suffix of its `exit` counts; faults recorded for it
meanwhile go to its launch (R156 step 4); what its launch holds goes last, when the launch has ended with it (R223). -/
def freeThread (c : Ctx) (arr : Option Nat) (s : State) : State :=
  let s := releaseChans c.lnch c.tid (releasePorts c.lnch c.tid (dropThread c.lnch c.tid s))
  let s := faultsToLaunch c.uid c.lnch c.tid (retireArrive c.uid c.lnch arr s)
  endCheck c.lnch { removeCtx c.uid s with tokens := s.tokens.filter fun t => t.1 ≠ c.uid }

/-- The end of a thread that is killed or whose restore fails (R182, R328): it leaves its groups, it is counted, and all it has is
freed. -/
def endThread (c : Ctx) (kill : Bool) (arr : Option Nat) (s : State) : State :=
  freeThread c arr (countEnd c.lnch c.tid c.triggered c.exited kill (leaveAll c s))

/-- Whether something of a retiring thread is outstanding (R156 step 1): the arrive adds of its slots too. -/
def retiresLater (s : State) (x : Ctx) : Bool :=
  outL x ≠ 0 || outS x ≠ 0 || outC x ≠ 0 || outT x ≠ 0 || !x.trigs.isEmpty || !x.sq.owed.isEmpty || s.fab.outs.any fun o => o.cid = x.uid

/-- THREAD_RETIRE (R156), once nothing is outstanding: the thread leaves its groups and TRIGD counts it, if it has not triggered; then
EXITD does, an add of its own (R243); then it is freed. -/
def execThreadRetire (c : Nat) (s : State) : Out :=
  .next (match findCtx c s with
    | none => s
    | some x =>
      if x.status ≠ .retiring || retiresLater s x then s
      else if !x.triggered then countTrig c (leaveAll x s)
      else if !x.exited then countExit x (leaveAll x s)
      else freeThread x (x.sq.exiting.getD none) (modLaunch x.lnch (fun l => { l with ended := l.ended ++ [x.tid] }) s))

/-- A launch fails with a code of R169. DESIGN CHOICE (assumption log 82): the code and EINFO take the place of an error
recorded before. -/
def failLaunch (l code : Nat) (einfo : Word) (s : State) : State :=
  endCheck l (writeStat l (modLaunch l (fun x => { x with state := .failed, err := code, einfo := einfo }) s))

/-! ### Queue heads (R163 to R170, R173) -/

/-- The record of a launch has left its queue's head. -/
def leftHead (l : Nat) (s : State) : State := modLaunch l (fun x => { x with place := none }) s

/-- The head of a slot's queue is taken: its header is read (R219) and READ advances (R173), once for a record. -/
def takeHead (die q : Nat) (s : State) : State :=
  let x := slotAt s die q
  let gone := (x.head.bind (launchOf s)).any (·.place.isNone)
  let s := modSlot die q (fun x => { x with cand := none, head := none }) s
  let s := match x.head with | some l => leftHead l s | none => s
  match readHdr s die x.hdr with
  | .error _ => s
  | .ok h =>
    let ag := queueAgent die (queueWorld s die x.hdr)
    let s := devTouch ag x.hdr 64 s
    if gone then s else devWrite ag (x.hdr + 8) (leBytes 8 ((h.read + 1) % 2 ^ 64)) s

/-- How a predecessor stands (R163, R164). -/
inductive Pred where
  | waiting | good | cancel | fault
deriving DecidableEq, Repr

/-- A predecessor by the VA of its record: its status as the device wrote it; a FAILED one counts once its threads have ended. -/
def predOf (s : State) (ag : Agent) (pfail : Bool) (va : Word) : Pred :=
  match devRead s ag (va + 0x100) 8 with
  | .error _ => .fault
  | .ok bs =>
    let st := leNat bs
    let ended := match s.launches.reverse.find? fun l => l.recVa = va && l.world = ag.world with
      | some l => l.state ≠ .failed || l.over
      | none => true
    if st % 8 = 2 || st % 8 = 3 then (if pfail && st / 8 % 2 = 1 then .cancel else .good)
    else if (st % 8 = 4 && ended) || st % 8 = 5 then (if pfail then .cancel else .good)
    else .waiting

/-- Whether a plain bank of a launch is owned by another (R222). -/
def banksTaken (s : State) (l : Launch) : Bool :=
  l.grants.any fun g => !g.ho && (grantBanks g).any fun b => bankOwner s b ≠ 0

/-- What the check of a record that has just reached the head says (R170): no record; one that cannot be read, with its
ring entry; one that fails; the launch it gives. -/
inductive HeadCheck where
  | none | skip (index : Nat) (va : Word) | err (l : Launch) (e : RecErr) | good (l : Launch)
deriving DecidableEq, Repr

/-- The record at the head of a mapped queue that has entries is checked (R170). -/
def checkHead (s : State) (die q : Nat) : HeadCheck :=
  let x := slotAt s die q
  match readHdr s die x.hdr with
  | .error _ => .none
  | .ok h =>
    if !x.mapped || x.reg.toNat ≤ h.read then .none
    else
      let ag := queueAgent die h.w
      let place := some (h.w, x.hdr, h.read)
      match devRead s ag (ringVa h h.read) 8 with
      | .error _ => .skip h.read (ringVa h h.read)
      | .ok eb =>
        let va := leWord eb
        match devRead s ag va 320 with
        | .error _ => .skip h.read (ringVa h h.read)
        | .ok bs =>
          if va.toNat % 64 ≠ 0 then .skip h.read (ringVa h h.read)
          else match checkRecord s die 0 va bs x.fw h place with
            | .error e => .err { launchOfRec 0 va bs x.fw h [] [] none with world := h.w } e
            | .ok l => .good l

/-- The header of a slot's queue and the ring entry at its head are read (R219). -/
def touchEntry (s : State) (die q : Nat) : State :=
  let x := slotAt s die q
  match readHdr s die x.hdr with
  | .error _ => s
  | .ok h => devTouch (queueAgent die h.w) (ringVa h h.read) 8 (devTouch (queueAgent die h.w) x.hdr 64 s)

/-- The bytes that the check of a record reads are read (R219): its ring entry, the record, and what the record names. -/
def touchHead (s : State) (die q : Nat) : State :=
  match readHdr s die (slotAt s die q).hdr with
  | .error _ => s
  | .ok h =>
    let ag := queueAgent die h.w
    let s := touchEntry s die q
    match devRead s ag (ringVa h h.read) 8 with
    | .error _ => s
    | .ok eb =>
      match devRead s ag (leWord eb) 320 with
      | .error _ => s
      | .ok bs => touchLists die 0 bs h (devTouch ag (leWord eb) 320 s)

/-- How a checked record at a head stands (R163, R164, R222). -/
inductive HeadState where
  | err (e : RecErr) | cancel | waiting | ready
deriving DecidableEq, Repr

/-- A checked record by its predecessors and banks. -/
def headState (s : State) (die : Nat) (l : Launch) : HeadState :=
  let ps := l.preds.zipIdx.map fun (p, i) => (i, predOf s { world := l.world, lnch := 0, die } (bit l.conf 49) p)
  match ps.find? fun p => p.2 = .fault with
  | some p => .err (0x84, BitVec.ofNat 64 (0x68 + 8 * p.1))
  | none =>
    if ps.any (fun p => p.2 = .cancel) then .cancel
    else if ps.any (fun p => p.2 = .waiting) || banksTaken s l then .waiting
    else .ready

/-- The status words of its predecessors are read (R219). -/
def touchPreds (die : Nat) (l : Launch) (s : State) : State :=
  l.preds.foldl (fun s p => devTouch { world := l.world, lnch := 0, die } (p + 0x100) 8 s) s

/-- A launch takes the next number. -/
def addLaunch (l : Launch) (s : State) : State := { s with launches := s.launches ++ [l], nextLaunch := s.nextLaunch + 1 }

/-- Admission (R163, R222): the launch takes its plain banks. -/
def admitLaunch (l : Launch) (s : State) : State :=
  let s := addLaunch l s
  (l.grants.filter fun g => !g.ho).foldl (fun s g => (grantBanks g).foldl (fun s b => takeBank b l s) s) s

/-! ### Candidates of a decision (R150, R174) -/

/-- Whether a thread of a launch has been bound, or is to be. -/
def begun (s : State) (l : Launch) (t : Nat) : Bool :=
  l.bound.contains t || l.ended.contains t || s.dies.toList.any fun d => d.binds.any fun r => r.lnch = l.num && r.tid = t

/-- The record at a head that has not been admitted: it is checked when it first stands there, and goes when it cannot be
read, fails its check or its predecessors cancel it (R164, R169, R170). -/
def settleCand (die q : Nat) (s : State) : State :=
  let x := slotAt s die q
  match x.cand with
  | none =>
    match checkHead s die q with
    | .none => s
    | .skip i va => takeHead die q (errRecord die 0x03 1 [x.hdr, BitVec.ofNat 64 q, BitVec.ofNat 64 i, va] (touchEntry s die q))
    | .err l e => takeHead die q (failLaunch s.nextLaunch e.1 e.2 (addLaunch { l with num := s.nextLaunch } (touchHead s die q)))
    | .good l => modSlot die q (fun x => { x with cand := some l }) (touchPreds die l (touchHead s die q))
  | some l =>
    let gone := { l with num := s.nextLaunch, place := none }
    let s := touchPreds die l s
    match headState s die l with
    | .err e => takeHead die q (failLaunch s.nextLaunch e.1 e.2 (addLaunch gone s))
    | .cancel => takeHead die q (writeStat s.nextLaunch (modLaunch s.nextLaunch (fun x => { x with state := .cancelled }) (addLaunch gone s)))
    | _ => s

/-- Heads that can never be admitted, or whose threads have all been bound, leave their queue (R164, R169, R170, R174). -/
def settleHead (die q : Nat) (s : State) : State :=
  match (slotAt s die q).head.bind (launchOf s) with
  | some l => if !l.live || l.allBound then takeHead die q s else s
  | none => settleCand die q s

/-- The owners, threads of a launch, that registered waits name (R150). -/
def namedOwners (s : State) (l : Launch) : List Nat :=
  ((edgesOf s).filter fun x => x.e.lnch = l.num).flatMap fun x => (ownersOf s x.e).threads.filterMap fun u =>
    if u / 2 ^ 24 = l.num then some (u % 2 ^ 24) else none

/-- The thread of a wave that binds next on a die (R150): a named unbound owner, else the lowest unbound thread. -/
def nextThread (s : State) (l : Launch) (die : Nat) : Option Nat :=
  match (namedOwners s l).find? fun t => t < l.n && !begun s l t && l.dieOf t = die with
  | some t => some t
  | none =>
    match (List.range (min l.n (l.bound.length + l.ended.length + 2049))).find? fun t => !begun s l t with
    | some t => if l.dieOf t = die then some t else none
    | none => none

/-- What a selection binds. -/
inductive Cand where
  | saved (v : Saved)
  /-- a gang's saved threads, and those that have not been bound (R149) -/
  | gang (l : Launch) (vs : List Saved) (ts : List Nat)
  | first (die q : Nat) (l : Launch) (admitted : Bool) (ts : List Nat)
deriving DecidableEq, Repr

/-- Whether an image holds engine commands that run only once the thread is bound again (R322, R323). -/
def Saved.queued (v : Saved) : Bool :=
  v.ctx.sq.cmds.any fun x => decide (x.op.engine < 2) && !x.begun && (match x.op with | .arrival .. | .query .. => false | _ => true)

/-- Whether a saved thread is eligible (R196): one held by a registered wait once it is woken, or if its own queued commands
may be what it waits for (assumption log 81). -/
def Saved.eligible (v : Saved) : Bool := v.ctx.wt.entry.isNone || v.woken || v.queued

/-- Whether a thread's `exit` has issued or its watchdog has killed it, while its context is not free yet (R177). -/
def leaving (s : State) (l t : Nat) : Bool :=
  (bound s).any fun c => c.lnch = l && c.tid = t && (c.status = .retiring || c.status = .killing || c.status = .fenced)

/-- Threads of a gang that have been bound and have not exited (R149); one that is retiring has (assumption log 50). -/
def gangSize (s : State) (l : Nat) : Nat :=
  match launchOf s l with
  | some x => (x.bound.filter fun t => !x.ended.contains t && !leaving s l t).length
  | none => 0

/-- Threads of a launch that have not been bound and are not to be. -/
def unbegun (s : State) (l : Launch) : List Nat := (List.range l.n).filter fun t => !begun s l t

/-- The launch of a saved thread, if it is a gang. -/
def gangOf (s : State) (v : Saved) : Option Launch := (launchOf s v.ctx.lnch).filter (·.gang)

/-- The saved candidates of a die, oldest first, with their effective priorities as last formed (R149, R174, R205). A thread
with a bind record is chosen. A gang is bound whole: with its saved threads those that have not been bound. -/
def savedCands (s : State) (die : Nat) : List (Nat × Cand) :=
  let free := s.saved.filter fun v => !(s.dies.toList.any fun d => d.binds.any fun r => r.lnch = v.ctx.lnch && r.tid = v.ctx.tid)
  (free.filter fun v => v.ctx.die = die).filterMap fun v =>
    match gangOf s v with
    | some l =>
      let vs := free.filter fun w => w.ctx.lnch = v.ctx.lnch
      if vs.length = gangSize s v.ctx.lnch && vs.any Saved.eligible then
        some ((vs.map fun w => max w.ctx.bpri w.ctx.ipri).foldl max 0, .gang l vs (unbegun s l))
      else none
    | none => if v.eligible then some (max v.ctx.bpri v.ctx.ipri, .saved v) else none

/-- The threads of an admitted launch that may bind next on a die (R149, R150): the next of a wave; the whole of a gang none of
whose threads has a context, for a die it has threads on. -/
def admittedNext (s : State) (l : Launch) (die : Nat) : Option (List Nat) :=
  if l.gang then
    let ts := unbegun s l
    if ts.any (fun t => l.dieOf t = die) && decide (ts.length = l.n - l.ended.length) then some ts else none
  else (nextThread s l die).map fun t => [t]

/-- The head of one slot as a candidate for a die. A record not admitted is its queue's die's to admit; a gang's is one for
every die it has threads on, which each gives it room (R178). -/
def headCand (s : State) (die home q : Nat) : Option (Nat × Cand) :=
  let x := slotAt s home q
  if !x.mapped then none
  else match x.head.bind (launchOf s) with
    | some l =>
      if l.live then (admittedNext s l die).map fun ts => (l.pri, .first home q l true ts) else none
    | none =>
      match x.cand with
      | none => none
      | some l =>
        if headState s home l ≠ .ready then none
        else
          let l := { l with num := s.nextLaunch }
          if l.gang then (if home = die || l.dies.contains die then some (l.pri, .first home q l false (List.range l.n)) else none)
          else if home ≠ die then none
          else if l.dieOf 0 = die then some (l.pri, .first home q l false [0])
          else some (l.pri, .first home q l false [])

/-- Slots in turn, starting after the one served last (R174). -/
def slotTurn (last : Nat) : List Nat := (List.range 32).map fun i => (last + 1 + i) % 32

/-- The queue-head candidates of a die. -/
def headCands (s : State) (die : Nat) : List (Nat × Cand) :=
  (slotTurn (dieOf s die).lastQ).filterMap (headCand s die die) ++
    ((List.range 8).filter fun d => d ≠ die).flatMap fun d => (List.range 32).filterMap (headCand s die d)

/-- Insertion by priority, highest first, keeping order among equals. -/
def insCand (c : Nat × Cand) : List (Nat × Cand) → List (Nat × Cand)
  | [] => [c]
  | x :: xs => if x.1 < c.1 then c :: x :: xs else x :: insCand c xs

/-- The candidates of a die in the order of R174: saved threads stand before heads of equal priority. -/
def candidates (s : State) (die : Nat) : List (Nat × Cand) :=
  (savedCands s die ++ headCands s die).foldl (fun l c => insCand c l) []

/-- What a saved thread needs; one that holds a port returns to its core (R272). -/
def needOf (s : State) (c : Ctx) : Need :=
  { die := c.die, foot := c.foot, tiles := c.tiles, churn := c.churnOn, dict := c.ctl.dictb
    pin := if (coreOf s c.die c.core).ports.any fun b => b.lnch = c.lnch && b.tid = c.tid then some c.core else none }

/-- What a thread of a launch needs. -/
def needFirst (l : Launch) (t : Nat) : Need :=
  { die := l.dieOf t, foot := l.foot, tiles := l.tiles, churn := l.churn, dict := l.dict, pin := none }

/-- The place for a need: the one given if it can take it, else the first that can. DESIGN CHOICE (assumption log 93): a selection
gives one place, so that of a gang's threads the first takes it and each other the first place that can take it (R147). -/
def choose (s : State) (die : Nat) (p : Place) (n : Need) : Option Place :=
  if n.die = die && placeFree s noOne n p then some p else firstPlace s noOne n

/-- A bind record at a place (R176). The entry number is 4 core + hctx. -/
def bindRec (p : Place) (img recVa : Word) (wdt wds slice psnap tid lnch : Nat) : BindRec :=
  { entry := 4 * p.core + p.hctx, img, recVa, wdt, wds, slice, psnap, tb := p.tb, fb := p.fb, core := p.core, hctx := p.hctx, tid, lnch
    killed := false, fenced := false, asked := false }

/-- A bind record is written. -/
def addBind (die : Nat) (r : BindRec) (s : State) : State := modDie die (fun d => { d with binds := d.binds ++ [r] }) s

/-- The bind record of a saved thread (R174, R176). -/
def bindSaved (v : Saved) (p : Place) (s : State) : State :=
  let rv := match launchOf s v.ctx.lnch with | some l => l.recVa | none => 0
  addBind v.ctx.die (bindRec p v.va rv v.ctx.wdt v.ctx.wds v.ctx.slice v.ctx.bpri v.ctx.tid v.ctx.lnch) s

/-- The bind record of a first bind. -/
def bindFirst (l : Launch) (t : Nat) (p : Place) (s : State) : State :=
  addBind (l.dieOf t) (bindRec p 0 l.recVa 0 0 l.slice l.pri t l.num) s

/-- Threads of a launch are placed one after another; none unless all fit (R149). -/
def placeAll (die : Nat) (p : Place) (l : Launch) : List Nat → State → Option State
  | [], s => some s
  | t :: ts, s =>
    match choose s die p (needFirst l t) with
    | some x => placeAll die p l ts (bindFirst l t x s)
    | none => none

/-- Saved threads of a gang are placed, all or none (R149). -/
def placeSaved (die : Nat) (p : Place) : List Saved → State → Option State
  | [], s => some s
  | v :: vs, s =>
    match choose s die p (needOf s v.ctx) with
    | some x => placeSaved die p vs (bindSaved v x s)
    | none => none

/-- A queue has been served (R174). -/
def afterServe (die home q : Nat) (s : State) : State :=
  if home = die then modDie die (fun d => { d with lastQ := q }) s else s

/-- The bind records of a candidate's threads, if all can be placed. -/
def tryPlace (die : Nat) (p : Place) (c : Cand) (s : State) : Option State :=
  match c with
  | .saved v => placeSaved die p [v] s
  | .gang l vs ts => (placeSaved die p vs s).bind (placeAll die p l ts)
  | .first home q l admitted ts =>
    placeAll die p l ts (if admitted then s else modSlot home q (fun x => { x with head := some l.num }) (admitLaunch l s))

/-- A candidate is bound, if it can be; a record not admitted is, by its queue's die. -/
def serve (die : Nat) (p : Place) (c : Cand) (s : State) : Option State :=
  match c with
  | .first home q _ admitted _ => if !admitted && home ≠ die then none else (tryPlace die p c s).map (afterServe die home q)
  | c => tryPlace die p c s

/-- The threads of a candidate on one die. -/
def Cand.onDie (die : Nat) : Cand → Cand
  | .saved v => .saved v
  | .gang l vs ts => .gang l (vs.filter fun v => v.ctx.die = die) (ts.filter fun t => l.dieOf t = die)
  | .first home q l admitted ts => .first home q l admitted (ts.filter fun t => l.dieOf t = die)

/-- A die lacks room for its threads of a candidate (R178). -/
def lacksRoom (s : State) (die : Nat) (p : Place) (c : Cand) : Bool := (tryPlace die p (c.onDie die) s).isNone

/-! ### Pre-emption requests (R178 to R180) -/

/-- A request to one context; a boundary at which it is not taken yet counts the delay (R180). -/
def askOne (u : Nat) (s : State) : State :=
  match findCtx u s with
  | none => s
  | some c => if c.status ≠ .running || c.preReq then s else modCtx u (fun c => { c with preReq := true, delayed := false }) s

/-- A request to every bound thread of a launch. -/
def askAll (l : Nat) (s : State) : State := ((bound s).filter fun x => x.lnch = l).foldl (fun s x => askOne x.uid s) s

/-- A request to a context: to a whole gang if it is one's (R179). -/
def askPreempt (u : Nat) (s : State) : State :=
  match findCtx u s with
  | none => s
  | some c =>
    match launchOf s c.lnch with
    | some l => if l.gang then askAll c.lnch s else askOne u s
    | none => askOne u s

/-- Whether a context keeps its slot for a wait (R150): its registered wait names, as owner of its counter, a thread of the same wave
launch that has not been bound. No slice expiry takes its slot, and no thread of higher priority; what R150 does not speak of
still does (assumption log 83). -/
def keepsSlot (s : State) (c : Ctx) : Bool :=
  match launchOf s c.lnch with
  | some l => !l.gang && (edgesOf s).any fun x => x.e.uid = c.uid && (ownersOf s x.e).threads.any fun u =>
      u / 2 ^ 24 = l.num && decide (u % 2 ^ 24 < l.n) && !l.bound.contains (u % 2 ^ 24) && !l.ended.contains (u % 2 ^ 24)
  | none => false

/-- The context to give way to a thread of higher priority (R178): the lowest, of equals the one bound longest; none that keeps
its slot (R150). -/
def victim (s : State) (die pri : Nat) : Option Ctx :=
  ((bound s).filter fun c => c.die = die && c.status = .running && decide (c.epri < pri) && !keepsSlot s c).foldl (fun r c =>
    match r with
    | none => some c
    | some b => if c.epri < b.epri || (c.epri = b.epri && decide (c.since < b.since)) then some c else some b) none

/-- DISPATCH_SELECT (R174): one decision of a die's dispatch core. -/
def execDispatchSelect (die core hctx fb tb : Nat) (s : State) : Out :=
  .next (if die ≥ 8 || halted s then s
    else
      let s := (List.range 32).foldl (fun s q => if (slotAt s die q).mapped then settleHead die q s else s) s
      let cs := candidates s die
      let p : Place := ⟨core, hctx, fb, tb⟩
      let s := match cs with
        | [] => s
        | c :: _ => if !lacksRoom s die p c.2 then s else match victim s die c.1 with
          | some v => askPreempt v.uid s
          | none => s
      (cs.findSome? fun c => serve die p c.2 s).getD s)

/-! ### Dictionaries (R33 to R35) -/

/-- One entry of an image: its bundle, or the slot at fault and whether its bytes could not be read. -/
def loadEntry (s : State) (ag : Agent) (base : Word) (i : Nat) : Except (Nat × Bool) Nat :=
  match vaSegs s ag.site ag.world .read (base + BitVec.ofNat 64 (48 * i)) 48 with
  | .error _ => .error (0, true)
  | .ok gs =>
    if (badLine s gs).isSome then .error (0, true)
    else
      let x := leNat (readSegs s gs)
      match bundleCheck (slotsOfBits x) with
      | some (_, j) => .error (j, false)
      | none => .ok x

/-- The entries from `i` on, `n` of them; a failure names its entry. -/
def loadEntries (s : State) (ag : Agent) (base : Word) : Nat → Nat → Except (Nat × Nat × Bool) (List Nat)
  | _, 0 => .ok []
  | i, n + 1 =>
    match loadEntry s ag base i with
    | .error (j, r) => .error (i, j, r)
    | .ok x => match loadEntries s ag base (i + 1) n with
      | .error e => .error e
      | .ok xs => .ok (x :: xs)

/-- The BASE of a dictionary word. -/
def dictBase (d : Word) : Word := d &&& 0xFFFFFFFFFFFFF000

/-- Whether a dictionary is resident on a core (R34). -/
def resident (s : State) (die core : Nat) (d : Word) : Bool := (coreOf s die core).dicts.any fun x => x.dictb = d

/-- A dictionary is put into a core's RAM: copies that no bound context uses make room, the oldest first (assumption log 16). -/
def evict (used : LoadedDict → Bool) (room : Nat) : List LoadedDict → List LoadedDict
  | [] => []
  | x :: xs => if decide (((x :: xs).map fun y => y.entries.length).sum > room) && !used x then evict used room xs else x :: evict used (room - x.entries.length) xs

/-- The copies a core keeps when `n` entries must have room. -/
def keepDicts (s : State) (die core n : Nat) : List LoadedDict :=
  let xs := sharesOf s noOne die core
  evict (fun d => xs.any fun x => x.dict = d.dictb) (4096 - n) (coreOf s die core).dicts

/-- Loading a dictionary (R33, R35): entry, slot and read mark of a failure. -/
def loadDict (die core : Nat) (d : Word) (w : Bool) (s : State) : Except (Nat × Nat × Bool) State :=
  if resident s die core d then .ok s
  else match loadEntries s { world := w, lnch := 0, die } (dictBase d) 0 (bits d 0 12) with
    | .error e => .error e
    | .ok xs =>
      .ok (modCore die core (fun c => { c with dicts := keepDicts s die core xs.length ++ [{ dictb := d, entries := xs }] }) s)

/-! ### Binding (R148, R177, R323, R328) -/

/-- General registers at a first bind (R14, R148): vector and tile data are free values. -/
def bindRegs (l : Launch) (f : Nat) : Regs :=
  let s := ((Vector.replicate 64 (0 : Word)).set 61 l.sp).set 62 l.gp
  let s := (List.range 15).foldl (fun (s : Vector Word 64) i => vmod s (i + 1) fun _ => l.args.getD i 0) s
  { Regs.reset with
    s
    v := Vector.ofFn fun i : Fin 640 => { bits := Config.vecData f i.val, tag := .none }
    t := Vector.ofFn fun i : Fin 8 => { Tile.reset with salt := some (8 * f + i.val), sideSalt := some (8 * f + i.val) }
    lay := Vector.ofFn fun i : Fin 8 => l.lays.getD i.val 0 }

/-- The context of a first bind (R148). PC is always even (R29): bit 0 of ENTRY, which no check looks at, is dropped (DESIGN
CHOICE, assumption log 64). -/
def bindCtx (s : State) (l : Launch) (die : Nat) (r : BindRec) : Ctx :=
  { Ctx.reset with
    cid := 256 * die + r.entry, status := .running, die, core := r.core, hctx := r.hctx, fb := r.fb, tb := r.tb
    lnch := l.num, tid := r.tid, nthr := l.n, world := l.world, foot := l.foot, tiles := l.tiles, churnOn := l.churn
    bpri := l.pri, regs := bindRegs l s.fresh
    ctl := { Ctl.reset with xvec := l.xvec &&& csrRW 4, xrec := l.xrec &&& csrRW 5, xstk := l.xstk &&& csrRW 6, dictb := l.dict }
    sq := { Seq.reset with next := ⟨l.entry &&& 0xFFFFFFFFFFFFFFFE, 0⟩ }
    slice := r.slice, wds := r.wds, wdt := r.wdt, since := s.ids }

/-- A context joins the bound ones. -/
def placeCtx (c : Ctx) (s : State) : State :=
  let s := { s with left := s.left.filter fun x => !(x.die = c.die && x.core = c.core && x.hctx = c.hctx) }
  if s.me.status = .free then { s with me := c } else { s with others := s.others ++ [c] }

/-- The bind record is gone. -/
def dropBind (die entry : Nat) (s : State) : State := modDie die (fun d => { d with binds := d.binds.filter (·.entry ≠ entry) }) s

/-- Priorities at a bind (R175, R205): the snapshot counts as the base. -/
def bindPriority (u psnap : Nat) (s : State) : State := modCtx u (·.formPri psnap) s

/-- The heads of a launch whose threads have all been bound leave their queues: READ advances (R173, R174). -/
def leaveHead (l : Nat) (s : State) : State :=
  match launchOf s l with
  | none => s
  | some x =>
    if !x.allBound then s
    else ((List.range 8).flatMap fun d => (List.range 32).map fun q => (d, q)).foldl (fun s p =>
      if (slotAt s p.1 p.2).mapped && (slotAt s p.1 p.2).head = some l then takeHead p.1 p.2 s else s) s

/-- A thread has been bound (R169): the launch is ADMITTED with its first. -/
def noteBound (l tid : Nat) (s : State) : State :=
  match launchOf s l with
  | none => s
  | some x =>
    let s := modLaunch l (fun x => { x with bound := if x.bound.contains tid then x.bound else x.bound ++ [tid] }) s
    leaveHead l (if x.state = .new then writeStat l (modLaunch l (fun x => { x with state := .admitted }.advance) s) else s)

/-- A first bind (R177 step 2); the thread may own waits already (R150, R205). -/
def firstBind (l : Launch) (die : Nat) (r : BindRec) (s : State) : State :=
  let c := bindCtx s l die r
  noteBound l.num r.tid (bindPriority c.uid r.psnap (inherit (placeCtx c { s with fresh := s.fresh + 1, ids := s.ids + 1 })))

/-- The end of a thread whose image does not restore (R328). One of which no image is known, as after a module reset, has no
context to end; one that has already ended is not counted again. -/
def abortRestore (die : Nat) (l : Launch) (tid : Nat) (v : Option Saved) (s : State) : State :=
  let s := setErr l.num 0x1A (BitVec.ofNat 64 tid) false (errRecord die 0x03 0x1A [BitVec.ofNat 64 (2 ^ 24 * l.num + tid)] s)
  match v with
  | some v => endThread v.ctx false none s
  | none =>
    if l.ended.contains tid || tid ≥ l.n || (bound s).any (fun c => c.uid = 2 ^ 24 * l.num + tid) then s
    else endCheck l.num (countEnd l.num tid false false false s)

/-- A restore (R323): the context on its new core; a held wait looks at its counter afresh (R196). -/
def restoreBind (v : Saved) (die : Nat) (r : BindRec) (s : State) : State :=
  let c := { v.ctx with
    sq := { v.ctx.sq with cmds := v.ctx.sq.cmds.zipIdx.map fun (x, i) => if x.begun then x else { x with seq := s.ids + i } }
    cid := 256 * die + r.entry, status := .running, core := r.core, hctx := r.hctx, fb := r.fb, tb := r.tb
    preReq := false, delayed := false, fresh := true, freshIt := true, stepped := false, slice := r.slice, wds := r.wds, wdt := r.wdt, since := s.ids
    wt := { v.ctx.wt with again := true, unregistered := false
                          on := if v.ctx.wt.entry.isSome then v.ctx.wt.on else none } }
  bindPriority c.uid r.psnap (placeCtx c { s with saved := s.saved.filter fun x => x.ctx.uid ≠ c.uid, ids := s.ids + 1 + c.sq.cmds.length })

/-- A request stands for a gang: one of its members has it, bound or BINDING, or has left with no bind record (R179). -/
def gangAsked (s : State) (lnch : Nat) : Bool :=
  match launchOf s lnch with
  | some l => l.gang && ((bound s).any (fun x => x.lnch = lnch && x.preReq) ||
      (s.dies.toList.any fun d => d.binds.any fun r => r.lnch = lnch && r.asked && !r.killed) || s.saved.any fun v =>
      v.ctx.lnch = lnch && !(s.dies.toList.any fun d => d.binds.any fun r => r.lnch = lnch && r.tid = v.ctx.tid))
  | none => false

/-- A thread that binds has the request that its watchdog made while its entry was BINDING (R182), and a member of a gang the one
that stands for the gang; either way a gang is asked whole (R179). -/
def joinRequest (lnch tid : Nat) (asked : Bool) (s : State) : State :=
  if asked || gangAsked s lnch then askPreempt (2 ^ 24 * lnch + tid) s else s

/-- A member of a gang cannot be bound: the binds of the others are called off, and those bound are asked to leave, so that the
gang is bound again whole (R149). -/
def callOffGang (l : Nat) (s : State) : State :=
  if (launchOf s l).any (·.gang) then
    askAll l { s with dies := s.dies.map fun d => { d with binds := d.binds.filter fun r => r.lnch ≠ l || r.killed } }
  else s

/-- A dictionary that does not load fails the launch (R177); a saved thread that was to be restored never runs again, and ends
(DESIGN CHOICE, assumption log 82). -/
def bindFails (l : Launch) (r : BindRec) (einfo : Word) (s : State) : State :=
  let s := failLaunch l.num 0x80 einfo s
  match s.saved.find? fun v => r.img ≠ 0 && v.ctx.uid = 2 ^ 24 * r.lnch + r.tid with
  | some v => endThread v.ctx false none s
  | none => s

/-- What loading a dictionary into a core reads (R219). -/
def touchDict (die core : Nat) (d : Word) (w : Bool) (s : State) : State :=
  if resident s die core d then s else devTouch { world := w, lnch := 0, die } (dictBase d) (48 * bits d 0 12) s

/-- BIND (R177): the dictionary, then the first bind or the restore. An entry that the watchdog has killed waits to be
drained, and one on a fenced core is not bound (R182). -/
def execBind (die entry : Nat) (s : State) : Out :=
  .next (match (dieOf s die).binds.find? (·.entry = entry) with
    | none => s
    | some r =>
      if r.killed then s
      else match launchOf s r.lnch with
      | none => dropBind die entry s
      | some l =>
        if r.img = 0 && !l.live then dropBind die entry s
        else if (coreOf s die r.core).fenced then callOffGang l.num (dropBind die entry s)
        else match loadDict die r.core l.dict l.world (touchDict die r.core l.dict l.world s) with
          | .error (e, j, rd) => bindFails l r (BitVec.ofNat 64 (e + j * 2 ^ 12 + rd.toNat * 2 ^ 15)) (dropBind die entry s)
          | .ok s =>
            let s := dropBind die entry s
            if r.img = 0 then joinRequest l.num r.tid r.asked (firstBind l die r s)
            else match s.saved.find? fun v => v.ctx.uid = 2 ^ 24 * r.lnch + r.tid with
              | none => abortRestore die l r.tid none s
              | some v =>
                let s := touchImage v r.img s
                if imageOk s v r.img then joinRequest l.num r.tid r.asked (restoreBind v die r s) else abortRestore die l r.tid (some v) s)

/-! ### Slices (R178, R179) and `yield` -/

/-- Whether some candidate of equal or higher priority could use a context's resources (R178). -/
def wanted (s : State) (c : Ctx) : Bool :=
  let free := fun u => u = c.uid
  let room := fun n => n.die = c.die && (firstPlace s free n).isSome
  (candidates s c.die).any fun x => decide (x.1 ≥ c.epri) && match x.2 with
    | .saved v => room (needOf s v.ctx)
    | .gang l vs ts => vs.any (fun v => room (needOf s v.ctx)) || ts.any fun t => room (needFirst l t)
    | .first _ _ l _ ts => ts.any fun t => room (needFirst l t)

/-- The slice of a context expires (R178): a scheduling event of its thread (R175). One that keeps its slot gives way to none
(R150). -/
def sliceEnds (u : Nat) (s : State) : State :=
  match findCtx u s with
  | none => s
  | some c =>
    if c.status ≠ .running then s
    else
      let s := modCtx u (fun c => c.formPri c.bpri) s
      if !keepsSlot s c && (wanted s (c.formPri c.bpri) || gangAsked s c.lnch) then askPreempt u s else s

/-- SLICE_EXPIRY (R178). -/
def execSliceExpiry (c : Nat) (s : State) : Out := .next (sliceEnds c s)

/-- `yield` (R154): as a slice expiry at the boundary after its group; its arrive suffix counts when the group issues. -/
def execYield (s : State) : Out := .next (addLate .yield (retireNow s))

/-! ### The watchdog (R182) -/

/-- An effective limit of a launch; 0 is absent. -/
def Launch.limit (l : Launch) (i : Nat) : Nat := l.wd.getD i 0

/-- A bound context of a thread. -/
def boundCtx (s : State) (u : Nat) : Option Ctx := (bound s).find? fun c => c.uid = u


/-- The bind records of a thread. -/
def bindsOf (s : State) (u : Nat) : List (Nat × BindRec) :=
  (List.range 8).flatMap fun d => ((dieOf s d).binds.filter fun r => 2 ^ 24 * r.lnch + r.tid = u).map fun r => (d, r)

/-- Changing the bind record of a thread whose entry is BINDING. -/
def modBinds (u : Nat) (f : BindRec → BindRec) (s : State) : State :=
  { s with dies := s.dies.map fun d => { d with binds := d.binds.map fun r => if 2 ^ 24 * r.lnch + r.tid = u then f r else r } }

/-- WATCHDOG_T1 (R182): pre-emption is requested, of a thread whose entry is BINDING once it is bound. -/
def execWatchdogT1 (lnch tid : Nat) (s : State) : Out :=
  let u := 2 ^ 24 * lnch + tid
  .next (match launchOf s lnch, boundCtx s u, bindsOf s u with
    | some l, some c, _ =>
      if l.limit 0 = 0 || c.wds ≠ 0 then s
      else askPreempt c.uid (modCtx c.uid (fun c => { c with wds := 1, wdt := max c.wdt (l.limit 0) }) s)
    | some l, none, (_, r) :: _ =>
      if l.limit 0 = 0 || r.wds ≠ 0 then s
      else
        let s := modBinds u (fun r => { r with wds := 1, wdt := max r.wdt (l.limit 0), asked := true }) s
        if l.gang then askAll lnch s else s
    | _, _, _ => s)

/-- Issue of a context stops for good (R177): results in flight and engine work not begun are discarded, the rest runs out. -/
def killCtx (t2 : Nat) (c : Ctx) : Ctx :=
  { c with
    status := .killing, wds := 2, wdt := max c.wdt t2, preReq := false, trigs := []
    sq := { c.sq with
      queue := [], rest := none, flights := [], redirs := [], snap := [], sredir := [], skip := none, sskip := none, pends := [], owed := []
      cmds := c.sq.cmds.filter fun x => x.begun || decide (x.op.engine ≥ 2) || (match x.op with | .arrival .. => true | _ => false) } }

/-- The end of a killed thread that no context slot holds (R169, R182). -/
def endUnbound (l : Launch) (tid : Nat) (s : State) : State :=
  match s.saved.find? fun v => v.ctx.uid = 2 ^ 24 * l.num + tid with
  | some v => endThread v.ctx true none s
  | none => endCheck l.num (dropThread l.num tid (countEnd l.num tid false false true s))

/-- The watchdog kills a thread whose entry is BINDING: the entry is KILLING (R177). -/
def killBinding (u t2 : Nat) (s : State) : State :=
  modBinds u (fun r => { r with killed := true, wds := 2, wdt := max r.wdt t2 }) s

/-- WATCHDOG_T2 (R182): the thread is killed whether or not it is bound. -/
def execWatchdogT2 (lnch tid : Nat) (s : State) : Out :=
  let u := 2 ^ 24 * lnch + tid
  .next (match launchOf s lnch with
    | none => s
    | some l =>
      if l.limit 1 = 0 || tid ≥ l.n || l.ended.contains tid then s
      else match boundCtx s u, bindsOf s u with
        | some c, _ =>
          if c.status = .killing || c.status = .fenced then s
          else setErr lnch 0x15 (BitVec.ofNat 64 tid) false (modCtx c.uid (killCtx (l.limit 1)) s)
        | none, (_, r) :: _ => if r.killed then s else setErr lnch 0x15 (BitVec.ofNat 64 tid) false (killBinding u (l.limit 1) s)
        | none, [] => endUnbound l tid (setErr lnch 0x15 (BitVec.ofNat 64 tid) false s))

/-- KILL_DRAIN_COMPLETE (R177): the slot of a killed context, or the entry of a thread killed while BINDING, has drained; one
that is FENCED drains no more until its core is restored. -/
def execKillDrainComplete (c : Nat) (s : State) : Out :=
  .next (match boundCtx s c, bindsOf s c with
    | some x, _ =>
      if x.status ≠ .killing || !x.sq.cmds.isEmpty || !x.sq.stores.isEmpty ||
          s.fab.outs.any (fun o => o.cid = c) then s
      else endThread x true none (modSqOf c (fun q => { q with faults := [] }) s)
    | none, (d, r) :: _ =>
      if !r.killed || r.fenced then s
      else match launchOf s r.lnch with
        | some l => endUnbound l r.tid (dropBind d r.entry s)
        | none => dropBind d r.entry s
    | none, [] => s)

/-- A core is fenced (R182): it takes no bind, those under way included, and its contexts are to be saved; a gang that loses a
bind so is called off whole (R149). -/
def fenceCore (die core : Nat) (s : State) : State :=
  let s := modCore die core (fun y => { y with fenced := true }) s
  let lost := (dieOf s die).binds.filter fun r => decide (r.core = core) && !r.killed
  let s := modDie die (fun d => { d with binds := d.binds.filter fun r => r.core ≠ core || r.killed }) s
  let s := lost.foldl (fun s r => callOffGang r.lnch s) s
  let s := errRecord die 0x07 0 [BitVec.ofNat 64 die, BitVec.ofNat 64 core] s
  ((bound s).filter fun y => y.die = die && y.core = core).foldl (fun s y => askPreempt y.uid s) s

/-- WATCHDOG_T3 (R182): the entry of a killed thread whose slot is not free goes to FENCED (R177), and its core is fenced. -/
def execWatchdogT3 (c : Nat) (s : State) : Out :=
  let due := fun l => (launchOf s l).any fun x => x.limit 2 ≠ 0
  let fence := fun d k s => if (coreOf s d k).fenced then s else fenceCore d k s
  .next (match boundCtx s c, bindsOf s c with
    | some x, _ =>
      if x.status = .killing && due x.lnch then fence x.die x.core (modCtx c (fun y => { y with status := .fenced }) s) else s
    | none, (d, r) :: _ =>
      if r.killed && !r.fenced && due r.lnch then fence d r.core (modBinds c (fun y => { y with fenced := true }) s) else s
    | none, [] => s)

/-! ### Firmware instructions (R329) -/

/-- Handler mode of a service launch. -/
def serviceCheck (s : State) : Option FaultInfo :=
  failIf (!(s.me.ctl.handler && (match launchOf s s.me.lnch with | some l => l.service | none => false))) (fault 0x0C 0 0)

/-- Die and bind entry an operand names. -/
def entryOf (x : Word) : Nat × Nat := (bits x 8 3, bits x 0 8)

/-- `ctxsv` (R329): a request is sent, and the group is held until the entry is free. -/
def execCtxsv (a : SReg) (s : State) : Out :=
  let (d, e) := entryOf (rdS s a)
  .next (checked (serviceCheck s) (fun s =>
    if entryFree s d e then retireNow s
    else match ctxAt s d e with
      | some c => holdHere (askPreempt c.uid s)
      | none => holdHere s) s)

/-- A bind record as firmware gives it (R176): the record, its V bit, and its reserved bits. -/
def parseBind (entry : Nat) (x : BitVec 256) (lnch : Nat) : BindRec × Bool × Bool :=
  let f := fun lo n => fld x.toNat lo n
  ({ entry, img := BitVec.ofNat 64 (f 192 64), recVa := BitVec.ofNat 64 (f 128 64), wdt := f 96 32, wds := f 94 2, slice := f 80 14
     psnap := f 76 4, tb := f 72 4, fb := f 62 10, core := f 56 6, hctx := f 54 2, tid := f 29 25, lnch, killed := false, fenced := false, asked := false }, x.getLsbD 0, f 1 28 ≠ 0)

/-- The launch a record VA names: the last admitted from it. -/
def launchAt (s : State) (va : Word) : Option Launch := s.launches.reverse.find? fun l => l.recVa = va

/-- The need of a firmware bind record. -/
def needRec (s : State) (l : Launch) (die : Nat) (r : BindRec) : Need :=
  match s.saved.find? fun v => v.ctx.uid = 2 ^ 24 * l.num + r.tid with
  | some v => { needOf s v.ctx with die }
  | none => { needFirst l r.tid with die }

/-- The checks of `ctxld` that come before it holds: mode, alignment, the read, reserved bits. -/
def ctxldRead (s : State) (x : Word) : Except FaultInfo (List Seg × BitVec 256) :=
  match firstFault [serviceCheck s, alignCheck x 32] with
  | some f => .error f
  | none =>
    match vaSegs s s.me.site s.me.world .read x 32 with
    | .error f => .error f
    | .ok gs =>
      let raw := BitVec.ofNat 256 (leNat (readSegs s gs))
      if (parseBind 0 raw 0).2.2 then .error (fault 0x02 0 x) else .ok (gs, raw)

/-- The record that firmware's words give, if its resources hold (R19, R34). Nothing else is asked of it (R329), for the hardware
obeys a record without further decision (R176): one that names no launch is written with launch 0, and its bind finds nothing to
run (DESIGN CHOICE, assumption log 82). -/
def ctxldRoom (s : State) (die entry : Nat) (raw : BitVec 256) : Option BindRec :=
  let r := (parseBind entry raw 0).1
  match launchAt s r.recVa with
  | none => some r
  | some l =>
    if fits (sharesOf s noOne die r.core) ((needRec s l die r).share ⟨r.core, r.hctx, r.fb, r.tb⟩) then some { r with lnch := l.num } else none

/-- `ctxld` has been held until its entry left BINDING: for RUNNING or FREE, or, with a thread that the watchdog killed meanwhile,
for KILLING (R177). -/
def ctxldDone (s : State) (die entry : Nat) : Bool :=
  s.me.sq.loading = some (256 * die + entry) && !(dieOf s die).binds.any fun r => r.entry = entry && !r.killed

/-- One look at a `ctxld` slot (R329): the record is written once its entry is free. Whether the slot may issue. -/
def ctxldTry (a b : SReg) (s : State) : State × Bool :=
  let (d, e) := entryOf (rdS s a)
  match ctxldRead s (rdS s b) with
  | .error _ => (s, true)
  | .ok (gs, raw) =>
    if s.me.sq.loading = some (256 * d + e) then (s, ctxldDone s d e)
    else if !entryFree s d e then (s, false)
    else match ctxldRoom s d e raw with
      | none => (s, true)
      | some r =>
        if (parseBind e raw 0).2.1 then
          (modSq (fun q => { q with loading := some (256 * d + e) }) (addBind d r (stepSegs .plain (some s.me.uid) gs s)), false)
        else (s, true)

/-- `ctxld` (R329). -/
def execCtxld (a b : SReg) (s : State) : Out :=
  let (d, e) := entryOf (rdS s a)
  let x := rdS s b
  .next (tryWith (ctxldRead s x) (fun (_, raw) s =>
    if s.me.sq.loading.isNone && entryFree s d e && (ctxldRoom s d e raw).isNone then raise (fault 0x02 0 x) s
    else
      let (s, go) := ctxldTry a b s
      if go then retireNow (modSq (fun q => { q with loading := none }) s) else holdHere s) s)

/-- `dload` (R329): the dictionary is loaded into a core's RAM. -/
def execDload (a b : SReg) (s : State) : Out :=
  let x := rdS s a
  let d := bits x 8 3
  let c := bits x 0 6
  let w := rdS s b
  .next (checked (serviceCheck s) (fun s =>
    if bits w 0 12 > 2048 then raise (fault 0x02 0 (BitVec.ofNat 64 2048)) s
    else if resident s d c w then retireNow s
    else if ((keepDicts s d c (bits w 0 12)).map fun y => y.entries.length).sum + bits w 0 12 > 4096 then raise (fault 0x0C 1 (Config.openAddr 5)) s
    else match loadDict d c w s.me.world (touchDict d c w s.me.world s) with
      | .error (e, j, _) => raise (fault 0x02 0 (BitVec.ofNat 64 (e + j * 2 ^ 12))) s
      | .ok s => retireNow s) s)

end Sys2Proof.Machine
end

