-- ==== Sys2Proof/Machine/Hold.lean ====
section
/-! DEFINITION. What holds a group before it issues (R194 to R201, R226, R227, R257, R259, R282, R329, R351, R356, R359,
R376): the group is examined slot by slot, and what a held slot registers. -/

namespace Sys2Proof.Machine

/-- What a look at one slot of a group says: it holds nothing; it holds the group, and whether as one of the waits at
which a group may be pre-empted (R321); or it will fault, so that the group goes on to it. -/
inductive Look where
  | free | held (point : Bool) | faults
deriving DecidableEq, Repr

/-! ### Registered waits (R195, R200) -/

/-- Whether the context may read again what it waits for: a token, the overflow flag, a poll or a restore. -/
def gateOpen (w : Waiting) : Bool := !w.tokens.isEmpty || w.overflow || w.again

/-- The reason to read again is used up. -/
def useGate (w : Waiting) : Waiting :=
  if w.again then { w with again := false }
  else if w.tokens.isEmpty then { w with overflow := false }
  else { w with tokens := w.tokens.drop 1 }

/-- A look at a wait: one that is registered and has no reason to read again stays held; another wait's edge goes first. -/
def lookWait (on : WaitOn) (f : State → State × Look) (s : State) : State × Look :=
  if s.me.wt.on = some on then
    (if gateOpen s.me.wt then f { s with me := { s.me with wt := useGate s.me.wt } } else (s, .held true))
  else if s.me.wt.on.isSome then f (resolveWait s)
  else f s

/-- After a try that may have registered: a deadlock goes on to its slot (R207). -/
def heldOr (s : State) : State × Look := (s, if s.me.wt.dead.isSome then .faults else .held true)

/-- A look at a `kwait` (R194). -/
def lookKwait (k : KReg) (a : SReg) (i : BitVec 16) (s : State) : State × Look :=
  if s.me.wt.dead.isSome || (armedCheck s k).isSome then (s, .faults)
  else lookWait (.counter (counterOf s k) (kwaitTarget s a i)) (fun s =>
    if kwaitGo k a i s then (s, .free) else heldOr (kwaitHeld k a i s)) s

/-- The wait of a barrier handle for a phase. -/
def barOn (h : Word) (t : Nat) : WaitOn := .barrier (hdlDie h) (hdlEntry h) (hdlGen h) t h.toNat

/-- A look at a `bar` (R198). -/
def lookBar (p : CodePos) (h : Word) (s : State) : State × Look :=
  if s.me.wt.dead.isSome then (s, .faults)
  else match barStep s p h with
    | .fault _ => (s, .faults)
    | .done => (s, .free)
    | .wait t => lookWait (barOn h t) (fun s => let (s, go) := barTry p h s; if go then (s, if s.me.wt.dead.isSome then .faults else .free) else heldOr s) s
    | .arrive _ => let (s, go) := barTry p h s; if go then (s, if s.me.wt.dead.isSome then .faults else .free) else heldOr s

/-- A look at a `bar.a` whose bit may still be set (R198); R321 does not name it among the points of pre-emption. -/
def lookBarA (h : Word) (s : State) : State × Look :=
  if s.me.wt.dead.isSome then (s, .faults)
  else match memberCheck s h with
    | .error _ => (s, .faults)
    | .ok (g, m) =>
      if m.bit then
        let (s, l) := lookWait (barOn h (g.b + 1)) (fun s => heldOr (barATry h s).1) s
        (s, match l with | .held _ => .held false | l => l)
      else (s, .free)

/-- A look at a `bar.w` (R198). -/
def lookBarW (h : Word) (t : Nat) (s : State) : State × Look :=
  if s.me.wt.dead.isSome then (s, .faults)
  else match memberCheck s h with
    | .error _ => (s, .faults)
    | .ok (g, _) =>
      if g.b ≥ t then (s, .free)
      else lookWait (barOn h t) (fun s => let (s, go) := barWTry h t s; if go then (s, if s.me.wt.dead.isSome then .faults else .free) else heldOr s) s

/-! ### Channel waits (R359) -/

/-- The channel and the number of the item that a pending `chrecv` of a thread waits for. -/
def recvOf (s : State) (u id : Nat) : Option (Chan × ChanEnd × Nat) :=
  s.chans.findSome? fun c => match c.rcv with
    | some e => (e.queue.find? fun o => o.cid = u && o.op = id).map fun o => (c, e, o.n)
    | none => none

/-- The owner of an edge: a thread of the launch, or the peer module when the other end is remote or not there. -/
def endOwner (c : Chan) (other : Option ChanEnd) (rem : Bool) : List (Nat × Word) :=
  match other with
  | some e => if rem then [(3, 0)] else [(0, BitVec.ofNat 64 (2 ^ 24 * c.lnch + e.tid))]
  | none => [(3, 0)]

/-- The edge of a pending `chrecv` destination that a slot names, while its item is not filled (R200, R359). -/
def recvEdge (s : State) (w : Nat) : Option (WaitOn × List (Nat × Word)) :=
  ((slotReads w ++ slotWrites w).filter (refPending s.me)).findSome? fun r => match r with
    | .v d => s.me.sq.pends.findSome? fun p => match p.upd with
      | .v x .. => if x = d then (recvOf s s.me.uid p.id).bind fun (c, e, j) =>
          if counterAt s e.fillc ≥ e.base + j + 1 then none
          else some (.counter e.fillc (e.base + j + 1), endOwner c c.snd e.rem) else none
      | _ => none
    | _ => none

/-- The edge of a `chsend` of the context that lacks credit. -/
def sendEdge (s : State) : Option (WaitOn × List (Nat × Word)) :=
  (s.chans.filter fun c => c.lnch = s.me.lnch).findSome? fun c => match c.snd, c.rcv with
    | some e, some r =>
      if !e.rem && e.queue.any (fun o => o.cid = s.me.uid) && decide (e.count - e.base ≥ e.depth) then
        some (.counter r.freec (counterAt s r.freec + 1), endOwner c c.rcv false)
      else none
    | _, _ => none

/-- A context registers the channel edge that holds it now; an edge of an earlier wait goes (R200, R359). -/
def chanWait (x : Option (WaitOn × List (Nat × Word))) (s : State) : State :=
  match x with
  | some (on, own) => if s.me.wt.on = some on then s else registerWait on own (if s.me.wt.on.isSome then resolveWait s else s)
  | none => if s.me.wt.on.isSome then resolveWait s else s

/-! ### Classes and results (R26, R308) -/

/-- The destination of an atomic: with none it is outstanding in class S, else in class L (R236). -/
def atomDest : Instr → Option SReg
  | .aadd d _ _ _ _ | .amin d _ _ _ _ _ | .amax d _ _ _ _ _ | .aand d _ _ _ _ | .aor d _ _ _ _ | .axor d _ _ _ _
  | .aswp d _ _ _ _ | .acas d _ _ _ _ _ => some d
  | _ => none

/-- A load whose result has a fixed latency, so that it adds to no class (R141). -/
def fixedLoad (s : State) : Instr → Bool
  | .lds _ a i sp _ _ | .ldv _ a i sp _ => sp = .st && ownDie s (offAddr s a i)
  | .ldvs _ a b m sp t _ => lanesFixed s sp (stride s a b) (enabled (rdM s m) (lanes t))
  | .ldvx _ a x m sp t sc u _ => lanesFixed s sp (indexed s a x (laneW t) sc u) (enabled (rdM s m) (lanes t))
  | _ => false

/-- The outstanding classes an instruction adds to (R26, R141, R142, R187, R225, R236, R257, R282): L, S, C, T. -/
def classesOf (s : State) (i : Instr) : Bool × Bool × Bool × Bool :=
  let kinds := fun (o : Nat) =>
    (o = 0x140 || o = 0x142 || o = 0x144 || o = 0x146 || (0x151 ≤ o && o ≤ 0x153) || o = 0x161 || o = 0x181 ||
       o = 0x1A1 || o = 0x1A2 || o = 0x1A9 || o = 0x1C2 || o = 0x1C5 || o = 0x1C9 || o = 0x1D3 || o = 0x1D5 || o = 0x1D6 ||
       o = 0x1D7 || o = 0x1D9,
     o = 0x141 || o = 0x143 || o = 0x145 || o = 0x147 || o = 0x150 || o = 0x15C || o = 0x162 ||
       o = 0x1C3 || o = 0x1D1 || o = 0x1D2 || o = 0x1D8 || o = 0x1DA || o = 0x1E2,
     o = 0x180 || o = 0x182 || (0x185 ≤ o && o ≤ 0x189) || (0x18B ≤ o && o ≤ 0x18D) || o = 0x1A3 || o = 0x1A5 ||
       o = 0x1A6 || o = 0x1A8,
     0x190 ≤ o && o ≤ 0x196)
  match atomDest i with
  | some d => (d.val ≠ 0, d.val = 0, false, false)
  | none =>
    match i with
    | .bar .. | .barW .. | .gsize .. => (false, false, false, false)
    | .brel _ b | .brelP _ b => (false, bits (rdS s b) 0 16 ≠ 0, false, false)
    | i => if fixedLoad s i then (false, false, false, false)
      else match encodeParts i with
        | none => (false, false, false, false)
        | some (o, _) => kinds o

/-- Whether the slots of a group that execute would take a class above 255 (R26). -/
def classFull (s : State) (is : List Instr) : Bool :=
  let ks := is.map (classesOf s)
  let full := fun (n : Nat) (p : Bool × Bool × Bool × Bool → Bool) => ks.any p && decide (n + (ks.filter p).length > 255)
  full (outL s.me) (·.1) || full (outS s.me) (·.2.1) || full (outC s.me) (·.2.2.1) || full (outT s.me) (·.2.2.2)

/-- The fixed-latency results an instruction issues (R48, R308): an `xret` sets those of Snap in flight again (R315). -/
def fixedResults (s : State) (i : Instr) : Nat :=
  match i with
  | .call _ | .callr _ | .loop _ _ | .loopReg _ _ | .vputl .. | .psetAll _ => 1
  | .xret => inFlight s.me.sq.snap
  | .lds .. | .ldv .. | .ldvs .. | .ldvx .. => (fixedLoad s i).toNat
  | i => match encodeParts i with
    | some (o, _) => if o ≤ 0x066 || (0x06E ≤ o && o ≤ 0x0EA) then (writesOf i).length else 0
    | none => 0

/-- Whether a group would bring more than 64 fixed-latency results in flight (R308). DEDUCED: nothing but the issue of groups
lands them (R47, R48), so that such a group waits on (assumption log 57). -/
def tooMany (s : State) (is : List Instr) : Bool :=
  decide ((is.map (fixedResults s)).sum ≠ 0) && decide (inFlight s.me.sq.flights + (is.map (fixedResults s)).sum > 64)

/-- Whether a group stalls on a pending bit, a full class, too many results, or an operation that the next group waits for:
a `tlbi` (R320). -/
def stalled (s : State) (g : List SlotRef) : Bool :=
  let is := ((liveSlots g).filter fun x => guardHolds s (slotHdr x.1.word)).map (·.2)
  g.any (fun r => slotPending s.me r.word) || classFull s is || tooMany s is || s.me.sq.stores.any (·.kind.gates)

/-! ### One slot -/

/-- A check as a look: it faults, or the answer of `g`. -/
def lookIf (c : Option FaultInfo) (held point : Bool) : Look :=
  if c.isSome then .faults else if held then .held point else .free

/-- A look at a `csrw`: a valid one to a tile configuration waits for the tile (R27, R305). -/
def lookCsr (op : CsrOp) (n : BitVec 12) (a : SReg) (s : State) : Look :=
  match csrTile n.toNat with
  | some t => lookIf (csrCheck s n.toNat (csrNew op n.toNat (csrRead s n.toNat) (rdS s a))) (tileWaits s.me t) false
  | none => .free

/-- A look at one executing slot. -/
def lookAt (r : SlotRef) (i : Instr) (s : State) : State × Look :=
  let plain := fun x => (s, x)
  match i with
  | .kwait k a j => lookKwait k a j s
  | .bar a => lookBar ⟨r.pc, r.idx⟩ (rdS s a) s
  | .barA _ a => lookBarA (rdS s a) s
  | .barW a b => lookBarW (rdS s a) (rdS s b).toNat s
  | .wait l st c t =>
    if s.me.wt.dead.isSome then (s, .faults)
    else if waitDone s.me l st c t then plain .free
    else heldOr (chanWait (if outC s.me > c.val then sendEdge s else none) s)
  | .brel a b | .brelP a b => plain (lookIf (brelCheck s (rdS s a) (bits (rdS s b) 0 16)) (brelHeld s) true)
  | .bwait a b =>
    plain (lookIf (bwaitCheck s (rdS s a) (bits (rdS s b) 0 16)) (!bwaitDone s (rdS s a) (bits (rdS s b) 0 16)) true)
  | .fencex => plain (lookIf none (remoteBusy s) true)
  | .csrw n a => plain (lookCsr .write n a s)
  | .csrwSet n a => plain (lookCsr .set n a s)
  | .csrwClr n a => plain (lookCsr .clear n a s)
  | .chsetRel c => plain (lookIf (crwCheck s 2) (chanBusy s c.val) false)
  | .reshard .. => plain (lookIf none (decide (reshardsOf s s.me.die ≥ 16)) false)
  | .vgetl .. | .vputl .. | .vmovx .. | .vstx .. => plain (lookIf none ((computedRegs s i).any (pendingV s.me)) false)
  | .ctxsv a =>
    let (d, e) := entryOf (rdS s a)
    if (serviceCheck s).isSome then plain .faults
    else if entryFree s d e then plain .free
    else ((match ctxAt s d e with | some c => askPreempt c.uid s | none => s), .held true)
  | .ctxld a b => let (s, go) := ctxldTry a b s; (s, if go then .free else .held true)
  | _ => plain .free

/-- Tile-engine and churn commands of a context that have not begun (R257, R282). -/
def notBegun (c : Ctx) (churn : Bool) : Nat :=
  (c.sq.cmds.filter fun x => !x.begun && x.op.churn = churn && decide (x.op.engine ≤ 1) && (match x.op with | .arrival .. | .query .. => false | _ => true)).length

/-- Whether an instruction is a tile-engine command, or a churn command. -/
def engineKind : Instr → Bool × Bool
  | .tcfg .. | .tzero .. | .tld .. | .tst .. | .tldv .. | .tstv .. | .tmc .. | .tcons .. | .dtab .. | .tldz .. => (true, false)
  | .mma .. | .mmzI32 .. | .mmzFp32 .. | .mmdr .. | .qld .. | .qldBind .. | .qst .. | .esetRng .. | .esetQ .. | .etab .. => (false, true)
  | _ => (false, false)

/-- Whether an engine's queue has no room for an instruction (R257, R282). -/
def queueFull (c : Ctx) (i : Instr) : Bool :=
  let (t, h) := engineKind i
  (t && decide (notBegun c false ≥ 32)) || (h && decide (notBegun c true ≥ 16))

/-! ### The group -/

/-- The slots of a group in order: the first that holds it, or none. A slot that does not execute, and one that faults on
its footprint or its arrive handle, holds nothing; after a slot that faults no other counts (R46). -/
def lookSlots : List (SlotRef × Instr) → State → State × Look
  | [], s => (s, .free)
  | (r, i) :: rest, s =>
    let h := slotHdr r.word
    if !guardHolds s h then lookSlots rest s
    else if (footCheck s.me i).isSome || (arriveCheck s h).isSome then (s, .faults)
    else if queueFull s.me i then (s, .held false)
    else match lookAt r i s with
      | (s, .free) => lookSlots rest s
      | x => x

/-- The next group is examined (R46, R151, R194): whether it may issue. A deadlock found for a pending register is raised
when its slot issues (R359). -/
def lookGroup (g : CodeGroup) (s : State) : State × Look :=
  if s.me.sq.stores.any (·.kind.gates) || kaddwWaits s then (s, .held false)
  else if stalled s g.slots then
    (if s.me.wt.dead.isSome then (s, .faults)
     else
       let s := chanWait (g.slots.findSome? fun r => recvEdge s r.word) s
       (s, if s.me.wt.dead.isSome then .faults else .held false))
  else lookSlots (liveSlots g.slots) s

/-- The context in issue is held now by a wait at which it may be pre-empted (R321). -/
def heldAtWait (s : State) : Bool :=
  match fetchGroup s s.me.sq.next with
  | .error _ => false
  | .ok g => match (lookGroup g s).2 with
    | .held p => p
    | _ => false

end Sys2Proof.Machine
end

