-- ==== Sys2Proof/Machine/Switch.lean ====
section
/-! DEFINITION. Results and stores that arrive (R15, R48 to R50, R142, R146), traps taken at a boundary (R305, R307, R310), and
a context switched out (R321 to R326). -/

namespace Sys2Proof.Machine

/-! ### Contexts in turn -/

/-- A bound context takes the turn; the one before joins the others, unless its slot is free. -/
def giveTurn (u : Nat) (s : State) : State :=
  if s.me.uid = u && s.me.status ≠ .free then s
  else match s.others.find? fun c => c.uid = u with
    | none => s
    | some c =>
      let os := s.others.filter fun x => x.uid ≠ u
      { s with me := c, others := if s.me.status = .free then os else os ++ [s.me] }

/-- What a function does when a bound context has the turn; the turn then returns. -/
def inTurn (u : Nat) (f : State → State) (s : State) : State :=
  if (boundCtx s u).isNone then s else giveTurn s.me.uid (f (giveTurn u s))

/-! ### Results (R15, R48 to R50, R146) -/

/-- FIXED_RESULT_LANDS (R48): the results of a context that are due land; the arrive adds of their slots are owed. -/
def execFixedResultLands (c : Nat) (s : State) : Out := .next (modCtx c (fun x => landFlights x.sq.group x) s)

/-- An earlier fixed-latency result to the same register is in flight, or frozen in Snap (R50, R307). -/
def behindFixed (c : Ctx) (p : Pend) : Bool := (c.sq.flights ++ c.sq.snap).any fun f => f.upd.same p.upd

/-- A result that arrives with an uncorrectable error brings no data (R146); one that reads no memory has no such error. -/
def spoilPend (p : Pend) : Pend :=
  match p.addr with
  | some A => { p with upd := noData p.upd, fault := some (badFault A) }
  | none => p

/-- The arrive suffix of a slot whose variable-latency result lands (R39): that of an engine command is an add of the command
(R191), and one withheld tags the register POISON (R258). -/
def landArrive (u : Nat) (c : Ctx) (p : Pend) (s : State) : State :=
  match p.src, p.arrive with
  | .engine tag, some a =>
    let (s, f, ok) := engAdd c.world c.lnch tag 0 a 1 s
    match f with
    | some f => recordFault u f (if ok then s else modCtx u (applyUpd (noData p.upd)) s)
    | none => s
  | _, arr => retireArrive u c.lnch arr s

/-- A variable-latency result lands: its register, flags, fault and arrive suffix. -/
def landPend (u : Nat) (c : Ctx) (p : Pend) (s : State) : State :=
  let s := modCtx u (fun c =>
    let c := applyUpd p.upd c
    { c with ctl := { c.ctl with vflags := c.ctl.vflags ||| p.flags }
             sq := { c.sq with pends := c.sq.pends.filter fun x => x.id ≠ p.id } }) s
  let s := match p.fault with | some f => recordFault u f s | none => s
  landArrive u c p s

/-- PENDING_RESULT_ARRIVES (R15, R49, R50, R324): in the bound context or in the image. While a group issues, its slots read their
registers as they stood when it began (R46), so that a result lands after it. -/
def execPendingResultArrives (c op : Nat) (ok : Bool) (s : State) : Out :=
  .next (match findCtx c s with
    | none => s
    | some x =>
      match x.sq.pends.find? fun p => p.id = op with
      | none => s
      | some p =>
        if !p.ready || behindFixed x p || x.sq.mid then s
        else landPend c x (if ok then p else spoilPend p) s)

/-- Whether a context has an access of its own, made before operation `op`, whose data or store is outstanding; of another
context's those count that only have to arrive (R320). -/
def accessBefore (own : Bool) (op : Nat) (c : Ctx) : Bool :=
  c.sq.pends.any (fun p => decide (p.id < op) && p.addr.isSome && (own || (p.ready && !behindFixed c p))) ||
    c.sq.stores.any fun o => decide (o.id < op) && o.kind = .mem && (own || o.ready)

/-- A `tlbi` may retire (R320): every earlier memory operation of its context, and every access made with a translation that
it removes, has been performed. -/
def tlbiMayRetire (c op : Nat) (s : State) : Bool := (bound s).all fun x => !accessBefore (x.uid = c) op x

/-- An operation of class S is over (R142): its count drops and its arrive suffix counts. -/
def retireStore (c : Nat) (x : Ctx) (o : StoreOut) (s : State) : State :=
  let s := modSqOf c (fun q => { q with stores := q.stores.filter fun y => y.id ≠ o.id }) s
  let s := match o.fault with | some f => recordFault c f s | none => s
  retireArrive c x.lnch o.arrive s

/-- STORE_PERFORMED (R142): the class count drops; an uncorrectable error is reported (R146), by the issuer's die (DESIGN CHOICE,
assumption log 25). A `tlbi` retires when R320 lets it, and no TLB holds what it removes then. -/
def execStorePerformed (c op : Nat) (ok : Bool) (s : State) : Out :=
  .next (match findCtx c s with
    | none => s
    | some x =>
      match x.sq.stores.find? fun o => o.id = op with
      | none => s
      | some o =>
        if !o.ready then s
        else match o.kind with
          | .plain => retireStore c x o s
          | .mem => retireStore c x o (if ok then s else errRecord x.die 0x04 0x16 [BitVec.ofNat 64 c] s)
          | .tlbi w page => if tlbiMayRetire c op s then retireStore c x o (tlbDropAll w page s) else s)

/-! ### Traps at a boundary (R305, R310) -/

/-- The boundary fault that is delivered now: the oldest recorded, in user mode (R305). -/
def dueFault (s : State) : Option FaultInfo := if s.me.ctl.handler then none else s.me.sq.faults.head?

/-- The fault of a fetch of the next group (R52, R310). -/
def fetchFault (s : State) : Option FaultInfo :=
  match fetchGroup s s.me.sq.next with
  | .error f => some f
  | .ok _ => none

/-- A boundary fault is delivered: the resume point is the group that would have issued next (R306). -/
def deliver (f : FaultInfo) (s : State) : State :=
  modSq (fun q => { q with diverted := false }) (takeTrap f s.me.sq.next (modSq (fun q => { q with faults := q.faults.drop 1 }) s))

/-- A failing fetch traps at the boundary where its group would begin. -/
def trapFetch (f : FaultInfo) (s : State) : State := modSq (fun q => { q with diverted := false }) (takeTrap f s.me.sq.next s)

/-- TRAP_ENTRY (R305, R307): a context takes fault `f` at its boundary, when that fault is due there. -/
def execTrapEntry (c : Nat) (f : FaultInfo) (s : State) : Out :=
  .next (inTurn c (fun s =>
    if s.me.status ≠ .running || s.me.sq.mid then s
    else if dueFault s = some f then deliver f s
    else if (dueFault s).isNone && fetchFault s = some f then trapFetch f s
    else s) s)

/-! ### Pre-emption (R321 to R326) -/

/-- Whether a request to a context's gang still waits under R180 (R149, R179): a running thread of the gang has retired no group since
its restore, or one is yet to be bound (assumption log 18). A thread that the watchdog has killed is not waited for (R182). -/
def gangWaits (s : State) (c : Ctx) : Bool :=
  match launchOf s c.lnch with
  | some l => l.gang && ((bound s).any (fun x => x.lnch = c.lnch && x.fresh && x.status = .running) ||
      s.dies.toList.any fun d => d.binds.any fun r => r.lnch = c.lnch && !r.killed)
  | none => false

/-- Whether the boundary the context in issue stands at is a pre-emption point that R180 allows (R321). A fault that is due
there, or that the fetch of the next group meets, is taken first. -/
def preemptPoint (s : State) : Bool :=
  !s.me.sq.mid && (dueFault s).isNone && (fetchFault s).isNone && !s.me.fresh && !gangWaits s s.me &&
    (s.me.sq.loops.isEmpty || s.me.ctl.handler || s.me.stepped || heldAtWait s)

/-- Whether R180 delays the request to the context in issue at this boundary: no group has retired since the restore or, where
the point needs an iteration step, no iteration of the innermost loop is complete. -/
def delays (s : State) : Bool :=
  s.me.fresh || (s.me.freshIt && !s.me.sq.loops.isEmpty && !s.me.ctl.handler && !heldAtWait s)

/-- A boundary at which R180 delays a request counts the delay, once (R180). -/
def noteDelay (s : State) : State :=
  if s.me.preReq && !s.me.delayed && s.me.status = .running && delays s then
    modDie s.me.die (fun d => { d with slices := d.slices + 1 }) { s with me := { s.me with delayed := true } }
  else s

/-- Whether the tile and churn commands a context's engines have begun are complete (R322). -/
def engineIdle (c : Ctx) : Bool :=
  c.sq.cmds.all fun x => decide (x.op.engine ≥ 2) || !x.begun || (match x.op with | .arrival .. | .query .. => true | _ => false)

/-- The image is written and the context slot is free (R177, R322): a scheduling event of the thread (R175). -/
def finishSave (s : State) : State :=
  if engineIdle s.me then
    let s := schedEvent s
    let v := imageOf s s.me
    let t := writeImage v { s with fresh := s.fresh + 1 }
    { t with me := Ctx.reset, saved := t.saved ++ [v] }
  else s

/-- The context in issue is switched out: issue stops, and its image is written once its engines are idle. -/
def switchOut (s : State) : State :=
  match s.me.status with
  | .saving => finishSave s
  | .running => if s.me.preReq && preemptPoint s then finishSave { s with me := { s.me with status := .saving } } else s
  | _ => s

/-- PREEMPT_SAVE (R322). -/
def execPreemptSave (c : Nat) (s : State) : Out := .next (inTurn c switchOut s)

end Sys2Proof.Machine
end

