-- ==== Sys2Proof/Machine/Dispatch.lean ====
section
/-! DEFINITION. The dispatch of an instruction or a step of the opcode table to its meaning: one arm per constructor. -/

namespace Sys2Proof.Machine

/-- The meaning of every row of the opcode table. -/
def exec (i : Instr) (s : State) : Host.Outcome State Fault Refusal :=
  match i with
  | .nop => Sys2Proof.Machine.execNop s
  | .add d a b => Sys2Proof.Machine.execAdd d a b s
  | .sub d a b => Sys2Proof.Machine.execSub d a b s
  | .addi d a imm => Sys2Proof.Machine.execAddi d a imm s
  | .mul d a b => Sys2Proof.Machine.execMul d a b s
  | .mulh d a b => Sys2Proof.Machine.execMulh d a b s
  | .mulhl d a b => Sys2Proof.Machine.execMulhl d a b s
  | .divq d a b u => Sys2Proof.Machine.execDivq d a b u s
  | .remq d a b u => Sys2Proof.Machine.execRemq d a b u s
  | .and d a b => Sys2Proof.Machine.execAnd d a b s
  | .or d a b => Sys2Proof.Machine.execOr d a b s
  | .xor d a b => Sys2Proof.Machine.execXor d a b s
  | .andn d a b => Sys2Proof.Machine.execAndn d a b s
  | .andi d a imm => Sys2Proof.Machine.execAndi d a imm s
  | .ori d a imm => Sys2Proof.Machine.execOri d a imm s
  | .xori d a imm => Sys2Proof.Machine.execXori d a imm s
  | .shl d a b => Sys2Proof.Machine.execShl d a b s
  | .shr d a b => Sys2Proof.Machine.execShr d a b s
  | .sra d a b => Sys2Proof.Machine.execSra d a b s
  | .shli d a imm => Sys2Proof.Machine.execShli d a imm s
  | .shri d a imm => Sys2Proof.Machine.execShri d a imm s
  | .srai d a imm => Sys2Proof.Machine.execSrai d a imm s
  | .rotl d a b => Sys2Proof.Machine.execRotl d a b s
  | .min d a b => Sys2Proof.Machine.execMin d a b s
  | .max d a b => Sys2Proof.Machine.execMax d a b s
  | .minl d a b => Sys2Proof.Machine.execMinl d a b s
  | .maxl d a b => Sys2Proof.Machine.execMaxl d a b s
  | .clz d a => Sys2Proof.Machine.execClz d a s
  | .ctz d a => Sys2Proof.Machine.execCtz d a s
  | .popc d a => Sys2Proof.Machine.execPopc d a s
  | .bswap d a => Sys2Proof.Machine.execBswap d a s
  | .sext d a imm => Sys2Proof.Machine.execSext d a imm s
  | .zext d a imm => Sys2Proof.Machine.execZext d a imm s
  | .li d v sh => Sys2Proof.Machine.execLi d v sh s
  | .lih d v sh => Sys2Proof.Machine.execLih d v sh s
  | .mov d a => Sys2Proof.Machine.execMov d a s
  | .sel d a b q inv => Sys2Proof.Machine.execSel d a b q inv s
  | .addp d a b n => Sys2Proof.Machine.execAddp d a b n s
  | .cmp c q a b => Sys2Proof.Machine.execCmp c q a b s
  | .cmpi c q a imm => Sys2Proof.Machine.execCmpi c q a imm s
  | .pand d a b => Sys2Proof.Machine.execPand d a b s
  | .por d a b => Sys2Proof.Machine.execPor d a b s
  | .pxor d a b => Sys2Proof.Machine.execPxor d a b s
  | .pnot d a => Sys2Proof.Machine.execPnot d a s
  | .pmov d a => Sys2Proof.Machine.execPmov d a s
  | .pset d a n => Sys2Proof.Machine.execPset d a n s
  | .psetAll a => Sys2Proof.Machine.execPsetAll a s
  | .pget d => Sys2Proof.Machine.execPget d s
  | .br off => Sys2Proof.Machine.execBr off s
  | .jmp a => Sys2Proof.Machine.execJmp a s
  | .call off => Sys2Proof.Machine.execCall off s
  | .callr a => Sys2Proof.Machine.execCallr a s
  | .ret => Sys2Proof.Machine.execRet s
  | .loop body cnt => Sys2Proof.Machine.execLoop body cnt s
  | .loopReg body a => Sys2Proof.Machine.execLoopReg body a s
  | .lbrk => Sys2Proof.Machine.execLbrk s
  | .lidx d j => Sys2Proof.Machine.execLidx d j s
  | .lidxN d j => Sys2Proof.Machine.execLidxN d j s
  | .csrr d n => Sys2Proof.Machine.execCsrr d n s
  | .csrw n a => Sys2Proof.Machine.execCsrw n a s
  | .csrwSet n a => Sys2Proof.Machine.execCsrwSet n a s
  | .csrwClr n a => Sys2Proof.Machine.execCsrwClr n a s
  | .vadd d a b m z w rm => Sys2Proof.Machine.execVadd d a b m z w rm s
  | .vsub d a b m z w rm => Sys2Proof.Machine.execVsub d a b m z w rm s
  | .vmul d a b m z w rm => Sys2Proof.Machine.execVmul d a b m z w rm s
  | .vfma d a b m z rm => Sys2Proof.Machine.execVfma d a b m z rm s
  | .vfms d a b m z rm => Sys2Proof.Machine.execVfms d a b m z rm s
  | .vneg d a m z w => Sys2Proof.Machine.execVneg d a m z w s
  | .vabs d a m z w => Sys2Proof.Machine.execVabs d a m z w s
  | .vmin d a b m z => Sys2Proof.Machine.execVmin d a b m z s
  | .vmax d a b m z => Sys2Proof.Machine.execVmax d a b m z s
  | .vand d a b m z => Sys2Proof.Machine.execVand d a b m z s
  | .vor d a b m z => Sys2Proof.Machine.execVor d a b m z s
  | .vxor d a b m z => Sys2Proof.Machine.execVxor d a b m z s
  | .vshl d a b m z => Sys2Proof.Machine.execVshl d a b m z s
  | .vshr d a b m z => Sys2Proof.Machine.execVshr d a b m z s
  | .vsra d a b m z => Sys2Proof.Machine.execVsra d a b m z s
  | .vclamp d a b m z => Sys2Proof.Machine.execVclamp d a b m z s
  | .vsplat t d b m z => Sys2Proof.Machine.execVsplat t d b m z s
  | .vmovs b a j => Sys2Proof.Machine.execVmovs b a j s
  | .vins d a b j => Sys2Proof.Machine.execVins d a b j s
  | .vmov d a m z => Sys2Proof.Machine.execVmov d a m z s
  | .vsel d a b m => Sys2Proof.Machine.execVsel d a b m s
  | .vcmp c d a b m => Sys2Proof.Machine.execVcmp c d a b m s
  | .vcvt d a m t h w rm => Sys2Proof.Machine.execVcvt d a m t h w rm s
  | .vmaskN d a => Sys2Proof.Machine.execVmaskN d a s
  | .vmaskNz d a => Sys2Proof.Machine.execVmaskNz d a s
  | .vmaskQ d a q => Sys2Proof.Machine.execVmaskQ d a q s
  | .mand d a b => Sys2Proof.Machine.execMand d a b s
  | .mor d a b => Sys2Proof.Machine.execMor d a b s
  | .mxor d a b => Sys2Proof.Machine.execMxor d a b s
  | .mnot d a => Sys2Proof.Machine.execMnot d a s
  | .mcnt d a => Sys2Proof.Machine.execMcnt d a s
  | .mfirst d a => Sys2Proof.Machine.execMfirst d a s
  | .vrcp d a m z rm => Sys2Proof.Machine.execVrcp d a m z rm s
  | .vrsqrt d a m z rm => Sys2Proof.Machine.execVrsqrt d a m z rm s
  | .vsqrt d a m z rm => Sys2Proof.Machine.execVsqrt d a m z rm s
  | .vexp2 d a m z rm => Sys2Proof.Machine.execVexp2 d a m z rm s
  | .vlog2 d a m z rm => Sys2Proof.Machine.execVlog2 d a m z rm s
  | .vgetl d a m b g z => Sys2Proof.Machine.execVgetl d a m b g z s
  | .vputl d a b m g => Sys2Proof.Machine.execVputl d a b m g s
  | .vmovx d a b => Sys2Proof.Machine.execVmovx d a b s
  | .vstx d a b => Sys2Proof.Machine.execVstx d a b s
  | .vperm d a b m z => Sys2Proof.Machine.execVperm d a b m z s
  | .vrot d a b n m z => Sys2Proof.Machine.execVrot d a b n m z s
  | .vshuf d a b m pat g z => Sys2Proof.Machine.execVshuf d a b m pat g z s
  | .vbcast d a b n m z => Sys2Proof.Machine.execVbcast d a b n m z s
  | .vcomp d a m => Sys2Proof.Machine.execVcomp d a m s
  | .vexpd d a m z => Sys2Proof.Machine.execVexpd d a m z s
  | .vredadd d a m rm => Sys2Proof.Machine.execVredadd d a m rm s
  | .vredmax d a m => Sys2Proof.Machine.execVredmax d a m s
  | .vredmin d a m => Sys2Proof.Machine.execVredmin d a m s
  | .vargmax d a m => Sys2Proof.Machine.execVargmax d a m s
  | .vscan d a m op rm => Sys2Proof.Machine.execVscan d a m op rm s
  | .vpack d a b m z w rm => Sys2Proof.Machine.execVpack d a b m z w rm s
  | .vunpk d a m h z => Sys2Proof.Machine.execVunpk d a m h z s
  | .vblk d a sv m n x rm => Sys2Proof.Machine.execVblk d a sv m n x rm s
  | .vunblk d a m n fp32 z rm => Sys2Proof.Machine.execVunblk d a m n fp32 z rm s
  | .vwgin d a m z => Sys2Proof.Machine.execVwgin d a m z s
  | .vwgout d a m z => Sys2Proof.Machine.execVwgout d a m z s
  | .vwgfil d a m z => Sys2Proof.Machine.execVwgfil d a m z s
  | .lds d a imm sp sz u => Sys2Proof.Machine.execLds d a imm sp sz u s
  | .sts d a imm sp sz => Sys2Proof.Machine.execSts d a imm sp sz s
  | .ldv d a imm sp t => Sys2Proof.Machine.execLdv d a imm sp t s
  | .stv d a imm sp t => Sys2Proof.Machine.execStv d a imm sp t s
  | .ldvs d a b m sp t z => Sys2Proof.Machine.execLdvs d a b m sp t z s
  | .stvs d a b m sp t => Sys2Proof.Machine.execStvs d a b m sp t s
  | .ldvx d a x m sp t sc u z => Sys2Proof.Machine.execLdvx d a x m sp t sc u z s
  | .stvx d a x m sp t sc u => Sys2Proof.Machine.execStvx d a x m sp t sc u s
  | .pfh a imm n => Sys2Proof.Machine.execPfh a imm n s
  | .stc d a n t => Sys2Proof.Machine.execStc d a n t s
  | .ldc d a imm sp sz u => Sys2Proof.Machine.execLdc d a imm sp sz u s
  | .ldvc d a imm sp t => Sys2Proof.Machine.execLdvc d a imm sp t s
  | .rcq d a imm sp => Sys2Proof.Machine.execRcq d a imm sp s
  | .aadd d a b sp q => Sys2Proof.Machine.execAadd d a b sp q s
  | .amin d a b sp q u => Sys2Proof.Machine.execAmin d a b sp q u s
  | .amax d a b sp q u => Sys2Proof.Machine.execAmax d a b sp q u s
  | .aand d a b sp q => Sys2Proof.Machine.execAand d a b sp q s
  | .aor d a b sp q => Sys2Proof.Machine.execAor d a b sp q s
  | .axor d a b sp q => Sys2Proof.Machine.execAxor d a b sp q s
  | .aswp d a b sp q => Sys2Proof.Machine.execAswp d a b sp q s
  | .acas d a b c sp q => Sys2Proof.Machine.execAcas d a b c sp q s
  | .brel a b => Sys2Proof.Machine.execBrel a b s
  | .brelP a b => Sys2Proof.Machine.execBrelP a b s
  | .bwait a b => Sys2Proof.Machine.execBwait a b s
  | .pdef n a => Sys2Proof.Machine.execPdef n a s
  | .pdefRel n => Sys2Proof.Machine.execPdefRel n s
  | .wset a b => Sys2Proof.Machine.execWset a b s
  | .wsetInv a => Sys2Proof.Machine.execWsetInv a s
  | .ldw d h a sz => Sys2Proof.Machine.execLdw d h a sz s
  | .ldwVec d h a t => Sys2Proof.Machine.execLdwVec d h a t s
  | .stw d h a sz => Sys2Proof.Machine.execStw d h a sz s
  | .stwVec d h a t => Sys2Proof.Machine.execStwVec d h a t s
  | .fencex => Sys2Proof.Machine.execFencex s
  | .tcfg t a => Sys2Proof.Machine.execTcfg t a s
  | .tcfgqVer b t => Sys2Proof.Machine.execTcfgqVer b t s
  | .tcfgqSt b t => Sys2Proof.Machine.execTcfgqSt b t s
  | .tcfgqTag b => Sys2Proof.Machine.execTcfgqTag b s
  | .tcfgqSep b => Sys2Proof.Machine.execTcfgqSep b s
  | .tzero t => Sys2Proof.Machine.execTzero t s
  | .mset mp a => Sys2Proof.Machine.execMset mp a s
  | .mord mp a b => Sys2Proof.Machine.execMord mp a b s
  | .tld t mp a b c k => Sys2Proof.Machine.execTld t mp a b c k s
  | .tst t mp a b n k => Sys2Proof.Machine.execTst t mp a b n k s
  | .tldv t v a n => Sys2Proof.Machine.execTldv t v a n s
  | .tstv t v a n => Sys2Proof.Machine.execTstv t v a n s
  | .tmc mp a b m u c k => Sys2Proof.Machine.execTmc mp a b m u c k s
  | .trecv t k n => Sys2Proof.Machine.execTrecv t k n s
  | .trecvRel n => Sys2Proof.Machine.execTrecvRel n s
  | .tcons t n => Sys2Proof.Machine.execTcons t n s
  | .dtab n a => Sys2Proof.Machine.execDtab n a s
  | .tldz t a b g k => Sys2Proof.Machine.execTldz t a b g k s
  | .wait l st c t => Sys2Proof.Machine.execWait l st c t s
  | .mma n t u a z w ca cb ua ub => Sys2Proof.Machine.execMma n t u a z w ca cb ua ub s
  | .mmzI32 n => Sys2Proof.Machine.execMmzI32 n s
  | .mmzFp32 n => Sys2Proof.Machine.execMmzFp32 n s
  | .mmdr t n a bv x act q z => Sys2Proof.Machine.execMmdr t n a bv x act q z s
  | .qld n qb st a => Sys2Proof.Machine.execQld n qb st a s
  | .qldBind n qb st a t => Sys2Proof.Machine.execQldBind n qb st a t s
  | .qst n qb st a => Sys2Proof.Machine.execQst n qb st a s
  | .esetRng a => Sys2Proof.Machine.execEsetRng a s
  | .esetQ a => Sys2Proof.Machine.execEsetQ a s
  | .etab a => Sys2Proof.Machine.execEtab a s
  | .lset n a => Sys2Proof.Machine.execLset n a s
  | .lcoord b n q => Sys2Proof.Machine.execLcoord b n q s
  | .lnbr b n ax dir => Sys2Proof.Machine.execLnbr b n ax dir s
  | .hsend n ax dir k => Sys2Proof.Machine.execHsend n ax dir k s
  | .hrecv n k => Sys2Proof.Machine.execHrecv n k s
  | .hrecvRel n => Sys2Proof.Machine.execHrecvRel n s
  | .reshard d n k => Sys2Proof.Machine.execReshard d n k s
  | .cred a b k => Sys2Proof.Machine.execCred a b k s
  | .credCh a b c k => Sys2Proof.Machine.execCredCh a b c k s
  | .chset c a => Sys2Proof.Machine.execChset c a s
  | .chsetRel c => Sys2Proof.Machine.execChsetRel c s
  | .chsend c v => Sys2Proof.Machine.execChsend c v s
  | .chrecv v c => Sys2Proof.Machine.execChrecv v c s
  | .tid d => Sys2Proof.Machine.execTid d s
  | .tcount d => Sys2Proof.Machine.execTcount d s
  | .join d a b => Sys2Proof.Machine.execJoin d a b s
  | .leave a => Sys2Proof.Machine.execLeave a s
  | .grank d a => Sys2Proof.Machine.execGrank d a s
  | .gsize d a => Sys2Proof.Machine.execGsize d a s
  | .gsizeJ d a => Sys2Proof.Machine.execGsizeJ d a s
  | .exit => Sys2Proof.Machine.execExit s
  | .yield => Sys2Proof.Machine.execYield s
  | .trig => Sys2Proof.Machine.execTrig s
  | .launch d a b => Sys2Proof.Machine.execLaunch d a b s
  | .prio d a n r => Sys2Proof.Machine.execPrio d a n r s
  | .prioAll d a n r => Sys2Proof.Machine.execPrioAll d a n r s
  | .kset k a => Sys2Proof.Machine.execKset k a s
  | .ksetClr k => Sys2Proof.Machine.execKsetClr k s
  | .kmodeOn k => Sys2Proof.Machine.execKmodeOn k s
  | .kmodeOff k => Sys2Proof.Machine.execKmodeOff k s
  | .kadd k a imm => Sys2Proof.Machine.execKadd k a imm s
  | .kaddr k d a imm => Sys2Proof.Machine.execKaddr k d a imm s
  | .kwait k a imm => Sys2Proof.Machine.execKwait k a imm s
  | .kread k d => Sys2Proof.Machine.execKread k d s
  | .bar a => Sys2Proof.Machine.execBar a s
  | .barA d a => Sys2Proof.Machine.execBarA d a s
  | .barW a b => Sys2Proof.Machine.execBarW a b s
  | .wfown k d => Sys2Proof.Machine.execWfown k d s
  | .wfownT k d a => Sys2Proof.Machine.execWfownT k d a s
  | .wfownG k d a => Sys2Proof.Machine.execWfownG k d a s
  | .wfownE k d a => Sys2Proof.Machine.execWfownE k d a s
  | .wfownR k d a => Sys2Proof.Machine.execWfownR k d a s
  | .wfdrop k => Sys2Proof.Machine.execWfdrop k s
  | .wfdropAll k => Sys2Proof.Machine.execWfdropAll k s
  | .wfqW k d => Sys2Proof.Machine.execWfqW k d s
  | .wfqO k d => Sys2Proof.Machine.execWfqO k d s
  | .wfqF d => Sys2Proof.Machine.execWfqF d s
  | .kaddw a imm => Sys2Proof.Machine.execKaddw a imm s
  | .trap imm => Sys2Proof.Machine.execTrap imm s
  | .xret => Sys2Proof.Machine.execXret s
  | .tlbi a => Sys2Proof.Machine.execTlbi a s
  | .tlbiAll => Sys2Proof.Machine.execTlbiAll s
  | .ctxsv a => Sys2Proof.Machine.execCtxsv a s
  | .ctxld a b => Sys2Proof.Machine.execCtxld a b s
  | .dload a b => Sys2Proof.Machine.execDload a b s
  | .fixedResultLands c => Sys2Proof.Machine.execFixedResultLands c s
  | .pendingResultArrives c op ok => Sys2Proof.Machine.execPendingResultArrives c op ok s
  | .storePerformed c op ok => Sys2Proof.Machine.execStorePerformed c op ok s
  | .arriveAdd c addr => Sys2Proof.Machine.execArriveAdd c addr s
  | .wakeToken c entry order => Sys2Proof.Machine.execWakeToken c entry order s
  | .unregisteredWaitPoll c => Sys2Proof.Machine.execUnregisteredWaitPoll c s
  | .dispatchDeadlockCheck die => Sys2Proof.Machine.execDispatchDeadlockCheck die s
  | .trapEntry c f => Sys2Proof.Machine.execTrapEntry c f s
  | .trigRetire c => Sys2Proof.Machine.execTrigRetire c s
  | .threadRetire c => Sys2Proof.Machine.execThreadRetire c s
  | .dispatchSelect die core hctx fb tb => Sys2Proof.Machine.execDispatchSelect die core hctx fb tb s
  | .bind die entry => Sys2Proof.Machine.execBind die entry s
  | .sliceExpiry c => Sys2Proof.Machine.execSliceExpiry c s
  | .preemptSave c => Sys2Proof.Machine.execPreemptSave c s
  | .watchdogT1 lnch tid => Sys2Proof.Machine.execWatchdogT1 lnch tid s
  | .watchdogT2 lnch tid => Sys2Proof.Machine.execWatchdogT2 lnch tid s
  | .watchdogT3 c => Sys2Proof.Machine.execWatchdogT3 c s
  | .killDrainComplete c => Sys2Proof.Machine.execKillDrainComplete c s
  | .engineCommandExecute c tag => Sys2Proof.Machine.execEngineCommandExecute c tag s
  | .engineCommandComplete c tag => Sys2Proof.Machine.execEngineCommandComplete c tag s
  | .multicastReservation c tag => Sys2Proof.Machine.execMulticastReservation c tag s
  | .multicastArrival c tag => Sys2Proof.Machine.execMulticastArrival c tag s
  | .ladleArrival c tag => Sys2Proof.Machine.execLadleArrival c tag s
  | .reshardArrival c tag => Sys2Proof.Machine.execReshardArrival c tag s
  | .creameryReduction lnch key j => Sys2Proof.Machine.execCreameryReduction lnch key j s
  | .reductionDelivery lnch key j => Sys2Proof.Machine.execReductionDelivery lnch key j s
  | .channelItemWrite lnch ch => Sys2Proof.Machine.execChannelItemWrite lnch ch s
  | .channelItemRead lnch ch => Sys2Proof.Machine.execChannelItemRead lnch ch s
  | .pailCounterAdd die entry => Sys2Proof.Machine.execPailCounterAdd die entry s
  | .remoteRequestArrives q => Sys2Proof.Machine.execRemoteRequestArrives q s
  | .acknowledgementArrives op data => Sys2Proof.Machine.execAcknowledgementArrives op data s
  | .receiverNotReady op => Sys2Proof.Machine.execReceiverNotReady op s
  | .retryBackoffExpiry op => Sys2Proof.Machine.execRetryBackoffExpiry op s
  | .errorAnswer op cause e => Sys2Proof.Machine.execErrorAnswer op cause e s
  | .relayForward q => Sys2Proof.Machine.execRelayForward q s
  | .drainMarker m => Sys2Proof.Machine.execDrainMarker m s
  | .peerUnreachable m => Sys2Proof.Machine.execPeerUnreachable m s
  | .rotorSlotStart port => Sys2Proof.Machine.execRotorSlotStart port s
  | .portLocked port => Sys2Proof.Machine.execPortLocked port s
  | .portLockTimeout port tx rx => Sys2Proof.Machine.execPortLockTimeout port tx rx s
  | .quiesceDone port => Sys2Proof.Machine.execQuiesceDone port s
  | .wavelengthFailure port tx rx => Sys2Proof.Machine.execWavelengthFailure port tx rx s
  | .opcfgWrite port x => Sys2Proof.Machine.execOpcfgWrite port x s
  | .dmcfgWrite die x => Sys2Proof.Machine.execDmcfgWrite die x s
  | .vatwWrite die x => Sys2Proof.Machine.execVatwWrite die x s
  | .qmapMap die q x => Sys2Proof.Machine.execQmapMap die q x s
  | .qmapUnmap die q => Sys2Proof.Machine.execQmapUnmap die q s
  | .managementRegisterWrite addr x => Sys2Proof.Machine.execManagementRegisterWrite addr x s
  | .mread port pa n => Sys2Proof.Machine.execMread port pa n s
  | .mwrite port pa data => Sys2Proof.Machine.execMwrite port pa data s
  | .append port hdr rcd => Sys2Proof.Machine.execAppend port hdr rcd s
  | .notify die q x => Sys2Proof.Machine.execNotify die q x s
  | .cread port addr => Sys2Proof.Machine.execCread port addr s
  | .cwrite port addr x => Sys2Proof.Machine.execCwrite port addr x s
  | .measure port nonce => Sys2Proof.Machine.execMeasure port nonce s
  | .records port => Sys2Proof.Machine.execRecords port s
  | .recordsLostReport src => Sys2Proof.Machine.execRecordsLostReport src s
  | .moduleReset => Sys2Proof.Machine.execModuleReset s
  | .securityAlarm => Sys2Proof.Machine.execSecurityAlarm s
  | .thermalThrottle die => Sys2Proof.Machine.execThermalThrottle die s
  | .thermalTrip die => Sys2Proof.Machine.execThermalTrip die s
  | .i2cResetRequest x => Sys2Proof.Machine.execI2cResetRequest x s
  | .fencedCoreRestore die core => Sys2Proof.Machine.execFencedCoreRestore die core s

end Sys2Proof.Machine
end

