-- ==== Sys2Proof/Machine/Turn.lean ====
section
/-! DEFINITION. What one step of the module does: a slot of the group in issue, the boundary before a group, and what the
hardware does of its own accord when no group can issue (assumption log 3). -/

namespace Sys2Proof.Machine

/-- The state after an answer that is a next state, changed by `f`. -/
def thenDo (f : State → State) (o : Out) : Out :=
  match o with
  | .next s => .next (f s)
  | .fault r => .fault r
  | .refused r => .refused r

/-- Time passes (R25): one aclk and as many more as the machine takes. -/
def tick (s : State) : State := { s with clk := s.clk + 1 + Config.clkGap s.clk }

/-! ### What the hardware may do unasked -/

/-- A step of the hardware on its operands. -/
abbrev HwStep := State → Out

/-- Results that can land and stores that can be performed, in the order of their operations. -/
def opEvents (u : Nat) (q : Seq) : List HwStep :=
  let ps := (q.pends.filter (·.ready)).map fun p => (p.id, execPendingResultArrives u p.id true)
  let os := (q.stores.filter (·.ready)).map fun o => (o.id, execStorePerformed u o.id true)
  ((ps ++ os).foldr (fun x m => insAt m x.1 x.2) []).map (·.2)

/-- Steps of the hardware that a context's operations wait for. -/
def ctxEvents (s : State) (c : Ctx) : List HwStep :=
  let u := c.uid
  c.sq.owed.map (execArriveAdd u) ++
    opEvents u c.sq ++
    (c.sq.cmds.flatMap fun x =>
      [execEngineCommandComplete u x.tag, execEngineCommandExecute u x.tag, execMulticastReservation u x.tag,
       execMulticastArrival u x.tag, execLadleArrival u x.tag] ++ if fwRuns s 1 then [execReshardArrival u x.tag] else []) ++
    (if c.trigs.isEmpty then [] else [execTrigRetire u]) ++
    match c.status with
    | .retiring => [execThreadRetire u]
    | .killing => [execKillDrainComplete u]
    | .saving => [execPreemptSave u]
    | _ => []

/-- Steps of the hardware that belong to a die. -/
def dieEvents (s : State) (d : Nat) : List HwStep :=
  let x := dieOf s d
  ((x.pails.filter fun p => !p.owedF.isEmpty || !p.owedE.isEmpty).map fun p => execPailCounterAdd d p.entry) ++
    (if fwRuns s 0 then x.binds.map fun r => execBind d r.entry else []) ++
    ((x.binds.filter (·.killed)).map fun r => execKillDrainComplete (2 ^ 24 * r.lnch + r.tid)) ++
    (if x.walks.isEmpty || !fwRuns s 0 then [] else [execDispatchDeadlockCheck d]) ++
    (if x.errLost = 0 then [] else [execRecordsLostReport d]) ++
    (if fwRuns s 0 && !s.saved.isEmpty || fwRuns s 0 && s.dies.toList.any (fun y => y.q.toList.any (·.mapped)) then [execDispatchSelect d 0 0 0 0] else [])

/-- The steps of the hardware that may be due, in the order they are tried. -/
def dueEvents (s : State) : List HwStep :=
  s.tokens.map (fun (c, e, n) => execWakeToken c e n) ++
    ((bound s).flatMap (ctxEvents s)) ++ (s.saved.flatMap fun v => ctxEvents s v.ctx) ++
    (if fwRuns s 1 then
      (s.reductions.flatMap fun r => [execCreameryReduction r.lnch r.key r.j, execReductionDelivery r.lnch r.key r.j]) ++
        s.chans.flatMap fun c => [execChannelItemWrite c.lnch c.ch, execChannelItemRead c.lnch c.ch]
     else []) ++
    ((List.range 8).flatMap (dieEvents s)) ++ (if s.sys.crLost = 0 then [] else [execRecordsLostReport 8])

/-- The state after a step of the hardware, if it changes anything. -/
def tryEvent (s : State) (f : HwStep) : Option State :=
  match f s with
  | .next t => if t = s then none else some t
  | _ => none

/-- What the hardware does next of its own accord: the boot, a step that is due, or sending the error stream. -/
def ownAction (s : State) : Option State :=
  if !s.sys.booted then some (boot s)
  else match (dueEvents s).findSome? (tryEvent s) with
    | some t => some t
    | none => if sendRecords s = s then none else some (sendRecords s)

/-- The next running context takes the turn (R151). -/
def rotate (s : State) : State :=
  match s.others.find? fun c => c.status = .running with
  | some c => giveTurn c.uid s
  | none => s

/-- An interval passes in which nothing happens: unregistered waits are polled (R201), and another context has the turn. -/
def passTime (s : State) : State :=
  let p := fun (c : Ctx) => { c with wt := { c.wt with again := c.wt.again || c.wt.unregistered } }
  rotate { s with me := p s.me, others := s.others.map p }

/-- What a halted module still does (R394, R397, R398): records lost are reported, and the error stream is sent. -/
def haltedAction (s : State) : State :=
  ((((List.range 9).filter fun d => if d < 8 then (dieOf s d).errLost ≠ 0 else s.sys.crLost ≠ 0).map execRecordsLostReport).findSome?
    (tryEvent s)).getD (sendRecords s)

/-- No group of the context in issue can issue: the hardware acts. -/
def idle (s : State) : State := if halted s then haltedAction s else (ownAction s).getD (passTime s)

/-! ### The agenda (assumption log 3) -/

/-- Translations a TLB holds at most (R319): a core's, a die's. -/
def tlbSize (core : Option Nat) : Nat := if core.isSome then 256 else 16384

/-- Whether a TLB entry belongs to the TLB of a core of a die, or of the die. -/
def TlbEntry.ofTlb (t : TlbEntry) (die : Nat) (core : Option Nat) : Bool := t.die = die && t.core = core

/-- The TLB of a core, or of a die, takes up a translation on its own, if it has room (R319). -/
def tlbFill (die : Nat) (core : Option Nat) (world : Bool) (va : Nat) (s : State) : State :=
  let a := BitVec.ofNat 64 va
  let r := rootOf s die world
  let mine := s.tlb.filter fun t => t.ofTlb die core
  if (tlbHit s ⟨die, core⟩ world a).isSome || mine.length ≥ tlbSize core || !canonical a || !bit r 63 then s
  else match walkFrom s.hbm .read a 3 (bits r 12 27 * 4096) with
    | .error _ => s
    | .ok (l, e) =>
      let sz := leafSize l e
      { s with tlb := s.tlb ++ [{ die, core, world, va := va % 2 ^ 57 / sz * sz, size := sz, level := l, raw := e }] }

/-- A home slice writes a line back or drops it (R219, R232). DESIGN CHOICE (assumption log 94): a line it holds with a count is never
replaced. -/
def evictLine (line : Nat) (s : State) : State :=
  match getAt .absent s.home line with
  | .counted _ => s
  | _ => { s with home := setAt .absent s.home line .absent }

/-- One thing given on the agenda happens. Only steps of the hardware are given so, no instruction. -/
def act (a : Act) (s : State) : Out :=
  match a with
  | .ev i => if (encodeParts i).isNone && (firmwareOf i).all (fwRuns s) then exec i s else .next s
  | .turn c => .next (giveTurn c s)
  | .tlbFill d c w va => .next (tlbFill d c w va s)
  | .tlbDrop d c va => .next { s with tlb := s.tlb.filter fun t => !(t.ofTlb d c && decide (t.va ≤ va) && decide (va < t.va + t.size)) }
  | .lineEvict l => .next (evictLine l s)
  | .eccStore l => .next { s with badStore := if s.badStore.contains l then s.badStore else s.badStore ++ [l] }
  | .eccHbm l => .next { s with badHbm := if s.badHbm.contains l then s.badHbm else s.badHbm ++ [l] }
  | .winDrop d h => .next { s with fab := { s.fab with wins := s.fab.wins.filter fun w => !(w.die = d && w.h = h) } }
  | .amid a => act a s
  | .cut _ => .next s

/-! ### Issue -/

/-- What slots of a group do at its boundary, in order (R154, R181). -/
def lateActs (ls : List Late) (s : State) : State :=
  ls.foldl (fun s x => match x with
    | .yield => sliceEnds s.me.uid s
    | .prio all p => setPrio all p s) s

/-- The group has issued whole: its boundary comes, and what its slots do there is done. -/
def closeGroup (s : State) : State := lateActs s.me.sq.late (endGroup (modSq (fun q => { q with late := [] }) s))

/-- After a slot: it or the group goes on, or its boundary comes and another context has the turn (R46, R151, R243). -/
def afterExec (s : State) : State :=
  if s.me.sq.diverted then modSq (fun q => { q with diverted := false }) { s with me := settleTags s.me }
  else if s.me.sq.mid then s
  else rotate (closeGroup s)

/-- A deadlock found for the pending register of a `chrecv` is raised at the first slot of the group that names it, whether or
not the slot executes (R359). -/
def deadSlot (s : State) (r : SlotRef) : Option FaultInfo :=
  s.me.wt.dead.filter fun f => (slotReads r.word ++ slotWrites r.word).any fun x => match x with
    | .v d => s.me.sq.pends.any fun p => p.upd.vecs.contains d &&
        (recvOf s s.me.uid p.id).any fun y => BitVec.ofNat 64 y.2.1.fillc = f.addr
    | _ => false

/-- The fault that the slot in issue takes before its instruction acts: its footprint (R18), its arrive handle (R39). -/
def slotFault (s : State) (r : SlotRef) (i : Instr) : Option FaultInfo :=
  firstFault [footCheck s.me i, arriveCheck s (slotHdr r.word)]

/-- One slot of the group in issue (R37, R39, R46). -/
def runSlot (r : SlotRef) (rest : List SlotRef) (s : State) : Out :=
  let s := issueSlot r rest s
  if slotOff r.word then .next (afterExec s)
  else match decodeSlot r.word with
    | none => .fault .illegalQueue
    | some i =>
      let h := slotHdr r.word
      match deadSlot s r with
      | some f => .next (afterExec (raise f s))
      | none =>
        if !guardHolds s h then .next (afterExec s)
        else match slotFault s r i with
          | some f => .next (afterExec (raise f s))
          | none => thenDo afterExec (exec i (setArrive (arriveOf s h) s))

/-- The next slot of the queue. -/
def runQueue (s : State) : Out :=
  match s.me.sq.queue with
  | [] => .next (afterExec s)
  | r :: rest => runSlot r rest s

/-- The group at `next` is fetched and examined, and issues unless it is held (R46, R52). -/
def beginGroup (s : State) : Out :=
  match fetchGroup s s.me.sq.next with
  | .error f => .next (trapFetch f s)
  | .ok g =>
    match lookGroup g s with
    | (t, .held _) => .next (idle t)
    | (t, .free) => runQueue (startGroup t.me.sq.next g (waitOver t))
    | (t, .faults) => runQueue (startGroup t.me.sq.next g t)

/-- The first pail add that is due is made (R239): one operation (R243). -/
def pailTurn (s : State) : Option State :=
  ((List.range 8).flatMap fun d => ((dieOf s d).pails.filter fun p => !p.owedF.isEmpty || !p.owedE.isEmpty).map fun p =>
    execPailCounterAdd d p.entry).findSome? (tryEvent s)

/-- What the hardware does between two groups (assumption log 3): the pail adds that are due, one after another, and then at every
eighth group one thing of those due. -/
def ownTurn (s : State) : Option State :=
  if s.me.sq.passed then none
  else match pailTurn s with
    | some t => some t
    | none => if s.me.sq.group % 8 = 0 then ownAction (modSq (fun q => { q with passed := true }) s) else none

/-- The boundary before a group (R305, R321). -/
def boundary (s : State) : Out :=
  if halted s || s.me.status ≠ .running then .next (idle s)
  else match s.me.sq.owed with
  | a :: _ => .next (payOwed s.me.uid a s)
  | [] => match dueFault s with
    | some f => .next (deliver f s)
    | none =>
      if s.me.preReq && preemptPoint s then .next (switchOut s)
      else
        let s := noteDelay s
        match ownTurn s with
        | some t => .next t
        | none => beginGroup s

/-- The slot in issue goes on with its operations (R243). -/
def resume (r : SlotRest) (s : State) : State := afterExec (goOn r (modSq (fun q => { q with rest := none }) s))

/-- What the agenda gives that may come between two slots of a group: other agents' operations may fall there (R242). -/
def amidGroup (s : State) : Option Act :=
  match s.agenda with
  | .amid a :: _ => some a
  | _ => none

/-- A context whose slot still has operations to do does them first. -/
def goFirst (u : Nat) (s : State) : State :=
  if s.me.uid = u then (match s.me.sq.rest with | some r => resume r s | none => s) else giveTurn u s

/-- Whether a step that leads to `t` would undo the checks of what a slot of context `c` still has to do. -/
def undoes (t : State) (c : Ctx) : Bool := c.sq.rest.isSome && (findCtx c.uid t).any fun d => !restHolds t d

/-- A step that would take from a cut slot's accesses what their checks have found, a bank or the state of a line, waits until those
accesses are performed (R220, R229, R243). -/
def givesWay (cs : List Ctx) (o : Out) (s : State) : Out :=
  match o with
  | .next t => (match cs.find? (undoes t) with | some c => .next (goFirst c.uid s) | none => .next t)
  | o => o

/-- What happens in one step, time apart. -/
def turn (s : State) : Out :=
  match amidGroup s with
  | some a => givesWay (s.me :: s.others) (act a { s with agenda := s.agenda.drop 1 }) s
  | none => givesWay s.others (
    match s.me.sq.rest, s.me.sq.queue with
    | some r, _ => .next (resume r s)
    | none, r :: rest => runSlot r rest s
    | none, [] =>
      match s.agenda with
      | .cut _ :: _ => boundary s
      | a :: rest => act a { s with agenda := rest }
      | [] => boundary s) s

/-! ### Placing an instruction where the fetch finds it -/

/-- The 50 bytes of a literal bundle of six slots (R29, R30). -/
def literalBytes (slots : List Nat) : List Byte := leBytes 2 0xFFFF ++ slots.flatMap (leBytes 8)

/-- The bundle that holds one instruction: it stands in slot 0, and a nop in slot 5 ends the group. -/
def oneInstr (w : Nat) : List Byte := literalBytes [w % 2 ^ 64, 0, 0, 0, 0, 2 ^ 63]

/-- Where an instruction is placed: where the next group starts, unless the bundle would cross a page there. -/
def placePc (s : State) : Word :=
  let p := s.me.sq.next.pc
  if canonical p && p.toNat % 2 ^ 16 ≤ 2 ^ 16 - 50 then p else 0

/-- A page mapped to the physical addresses of its low 39 VA bits: R, W and X (R317). -/
def placePage (die core : Nat) (world : Bool) (p : Word) : TlbEntry :=
  { die, core := some core, world, va := p.toNat % 2 ^ 57 / 2 ^ 16 * 2 ^ 16, size := 2 ^ 16, level := 0
    raw := BitVec.ofNat 64 (p.toNat % 2 ^ 39 / 2 ^ 16 * 2 ^ 16 + 2 ^ 7 + 2 ^ 6 + 2 ^ 5 + 2 ^ 4 + 1) }

/-- The context in issue stands at a group boundary, runs, and waits for nothing. -/
def readyCtx (p : Word) (c : Ctx) : Ctx :=
  { c with
    status := .running, preReq := false, wt := Waiting.reset
    sq := { c.sq with
      next := ⟨p, 0⟩, queue := [], rest := none, faults := [], owed := [], passed := true, diverted := false, pends := []
      stores := c.sq.stores.filter fun o => !o.kind.gates } }

/-- An instruction stands where the next group is fetched, and nothing keeps that group from issuing. -/
def placeInstr (w : Nat) (s : State) : State :=
  let p := placePc s
  let pa := p.toNat % 2 ^ 39
  { s with
    me := readyCtx p s.me
    others := s.others.map fun c => { c with sq := { c.sq with rest := none } }
    hbm := writeN s.hbm pa (oneInstr w)
    tlb := placePage s.me.die s.me.core s.me.world p :: s.tlb
    fab := { s.fab with outs := s.fab.outs.filter (fun o => !o.waits), regions := if regionSecure s pa then [] else s.fab.regions }
    dies := if (lineStarts pa 50).any (homeSecure s) then s.dies.map (fun d => { d with vatw := 0 }) else s.dies
    sys := { s.sys with alarm := false, tripped := false }
    agenda := [] }

end Sys2Proof.Machine
end

