-- ==== Sys2Proof/Machine/Step.lean ====
section
/-! DEFINITION. One step of the module, and the placing of one instruction where it is fetched. -/

namespace Sys2Proof.Machine

/-- One step: a slot issues, or what stands on the agenda happens, or a boundary is passed; then the ports send what may go,
what the step changed in saved threads lands in their images, and time passes. -/
def step (s : State) : Host.Outcome State Fault Refusal := thenDo (fun t => tick (keepImages s (pump t))) (turn s)

/-- The state with one instruction as the next group (assumption log 4). -/
def State.withFetchWord (s : State) (_nbits w : Nat) : State := placeInstr w s

end Sys2Proof.Machine
end

