-- ==== Sys2Proof/Safety.lean ====
section
/-! DEFINITION. What claims call canonical memory, a tidy state, a legal queue and a safe step. -/

namespace Sys2Proof.Machine

/-- The canonical form of a sparse map: keys strictly rising, no entry equal to the default. -/
def SMap.canon {α : Type} [DecidableEq α] (d : α) (m : SMap α) : Bool :=
  decide (m.Pairwise fun x y => x.1 < y.1) && m.all fun x => x.2 ≠ d

/-- The canonical form of a memory: addresses strictly rising, no zero byte listed. -/
def Memory.wf (m : List Host.Cell) : Bool := SMap.canon (0 : Byte) m

/-- Every memory and every map that stands for one is in its canonical form: HBM, the die stores, the states of store and
home lines, the owners and last worlds of banks. -/
def State.Tidy (s : State) : Prop :=
  Memory.wf s.hbm = true ∧ Memory.wf s.store = true ∧ SMap.canon .uncounted s.lines = true ∧
    SMap.canon .absent s.home = true ∧ SMap.canon 0 s.banks = true ∧ SMap.canon false s.bankWorld = true

/-- A slot that is off or legal (R35, R37). -/
def LegalSlot (w : Nat) : Prop := slotOff w = true ∨ (decodeSlot w).isSome = true

/-- Every slot that waits in the queue of a context, on a core or not, and every slot of a loaded dictionary, is off or legal: R33,
R35 and R52 check them where they are loaded and fetched. -/
def State.QueueLegal (s : State) : Prop :=
  (∀ c ∈ s.me :: s.others ++ s.left ++ s.saved.map (·.ctx), ∀ r ∈ c.sq.queue, LegalSlot r.word) ∧
    ∀ k ∈ s.cores, ∀ d ∈ k.2.dicts, ∀ b ∈ d.entries, ∀ w ∈ slotsOfBits b, LegalSlot w

/-- An answer that is a next state. -/
def Completes (o : Out) : Prop := ∃ t, o = .next t

/-- An answer is a next state for which `P` holds, if it is one at all. -/
def IfNext (P : State → Prop) (o : Out) : Prop := ∀ t, o = .next t → P t

/-- The state with one more result in flight: it lands before the group `lat` after the one in issue (R48), with the arrive
suffix of the slot (R39). Nothing else differs. -/
def withFlight (lat : Nat) (u : Upd) (fl : Flags) (arr : Option Nat) (ft : Option FaultInfo) (s : State) : State :=
  { s with me := { s.me with sq := { s.me.sq with
      flights := s.me.sq.flights ++ [{ id := s.ids, due := s.me.sq.group + lat, upd := u, flags := fl, arrive := arr, fault := ft }] } } }

/-- An answer whose whole effect is one fixed-latency result, with the flags it raises. -/
def Emits (lat : Nat) (u : Upd) (fl : Flags) (s : State) (o : Out) : Prop :=
  o = .next (withFlight lat u fl s.me.sq.arrive none s)

/-- An answer whose whole effect is a fixed-latency write of a scalar register. -/
def WritesS (lat : Nat) (d : SReg) (v : Word) (s : State) (o : Out) : Prop := Emits lat (.s d v) 0 s o

/-- An answer whose whole effect is a write of a vector register under a tag, `lat` groups later: lane `i` becomes
`val i old`, whatever the register holds when the result lands. -/
def WritesV (lat : Nat) (d : VReg) (t : Tag) (fl : Flags) (val : Nat → Nat → Nat) (s : State) (o : Out) : Prop :=
  ∃ data mask, Emits lat (.v d data mask (some t)) fl s o ∧ ∀ g : Regs,
    (applyReg (.v d data mask (some t)) g).v[d].tag = t ∧ (∀ r : VReg, r ≠ d → (applyReg (.v d data mask (some t)) g).v[r] = g.v[r]) ∧
      ∀ i < lanes t, laneBits (applyReg (.v d data mask (some t)) g).v[d].bits (laneW t) i = val i (laneBits g.v[d].bits (laneW t) i)

/-- The union of the flags of the lanes that are on (R76). -/
def unionFlags (n : Nat) (on : Nat → Bool) (g : Nat → Flags) : Flags := orFlags ((List.range n).map fun i => if on i then g i else 0)

/-- What a lane becomes under a write mask (R108): its result where enabled, else zero or what it was. -/
def masked (m : BitVec 1024) (z : Bool) (f : Nat → Nat) (i old : Nat) : Nat := if m.getLsbD i then f i else if z then 0 else old

/-- The state with one more variable-latency result outstanding (R49). Nothing else differs but the identity counter. -/
def withPend (u : Upd) (ready cls : Bool) (ft : Option FaultInfo) (addr : Option Word) (s : State) : State :=
  { s with
    ids := s.ids + 1
    me := { s.me with sq := { s.me.sq with pends := s.me.sq.pends ++
      [{ id := s.ids, upd := u, ready, cls, flags := 0, arrive := s.me.sq.arrive, fault := ft, addr, src := .own }] } } }

/-- An answer whose whole effect is a scalar result through its pending bit. -/
def PendsS (d : SReg) (v : Word) (cls : Bool) (s : State) (o : Out) : Prop := o = .next (withPend (.s d v) true cls none none s)

/-- The state with one more operation of class S outstanding (R142). -/
def withStore (ready : Bool) (kind : StoreKind) (ft : Option FaultInfo) (s : State) : State :=
  { s with
    ids := s.ids + 1
    me := { s.me with sq := { s.me.sq with stores := s.me.sq.stores ++
      [{ id := s.ids, ready, arrive := s.me.sq.arrive, fault := ft, grp := s.me.sq.group, kind }] } } }

/-- The state with one more taken transfer (R94): the fourth group after the one in issue begins at `t`. -/
def withRedir (t : Word) (s : State) : State :=
  { s with me := { s.me with sq := { s.me.sq with redirs := s.me.sq.redirs ++ [{ at_ := s.me.sq.group + 4, target := ⟨t, 0⟩ }] } } }

/-- The state with one more engine command (R257): it takes the next command tag and the next place in the
issue order. -/
def withCmd (op : CmdOp) (kc : Option Nat) (s : State) : State :=
  { s with
    ids := s.ids + 1
    me := { s.me with sq := { s.me.sq with
      cmds := s.me.sq.cmds ++ [{ tag := s.me.sq.cmdCount % 2 ^ 32, op, arrive := s.me.sq.arrive, grp := s.me.sq.group, begun := false
                                 done := false, seq := s.ids, stage := 0, fault := none, amount := 0, kc, reserved := []
                                 landings := [], todo := [], elems := [], pieces := [] }]
      cmdCount := s.me.sq.cmdCount + 1 } } }

/-- The state with a load's result: fixed at `lat` groups for the own die's store, else outstanding in class L (R141). -/
def withLoad (lat : Option Nat) (sp : Space) (A : Word) (u : Upd) (ft : Option FaultInfo) (s : State) : State :=
  match (if sp = .st ∧ A.toNat / 2 ^ 28 % 8 = s.me.die then lat else none) with
  | some n => withFlight n u 0 s.me.sq.arrive ft s
  | none => withPend u true true ft (some A) s

/-- The bytes an access writes to one kind of memory (the die stores, or HBM): the pieces of the access with their bytes. -/
def cellsOf (st : Bool) : List Seg → List Byte → List (Nat × Byte)
  | [], _ => []
  | g :: gs, bs => (if g.st = st then (bs.take g.len).zipIdx.map (fun b => (g.addr + b.2, b.1)) else []) ++ cellsOf st gs (bs.drop g.len)

/-- Memory after an access that wrote `cs`, at one address: the last byte written there, else what `old` gives. -/
def afterCells (cs : List (Nat × Byte)) (old : Nat → Byte) (a : Nat) : Byte :=
  match (cs.filter fun c => decide (c.1 = a)).getLast? with
  | some c => c.2
  | none => old a

/-- What a store byte reads before the bytes of a write land: a write into an EMPTY line starts from zeros (R229). -/
def emptied (gs : List Seg) (s : State) (a : Nat) : Byte :=
  if lineAt s a = .empty ∧ (∃ g ∈ gs, g.st = true ∧ g.addr / 64 ≤ a / 64 ∧ 64 * (a / 64) < g.addr + g.len ∧ 0 < g.len) then 0
  else getByte s.store a

/-- The write of bytes over the pieces `gs` took `s` to `t`: every byte of memory, in both kinds, is the last one written there or
unchanged, and the general and control registers are unchanged. -/
def Wrote (gs : List Seg) (bs : List Byte) (s t : State) : Prop :=
  (∀ a, getByte t.store a = afterCells (cellsOf true gs bs) (emptied gs s) a) ∧
  (∀ a, getByte t.hbm a = afterCells (cellsOf false gs bs) (getByte s.hbm) a) ∧
  t.me.regs = s.me.regs ∧ t.me.ctl = s.me.ctl

/-- No byte of memory differs. -/
def SameBytes (s t : State) : Prop := (∀ a, getByte t.store a = getByte s.store a) ∧ ∀ a, getByte t.hbm a = getByte s.hbm a

/-- Command `tag` of thread `u` has executed and met no fault; its completion add will be `n` (R257). -/
def Executed (u tag n : Nat) (t : State) : Prop :=
  ∃ y, findCmd u tag t = some y ∧ y.begun = true ∧ y.todo = [] ∧ y.fault = none ∧ y.amount = n

/-- Command `tag` of thread `u` has met the fault `f`, which its completion will deliver (R258). -/
def Failed (u tag : Nat) (f : FaultInfo) (t : State) : Prop := ∃ y, findCmd u tag t = some y ∧ y.begun = true ∧ y.fault = some f

/-- The registers differ in tile `t` alone, which is `y` now. -/
def TileIs (t : Nat) (y : Tile) (s u : State) : Prop := u.me.regs = { s.me.regs with t := vmod s.me.regs.t t fun _ => y }

/-- A tile tagged POISON by a fault, its contents as they were (R254, R258). -/
def Poisoned (x y : Tile) : Prop :=
  cfgTag y.cfg = .poison ∧ y.ver = x.ver + 1 ∧ y.cnt = x.cnt ∧ ∀ i, tileData y i = tileData x i ∧ tileSide y i = tileSide x i

/-- A tile after the tile write of `n` elements under tag `g` in window `w`, element `k` at the place R268 gives it: its bytes, its scale
and special in the side store (R67), tag and version (R269). Every other byte is as it was, or zero if the tile was EMPTY. -/
def Filled (w : TileWin) (g : Tag) (n : Nat) (el : Nat → List Byte) (x y : Tile) : Prop :=
  let size := (elemSize g).1
  let row := fun k => w.frow + k * size / w.w
  let byte := fun k => w.fbyte + k * size % w.w
  let at_ := fun k b => row k * cfgRB x.cfg + byte k + b
  let scale := fun k => 64 * row k + byte k / 16
  y.cfg = withTag x.cfg g ∧ y.ver = x.ver + 1 ∧ y.cnt = 255 ∧
  (∀ k < n, ∀ b < size, tileData y (at_ k b) = (el k).getD b 0) ∧
  (∀ i, (∀ k < n, ∀ b < size, i ≠ at_ k b) → tileData y i = if x.cnt = 0 then 0 else tileData x i) ∧
  (g = .e2m1x → cfgRB x.cfg ≤ 512 →
    (∀ k < n, tileSide y (scale k) = (el k).getD 16 0 ∧ tileSide y (scale k + 32) = (el k).getD 17 0) ∧
    ∀ i, (∀ k < n, i ≠ scale k ∧ i ≠ scale k + 32) → tileSide y i = if x.cnt = 0 then 0 else tileSide x i) ∧
  (g ≠ .e2m1x → ∀ i, tileSide y i = tileSide x i)

/-- The new value of an atomic on `w`-bit patterns (R235). -/
def AtomGives (op : AtomOp) (w old b c new : Nat) : Prop :=
  let sv := fun (x : Nat) => signExt x w
  match op with
  | .add => new = (old + b) % 2 ^ w
  | .min u => (new = old ∨ new = b) ∧ (if u then new ≤ old ∧ new ≤ b else sv new ≤ sv old ∧ sv new ≤ sv b)
  | .max u => (new = old ∨ new = b) ∧ (if u then old ≤ new ∧ b ≤ new else sv old ≤ sv new ∧ sv b ≤ sv new)
  | .and => ∀ j, new.testBit j = (old.testBit j && b.testBit j)
  | .or => ∀ j, new.testBit j = (old.testBit j || b.testBit j)
  | .xor => ∀ j, new.testBit j = (old.testBit j ^^ b.testBit j)
  | .swp => new = b
  | .cas => new = if old = c then b else old

/-- The atomic instructions: operation, destination, address register, operand, comparand, space, size. -/
def atomForm (s : State) : Instr → Option (AtomOp × SReg × SReg × Word × Word × Space × Bool)
  | .aadd d a b sp q => some (.add, d, a, rdS s b, 0, sp, q)
  | .amin d a b sp q u => some (.min u, d, a, rdS s b, 0, sp, q)
  | .amax d a b sp q u => some (.max u, d, a, rdS s b, 0, sp, q)
  | .aand d a b sp q => some (.and, d, a, rdS s b, 0, sp, q)
  | .aor d a b sp q => some (.or, d, a, rdS s b, 0, sp, q)
  | .axor d a b sp q => some (.xor, d, a, rdS s b, 0, sp, q)
  | .aswp d a b sp q => some (.swp, d, a, rdS s b, 0, sp, q)
  | .acas d a b c sp q => some (.cas, d, a, rdS s b, rdS s c, sp, q)
  | _ => none

/-- An add of `n` to the counter at store address `a` took `s` to `t` (R190): it saturates, every waiter whose threshold it passed has a
token on its way, and no other byte of memory and no register changed. -/
def Added (a n : Nat) (s t : State) : Prop :=
  let w := min (counterAt s a + n) (2 ^ 64 - 1)
  counterAt t a = w ∧ (∀ x, x / 8 ≠ a / 8 → getByte t.store x = getByte s.store x) ∧ t.hbm = s.hbm ∧ t.lines = s.lines ∧
    t.banks = s.banks ∧ t.me.regs = s.me.regs ∧ t.me.ctl = s.me.ctl ∧
    (∀ x ∈ s.tokens, x ∈ t.tokens) ∧
    ∀ d ∈ s.dies.toList, ∀ e ∈ d.wft, ∀ th, e.kind = .edge (.counter a th) → counterAt s a < th → th ≤ w →
      (2 ^ 24 * e.lnch + e.tid, e.entry, e.stamp) ∈ t.tokens

/-- The ten conditions of R41 on 64-bit patterns. -/
def CondHolds (c : Cond) (x y : Word) : Prop :=
  match c with
  | .eq => x = y
  | .ne => x ≠ y
  | .lt => x.toInt < y.toInt
  | .le => x.toInt ≤ y.toInt
  | .gt => y.toInt < x.toInt
  | .ge => y.toInt ≤ x.toInt
  | .ltl => x.toNat < y.toNat
  | .lel => x.toNat ≤ y.toNat
  | .gtl => y.toNat < x.toNat
  | .gel => y.toNat ≤ x.toNat

/-! ### Lane-wise vector instructions (R107 to R113, R119) -/

/-- `Fit` of R113: the wrapped integer, or the saturated one with SAT raised where it does not fit. -/
def fitLane (t : Tag) (wr : Bool) (y : Int) : LaneR :=
  let hi : Int := 2 ^ (laneW t - 1) - 1
  let lo : Int := -2 ^ (laneW t - 1)
  if wr then (ofInt (laneW t) y, 0) else (ofInt (laneW t) (max lo (min hi y)), if lo ≤ y ∧ y ≤ hi then 0 else fSAT)

/-- What R107 to R113 give a lane-wise instruction: latency, tags accepted, sources in the order `va`, `vb`, `vd`,
destination, write mask, Z, and the lane's result from the operating tag and the sources' lanes. -/
structure LaneForm where
  lat    : Nat
  accept : Tag → Bool
  srcs   : List VReg
  d      : VReg
  m      : Sys2Proof.MReg
  z      : Bool
  f      : State → Tag → Nat → Nat → Nat → LaneR

/-- The signed value of a lane. -/
def sInt (t : Tag) (x : Nat) : Int := signExt x (laneW t)

/-- The lane-wise instructions with their effects. -/
def laneForm : Instr → Option LaneForm
  | .vadd d a b m z w rm => some ⟨2, isComp, [a, b], d, m, z, fun s t x y _ =>
      if isInt t then fitLane t w (sInt t x + sInt t y) else fAdd (fmtOf t) (rmOf s rm) (decodeReal t x) (decodeReal t y)⟩
  | .vsub d a b m z w rm => some ⟨2, isComp, [a, b], d, m, z, fun s t x y _ =>
      if isInt t then fitLane t w (sInt t x - sInt t y) else fSub (fmtOf t) (rmOf s rm) (decodeReal t x) (decodeReal t y)⟩
  | .vmul d a b m z w rm => some ⟨4, isComp, [a, b], d, m, z, fun s t x y _ =>
      if isInt t then fitLane t w (sInt t x * sInt t y) else fMul (fmtOf t) (rmOf s rm) (decodeReal t x) (decodeReal t y)⟩
  | .vfma d a b m z rm => some ⟨4, isFloat, [a, b, d], d, m, z, fun s t x y c =>
      fFma (fmtOf t) (rmOf s rm) (decodeReal t x) (decodeReal t y) (decodeReal t c)⟩
  | .vfms d a b m z rm => some ⟨4, isFloat, [a, b, d], d, m, z, fun s t x y c =>
      fFms (fmtOf t) (rmOf s rm) (decodeReal t x) (decodeReal t y) (decodeReal t c)⟩
  | .vneg d a m z w => some ⟨2, isComp, [a], d, m, z, fun _ t x _ _ =>
      if isInt t then fitLane t w (-sInt t x) else signLane (fun n => !n) t x⟩
  | .vabs d a m z w => some ⟨2, isComp, [a], d, m, z, fun _ t x _ _ =>
      if isInt t then fitLane t w |sInt t x| else signLane (fun _ => false) t x⟩
  | .vmin d a b m z => some ⟨2, isComp, [a, b], d, m, z, fun _ t x y _ =>
      if isInt t then (ofInt (laneW t) (min (sInt t x) (sInt t y)), 0) else fMaxMin (fmtOf t) false x y⟩
  | .vmax d a b m z => some ⟨2, isComp, [a, b], d, m, z, fun _ t x y _ =>
      if isInt t then (ofInt (laneW t) (max (sInt t x) (sInt t y)), 0) else fMaxMin (fmtOf t) true x y⟩
  | .vand d a b m z => some ⟨2, isBits, [a, b], d, m, z, fun _ _ x y _ => (x &&& y, 0)⟩
  | .vor d a b m z => some ⟨2, isBits, [a, b], d, m, z, fun _ _ x y _ => (x ||| y, 0)⟩
  | .vxor d a b m z => some ⟨2, isBits, [a, b], d, m, z, fun _ _ x y _ => (x ^^^ y, 0)⟩
  | .vshl d a b m z => some ⟨2, isInt, [a, b], d, m, z, fun _ t x y _ => (x * 2 ^ (y % laneW t), 0)⟩
  | .vshr d a b m z => some ⟨2, isInt, [a, b], d, m, z, fun _ t x y _ => (x / 2 ^ (y % laneW t), 0)⟩
  | .vsra d a b m z => some ⟨2, isInt, [a, b], d, m, z, fun _ t x y _ => (ofInt (laneW t) (sInt t x / 2 ^ (y % laneW t)), 0)⟩
  | .vclamp d a b m z => some ⟨2, isComp, [a, b, d], d, m, z, fun _ t x y c =>
      if isInt t then (ofInt (laneW t) (min (max (sInt t x) (sInt t c)) (sInt t y)), 0)
      else ((fMaxMin (fmtOf t) false (fMaxMin (fmtOf t) true x c).1 y).1,
        (fMaxMin (fmtOf t) true x c).2 ||| (fMaxMin (fmtOf t) false (fMaxMin (fmtOf t) true x c).1 y).2)⟩
  | .vrcp d a m z rm => some ⟨10, isFloat, [a], d, m, z, fun s t x _ _ => fTrans .rcp (fmtOf t) (rmOf s rm) (decodeReal t x)⟩
  | .vrsqrt d a m z rm => some ⟨10, isFloat, [a], d, m, z, fun s t x _ _ => fTrans .rsqrt (fmtOf t) (rmOf s rm) (decodeReal t x)⟩
  | .vsqrt d a m z rm => some ⟨10, isFloat, [a], d, m, z, fun s t x _ _ => fTrans .sqrt (fmtOf t) (rmOf s rm) (decodeReal t x)⟩
  | .vexp2 d a m z rm => some ⟨10, isFloat, [a], d, m, z, fun s t x _ _ => fTrans .exp2 (fmtOf t) (rmOf s rm) (decodeReal t x)⟩
  | .vlog2 d a m z rm => some ⟨10, isFloat, [a], d, m, z, fun s t x _ _ => fTrans .log2 (fmtOf t) (rmOf s rm) (decodeReal t x)⟩
  | _ => none

/-- Lane `i` of source `k` of a form. -/
def LaneForm.src (F : LaneForm) (s : State) (t : Tag) (k i : Nat) : Nat :=
  match F.srcs[k]? with
  | some r => lane t (rdV s r) i
  | none => 0

/-- The lane result of a form. -/
def LaneForm.val (F : LaneForm) (s : State) (t : Tag) (i : Nat) : LaneR := F.f s t (F.src s t 0 i) (F.src s t 1 i) (F.src s t 2 i)

/-- The first vector source of an instruction whose sources are not all covered by `laneForm`, with the tags it accepts there
(R109): what is neither NONE nor POISON nor accepted raises 0x04. -/
def vecSource : Instr → Option (VReg × (Tag → Bool))
  | .vmovs _ a _ | .vins _ a _ _ | .vsel _ a _ _ | .vperm _ a _ _ _ | .vrot _ a _ _ _ _ | .vshuf _ a _ _ _ _ _ | .vbcast _ a _ _ _ _
  | .vcomp _ a _ | .vexpd _ a _ _ | .vmaskNz _ a => some (a, isLaned)
  | .vmov _ a m _ => some (a, fun t => t ≠ .e2m1x || m.val = 0)
  | .vcmp c _ a _ _ => some (a, cmpAccepts c)
  | .vgetl _ a _ _ _ _ | .vputl _ a _ _ _ => some (a, fun t => t = .i16)
  | .vstx _ a _ => some (a, fun _ => true)
  | .vredadd _ a _ _ | .vredmax _ a _ | .vredmin _ a _ | .vargmax _ a _ | .vscan _ a _ _ _ => some (a, isComp)
  | .vpack _ a _ _ _ _ _ => some (a, fun t => t = .i32 || t = .i16 || t = .fp32)
  | .vunpk _ a _ _ _ => some (a, fun t => t = .i8 || t = .i16 || t = .bf16 || t = .e4m3)
  | .vblk _ a _ _ _ _ _ => some (a, isFloat)
  | .vunblk _ a _ _ _ _ _ => some (a, fun t => t = .e2m1x)
  | .vwgin _ a _ _ | .vwgout _ a _ _ | .vwgfil _ a _ _ => some (a, fun t => t = .fp32)
  | .vcvt _ a _ t _ _ _ => some (a, fun u => u = .raw || t = .raw || (u ≠ .e2m1x && t ≠ .e2m1x))
  | _ => none

/-- The condition of R116 on two lanes: values under an integer tag (patterns for the unsigned conditions), R75 under a floating one. -/
def laneCond (c : Cond) (t : Tag) (x y : Nat) : Bool :=
  if isFloat t then (fCmp c (decodeReal t x) (decodeReal t y)).1 else
  match c with
  | .eq => x == y
  | .ne => x != y
  | .lt => decide (sInt t x < sInt t y)
  | .le => decide (sInt t x ≤ sInt t y)
  | .gt => decide (sInt t y < sInt t x)
  | .ge => decide (sInt t y ≤ sInt t x)
  | .ltl => decide (x < y)
  | .lel => decide (x ≤ y)
  | .gtl => decide (y < x)
  | .gel => decide (y ≤ x)

/-- `n` steps from `s` end in `t`. -/
def Runs : Nat → State → State → Prop
  | 0, s, t => s = t
  | n + 1, s, t => ∃ u, step s = .next u ∧ Runs n u t

end Sys2Proof.Machine
end

