-- ==== Sys2Proof/Certificates/Slice0/Obligations.lean ====
section
/-! DEFINITION. The statements for the provers. Each docstring names the rules of the spec it formalises, or says what of it
is the model's own. -/

open Sys2Proof Sys2Proof.Machine

/-! ### Encoding (R36 to R41, R53) -/

/-- Words written out from the encodings of R36 to R42 and R53 decode to the instructions they stand for: the two control
slots of R104, a nop, one word of every format of R40 and of every row of R53's table but the firmware's, one with an arrive suffix
(R39), and an unassigned opcode. -/
def Obligations.SpecWordsDecode : Prop :=
  let word := fun (opc : Nat) (fields : List (Nat × Nat)) => opc * 2 ^ 49 + (fields.map fun f => f.1 * 2 ^ f.2).sum
  decodeSlot 0x00D800028000000A = some (.loop 2 10) ∧
  decodeSlot 0x80D2000000008000 = some (.call 2) ∧
  decodeSlot 0 = some .nop ∧
  decodeSlot (0x001 * 2 ^ 49 + 1 * 2 ^ 38 + 2 * 2 ^ 32 + 3 * 2 ^ 26) = some (.add 1 2 3) ∧
  decodeSlot (0x080 * 2 ^ 49 + 639 * 2 ^ 34 + 1 * 2 ^ 24 + 2 * 2 ^ 14 + 3 * 2 ^ 10 + 1 * 2 ^ 9 + 4) =
    some (.vadd 639 1 2 3 true false .rne) ∧
  decodeSlot (0x140 * 2 ^ 49 + 5 * 2 ^ 34 + 6 * 2 ^ 28 + 8 * 2 ^ 10 + 1 * 2 ^ 7 + 3) = some (.lds 5 6 8 .st .q false) ∧
  decodeSlot (0x1E0 * 2 ^ 49 + 7) = some (.trap 7) ∧
  decodeSlot (0x050 * 2 ^ 49) = none ∧
  -- SI, LI, C3, CI, P, B, LP, CSR
  decodeSlot (word 0x003 [(1, 38), (62, 32), (2 ^ 26 - 2, 0)]) = some (.addi 1 62 (-2)) ∧
  decodeSlot (word 0x021 [(3, 38), (0x80000001, 6), (63, 0)]) = some (.li 3 0x80000001 63) ∧
  decodeSlot (word 0x026 [(2, 40), (9, 36), (1, 30), (63, 24)]) = some (.cmp .gel 2 1 63) ∧
  decodeSlot (word 0x027 [(14, 40), (2, 36), (1, 30), (2 ^ 30 - 1, 0)]) = some (.cmpi .lt 14 1 (-1)) ∧
  decodeSlot (word 0x060 [(1, 40), (2, 36), (15, 32)]) = some (.pand 1 2 15) ∧
  decodeSlot (word 0x065 [(3, 40), (4, 20), (63, 0)]) = some (.pset 3 4 63) ∧
  decodeSlot (word 0x067 [(2 ^ 30 - 1, 14)]) = some (.br (-1)) ∧
  decodeSlot (word 0x06C [(2, 32), (9, 25)]) = some (.loopReg 2 9) ∧
  decodeSlot (word 0x070 [(5, 32), (0x027, 20)]) = some (.csrw 0x027 5) ∧
  -- VS, VC, MK, and the rows of the permute and special unit
  decodeSlot (word 0x092 [(4, 34), (5, 24), (6, 18), (7, 0)]) = some (.vins 4 5 6 7) ∧
  decodeSlot (word 0x095 [(14, 40), (6, 36), (3, 26), (638, 16), (5, 12)]) = some (.vcmp .ltl 14 3 638 5) ∧
  decodeSlot (word 0x0A1 [(1, 40), (2, 36), (3, 32)]) = some (.mand 1 2 3) ∧
  decodeSlot (word 0x0A5 [(2, 36), (60, 26)]) = some (.mcnt 60 2) ∧
  decodeSlot (word 0x0C0 [(1, 34), (2, 24), (3, 10)]) = some (.vrcp 1 2 3 false .rne) ∧
  decodeSlot (word 0x0CA [(1, 34), (2, 24), (3, 18)]) = some (.vmovx 1 2 3) ∧
  decodeSlot (word 0x0D0 [(1, 34), (2, 24), (3, 14), (4, 10), (512, 0)]) = some (.vperm 1 2 3 4 true) ∧
  decodeSlot (word 0x0D9 [(1, 34), (2, 24), (4, 10)]) = some (.vredmax 1 2 4) ∧
  decodeSlot (word 0x0E1 [(1, 34), (2, 24), (4, 10), (256, 0)]) = some (.vunpk 1 2 4 true false) ∧
  decodeSlot (word 0x0E8 [(1, 34), (2, 24), (4, 10), (512, 0)]) = some (.vwgin 1 2 4 true) ∧
  -- M, MS, MX, A
  decodeSlot (word 0x143 [(1, 34), (11, 28), (2, 7), (4, 3)]) = some (.stv 1 11 0 .w .i32) ∧
  decodeSlot (word 0x144 [(1, 34), (2, 28), (3, 22), (4, 18), (1, 15), (5, 11), (1, 0)]) = some (.ldvs 1 2 3 4 .st .bf16 true) ∧
  decodeSlot (word 0x147 [(1, 34), (2, 28), (3, 18), (4, 14), (1, 11), (9, 7), (2, 0)]) = some (.stvx 1 2 3 4 .st .e8m0 1 false) ∧
  decodeSlot (word 0x154 [(1, 38), (2, 32), (3, 26), (1, 17), (3, 0)]) = some (.aadd 1 2 3 .st true) ∧
  decodeSlot (word 0x161 [(6, 34), (7, 28), (3, 10), (2, 7), (3, 0)]) = some (.ldw 6 3 7 .q) ∧
  -- E, W, K, KI, and the rows of the threads
  decodeSlot (word 0x186 [(1, 41), (2, 38), (3, 31), (4, 25), (5, 19), (510, 0)]) = some (.tst 2 1 4 5 254 (some 3)) ∧
  decodeSlot (word 0x187 [(1, 38), (2, 25), (639, 9), (127, 0)]) = some (.tldv 1 639 2 127) ∧
  decodeSlot (word 0x18E [(1, 40), (2, 36), (3, 32), (15, 28)]) = some (.wait 1 2 3 15) ∧
  decodeSlot (word 0x190 [(1, 38), (2, 35), (3, 25), (127, 0)]) = some (.mma true 1 2 3 true true true true true true) ∧
  decodeSlot (word 0x1A5 [(5, 31), (90, 0)]) = some (.reshard 2 3 (some 5)) ∧
  decodeSlot (word 0x1D3 [(4, 40), (7, 34), (3, 28), (1, 0)]) = some (.kaddr 4 7 3 1) ∧
  decodeSlot (word 0x1D2 [(15, 40), (2, 28), (2 ^ 28 - 1, 0)]) = some (.kadd 15 2 (2 ^ 28 - 1)) ∧
  decodeSlot (word 0x1C2 [(1, 38), (2, 32), (3, 26)]) = some (.join 1 2 3) ∧
  -- an arrive suffix on a guarded slot
  decodeSlot (word 0x002 [(1, 63), (1, 62), (5, 58), (1, 48), (9, 44), (7, 38), (8, 32), (9, 26)]) = some (.sub 7 8 9) ∧
  slotHdr (word 0x002 [(1, 63), (1, 62), (5, 58), (1, 48), (9, 44), (7, 38), (8, 32), (9, 26)]) =
    { stop := true, gi := true, gp := 5, ae := true, ak := 9 }

/-- Every well-formed slot instruction is read back from its word under every legal header (R36 to R41): no operand bit is
dropped, and the header fields come back too. A nop takes no arrive suffix (R38). -/
def Obligations.DecodeEncode : Prop :=
  ∀ (i : Instr) (w : Nat) (h : SlotHdr), i.wf = true → encode i = some w → (i = .nop → h.ae = false ∧ h.ak = 0) →
    withHdr h w < 2 ^ 64 ∧ decodeSlot (withHdr h w) = some i ∧ slotHdr (withHdr h w) = h

/-- Every legal slot is the encoding of the instruction it decodes to, under the header it holds: each word has one meaning
and no reserved bit is set (R35, R40, R41). -/
def Obligations.EncodeDecode : Prop :=
  ∀ (w : Nat) (i : Instr), w < 2 ^ 64 → decodeSlot w = some i →
    i.wf = true ∧ ∃ e, encode i = some e ∧ w = withHdr (slotHdr w) e

/-! ### The step -/

/-- What the step runs from a state in which a slot waits in the queue, no slot before it or of another context is unfinished and the
agenda puts nothing before it: the slot is taken from it, its arrive counter noted, the instruction decoded from it executed, and
the group goes on or ends; then the ports send what may go, the images of saved threads follow what changed in them, and time
passes. The agenda and the order of what a step does are the model's choice (log 3), as is that a slot's operations may be cut (log
31). The bytes at the program counter run (R29, R46): where nothing else is due (log 3) and the bytes at the place of the next group
are a bundle whose first group is one slot that decodes to `i`, the step is `exec i`, with what issue adds. A slot whose operations
the agenda cut goes on with those that are left (R243; log 31). A step that would take from another context's cut slot what its
checks have found, the ownership of a bank or the state of a line (R220, R229), does not come about: that context has the turn
instead. That the other step is the one that waits is the model's choice (log 31). What a fetch reads (R29, R30, R43 to R45, R52).
The index word at the place, little-endian, selects the empty bundle, the dictionary entry loaded under `DICTB`, or a literal bundle
in the 24 words after it, whose slots are checked whole; an index from DICTN on raises 0x01. A group is the slots up to the first
stop bit, over at most two bundles. That a fetch gives the new value of a word another agent has written (R32 allows the old one
too) is the model's choice (log 67), as are the bytes it takes from an uncorrectable line (log 25). -/
def Obligations.StepRunsInstructions : Prop :=
  (∀ (s : State) (r : SlotRef) (rest : List SlotRef) (i : Instr),
    amidGroup s = none → s.me.sq.rest = none → (∀ c ∈ s.others, c.sq.rest = none) → s.me.sq.queue = r :: rest → slotOff r.word = false → decodeSlot r.word = some i →
    deadSlot (issueSlot r rest s) r = none →
    guardHolds (issueSlot r rest s) (slotHdr r.word) = true → slotFault (issueSlot r rest s) r i = none →
    step s = thenDo (fun t => tick (keepImages s (pump (afterExec t))))
      (exec i (setArrive (arriveOf (issueSlot r rest s) (slotHdr r.word)) (issueSlot r rest s)))) ∧
  (∀ (s : State) (g : CodeGroup) (r : SlotRef) (i : Instr),
    s.me.sq.queue = [] → s.me.sq.rest = none → (∀ c ∈ s.others, c.sq.rest = none) → s.agenda = [] → halted s = false → s.me.status = .running → s.me.sq.owed = [] → dueFault s = none →
    (s.me.preReq && preemptPoint s) = false → noteDelay s = s → s.me.sq.passed = true → s.me.wt.on = none →
    fetchGroup s s.me.sq.next = .ok g → g.slots = [r] → lookGroup g s = (s, .free) →
    slotOff r.word = false → decodeSlot r.word = some i →
    let t := issueSlot r [] (startGroup s.me.sq.next g s)
    deadSlot t r = none → guardHolds t (slotHdr r.word) = true → slotFault t r i = none →
    step s = thenDo (fun t => tick (keepImages s (pump (afterExec t)))) (exec i (setArrive (arriveOf t (slotHdr r.word)) t))) ∧
  (∀ (s : State) (r : SlotRest), amidGroup s = none → s.me.sq.rest = some r →
  (∀ c ∈ s.others, c.sq.rest = none) →
  step s = .next (tick (keepImages s (pump (afterExec (goOn r { s with me := { s.me with sq := { s.me.sq with rest := none } } })))))) ∧
  (∀ (s t : State) (c : Ctx),
  amidGroup s = none → s.me.sq.rest = none → s.others.find? (undoes t) = some c → c.uid ≠ s.me.uid →
  let first := step s = .next (tick (keepImages s (pump (giveTurn c.uid s))))
  (∀ r rest, s.me.sq.queue = r :: rest → runSlot r rest s = .next t → first) ∧
  (s.me.sq.queue = [] → s.agenda = [] → boundary s = .next t → first)) ∧
  (∀ (s : State) (p : CodePos),
  let place := fun (k : Nat) => translate s s.me.site s.me.world .fetch (p.pc + BitVec.ofNat 64 k)
  let word := fun (pa : Nat) => (getByte s.hbm pa).toNat + 256 * (getByte s.hbm (pa + 1)).toNat
  let part := fun (b : Bundle) (i j : Nat) => (List.range (j + 1 - i)).map fun k => (⟨b.pc, i + k, b.slots.getD (i + k) 0⟩ : SlotRef)
  let stops := fun (b : Bundle) (j : Nat) => (b.slots.getD j 0).testBit 63 = true
  let after := fun (b : Bundle) (j : Nat) => if j = 5 then CodePos.mk b.next 0 else ⟨b.pc, j + 1⟩
  let legal := fun (g : CodeGroup) => if runOk (g.slots.map (·.word)) then Except.ok g else .error (fault 0x03 0 p.pc)
  (∀ f, place 0 = .error f → fetchBundle s p.pc = .error f) ∧
  (∀ pa, place 0 = .ok pa →
    (word pa = 0xFFFE → fetchBundle s p.pc = .ok ⟨p.pc, [0, 0, 0, 0, 0, 2 ^ 63], p.pc + 2⟩) ∧
    (∀ b, word pa < bits s.me.ctl.dictb 0 12 → word pa < 0xFFFE → (dictOf s)[word pa]? = some b →
      fetchBundle s p.pc = .ok ⟨p.pc, (List.range 6).map fun j => b / 2 ^ (64 * j) % 2 ^ 64, p.pc + 2⟩) ∧
    (bits s.me.ctl.dictb 0 12 ≤ word pa → word pa < 0xFFFE → fetchBundle s p.pc = .error (fault 0x01 0 p.pc)) ∧
    (∀ at_ : Nat → Nat, word pa = 0xFFFF → (∀ k < 24, place (2 + 2 * k) = .ok (at_ k)) →
      let slots := (List.range 6).map fun j => word (at_ (4 * j)) + word (at_ (4 * j + 1)) * 2 ^ 16 + word (at_ (4 * j + 2)) * 2 ^ 32
        + word (at_ (4 * j + 3)) * 2 ^ 48
      fetchBundle s p.pc = match bundleCheck slots with
        | none => .ok ⟨p.pc, slots, p.pc + 50⟩
        | some (false, _) => .error (fault 0x02 0 p.pc)
        | some (true, _) => .error (fault 0x03 0 p.pc))) ∧
  (∀ b, fetchBundle s p.pc = .ok b → p.slot ≤ 5 →
    (∀ j ≤ 5, p.slot ≤ j → stops b j → (∀ k, p.slot ≤ k → k < j → ¬stops b k) →
      fetchGroup s p = legal ⟨part b p.slot j, after b j, ⟨b.pc, j⟩⟩) ∧
    ((∀ k, p.slot ≤ k → k ≤ 5 → ¬stops b k) → ∀ c, fetchBundle s b.next = .ok c →
      (∀ j ≤ 5, stops c j → (∀ k < j, ¬stops c k) → fetchGroup s p = legal ⟨part b p.slot 5 ++ part c 0 j, after c j, ⟨c.pc, j⟩⟩) ∧
      ((∀ k ≤ 5, ¬stops c k) → fetchGroup s p = .error (fault 0x03 0 p.pc)))))

/-- The guard of R37: {GI, GP} as the table of R37 reads them. A slot that is off or whose guard is false does nothing (R37): the step
only goes on to the next slot or the boundary. -/
def Obligations.GuardsDecide : Prop :=
  (∀ (s : State) (h : SlotHdr),
    (h.gi = false → h.gp = 0 → guardHolds s h = true) ∧ (h.gi = true → h.gp = 0 → guardHolds s h = false) ∧
    (h.gi = false → h.gp ≠ 0 → guardHolds s h = s.me.regs.p.getLsbD h.gp.val) ∧
    (h.gi = true → h.gp ≠ 0 → guardHolds s h = !s.me.regs.p.getLsbD h.gp.val)) ∧
  (∀ (s : State) (r : SlotRef) (rest : List SlotRef), amidGroup s = none → s.me.sq.rest = none → (∀ c ∈ s.others, c.sq.rest = none) →
    s.me.sq.queue = r :: rest →
    (slotOff r.word = true ∨ deadSlot (issueSlot r rest s) r = none ∧ ∃ i, decodeSlot r.word = some i ∧ guardHolds (issueSlot r rest s) (slotHdr r.word) = false) →
    step s = .next (tick (keepImages s (pump (afterExec (issueSlot r rest s))))))

/-- No row of the opcode table stops the machine: every instruction and every step of the hardware answers a next state from every
state. The step never stops while the slots that wait in queues and stand in loaded dictionaries are legal; every step keeps them
so, for loading and fetching admit no other slot (R33, R35, R52), and they are so at reset. -/
def Obligations.NothingStops : Prop :=
  (∀ (i : Instr) (s : State), Completes (exec i s)) ∧
  (State.reset.QueueLegal ∧ ∀ s : State, s.QueueLegal → ∃ t, step s = .next t ∧ t.QueueLegal)

/-! ### Invariants -/

/-- Every step keeps every memory and every map of the module in its canonical form. The form is the model's own. -/
def Obligations.StepKeepsTidy : Prop :=
  ∀ s : State, s.Tidy → IfNext State.Tidy (step s)

/-- What module reset leaves where the spec gives values: `DMCFG` (R215), the roots (R316), `VATW`, `PORTW`, `CRW` (R391), the ports
(R366), `MPOS` (R335), `FABCFG.RLIM` (R364), CLK (R25), no launch and no bound context. The state right after reset is tidy, and the
die stores and HBM list nothing (R220; what HBM reads is log 2). -/
def Obligations.ResetValues : Prop :=
  (let s := State.reset
  (∀ d < 8, (dieOf s d).dmcfg = 0x2A ∧ (dieOf s d).trt0 = 0 ∧ (dieOf s d).trt1 = 0 ∧ (dieOf s d).vatw = 0) ∧
  s.fab.portw = 0 ∧ s.fab.crw = 0 ∧ s.fab.mpos = 0 ∧ bits s.fab.fabcfg 24 4 = 8 ∧
  (∀ p < 32, let x := vget Port.reset s.fab.ports p
    x.st = .down ∧ bits x.cfg 48 8 = 20 ∧ bits x.cfg 44 4 = 2 ∧ bits x.cfg 38 6 = 16 ∧ bits x.cfg 32 6 = 16) ∧
  s.clk = 0 ∧ s.launches = [] ∧ bound s = []) ∧
  (State.reset.Tidy ∧ ∀ a, getByte State.reset.store a = 0 ∧ lineAt State.reset a = .uncounted ∧ bankOwner State.reset a = 0)

/-! ### Registers and results in flight (R14, R25, R48, R50) -/

/-- The hard-wired registers (R14): `s0` reads 0, `p0` reads 1 and `m0` reads all ones in every state, and a result for one of them is
discarded. Every other general register, and each stored control register, reads what was written to it, and no other register of
its class changes (R14): scalar registers, predicates, masks, handles, vector registers bit by bit under the write's mask, tiles,
and the control registers that are stored (R25). Tensor maps, layouts and pail descriptors take what `mset`, `lset` and `pdef` read
(R264, R344, R238); `mord` changes a map's order alone (R265), and `pdef.rel` clears its register. -/
def Obligations.RegisterFiles : Prop :=
  (∀ (s : State) (g : Regs) (x : Word) (b : Bool) (m : BitVec 1024),
    rdS s 0 = 0 ∧ rdP s 0 = true ∧ rdM s 0 = BitVec.allOnes 1024 ∧
    applyReg (.s 0 x) g = g ∧ applyReg (.p 0 b) g = g ∧ applyReg (.m 0 m) g = g) ∧
  (∀ (s : State) (x : Word) (b : Bool) (m : BitVec 1024),
    let put := fun u => { s with me := { s.me with regs := applyReg u s.me.regs } }
    (∀ r q : SReg, r ≠ 0 → rdS (put (.s r x)) q = if q = r then x else rdS s q) ∧
    (∀ r q : PReg, r ≠ 0 → rdP (put (.p r b)) q = if q = r then b else rdP s q) ∧
    (∀ r q : Sys2Proof.MReg, r ≠ 0 → rdM (put (.m r m)) q = if q = r then m else rdM s q) ∧
    (∀ r q : KReg, rdK (put (.k r x)) q = if q = r then x else rdK s q) ∧
    (∀ (r q : VReg) (data mask : BitVec 8192) (t : Tag),
      (rdV (put (.v r data mask (some t))) q).tag = (if q = r then t else (rdV s q).tag) ∧
      ∀ j < 8192, (rdV (put (.v r data mask (some t))) q).bits.getLsbD j =
        if q = r ∧ mask.getLsbD j = true then data.getLsbD j else (rdV s q).bits.getLsbD j) ∧
    (∀ t q f, t < 8 → tileOf (modTile t f s.me) q = if q = t then f (tileOf s.me q) else tileOf s.me q) ∧
    (∀ (n q : Ix8) (a c : SReg) gs bs, let g := s.me.regs
      (readDesc s (rdS s a) 64 64 = .ok (gs, bs) → let raw := BitVec.ofNat 512 (leNat bs)
        (mapOk raw = true → ∃ t, exec (.mset n a) s = .next t ∧ t.me.regs.lay = g.lay ∧ t.me.regs.pl = g.pl ∧
          t.me.regs.mp[q] = if q = n then ⟨raw, []⟩ else g.mp[q]) ∧
        (layOk s raw = true → ∃ t, exec (.lset n a) s = .next t ∧ t.me.regs.mp = g.mp ∧ t.me.regs.pl = g.pl ∧
          t.me.regs.lay[q] = if q = n then raw else g.lay[q])) ∧
      (∀ k, k = (rdS s c).toNat → k ≠ 0 → k ≤ 64 → g.mp[n].bits.getLsbD 71 = true → readDesc s (rdS s a) 4 (4 * k) = .ok (gs, bs) →
        ∃ t y, exec (.mord n a c) s = .next t ∧ t.me.regs.lay = g.lay ∧ t.me.regs.pl = g.pl ∧ t.me.regs.mp[q] = (if q = n then y else g.mp[q]) ∧
          y.raster = (List.range k).map (fun i => BitVec.ofNat 32 (leNat ((bs.drop (4 * i)).take 4))) ∧
          mapNq y.bits = k ∧ ∀ j, (j < 72 ∨ 79 ≤ j) → y.bits.getLsbD j = g.mp[n].bits.getLsbD j) ∧
      (∀ plan, readDesc s (rdS s a) 32 32 = .ok (gs, bs) → let raw := BitVec.ofNat 256 (leNat bs)
        pailFieldsOk raw = true → pailPlan s s.me.lnch (pailDesc raw) (rdS s a) = .ok plan →
        ∃ t w, exec (.pdef n a) s = .next t ∧ t.me.regs.mp = g.mp ∧ t.me.regs.lay = g.lay ∧
          t.me.regs.pl[q] = (if q = n then w else g.pl[q]) ∧ w >>> 136 = raw >>> 136 ∧ w.getLsbD 31 = true) ∧
      ((pailOf s g.pl[n]).isSome = true → ∃ t, exec (.pdefRel n) s = .next t ∧ t.me.regs.mp = g.mp ∧ t.me.regs.lay = g.lay ∧
        t.me.regs.pl[q] = if q = n then 0 else g.pl[q])) ∧
    (∀ n q : Nat, n ∈ [1, 2, 3, 4, 5, 6, 8, 9] → let c := applyUpd (.csr n (x &&& csrRW n)) s.me
      csrRead { s with me := c } n = x &&& csrRW n ∧ (q ≠ n → csrRead { s with me := c } q = csrRead s q)) ∧
    (∀ q : Nat, let c := applyUpd (.csr 0 x) s.me
      bits (csrRead { s with me := c } 0) 22 3 = bits x 22 3 ∧ (q ≠ 0 → csrRead { s with me := c } q = csrRead s q)))

/-- Results in flight land at the boundary before the group they are due for, and not before (R48). Of two results for one register the
later issued prevails (R50): a due result after which no other due one is for its register is what the register holds, and a
register with no due result keeps its value; the level of a loop lands as the new level 0 (R97); flags that land are ORed into
`VFLAGS` (R25). R15, R39, R48 to R50, R142, R146, R320: results that arrive. A due result lands, with its flags, its fault and the
arrive add its slot owes, which is an operation of its own (R243); a ready outstanding one lands unless an earlier one to its
register is in flight or a group issues, and with an uncorrectable error it brings no data and faults; that of an engine command
then makes the command's arrive add. A store performed leaves its class. A `tlbi` leaves it once the earlier accesses are over, and
takes with it what was translated since: that every context's accesses that only have to arrive count among them (log 43), and that
an arrival may be let through a step later than its operation is over (log 27), are the model's readings. -/
def Obligations.ResultsLand : Prop :=
  (∀ (g : Nat) (c : Ctx),
    let after := (landFlights g c).regs
    let due := fun (fs : List Flight) (u : Upd → Bool) => fs.any fun f => decide (f.due ≤ g) && u f.upd
    let isS := fun (r : SReg) (u : Upd) => match u with | .s q _ => decide (q = r) | .outs q => decide (q = r) | _ => false
    let isP := fun (r : PReg) (u : Upd) => match u with | .p q _ => decide (q = r) | .ps _ => decide (r ≠ 0) | _ => false
    let isL := fun (u : Upd) => match u with | .loop _ => true | _ => false
    let isM := fun (r : Sys2Proof.MReg) (u : Upd) => match u with | .m q _ => decide (q = r) | _ => false
    let isV := fun (r : VReg) (u : Upd) => match u with | .v q _ _ _ => decide (q = r) | .blk q _ _ => decide (q = r) | .puts _ l => l.any fun x => decide (x.1 = r) | _ => false
    let isK := fun (r : KReg) (u : Upd) => match u with | .k q _ => decide (q = r) | _ => false
    (landFlights g c).sq.flights = c.sq.flights.filter (fun f => decide (g < f.due)) ∧
    ((∀ f ∈ c.sq.flights, g < f.due) → after = c.regs ∧ (landFlights g c).ctl = c.ctl ∧ (landFlights g c).sq.loops = c.sq.loops) ∧
    (∀ pre f post, c.sq.flights = pre ++ f :: post → f.due ≤ g →
      (∀ (r : SReg) x, f.upd = .s r x → due post (isS r) = false → after.s[r] = if r = 0 then c.regs.s[r] else x) ∧
      (∀ (r : PReg) x, f.upd = .p r x → due post (isP r) = false → after.p.getLsbD r.val = if r = 0 then c.regs.p.getLsbD r.val else x) ∧
      (∀ (r : PReg) x, f.upd = .ps x → r ≠ 0 → due post (isP r) = false → after.p.getLsbD r.val = x.getLsbD r.val) ∧
      (∀ l, f.upd = .loop l → due pre isL = false → due post isL = false → (landFlights g c).sq.loops = l :: c.sq.loops) ∧
      (∀ (r : Sys2Proof.MReg) x, f.upd = .m r x → due post (isM r) = false → after.m[r] = if r = 0 then c.regs.m[r] else x) ∧
      (∀ (r : KReg) x, f.upd = .k r x → due post (isK r) = false → after.k[r] = x) ∧
      (∀ (r : VReg) x mask t, f.upd = .v r x mask (some t) → due post (isV r) = false → after.v[r].tag = t ∧
        (∀ j < 8192, mask.getLsbD j = true → after.v[r].bits.getLsbD j = x.getLsbD j) ∧
        (due pre (isV r) = false → ∀ j < 8192, mask.getLsbD j = false → after.v[r].bits.getLsbD j = c.regs.v[r].bits.getLsbD j))) ∧
    (due c.sq.flights isL = false → (landFlights g c).sq.loops = c.sq.loops) ∧
    (∀ r, due c.sq.flights (isS r) = false → after.s[r] = c.regs.s[r]) ∧
    (∀ r : PReg, due c.sq.flights (isP r) = false → after.p.getLsbD r.val = c.regs.p.getLsbD r.val) ∧
    (∀ r, due c.sq.flights (isM r) = false → after.m[r] = c.regs.m[r]) ∧
    (∀ r, due c.sq.flights (isV r) = false → after.v[r] = c.regs.v[r]) ∧
    (∀ r, due c.sq.flights (isK r) = false → after.k[r] = c.regs.k[r]) ∧
    (∀ f ∈ c.sq.flights, f.due ≤ g → f.flags &&& (landFlights g c).ctl.vflags = f.flags)) ∧
  (∀ (s : State) (u op : Nat) (ok : Bool) (c : Ctx), findCtx u s = some c →
  (∃ t d, exec (.fixedResultLands u) s = .next t ∧ findCtx u t = some d ∧ (∀ f ∈ d.sq.flights, d.sq.group < f.due) ∧
    d.regs = (landFlights c.sq.group c).regs ∧ d.sq.pends = c.sq.pends ∧
    let due := c.sq.flights.filter fun f => f.due ≤ c.sq.group
    d.sq.owed = c.sq.owed ++ due.filterMap (fun f => f.arrive) ∧ d.sq.faults = c.sq.faults ++ due.filterMap (fun f => f.fault)) ∧
  ((∀ p ∈ c.sq.pends, p.id ≠ op) → exec (.pendingResultArrives u op ok) s = .next s) ∧
  (∀ p, c.sq.pends.find? (fun p => p.id = op) = some p →
    (p.ready = false ∨ behindFixed c p = true ∨ c.sq.queue ≠ [] ∨ c.sq.rest ≠ none → exec (.pendingResultArrives u op ok) s = .next s) ∧
    (p.ready = true → behindFixed c p = false → c.sq.queue = [] → c.sq.rest = none → ∃ t d, exec (.pendingResultArrives u op ok) s = .next t ∧ findCtx u t = some d ∧
      (∀ q ∈ d.sq.pends, q.id ≠ op) ∧ d.sq.queue = c.sq.queue ∧ d.sq.next = c.sq.next ∧
      p.flags &&& d.ctl.vflags = p.flags ∧
      (ok = true ∨ p.addr = none → (∀ n, p.src ≠ .engine n) ∨ p.arrive = none → d.regs = (applyUpd p.upd c).regs) ∧
      (∀ n a, p.src = .engine n → p.arrive = some a → s.Tidy → addCheck s c.world c.lnch a = none →
        counterAt t a = min (counterAt s a + 1) (2 ^ 64 - 1) ∧ (p.addr = none → d.regs = (applyUpd p.upd c).regs)) ∧
      (∀ A, ok = false → p.addr = some A → d.regs = (applyUpd (noData p.upd) c).regs ∧ ∃ f ∈ d.sq.faults, f.cause = 0x16 ∧ f.addr = A))) ∧
  ((∀ o ∈ c.sq.stores, o.id ≠ op) → exec (.storePerformed u op ok) s = .next s) ∧
  (∀ o, c.sq.stores.find? (fun o => o.id = op) = some o →
    (o.ready = false → exec (.storePerformed u op ok) s = .next s) ∧
    (o.ready = true →
      let leaves := fun (v : State) => ∃ d, exec (.storePerformed u op ok) s = .next v ∧ findCtx u v = some d ∧
        d.sq.stores = c.sq.stores.filter (fun y => y.id ≠ op) ∧ d.regs = c.regs
      (o.kind = .plain ∨ o.kind = .mem → ∃ v, leaves v) ∧
      (∀ w page, o.kind = .tlbi w page →
        let free := ∀ x ∈ bound s, (∀ p ∈ x.sq.pends, p.id < op → p.addr ≠ none → ¬(x.uid = u ∨ (p.ready = true ∧ behindFixed x p = false))) ∧
          ∀ y ∈ x.sq.stores, y.id < op → y.kind = .mem → ¬(x.uid = u ∨ y.ready = true)
        (¬free → exec (.storePerformed u op ok) s = .next s) ∧
        (free → ∃ v, leaves v ∧ ∀ e ∈ v.tlb, e.world = w → ∃ a, page = some a ∧ (a < e.va ∨ e.va + e.size ≤ a))))))

/-! ### Scalar and predicate instructions (R86 to R92) -/

/-- R89: each scalar instruction's value, as exact integer arithmetic wrapped to 64 bits, with its latency of R48. The equation of
states is the frame too: nothing but the one result in flight differs. -/
def Obligations.ScalarEffects : Prop :=
  ∀ (s : State) (d a b : SReg) (i : BitVec 26) (q : PReg) (inv u : Bool) (n : Ix8),
  let x := rdS s a
  let y := rdS s b
  let k := 2 ^ (y.toNat % 64)
  WritesS 1 d (BitVec.ofInt 64 (x.toInt + y.toInt)) s (exec (.add d a b) s) ∧
  WritesS 1 d (BitVec.ofInt 64 (x.toInt - y.toInt)) s (exec (.sub d a b) s) ∧
  WritesS 1 d (BitVec.ofInt 64 (x.toInt + i.toInt)) s (exec (.addi d a i) s) ∧
  WritesS 3 d (BitVec.ofInt 64 (x.toInt * y.toInt)) s (exec (.mul d a b) s) ∧
  WritesS 3 d (BitVec.ofInt 64 (x.toInt * y.toInt / 2 ^ 64)) s (exec (.mulh d a b) s) ∧
  WritesS 3 d (BitVec.ofNat 64 (x.toNat * y.toNat / 2 ^ 64)) s (exec (.mulhl d a b) s) ∧
  WritesS 16 d (if y = 0 then BitVec.ofInt 64 (-1) else if u then BitVec.ofNat 64 (x.toNat / y.toNat)
    else BitVec.ofInt 64 (x.toInt.tdiv y.toInt)) s (exec (.divq d a b u) s) ∧
  WritesS 16 d (if y = 0 then x else if u then BitVec.ofNat 64 (x.toNat - y.toNat * (x.toNat / y.toNat))
    else BitVec.ofInt 64 (x.toInt - y.toInt * x.toInt.tdiv y.toInt)) s (exec (.remq d a b u) s) ∧
  WritesS 1 d (x &&& y) s (exec (.and d a b) s) ∧
  WritesS 1 d (x ||| y) s (exec (.or d a b) s) ∧
  WritesS 1 d (x ^^^ y) s (exec (.xor d a b) s) ∧
  WritesS 1 d (x &&& ~~~y) s (exec (.andn d a b) s) ∧
  WritesS 1 d (x &&& BitVec.ofInt 64 i.toInt) s (exec (.andi d a i) s) ∧
  WritesS 1 d (x ||| BitVec.ofInt 64 i.toInt) s (exec (.ori d a i) s) ∧
  WritesS 1 d (x ^^^ BitVec.ofInt 64 i.toInt) s (exec (.xori d a i) s) ∧
  WritesS 1 d (BitVec.ofNat 64 (x.toNat * k)) s (exec (.shl d a b) s) ∧
  WritesS 1 d (BitVec.ofNat 64 (x.toNat / k)) s (exec (.shr d a b) s) ∧
  WritesS 1 d (BitVec.ofInt 64 (x.toInt / (k : Int))) s (exec (.sra d a b) s) ∧
  (i.toNat < 64 →
    WritesS 1 d (BitVec.ofNat 64 (x.toNat * 2 ^ i.toNat)) s (exec (.shli d a i) s) ∧
    WritesS 1 d (BitVec.ofNat 64 (x.toNat / 2 ^ i.toNat)) s (exec (.shri d a i) s) ∧
    WritesS 1 d (BitVec.ofInt 64 (x.toInt / 2 ^ i.toNat)) s (exec (.srai d a i) s)) ∧
  WritesS 1 d (BitVec.ofNat 64 (x.toNat * k + x.toNat / 2 ^ (64 - y.toNat % 64))) s (exec (.rotl d a b) s) ∧
  WritesS 1 d (BitVec.ofInt 64 (min x.toInt y.toInt)) s (exec (.min d a b) s) ∧
  WritesS 1 d (BitVec.ofInt 64 (max x.toInt y.toInt)) s (exec (.max d a b) s) ∧
  WritesS 1 d (BitVec.ofNat 64 (min x.toNat y.toNat)) s (exec (.minl d a b) s) ∧
  WritesS 1 d (BitVec.ofNat 64 (max x.toNat y.toNat)) s (exec (.maxl d a b) s) ∧
  (∃ v : Word, WritesS 1 d v s (exec (.clz d a) s) ∧ v.toNat ≤ 64 ∧ x.toNat < 2 ^ (64 - v.toNat) ∧
    (x ≠ 0 → 2 ^ (63 - v.toNat) ≤ x.toNat ∧ v.toNat < 64)) ∧
  (∃ v : Word, WritesS 1 d v s (exec (.ctz d a) s) ∧ v.toNat ≤ 64 ∧ (∀ j < v.toNat, x.getLsbD j = false) ∧
    (x = 0 → v.toNat = 64) ∧ (x ≠ 0 → x.getLsbD v.toNat = true)) ∧
  WritesS 1 d (BitVec.ofNat 64 ((List.range 64).countP fun j => x.getLsbD j)) s (exec (.popc d a) s) ∧
  (∃ v : Word, WritesS 1 d v s (exec (.bswap d a) s) ∧
    ∀ j < 8, v.extractLsb' (8 * j) 8 = x.extractLsb' (56 - 8 * j) 8) ∧
  (0 < i.toNat → i.toNat ≤ 64 →
    WritesS 1 d (BitVec.ofInt 64 (x.setWidth i.toNat).toInt) s (exec (.sext d a i) s) ∧
    WritesS 1 d (BitVec.ofNat 64 (x.toNat % 2 ^ i.toNat)) s (exec (.zext d a i) s)) ∧
  WritesS 1 d x s (exec (.mov d a) s) ∧
  WritesS 1 d (if (rdP s q ^^ inv) = true then x else y) s (exec (.sel d a b q inv) s) ∧
  WritesS 1 d (BitVec.ofNat 64 (x.toNat + y.toNat * 2 ^ n.val)) s (exec (.addp d a b n) s)

/-- R90: the constants of `li` and `lih`. Constants, compares and predicate results land after one group (R48). R91: `cmp` and `cmpi`
put the value of the condition and its complement in flight for the pair. R92: the predicate instructions; `pset.all` puts one
result in flight that writes `p1` to `p15`, `pget` reads bit 0 as 1. -/
def Obligations.ConstantsComparesPredicates : Prop :=
  (∀ (s : State) (d : SReg) (v : BitVec 32) (sh : Fin 64),
  WritesS 1 d (BitVec.ofInt 64 (v.toInt * 2 ^ sh.val)) s (exec (.li d v sh) s) ∧
  (sh.val ≤ 32 → ∃ w : Word, WritesS 1 d w s (exec (.lih d v sh) s) ∧
    ∀ j < 64, w.getLsbD j = if sh.val ≤ j ∧ j < sh.val + 32 then v.getLsbD (j - sh.val) else (rdS s d).getLsbD j)) ∧
  (∀ (s : State) (c : Cond) (q : PReg) (a b : SReg) (i : BitVec 30),
  (∃ v : Bool, (v = true ↔ CondHolds c (rdS s a) (rdS s b)) ∧
    exec (.cmp c q a b) s = .next (withFlight 1 (.p (q + 1) (!v)) 0 s.me.sq.arrive none (withFlight 1 (.p q v) 0 none none s))) ∧
  (∃ v : Bool, (v = true ↔ CondHolds c (rdS s a) (BitVec.ofInt 64 i.toInt)) ∧
    exec (.cmpi c q a i) s = .next (withFlight 1 (.p (q + 1) (!v)) 0 s.me.sq.arrive none (withFlight 1 (.p q v) 0 none none s)))) ∧
  (∀ (s : State) (d a b : PReg) (x : SReg) (n : Fin 64),
  Emits 1 (.p d (rdP s a && rdP s b)) 0 s (exec (.pand d a b) s) ∧
  Emits 1 (.p d (rdP s a || rdP s b)) 0 s (exec (.por d a b) s) ∧
  Emits 1 (.p d (rdP s a ^^ rdP s b)) 0 s (exec (.pxor d a b) s) ∧
  Emits 1 (.p d (!rdP s a)) 0 s (exec (.pnot d a) s) ∧
  Emits 1 (.p d (rdP s a)) 0 s (exec (.pmov d a) s) ∧
  Emits 1 (.p d ((rdS s x).getLsbD n.val)) 0 s (exec (.pset d x n) s) ∧
  (∃ w : BitVec 16, Emits 1 (.ps w) 0 s (exec (.psetAll x) s) ∧ ∀ (g : Regs) (j : Nat), 0 < j → j < 16 →
    w.getLsbD j = (rdS s x).getLsbD j ∧ (applyReg (.ps w) g).p.getLsbD j = (rdS s x).getLsbD j) ∧
  (∃ w : Word, WritesS 1 x w s (exec (.pget x) s) ∧ ∀ j < 64, w.getLsbD j = if h : j < 16 then rdP s ⟨j, h⟩ else false))

/-- R153: `tid` writes `TIDR.TID` and `tcount` writes `TIDR.NTHR`, the context's own registers, to the register, zero-extended; as R48 lists
neither, through the register's pending bit (R49). Nothing else changes. -/
def Obligations.ThreadNumbers : Prop :=
  ∀ (s : State) (x : SReg),
  PendsS x (BitVec.ofNat 64 (bits (csrRead s 0x11) 0 24)) false s (exec (.tid x) s) ∧
  PendsS x (BitVec.ofNat 64 (bits (csrRead s 0x11) 24 25)) false s (exec (.tcount x) s)

/-! ### Control (R38, R93 to R103, R314, R315, R320) -/

/-- R38, R93 to R95: a nop changes nothing; a taken transfer fixes where the fourth group after its own begins, and retires its slot at
once (R39). A call also pushes the link and puts it in flight for `s63`; a return pops the return stack. A fault met by the search
for the link, over the call's own group and the three after it, is raised at the call and nothing of it commits (R95). R93: `jmp`
and `callr` to an odd address raise cause 0x0B with the address, and nothing of them commits. R95, R96: a call of either form with a
full return stack first stores the oldest entry at `XSTK.PTR` and raises `XSTK` by 8; a return with an empty one reloads the word
below; all report a failing access as cause 0x08. -/
def Obligations.TransfersRedirect : Prop :=
  (∀ (s : State) (off : BitVec 30) (a : SReg),
  let x := rdS s a
  let target := BitVec.ofInt 64 (s.me.sq.at_.pc.toInt + 2 * off.toInt)
  let linked := fun (link : Word) (t : Word) => withRedir t (withFlight 1 (.s 63 link) 0 none none (setArrive none (retireNow
    { s with me := { s.me with sq := { s.me.sq with rstack := s.me.sq.rstack ++ [link] } } })))
  exec .nop s = .next s ∧
  exec (.br off) s = .next (retireNow (withRedir target s)) ∧
  (x.getLsbD 0 = false → exec (.jmp a) s = .next (retireNow (withRedir x s))) ∧
  (∀ link, linkOf s = .ok link → s.me.sq.rstack.length < 16 → exec (.call off) s = .next (linked link target)) ∧
  (∀ link, linkOf s = .ok link → s.me.sq.rstack.length < 16 → x.getLsbD 0 = false → exec (.callr a) s = .next (linked link x)) ∧
  (∀ f, linkOf s = .error f → exec (.call off) s = .next (raise f s) ∧ (x.getLsbD 0 = false → exec (.callr a) s = .next (raise f s))) ∧
  (∀ f, gather s s.me.sq.start = .error f → linkOf s = .error f) ∧
  (∀ g0, gather s s.me.sq.start = .ok g0 → (∀ f, gather s g0.next = .error f → linkOf s = .error f) ∧
    ∀ g1, gather s g0.next = .ok g1 → (∀ f, gather s g1.next = .error f → linkOf s = .error f) ∧
    ∀ g2, gather s g1.next = .ok g2 → (∀ f, gather s g2.next = .error f → linkOf s = .error f) ∧
    ∀ g3, gather s g2.next = .ok g3 → linkOf s = .ok g3.next.pc) ∧
  (∀ e es, s.me.sq.rstack = es ++ [e] → exec .ret s = .next (retireNow (withRedir (e &&& ~~~1)
    { s with me := { s.me with sq := { s.me.sq with rstack := es } } })))) ∧
  (∀ (s : State) (a : SReg), (rdS s a).getLsbD 0 = true →
  exec (.jmp a) s = .next (raise { cause := 0x0B, addr := rdS s a } s) ∧
  exec (.callr a) s = .next (raise { cause := 0x0B, addr := rdS s a } s)) ∧
  (∀ (s : State) (off : BitVec 30) (a : SReg),
  let target := BitVec.ofInt 64 (s.me.sq.at_.pc.toInt + 2 * off.toInt)
  (∀ link e es gs, linkOf s = .ok link → s.me.sq.rstack = e :: es → es.length = 15 → spillSegs s .write s.me.ctl.xstk = .ok gs →
    let t := writeSegs (stepSegs .store (some s.me.uid) gs s) gs (leBytes 8 e.toNat)
    let called := fun (dest : Word) => withRedir dest (withFlight 1 (.s 63 link) 0 none none (setArrive none (retireNow
      { t with me := { t.me with
          ctl := { t.me.ctl with xstk := t.me.ctl.xstk + 8 }
          sq := { t.me.sq with rstack := t.me.sq.rstack.drop 1 ++ [link] } } })))
    exec (.call off) s = .next (called target) ∧
      ((rdS s a).getLsbD 0 = false → exec (.callr a) s = .next (called (rdS s a)))) ∧
  (∀ link f, linkOf s = .ok link → 16 ≤ s.me.sq.rstack.length → spillSegs s .write s.me.ctl.xstk = .error f →
    exec (.call off) s = .next (raise { cause := 0x08, addr := s.me.ctl.xstk } s) ∧
      ((rdS s a).getLsbD 0 = false → exec (.callr a) s = .next (raise { cause := 0x08, addr := s.me.ctl.xstk } s))) ∧
  (∀ gs, s.me.sq.rstack = [] → spillSegs s .read (s.me.ctl.xstk - 8) = .ok gs →
    let t := stepSegs .plain (some s.me.uid) gs s
    exec .ret s = .next (retireNow (withRedir (leWord (readSegs s gs) &&& ~~~1)
      { t with me := { t.me with ctl := { t.me.ctl with xstk := s.me.ctl.xstk - 8 } } }))) ∧
  (∀ f, s.me.sq.rstack = [] → spillSegs s .read (s.me.ctl.xstk - 8) = .error f →
    exec .ret s = .next (raise { cause := 0x08, addr := s.me.ctl.xstk - 8 } s)))

/-- R97, R100, R101: a loop of count 0 fixes the group after its body, any other puts a level with index 0 in flight, which lands one
group later, and retires its slot at once (R39); `lbrk` pops level 0; `lidx` and `lidx.n` read a level's index and count, 0 at or
beyond the depth. A loop whose group does not end at slot 5 raises 0x03, then a count above 32 bits 0x07, then a fault met by the
search for the body is raised, each at the loop with nothing of it committed. R99: the iteration step of level 0. A level with
passes left steps its index and sends issue to its first body group; a level on its last pass is popped; a group that ends elsewhere
steps nothing. A taken transfer due for that group prevails (R94). That the step back prevails over a `loop` of count 0 in the same
group is the model's choice (log 42). -/
def Obligations.Loops : Prop :=
  (∀ (s : State) (body : BitVec 12) (cnt : BitVec 31) (a d : SReg) (j : Ix8),
  (∀ first last after, loopBody s body.toNat = .ok (first, last, after) → loopCheck s (cnt.setWidth 64) = none →
    exec (.loop body cnt) s = .next (if cnt = 0 then retireNow { s with me := { s.me with sq := { s.me.sq with skip := some after } } }
      else if 6 ≤ s.me.sq.loops.length then raise { cause := 0x07, addr := cnt.setWidth 64 } s
      else withFlight 1 (.loop { idx := 0, cnt := cnt.setWidth 32, first, last }) 0 none none (setArrive none (retireNow s)))) ∧
  (∀ c i, (i, c) ∈ [(Instr.loop body cnt, (cnt.setWidth 64 : Word)), (.loopReg body a, rdS s a)] →
    (∀ f, gather s s.me.sq.start = .error f → exec i s = .next (raise f s)) ∧
    ∀ g, gather s s.me.sq.start = .ok g →
      (g.last.slot ≠ 5 → exec i s = .next (raise { cause := 0x03, addr := s.me.sq.start.pc } s)) ∧
      (g.last.slot = 5 → 2 ^ 32 ≤ c.toNat → exec i s = .next (raise { cause := 0x07, addr := c } s)) ∧
      (g.last.slot = 5 → c.toNat < 2 ^ 32 → ∀ f, loopBody s body.toNat = .error f → exec i s = .next (raise f s))) ∧
  (∀ first last after, loopBody s body.toNat = .ok (first, last, after) → loopCheck s (rdS s a) = none →
    exec (.loopReg body a) s = .next (if rdS s a = 0 then retireNow { s with me := { s.me with sq := { s.me.sq with skip := some after } } }
      else if 6 ≤ s.me.sq.loops.length then raise { cause := 0x07, addr := rdS s a } s
      else withFlight 1 (.loop { idx := 0, cnt := (rdS s a).setWidth 32, first, last }) 0 none none (setArrive none (retireNow s)))) ∧
  (∀ l ls, s.me.sq.loops = l :: ls → exec .lbrk s = .next (retireNow { s with me := { s.me with sq := { s.me.sq with loops := ls } } })) ∧
  (s.me.sq.loops = [] → exec .lbrk s = .next (raise { cause := 0x07 } s)) ∧
  WritesS 1 d (match s.me.sq.loops[j.val]? with | some l => l.idx.setWidth 64 | none => 0) s (exec (.lidx d j) s) ∧
  WritesS 1 d (match s.me.sq.loops[j.val]? with | some l => l.cnt.setWidth 64 | none => 0) s (exec (.lidxN d j) s)) ∧
  (∀ (q : Seq) (l : LoopLevel) (ls : List LoopLevel), q.loops = l :: ls →
  (l.last = q.at_ → l.idx.toNat + 1 < l.cnt.toNat →
    (advance q).loops = { l with idx := l.idx + 1 } :: ls ∧ (advance q).next = (redirTo (q.group + 1) q.redirs).getD l.first) ∧
  (l.last = q.at_ → l.cnt.toNat ≤ l.idx.toNat + 1 → (∀ m ∈ ls.head?, m.last ≠ q.at_) → (advance q).loops = ls ∧
    (advance q).next = (redirTo (q.group + 1) q.redirs).getD (q.skip.getD q.next)) ∧
  (l.last ≠ q.at_ → (advance q).loops = q.loops ∧
    (advance q).next = (redirTo (q.group + 1) q.redirs).getD (q.skip.getD q.next)) ∧
  (advance q).group = q.group + 1)

/-- R103: the value `csrw` forms, bit by bit. Write: an RW bit takes the operand, a W1C bit is cleared by a 1. Set: an RW bit takes the
union, a W1C bit keeps its value. Clear: an RW or W1C bit is cleared by a 1. Every other bit keeps its value. The one exception is
`XSTAT.SLOT`, whose values 6 and 7 are written as 5 (R25). R24, R26, R27, R103: `csrr` puts the whole register in flight, `OUTS`
with what the rest of its group adds to it; a `csrw` that would change a handler field in user mode raises 0x0C with the register
number; one that forms an invalid tile configuration raises 0x02 with the value; any other lands after one group, a tile
configuration at its place in the tile order: it is held while a command that reads or writes the tile is unfinished, and is the
issued configuration from there on (R256), which the other slots of its group still read as the group began (R46). That R24 judges a
SLOT of 6 or 7 as the 5 written is the model's reading (log 68), and that a tile configuration is issued at once, by R256 and not by
R103, too (log 96). -/
def Obligations.CsrMoves : Prop :=
  (∀ (n : Nat) (old w : Word) (j : Nat), j < 64 →
  let rw := (csrRW n).getLsbD j
  let wc := (csrW1C n).getLsbD j && !rw
  (csrForm .write n old w).getLsbD j = (if rw then w.getLsbD j else if wc then old.getLsbD j && !w.getLsbD j else old.getLsbD j) ∧
  (csrForm .set n old w).getLsbD j = (if rw then old.getLsbD j || w.getLsbD j else old.getLsbD j) ∧
  (csrForm .clear n old w).getLsbD j = (if rw || wc then old.getLsbD j && !w.getLsbD j else old.getLsbD j) ∧
  (∀ op, let x := csrForm op n old w
    ((n ≠ 0 ∨ bits x 22 3 ≤ 5) → csrNew op n old w = x) ∧
    (n = 0 → 5 < bits x 22 3 → bits (csrNew op n old w) 22 3 = 5 ∧
      ((j < 22 ∨ 25 ≤ j) → (csrNew op n old w).getLsbD j = x.getLsbD j)))) ∧
  (∀ (s : State) (d a : SReg) (n : BitVec 12) (op : CsrOp),
  let i : Instr := match op with | .write => .csrw n a | .set => .csrwSet n a | .clear => .csrwClr n a
  let old := csrRead s n.toNat
  let v := csrNew op n.toNat old (rdS s a)
  let user := s.me.ctl.handler = false ∧ (old ^^^ v) &&& csrHandler n.toNat ≠ 0
  (n ≠ 0x014 → WritesS 1 d old s (exec (.csrr d n) s)) ∧
  (n = 0x014 → Emits 1 (.outs d) 0 s (exec (.csrr d n) s)) ∧
  (∀ c : Ctx, (applyUpd (.outs d) c).regs = applyReg (.s d (BitVec.ofNat 64
    (outL c % 256 + outS c % 256 * 2 ^ 8 + outC c % 256 * 2 ^ 16 + outT c % 256 * 2 ^ 24))) c.regs) ∧
  (user → exec i s = .next (raise { cause := 0x0C, addr := n.setWidth 64 } s)) ∧
  (¬user → (csrTile n.toNat).isSome = true → cfgOk v = false → exec i s = .next (raise { cause := 0x02, addr := v } s)) ∧
  (¬user → csrTile n.toNat = none → Emits 1 (.csr n.toNat v) 0 s (exec i s)) ∧
  (∀ t, csrTile n.toNat = some t → cfgOk v = true → ¬user →
    let q := settleQueries s.me.uid s
    (tileWaits s.me t = true → exec i s = .next (holdHere s)) ∧
    (tileWaits s.me t = false →
      Emits 1 .none 0 { q with me := { modTile t (fun x => { x with cfg := v, icfg := v, ver := x.ver + 1 }) q.me with
        sq := { q.me.sq with
          cfgWas := if q.me.sq.cfgWas.any (fun x => x.1 = t) then q.me.sq.cfgWas else (t, (tileOf q.me t).icfg) :: q.me.sq.cfgWas
          tagLate := q.me.sq.tagLate.filter fun x => x.1 ≠ t } } } (exec i s))))

/-! ### Traps (R305 to R315) -/

/-- R307: taking a trap saves cause, address, place and mode, writes the 384-byte record at `XREC`, freezes what is in flight, and goes
on at `XVEC` in handler mode. That it drops the wait that was registered is the model's choice (log 83). R169, R309: in handler
mode, with no vector, or when the record cannot be stored, the fault is undeliverable: its context stops for good and no handler
runs. Its launch has error code 0x85 with the cause and the thread number, unless it had recorded an error before, which is kept.
R305, R306, R310: at a boundary of user mode the oldest recorded boundary fault is taken, else the fault of the next group's fetch;
the resume point is the group that would have issued next. -/
def Obligations.TrapsAreTaken : Prop :=
  (∀ (s : State) (f : FaultInfo) (p : CodePos) (gs : List Seg),
  s.me.ctl.handler = false → s.me.ctl.xvec ≠ 0 → recordSegs s = .ok gs →
  let w := writeSegs (stepSegs .store (some s.me.uid) gs s) gs (trapRecord s.me f p (clkWord s))
  let t := takeTrap f p s
  t = withdrawEdge s.me.uid { w with me := enterHandler f p w.me } ∧
  t.me.ctl.handler = true ∧ t.me.ctl.xpc = p.pc ∧ t.me.ctl.slot = BitVec.ofNat 3 p.slot ∧ t.me.ctl.xaddr = f.addr ∧
  t.me.ctl.xcause = BitVec.ofNat 64 (f.cause % 256 + f.sub % 256 * 2 ^ 8 + f.tag % 2 ^ 32 * 2 ^ 32) ∧
  t.me.sq.next = ⟨s.me.ctl.xvec, 0⟩ ∧ t.me.sq.queue = [] ∧ t.me.sq.flights = [] ∧ t.me.sq.redirs = [] ∧
  t.me.sq.snap = w.me.sq.flights.map (fun x => { x with due := x.due - w.me.sq.group, upd := fixUpd w.me x.upd }) ∧
  t.me.sq.sredir = w.me.sq.redirs.map (fun x => { x with at_ := x.at_ - w.me.sq.group }) ∧
  t.me.regs = s.me.regs ∧ (trapRecord s.me f p (clkWord s)).length = 384) ∧
  (∀ (s : State) (f : FaultInfo) (p : CodePos),
  (s.me.ctl.handler = true ∨ s.me.ctl.xvec = 0 ∨ ∃ e, recordSegs s = .error e) →
  takeTrap f p s = undeliverable f p s ∧ (undeliverable f p s).me.status = .retiring ∧ (undeliverable f p s).me.sq.queue = [] ∧
    (undeliverable f p s).me.ctl.handler = s.me.ctl.handler ∧ (undeliverable f p s).me.regs = s.me.regs ∧
    ∀ l, launchOf s s.me.lnch = some l → ∃ m, launchOf (undeliverable f p s) s.me.lnch = some m ∧
      (l.err = 0 → m.err = 0x85 ∧ bits m.einfo 0 8 = f.cause % 256 ∧ (s.me.tid < 2 ^ 24 → bits m.einfo 24 24 = s.me.tid)) ∧
      (l.err ≠ 0 → m.err = l.err ∧ m.einfo = l.einfo)) ∧
  (∀ (s : State) (f : FaultInfo),
  let trap := fun (x : State) => { takeTrap f s.me.sq.next x with me := { (takeTrap f s.me.sq.next x).me with
    sq := { (takeTrap f s.me.sq.next x).me.sq with diverted := false } } }
  let rest := { s with me := { s.me with sq := { s.me.sq with faults := s.me.sq.faults.drop 1 } } }
  let go := exec (.trapEntry s.me.uid f) s
  s.me.status = .running →
  (s.me.sq.queue ≠ [] ∨ s.me.sq.rest ≠ none → go = .next s) ∧
  (s.me.sq.queue = [] → s.me.sq.rest = none →
    (s.me.ctl.handler = false → s.me.sq.faults.head? = some f → go = .next (trap rest)) ∧
    (s.me.ctl.handler = false → (∃ g, s.me.sq.faults.head? = some g ∧ g ≠ f) → go = .next s) ∧
    (s.me.ctl.handler = true ∨ s.me.sq.faults = [] →
      (fetchFault s = some f → go = .next (trap s)) ∧ (fetchFault s ≠ some f → go = .next s))))

/-- R314, R315, R320: `trap` retires and then takes cause 0x14 with the slot after it as the resume point; `xret` in handler mode marks
its group, whose boundary leaves the handler; in user mode it raises 0x0C; the `tlbi` forms drop translations of the world. R307,
R315: leaving a handler right after entering it resumes exactly what the trap interrupted: the place, the mode, the results in
flight and the transfers fixed. -/
def Obligations.TrapAndReturn : Prop :=
  (∀ (s : State) (i : BitVec 26) (a : SReg),
  (∀ r rest, s.me.sq.queue = r :: rest → (retireNow s).me.sq.queue = r :: rest →
    exec (.trap i) s = .next (takeTrap { cause := 0x14, addr := i.setWidth 64 } ⟨r.pc, r.idx⟩ (retireNow s))) ∧
  ((retireNow s).me.sq.queue = [] → exec (.trap i) s = .next (takeTrap { cause := 0x14, addr := i.setWidth 64 }
    (endGroup (retireNow s)).me.sq.next (endGroup (retireNow s)))) ∧
  (s.me.ctl.handler = true → exec .xret s = .next (retireNow { s with me := { s.me with sq := { s.me.sq with returning := true } } })) ∧
  (s.me.ctl.handler = false → exec .xret s = .next (raise { cause := 0x0C } s)) ∧
  exec (.tlbi a) s = .next (withStore true (.tlbi s.me.world (some ((rdS s a).toNat % 2 ^ 57))) none { s with tlb := s.tlb.filter fun t =>
    !(t.world = s.me.world && (decide (t.va ≤ (rdS s a).toNat % 2 ^ 57) && decide ((rdS s a).toNat % 2 ^ 57 < t.va + t.size))) }) ∧
  exec .tlbiAll s = .next (withStore true (.tlbi s.me.world none) none { s with tlb := s.tlb.filter fun t => t.world ≠ s.me.world })) ∧
  (∀ (c : Ctx) (f : FaultInfo) (p : CodePos), c.ctl.handler = false →
  (∀ x ∈ c.sq.flights, c.sq.group ≤ x.due ∧ ∀ r, x.upd ≠ .outs r) → (∀ x ∈ c.sq.redirs, c.sq.group ≤ x.at_) → p.slot < 6 →
  let b := leaveHandler (enterHandler f p c)
  b.ctl.handler = false ∧ b.sq.next = p ∧ b.sq.flights = c.sq.flights ∧ b.sq.redirs = c.sq.redirs ∧ b.sq.skip = c.sq.skip ∧
    b.sq.exiting = c.sq.exiting ∧ b.sq.late = c.sq.late ∧ b.regs = c.regs ∧ b.sq.loops = c.sq.loops ∧ b.sq.rstack = c.sq.rstack ∧ b.sq.pends = c.sq.pends ∧ b.sq.stores = c.sq.stores)

/-! ### Vector instructions (R107 to R133) -/

/-- R107, R108, R112, R113, R119: a lane-wise instruction whose sources carry one accepted tag puts the result of R113 in flight
for every enabled lane, as `laneForm` gives it; a masked-off lane is kept, or zero where Z is 1, and raises nothing. The sign of
a difference of zeros and of `vlog2` 1.0 are the model's readings (logs 60, 69). -/
def Obligations.LanewiseEffects : Prop :=
  ∀ (s : State) (i : Instr) (F : LaneForm) (t : Tag),
  laneForm i = some F → (∀ r ∈ F.srcs, (rdV s r).tag = t) → F.accept t = true →
  WritesV F.lat F.d t (unionFlags (lanes t) (fun j => (rdM s F.m).getLsbD j) fun j => (F.val s t j).2)
    (masked (rdM s F.m) F.z fun j => (F.val s t j).1 % 2 ^ laneW t) s (exec i s)

/-- R109: the first source of a lane-wise instruction that fails a check raises its cause with its register number: NONE 0x05, POISON
0x11 with the poison sub-code, a tag not accepted or not the operating tag 0x04. R109: the same for the first source of every other
vector instruction. That `vcmp` accepts no tag that R116's table does not name is the model's reading (log 52). -/
def Obligations.VectorSourceFaults : Prop :=
  (∀ (s : State) (i : Instr) (F : LaneForm) (pre post : List VReg) (r : VReg) (t : Tag),
  laneForm i = some F → F.srcs = pre ++ r :: post → (∀ q ∈ pre, (rdV s q).tag = t) → (pre ≠ [] → F.accept t = true) →
  ((rdV s r).tag = .none → exec i s = .next (raise { cause := 0x05, addr := BitVec.ofNat 64 r.val } s)) ∧
  ((rdV s r).tag = .poison → exec i s = .next (raise { cause := 0x11, sub := 3, addr := BitVec.ofNat 64 r.val } s)) ∧
  ((rdV s r).tag ≠ .none → (rdV s r).tag ≠ .poison → (if pre = [] then F.accept (rdV s r).tag = false else (rdV s r).tag ≠ t) →
    exec i s = .next (raise { cause := 0x04, addr := BitVec.ofNat 64 r.val } s))) ∧
  (∀ (s : State) (i : Instr) (a : VReg) (acc : Tag → Bool), vecSource i = some (a, acc) →
  ((rdV s a).tag = .none → exec i s = .next (raise { cause := 0x05, addr := BitVec.ofNat 64 a.val } s)) ∧
  ((rdV s a).tag = .poison → exec i s = .next (raise { cause := 0x11, sub := 3, addr := BitVec.ofNat 64 a.val } s)) ∧
  ((rdV s a).tag ≠ .none → (rdV s a).tag ≠ .poison → acc (rdV s a).tag = false →
    exec i s = .next (raise { cause := 0x04, addr := BitVec.ofNat 64 a.val } s)))

/-- R71: rounding a value that a computational format holds gives back its pattern and raises nothing, under every mode; only
a NaN becomes the canonical one. -/
def Obligations.RoundingIsExact : Prop :=
  ∀ (t : Tag) (rm : Rm) (x : Nat), isFloat t = true → x < 2 ^ laneW t →
  (decodeReal t x).round (fmtOf t) rm = if (decodeReal t x).isNaN then (canonNaN (fmtOf t), 0) else (x, 0)

/-- R114, R115: the moves and the select. R69, R81, R117, R118, R128: conversions. A retag keeps every bit (a retag to E2M1X clears
bytes 864 and up, and raises 0x04 with sub-code 1 for the first malformed block), and one with a mask or a part raises 0x02 with the
`mod` field (R110); a conversion writes its part only; `vpack` takes the lanes of both sources, `vunpk` one half. Between integer
tags the value is fitted (R113). Which lanes a mask of `vpack` names, and which of two faults of a retag comes first, are the
model's choices (logs 70, 72). -/
def Obligations.VectorMovesAndConversions : Prop :=
  (∀ (s : State) (t : Tag) (d a b : VReg) (x : SReg) (m : Sys2Proof.MReg) (z : Bool) (j : Fin 1024),
  let v := rdV s a
  WritesV 2 d t 0 (masked (rdM s m) z fun _ => (rdS s x).toNat % 2 ^ laneW t) s (exec (.vsplat t d x m z) s) ∧
  (isLaned v.tag = true →
    WritesS 2 x (if isInt v.tag then BitVec.ofInt 64 (sInt v.tag (lane v.tag v (j.val % lanes v.tag)))
      else BitVec.ofNat 64 (lane v.tag v (j.val % lanes v.tag))) s (exec (.vmovs x a j) s) ∧
    WritesV 2 d v.tag 0 (fun i _ => if i = j.val % lanes v.tag then (rdS s x).toNat % 2 ^ laneW v.tag else lane v.tag v i) s
      (exec (.vins d a x j) s) ∧
    WritesV 2 d v.tag 0 (masked (rdM s m) z (lane v.tag v)) s (exec (.vmov d a m z) s) ∧
    ((rdV s b).tag = v.tag → WritesV 2 d v.tag 0 (fun i _ => lane v.tag (if (rdM s m).getLsbD i then v else rdV s b) i) s
      (exec (.vsel d a b m) s))) ∧
  (v.tag = .e2m1x → m = 0 → Emits 2 (.v d v.bits (BitVec.allOnes 8192) (some .e2m1x)) 0 s (exec (.vmov d a m z) s))) ∧
  (∀ (s : State) (d a b : VReg) (m : Sys2Proof.MReg) (t : Tag) (h : Fin 4) (w z hi : Bool) (rm : Rm),
  let v := rdV s a
  let u := v.tag
  let n := min (lanes u) (lanes t)
  let q := max (lanes u) (lanes t) / n
  (sourceCheck s a = none → (u = .raw ∨ t = .raw) → t ≠ .e2m1x → m = 0 → h = 0 →
    Emits 3 (.v d v.bits (BitVec.allOnes 8192) (some t)) 0 s (exec (.vcvt d a m t h w rm) s)) ∧
  (u = .raw → t = .e2m1x → m = 0 → h = 0 → (∀ k < 48, specialOk (laneBits v.bits 8 (816 + k)) = true) →
    ∃ x : BitVec 8192, Emits 3 (.v d x (BitVec.allOnes 8192) (some .e2m1x)) 0 s (exec (.vcvt d a m t h w rm) s) ∧
      ∀ j < 8192, x.getLsbD j = (decide (j < 6912) && v.bits.getLsbD j)) ∧
  (u = .raw → t = .e2m1x → m = 0 → h = 0 → ∀ b < 48, specialOk (laneBits v.bits 8 (816 + b)) = false →
    (∀ k < b, specialOk (laneBits v.bits 8 (816 + k)) = true) →
    exec (.vcvt d a m t h w rm) s = .next (raise { cause := 0x04, sub := 1, addr := BitVec.ofNat 64 (b * 2 ^ 16 + a.val) } s)) ∧
  (sourceCheck s a = none → (u = .raw ∨ t = .raw) → (m ≠ 0 ∨ h ≠ 0) → exec (.vcvt d a m t h w rm) s =
    .next (raise { cause := 0x02, addr := BitVec.ofNat 64 (h.val * 256 + t.code * 16 + w.toNat * 8 + rm.code) } s)) ∧
  (isLaned u = true → isLaned t = true → u ≠ .raw → t ≠ .raw → h.val < q →
    let lo := if lanes t > lanes u then n * h.val else 0
    let src := fun i => lane u v ((if lanes t > lanes u then 0 else n * h.val) + (i - lo))
    let on := fun i => decide (lo ≤ i) && decide (i < lo + n) && (rdM s m).getLsbD i
    WritesV 3 d t (unionFlags (lanes t) on fun i => (cvtLane u t w (rmOf s rm) (src i)).2)
      (fun i old => if on i then (cvtLane u t w (rmOf s rm) (src i)).1 % 2 ^ laneW t else old) s (exec (.vcvt d a m t h w rm) s)) ∧
  (isLaned u = true → isLaned t = true → u ≠ .raw → t ≠ .raw → q ≤ h.val →
    exec (.vcvt d a m t h w rm) s = .next (raise { cause := 0x02, addr := BitVec.ofNat 64 (h.val * 256 + t.code * 16 + w.toNat * 8 + rm.code) } s)) ∧
  (∀ o ∈ [(Tag.i32, Tag.i16), (.i16, .i8), (.fp32, .bf16)], u = o.1 → (rdV s b).tag = u →
    let f := fun i => cvtLane u o.2 w (rmOf s rm) (lane u (rdV s (if i < lanes u then a else b)) (i % lanes u))
    WritesV 3 d o.2 (unionFlags (lanes o.2) (fun i => (rdM s m).getLsbD i) fun i => (f i).2)
      (masked (rdM s m) z fun i => (f i).1 % 2 ^ laneW o.2) s (exec (.vpack d a b m z w rm) s)) ∧
  (∀ o ∈ [(Tag.i8, Tag.i16), (.i16, .i32), (.bf16, .fp32), (.e4m3, .bf16)], u = o.1 →
    let f := fun i => cvtLane u o.2 false .rne (lane u v (lanes o.2 * hi.toNat + i))
    WritesV 3 d o.2 (unionFlags (lanes o.2) (fun i => (rdM s m).getLsbD i) fun i => (f i).2)
      (masked (rdM s m) z fun i => (f i).1 % 2 ^ laneW o.2) s (exec (.vunpk d a m hi z) s)) ∧
  (∀ x, isInt u = true → isInt t = true → cvtLane u t w rm x = fitLane t w (sInt u x)))

/-- R116: `vcmp` puts the mask pair in flight: an enabled lane below L is set in exactly one of the two, every other lane in neither.
R133: the mask instructions, lane by lane. -/
def Obligations.ComparesAndMasks : Prop :=
  (∀ (s : State) (c : Cond) (d : Sys2Proof.MReg) (a b : VReg) (m : Sys2Proof.MReg) (t : Tag),
  (rdV s a).tag = t → (rdV s b).tag = t → cmpAccepts c t = true →
  ∃ (yes no : BitVec 1024) (g : Flags),
    exec (.vcmp c d a b m) s = .next (withFlight 2 (.m (d + 1) no) g s.me.sq.arrive none (withFlight 2 (.m d yes) 0 none none s)) ∧
    (isFloat t = false → g = 0) ∧
    ∀ i < 1024, let on := decide (i < lanes t) && (rdM s m).getLsbD i
      let r := laneCond c t (lane t (rdV s a) i) (lane t (rdV s b) i)
      yes.getLsbD i = (on && r) ∧ no.getLsbD i = (on && !r)) ∧
  (∀ (s : State) (d a b : Sys2Proof.MReg) (x : SReg) (v : VReg) (q : PReg),
  let puts := fun (f : Nat → Bool) (o : Out) => ∃ y : BitVec 1024, Emits 2 (.m d y) 0 s o ∧ ∀ i < 1024, y.getLsbD i = f i
  puts (fun i => decide (i < (rdS s x).toNat)) (exec (.vmaskN d x) s) ∧
  (isLaned (rdV s v).tag = true → puts (fun i => decide (i < lanes (rdV s v).tag) && laneNonzero (rdV s v).tag (lane (rdV s v).tag (rdV s v) i))
    (exec (.vmaskNz d v) s)) ∧
  puts (fun i => if i / 64 = q.val then (rdS s x).getLsbD (i % 64) else (rdM s d).getLsbD i) (exec (.vmaskQ d x q) s) ∧
  puts (fun i => (rdM s a).getLsbD i && (rdM s b).getLsbD i) (exec (.mand d a b) s) ∧
  puts (fun i => (rdM s a).getLsbD i || (rdM s b).getLsbD i) (exec (.mor d a b) s) ∧
  puts (fun i => (rdM s a).getLsbD i ^^ (rdM s b).getLsbD i) (exec (.mxor d a b) s) ∧
  puts (fun i => !(rdM s a).getLsbD i) (exec (.mnot d a) s) ∧
  WritesS 2 x (BitVec.ofNat 64 ((List.range 1024).countP fun i => (rdM s a).getLsbD i)) s (exec (.mcnt x a) s) ∧
  (∃ k ≤ 1024, WritesS 2 x (BitVec.ofNat 64 k) s (exec (.mfirst x a) s) ∧ (∀ i < k, (rdM s a).getLsbD i = false) ∧
    (k < 1024 → (rdM s a).getLsbD k = true)))

/-- R123 to R125: the permute network. That a moved NaN keeps its bits is the model's choice (log 71). R120 to R122: register
indirection reads and writes computed registers. A computed number at or above F raises 0x06 with `XADDR` naming the lowest failing
granule and its number (R122); the registers read through granules must carry one tag that is neither NONE, POISON nor E2M1X, those
written the tag of the data or NONE. The granules of a register tagged NONE that `vputl` does not write are free values (log 5).
With no granule enabled `vgetl` keeps the tag that `vd` holds when the result lands. -/
def Obligations.PermuteEffects : Prop :=
  (∀ (s : State) (d a b : VReg) (m : Sys2Proof.MReg) (x : SReg) (k : Fin 1024) (z : Bool) (pat g : Ix8) (t : Tag),
  (rdV s a).tag = t → isLaned t = true →
  let at_ := fun i => lane t (rdV s a) i
  let mk := rdM s m
  let n := lanes t
  let sum := ((rdS s x).toNat + k.val) % n
  let sel := (List.range n).filter fun i => mk.getLsbD i
  (permIndexTag (laneW t) (rdV s b).tag = true → WritesV 3 d t 0 (masked mk z fun i =>
    let u := laneBits (rdV s b).bits (laneW t) i
    at_ (if laneW t = 8 then 256 * (i / 256) + u else u % n)) s (exec (.vperm d a b m z) s)) ∧
  WritesV 3 d t 0 (masked mk z fun i => at_ ((i + sum) % n)) s (exec (.vrot d a x k m z) s) ∧
  WritesV 3 d t 0 (masked mk z fun _ => at_ sum) s (exec (.vbcast d a x k m z) s) ∧
  WritesV 3 d t 0 (fun i _ => if h : i < sel.length then at_ sel[i] else 0) s (exec (.vcomp d a m) s) ∧
  WritesV 3 d t 0 (masked mk z fun i => at_ ((List.range i).countP fun j => mk.getLsbD j)) s (exec (.vexpd d a m z) s) ∧
  ((rdV s b).tag = t → pat.val < 6 → g.val < 6 → ∃ f : Nat → Nat, WritesV 3 d t 0 (masked mk z f) s (exec (.vshuf d a b m pat g z) s) ∧
    let u := n / 2 ^ g.val
    let from_ := fun (r : VReg) (j e : Nat) => lane t (rdV s r) (j * 2 ^ g.val + e)
    ∀ j < u / 2, ∀ e < 2 ^ g.val,
      let to_ := fun k => f (k * 2 ^ g.val + e)
      match pat.val with
      | 0 => to_ (2 * j) = from_ a j e ∧ to_ (2 * j + 1) = from_ b j e
      | 1 => to_ (2 * j) = from_ a (u / 2 + j) e ∧ to_ (2 * j + 1) = from_ b (u / 2 + j) e
      | 2 => to_ j = from_ a (2 * j) e ∧ to_ (u / 2 + j) = from_ b (2 * j) e
      | 3 => to_ j = from_ a (2 * j + 1) e ∧ to_ (u / 2 + j) = from_ b (2 * j + 1) e
      | 4 => to_ (2 * j) = from_ a (2 * j) e ∧ to_ (2 * j + 1) = from_ b (2 * j) e
      | _ => to_ (2 * j) = from_ a (2 * j + 1) e ∧ to_ (2 * j + 1) = from_ b (2 * j + 1) e)) ∧
  (∀ (s : State) (d a b : VReg) (m : Sys2Proof.MReg) (x : SReg) (g z : Bool), s.me.foot ≤ 640 →
  let w := if g then 16 else 32
  let n := if g then 512 else 256
  let on := (List.range n).filter fun i => (rdM s m).getLsbD i
  let from_ := fun (i : Nat) => b.val + laneBits (rdV s a).bits 16 i
  let to_ := fun (i : Nat) => d.val + laneBits (rdV s a).bits 16 i
  let tagOf := fun (r : Nat) => (rdV s (regNo r)).tag
  let at_ := fun (i r : Nat) => BitVec.ofNat 64 (i * 2 ^ 16 + min r 0x3FF)
  let first := fun (i : Nat) (ok : Nat → Prop) => ∃ pre post, on = pre ++ i :: post ∧ ∀ j ∈ pre, ok j
  let whole := fun (r : Nat) => Upd.v d (rdV s (regNo r)).bits (BitVec.allOnes 8192) (some (tagOf r))
  let plain := fun (t : Tag) => t ≠ .none ∧ t ≠ .poison ∧ t ≠ .e2m1x
  let getl := exec (.vgetl d a m b g z) s
  let putl := exec (.vputl d a b m g) s
  ((rdV s a).tag = .i16 →
    ((∀ i ∈ on, from_ i < s.me.foot ∧ plain (tagOf (from_ i)) ∧ tagOf (from_ i) = tagOf (from_ (on.headD 0))) →
      ∃ data mask, Emits 3 (.v d data mask (on.head?.map fun i => tagOf (from_ i))) 0 s getl ∧
        ∀ (o : BitVec 8192) (i : Nat), i < n → laneBits ((o &&& ~~~mask) ||| (data &&& mask)) w i =
          masked (rdM s m) z (fun i => laneBits (rdV s (regNo (from_ i))).bits w i) i (laneBits o w i)) ∧
    (∀ i, first i (fun j => from_ j < s.me.foot) → s.me.foot ≤ from_ i → getl = .next (raise { cause := 0x06, addr := at_ i (from_ i) } s)) ∧
    ((∀ i ∈ on, from_ i < s.me.foot) →
      (∀ i, first i (fun j => plain (tagOf (from_ j))) → ¬ plain (tagOf (from_ i)) → getl = .next (raise
        { cause := if tagOf (from_ i) = .none then 0x05 else if tagOf (from_ i) = .poison then 0x11 else 0x04
          sub := if tagOf (from_ i) = .poison then 3 else 0, addr := at_ i (from_ i) } s)) ∧
      ((∀ i ∈ on, plain (tagOf (from_ i))) → ∀ i, first i (fun j => tagOf (from_ j) = tagOf (from_ (on.headD 0))) →
        tagOf (from_ i) ≠ tagOf (from_ (on.headD 0)) → getl = .next (raise { cause := 0x04, addr := at_ i (from_ i) } s)))) ∧
  ((rdV s a).tag = .i16 → plain (rdV s b).tag →
    ((∀ i ∈ on, to_ i < s.me.foot ∧ (tagOf (to_ i) = (rdV s b).tag ∨ tagOf (to_ i) = .none)) →
      ∃ (u : Upd) (k : Nat), putl = .next (withFlight 3 u 0 s.me.sq.arrive none { s with fresh := k }) ∧
        ∀ h : Regs, (∀ r : VReg, h.v[r] = s.me.regs.v[r]) → let h' := applyReg u h
          h'.s = h.s ∧ h'.p = h.p ∧ h'.m = h.m ∧ h'.k = h.k ∧
          ∀ r : VReg, h'.v[r].tag = (if r.val ∈ on.map to_ then (rdV s b).tag else h.v[r].tag) ∧
            ∀ i < n, (i ∈ on ∧ to_ i = r.val → laneBits h'.v[r].bits w i = laneBits (rdV s b).bits w i) ∧
              (¬(i ∈ on ∧ to_ i = r.val) → (h.v[r].tag ≠ .none ∨ r.val ∉ on.map to_) → laneBits h'.v[r].bits w i = laneBits h.v[r].bits w i)) ∧
    (∀ i, first i (fun j => to_ j < s.me.foot) → s.me.foot ≤ to_ i → putl = .next (raise { cause := 0x06, addr := at_ i (to_ i) } s)) ∧
    ((∀ i ∈ on, to_ i < s.me.foot) → ∀ i, first i (fun j => tagOf (to_ j) = (rdV s b).tag ∨ tagOf (to_ j) = .none) →
      tagOf (to_ i) ≠ (rdV s b).tag → tagOf (to_ i) ≠ .none → putl = .next (raise { cause := 0x04, addr := at_ i (to_ i) } s))) ∧
  (∀ r, r = a.val + (rdS s x).toNat →
    (r < s.me.foot → tagOf r ≠ .none → tagOf r ≠ .poison → Emits 3 (whole r) 0 s (exec (.vmovx d a x) s)) ∧
    (r < s.me.foot → tagOf r = .none → exec (.vmovx d a x) s = .next (raise { cause := 0x05, addr := BitVec.ofNat 64 r } s)) ∧
    (r < s.me.foot → tagOf r = .poison → exec (.vmovx d a x) s = .next (raise { cause := 0x11, sub := 3, addr := BitVec.ofNat 64 r } s)) ∧
    (s.me.foot ≤ r → exec (.vmovx d a x) s = .next (raise { cause := 0x06, addr := BitVec.ofNat 64 (min r 0x3FF) } s))) ∧
  (∀ r, r = d.val + (rdS s x).toNat → (rdV s a).tag ≠ .none → (rdV s a).tag ≠ .poison →
    (r < s.me.foot → Emits 3 (.v (regNo r) (rdV s a).bits (BitVec.allOnes 8192) (some (rdV s a).tag)) 0 s (exec (.vstx d a x) s)) ∧
    (s.me.foot ≤ r → exec (.vstx d a x) s = .next (raise { cause := 0x06, addr := BitVec.ofNat 64 (min r 0x3FF) } s))))

/-- R78, R80, R126: reductions and scans. Integer sums are exact and clamped once, also those of a scan, whose flags are the union of
its lanes'; the extremes, and those of each prefix of a scan, are those of the enabled lanes, or the identity; floating ones go
through the tree of R78, scans through R79, and a NaN lane of a scan is the canonical NaN (R63). Lanes 1 and up of a reduction are
zero. R127: `vargmax` gives the lowest index of the largest enabled value, −1 with no lane enabled; a NaN is below every number. An
enabled signalling NaN raises NV, and nothing else raises a flag. -/
def Obligations.ReductionEffects : Prop :=
  (∀ (s : State) (d a : VReg) (m : Sys2Proof.MReg) (rm : Rm) (t : Tag), (rdV s a).tag = t →
  let mk := rdM s m
  let val := fun i => sInt t (lane t (rdV s a) i)
  let on := (List.range (lanes t)).filter fun i => mk.getLsbD i
  let lane0 := fun (r : LaneR) (o : Out) => WritesV 6 d t r.2 (fun i _ => if i = 0 then r.1 else 0) s o
  let ins := fun (e : Nat) => (List.range (lanes t)).map fun i => if mk.getLsbD i then lane t (rdV s a) i else e
  let tr := fun (comb : Nat → Nat → LaneR) (e : Nat) => (((tree comb 10 (ins e)).1.headD 0, (tree comb 10 (ins e)).2) : LaneR)
  let f := fmtOf t
  (isInt t = true →
    lane0 (fitLane t false (on.map val).sum) (exec (.vredadd d a m rm) s) ∧
    (∃ y : Int, lane0 (ofInt (laneW t) y, 0) (exec (.vredmax d a m) s) ∧ (∀ i ∈ on, val i ≤ y) ∧
      (on = [] → y = -2 ^ (laneW t - 1)) ∧ (on ≠ [] → ∃ i ∈ on, y = val i)) ∧
    (∃ y : Int, lane0 (ofInt (laneW t) y, 0) (exec (.vredmin d a m) s) ∧ (∀ i ∈ on, y ≤ val i) ∧
      (on = [] → y = 2 ^ (laneW t - 1) - 1) ∧ (on ≠ [] → ∃ i ∈ on, y = val i)) ∧
    (let y := fun i => fitLane t false ((on.filter fun j => decide (j ≤ i)).map val).sum
     WritesV 6 d t (unionFlags (lanes t) (fun _ => true) fun i => (y i).2) (fun i _ => (y i).1) s (exec (.vscan d a m 0 rm) s)) ∧
    (∀ o ∈ [((1 : Fin 4), (1 : Int), -(2 : Int) ^ (laneW t - 1)), (2, -1, 2 ^ (laneW t - 1) - 1)], ∃ y : Nat → Int,
      WritesV 6 d t 0 (fun i _ => ofInt (laneW t) (y i)) s (exec (.vscan d a m o.1 rm) s) ∧
      ∀ i < lanes t, (∀ j ∈ on, j ≤ i → o.2.1 * val j ≤ o.2.1 * y i) ∧ ((∀ j ∈ on, i < j) → y i = o.2.2) ∧
        ((∃ j ∈ on, j ≤ i) → ∃ j ∈ on, j ≤ i ∧ y i = val j))) ∧
  (isFloat t = true →
    lane0 (tr (fun x y => fAdd f (rmOf s rm) (decodeFmt f x) (decodeFmt f y)) f.signBit) (exec (.vredadd d a m rm) s) ∧
    lane0 (tr (fMaxMin f true) (infPat f true)) (exec (.vredmax d a m) s) ∧
    lane0 (tr (fMaxMin f false) (infPat f false)) (exec (.vredmin d a m) s) ∧
    (∀ o ∈ [((0 : Fin 4), (fun x y => fAdd f (rmOf s rm) (decodeFmt f x) (decodeFmt f y)), f.signBit), (1, fMaxMin f true, infPat f true),
        (2, fMaxMin f false, infPat f false)],
      let r := scan o.2.1 10 1 (ins o.2.2)
      WritesV 6 d t r.2 (fun i _ => if (decodeFmt f (r.1.getD i 0)).isNaN then canonNaN f else r.1.getD i 0) s (exec (.vscan d a m o.1 rm) s)))) ∧
  (∀ (s : State) (d a : VReg) (m : Sys2Proof.MReg) (t : Tag), (rdV s a).tag = t → isComp t = true →
  let on := fun i => decide (i < lanes t) && (rdM s m).getLsbD i
  let at_ := fun i => lane t (rdV s a) i
  ∃ (k : Nat) (fl : Flags), WritesV 6 d .i32 fl (fun i _ => if i = 0 then k else 0) s (exec (.vargmax d a m) s) ∧
    (isInt t = true → fl = 0) ∧
    (isFloat t = true → fl = if (List.range (lanes t)).any fun i => on i && (decodeReal t (at_ i)).isSig then fNV else 0) ∧
    ((∀ i, on i = false) → k = 0xFFFFFFFF) ∧
    ((∃ i, on i = true) → on k = true ∧ ∀ j, on j = true → argLarger t (at_ j) (at_ k) = false ∧
      (argLarger t (at_ k) (at_ j) = false → k ≤ j)))

/-- R129 to R132: blocks and Winograd transforms. `vblk` writes scale, special and codes of its blocks and keeps the others of a
register that is E2M1X when the result lands; the Winograd mask bit of a cell's first lane decides for the cell, and the
flags are the union of those of every operation of the enabled cells. Of two failing checks of `vblk` the tag comes first, and the
sign of a difference of zeros is R73's: the model's choice and reading (logs 70, 60). -/
def Obligations.BlockEffects : Prop :=
  ∀ (s : State) (d a : VReg) (sv : Option VReg) (m : Sys2Proof.MReg) (n : PReg) (base : Ix8) (x fp z : Bool) (rm : Rm),
  let v := rdV s a
  let t := v.tag
  let nb := lanes t / 32
  let mk := rdM s m
  (isFloat t = true → (∀ b, sv = some b → (rdV s b).tag = .e8m0) → n.val ≤ (if t = .fp32 then 5 else 2) →
    let es := fun j => (List.range 32).map fun e => if mk.getLsbD (32 * j + e) then decodeReal t (lane t v (32 * j + e)) else Real.fin false 0 0
    let r := fun j => quantBlock x (sv.map fun b => laneBits (rdV s b).bits 8 (nb * n.val + j)) (rmOf s rm) (es j)
    ∃ data mask, Emits 6 (.blk d data mask) (unionFlags nb (fun _ => true) fun j => (r j).2.2.2) s (exec (.vblk d a sv m n x rm) s) ∧
      ∀ g : Regs, let o := if g.v[d].tag = .e2m1x then g.v[d].bits else defaultBlocks
        let y := (applyReg (.blk d data mask) g).v[d]
        y.tag = .e2m1x ∧
        (∀ j < nb, laneBits y.bits 8 (768 + nb * n.val + j) = (r j).1 ∧
          laneBits y.bits 8 (816 + nb * n.val + j) = ofInt 6 (r j).2.1 ∧
          ∀ e < 32, laneBits y.bits 4 (32 * (nb * n.val + j) + e) = (r j).2.2.1.getD e 0) ∧
        (∀ k < 48, (k < nb * n.val ∨ nb * n.val + nb ≤ k) → laneBits y.bits 8 (768 + k) = laneBits o 8 (768 + k) ∧
          laneBits y.bits 8 (816 + k) = laneBits o 8 (816 + k) ∧ ∀ e < 32, laneBits y.bits 4 (32 * k + e) = laneBits o 4 (32 * k + e)) ∧
        ∀ j < 160, laneBits y.bits 8 (864 + j) = 0) ∧
  (isFloat t = true → (∀ b, sv = some b → (rdV s b).tag = .e8m0) → (if t = .fp32 then 5 else 2) < n.val →
    exec (.vblk d a sv m n x rm) s =
      .next (raise { cause := 0x02, addr := BitVec.ofNat 64 (n.val * 64 + x.toNat * 32 + sv.isSome.toNat * 16 + rm.code) } s)) ∧
  (t = .e2m1x → let T : Tag := if fp then .fp32 else .bf16
    let f := fun i => (elemReal v.bits (lanes T * base.val + i)).round (fmtOf T) (rmOf s rm)
    WritesV 6 d T (unionFlags (lanes T) (fun i => mk.getLsbD i) fun i => (f i).2) (masked mk z fun i => (f i).1 % 2 ^ laneW T) s
      (exec (.vunblk d a m base fp z rm) s)) ∧
  (t = .fp32 → ∀ p ∈ [(0, 4, 4, Instr.vwgin d a m z), (1, 4, 2, .vwgout d a m z), (2, 3, 4, .vwgfil d a m z)],
    let cell := fun c => wgCell p.1 p.2.1 p.2.2.1 fun i => (laneBits v.bits 32 (16 * c + i), 0)
    WritesV 6 d .fp32 (unionFlags 256 (fun i => mk.getLsbD (16 * (i / 16))) fun i => ((cell (i / 16)).getD (i % 16) (0, 0)).2) (fun i old => if mk.getLsbD (16 * (i / 16)) then ((cell (i / 16)).getD (i % 16) (0, 0)).1 % 2 ^ 32
      else if z then 0 else old) s (exec p.2.2.2 s))

/-! ### Memory (R134 to R146, R229 to R236) -/

/-- R134 to R141, R234: scalar and whole-register loads in VA and the store, plain and consuming. The data are the bytes of the pieces
the access was translated to; the destination's result is fixed for a plain load of the own die's store and pending otherwise. An
uncorrectable line leaves a scalar, and poisons a vector, with a boundary fault (R146); a malformed block of E2M1X poisons the register
with 0x04, sub-code 1, at its special byte (R69). -/
def Obligations.LoadsReadMemory : Prop :=
  ∀ (s : State) (d a : SReg) (v : VReg) (i : BitVec 18) (sp : Space) (sz : Size) (u : Bool) (t : Tag) (k : LineAcc) (gs : List Seg),
  let A := rdS s a + i.signExtend 64
  let n := szBytes sz
  let bs := readSegs s gs
  let s' := stepSegs k (some s.me.uid) gs s
  let scalar : Instr := if k = .plain then .lds d a i sp sz u else .ldc d a i sp sz u
  let vector : Instr := if k = .plain then .ldv v a i sp t else .ldvc v a i sp t
  let lat := fun (l : Nat) => if k = .plain then some l else none
  sp ≠ .w → (k = .plain ∨ k = .consume) →
  (A.toNat % n = 0 → accessSegs s (agentOf s.me) (sp = .st) k A n = .ok gs →
    (badLine s gs = none → exec scalar s = .next (withLoad (lat 16) sp A
      (.s d (if u then BitVec.ofNat 64 (leNat bs) else BitVec.ofInt 64 (BitVec.ofNat (8 * n) (leNat bs)).toInt)) none s')) ∧
    (badLine s gs ≠ none → exec scalar s = .next (withLoad (lat 16) sp A (.keepS d)
      (some { cause := 0x16, addr := A, detail := [7] }) s'))) ∧
  (A.toNat % 64 = 0 → accessSegs s (agentOf s.me) (sp = .st) k A (if t = .e2m1x then 864 else 1024) = .ok gs →
    (badLine s gs = none → t ≠ .e2m1x → ∃ x : BitVec 8192, (∀ j < 1024, x.extractLsb' (8 * j) 8 = bs.getD j 0) ∧
      exec vector s = .next (withLoad (lat 20) sp A (.v v x (BitVec.allOnes 8192) (some t)) none s')) ∧
    (badLine s gs = none → t = .e2m1x → (∀ b < 48, specialOk (bs.getD (18 * b + 17) 0).toNat = true) →
      ∃ x : BitVec 8192, (∀ b < 48, (∀ j < 16, x.extractLsb' (8 * (16 * b + j)) 8 = bs.getD (18 * b + j) 0) ∧
          x.extractLsb' (8 * (768 + b)) 8 = bs.getD (18 * b + 16) 0 ∧ x.extractLsb' (8 * (816 + b)) 8 = bs.getD (18 * b + 17) 0) ∧
        x.toNat < 2 ^ (8 * 864) ∧ exec vector s = .next (withLoad (lat 20) sp A (.v v x (BitVec.allOnes 8192) (some .e2m1x)) none s')) ∧
    (badLine s gs = none → t = .e2m1x → ∀ b < 48, specialOk (bs.getD (18 * b + 17) 0).toNat = false →
      (∀ c < b, specialOk (bs.getD (18 * c + 17) 0).toNat = true) →
      exec vector s = .next (withLoad (lat 20) sp A (.v v 0 0 (some .poison))
        (some { cause := 0x04, sub := 1, addr := A + BitVec.ofNat 64 (18 * b + 17), detail := [7] }) s')) ∧
    (badLine s gs ≠ none → exec vector s = .next (withLoad (lat 20) sp A (.v v 0 0 (some .poison))
      (some { cause := 0x16, addr := A, detail := [7] }) s')))

/-- R138, R139, R217, R220, R229: a misaligned access raises 0x0B with its address, and one whose checks fail raises the failing
check's fault. `XADDR` is then the lowest byte that fails: in VA the address itself, the first byte of the page reached or of the first
line whose home is a secure vat (R219, R391), in the store
the address, the first byte beyond the vat, or the first line that is not owned or refuses the access. -/
def Obligations.FailingAccessesRaise : Prop :=
  ∀ (s : State) (d a : SReg) (v : VReg) (i : BitVec 18) (sp : Space) (sz : Size) (u : Bool) (t : Tag) (f : FaultInfo) (k : LineAcc) (m : Nat),
  let A := rdS s a + i.signExtend 64
  let n := szBytes sz
  let bytes := if t = .e2m1x then 864 else 1024
  let dataOk := (rdV s v).tag ≠ .none ∧ (rdV s v).tag ≠ .poison ∧ (t = .raw ∨ (rdV s v).tag = t)
  let x := A.toNat
  let page := x / 2 ^ 16 * 2 ^ 16 + 2 ^ 16
  let tr := translate s s.me.site s.me.world k.right
  let line := fun (y : Nat) => y = x ∨ (y % 64 = 0 ∧ x < y ∧ y < x + m)
  let fails := fun (st : Bool) (c b : Nat) (at_ : Word) =>
    ∃ e, accessSegs s (agentOf s.me) st k A m = .error e ∧ e.cause = c ∧ e.sub = b ∧ e.addr = at_
  let secret := fun (pa b y : Nat) => s.me.world = false ∧ y % 64 = 0 ∧ homeSecure s (pa + (y - b)) = true
  let none_ := fun (pa b hi : Nat) => ∀ y, b < y → y < hi → ¬ secret pa b y
  let inVat := x < 2 ^ 31 ∧ cacheVat s (x / 2 ^ 28) (x / 2 ^ 22 % 64) = false ∧ x % 2 ^ 22 < 0x300000
  let shut := bit (dieOf s (x / 2 ^ 28)).vatw (x / 2 ^ 22 % 64) = true ∧ s.me.world = false
  sp ≠ .w →
  (x % n ≠ 0 → ∀ j ∈ [Instr.lds d a i sp sz u, .ldc d a i sp sz u, .sts d a i sp sz], exec j s = .next (raise { cause := 0x0B, addr := A } s)) ∧
  (x % 64 ≠ 0 → ∀ j ∈ [Instr.ldv v a i sp t, .ldvc v a i sp t], exec j s = .next (raise { cause := 0x0B, addr := A } s)) ∧
  (x % 64 ≠ 0 → dataOk → exec (.stv v a i sp t) s = .next (raise { cause := 0x0B, addr := A } s)) ∧
  (x % n = 0 →
    (accessSegs s (agentOf s.me) (sp = .st) .plain A n = .error f → exec (.lds d a i sp sz u) s = .next (raise f s)) ∧
    (accessSegs s (agentOf s.me) (sp = .st) .consume A n = .error f → exec (.ldc d a i sp sz u) s = .next (raise f s)) ∧
    (accessSegs s (agentOf s.me) (sp = .st) .store A n = .error f → exec (.sts d a i sp sz) s = .next (raise f s))) ∧
  (x % 64 = 0 →
    (accessSegs s (agentOf s.me) (sp = .st) .plain A bytes = .error f → exec (.ldv v a i sp t) s = .next (raise f s)) ∧
    (accessSegs s (agentOf s.me) (sp = .st) .consume A bytes = .error f → exec (.ldvc v a i sp t) s = .next (raise f s)) ∧
    (dataOk → accessSegs s (agentOf s.me) (sp = .st) .store A bytes = .error f → exec (.stv v a i sp t) s = .next (raise f s))) ∧
  (0 < m → m ≤ 1024 →
    (∀ e, tr A = .error e → accessSegs s (agentOf s.me) false k A m = .error e ∧ e.addr = A) ∧
    (∀ pa, tr A = .ok pa →
      (∀ y, x < y → y < min page (x + m) → secret pa x y → none_ pa x y → fails false 0x0C 0 (BitVec.ofNat 64 y)) ∧
      (none_ pa x (min page (x + m)) → page < x + m →
        (2 ^ 64 ≤ page → fails false 0x0A 1 0) ∧
        (page < 2 ^ 64 → (∀ e, tr (BitVec.ofNat 64 page) = .error e →
            accessSegs s (agentOf s.me) false k A m = .error e ∧ e.addr = BitVec.ofNat 64 page) ∧
          ∀ pb y, tr (BitVec.ofNat 64 page) = .ok pb → page < y → y < x + m → secret pb page y → none_ pb page y →
            fails false 0x0C 0 (BitVec.ofNat 64 y)))) ∧
    (¬ inVat → fails true 0x0A 3 A) ∧
    (inVat → 0x300000 < x % 2 ^ 22 + m → fails true 0x0A 3 (BitVec.ofNat 64 (x / 2 ^ 22 * 2 ^ 22 + 0x300000))) ∧
    (inVat → x % 2 ^ 22 + m ≤ 0x300000 →
      (shut → fails true 0x0C 0 A) ∧
      (¬ shut →
        (∀ y, line y → bankOwner s (bankNo y) ≠ s.me.lnch → (∀ z < y, line z → bankOwner s (bankNo z) = s.me.lnch) →
          fails true 0x19 0 (BitVec.ofNat 64 y)) ∧
        ((∀ y, line y → bankOwner s (bankNo y) = s.me.lnch) →
          (∀ y c b, line y → lineNext k (lineAt s y) = .error (c, b) → (∀ z < y, line z → ∃ l, lineNext k (lineAt s z) = .ok l) →
            fails true c b (BitVec.ofNat 64 y)) ∧
          ((∀ y, line y → ∃ l, lineNext k (lineAt s y) = .ok l) →
            accessSegs s (agentOf s.me) true k A m = .ok [⟨true, x, m, A⟩])))))

/-- R142, R234: `sts`, `stv` and the counted store `stc` write the register's bytes at the pieces their address was translated to, and
no other byte of memory; no general or control register changes. A free line write of an EMPTY line zeroes the rest of it (R229).
The operation is outstanding in class S (R145). That a store to an uncorrectable line writes its bytes is the model's reading (log
25). R146, R229: what one write of an access does to memory: the pieces take the bytes, in order, and nothing else changes; so also
on an uncorrectable line (the model's reading, log 25). -/
def Obligations.StoresWriteTheirBytes : Prop :=
  (∀ (s : State) (d a : SReg) (v : VReg) (i : BitVec 18) (sp : Space) (sz : Size) (t : Tag) (k : BitVec 8) (gs : List Seg), s.Tidy →
  let A := rdS s a + i.signExtend 64
  let n := szBytes sz
  let x := (rdV s v).bits
  let raw := (List.range 1024).map fun j => x.extractLsb' (8 * j) 8
  let e2 := (List.range 48).flatMap fun b => (raw.drop (16 * b)).take 16 ++ [raw.getD (768 + b) 0, raw.getD (816 + b) 0]
  let dataOk := (rdV s v).tag ≠ .none ∧ (rdV s v).tag ≠ .poison ∧ (t = .raw ∨ (rdV s v).tag = t)
  let done := fun (gs : List Seg) (bs : List Byte) (o : Out) => ∃ u, Wrote gs bs s u ∧ o = .next (withStore true .mem none u)
  (sp ≠ .w → A.toNat % n = 0 → accessSegs s (agentOf s.me) (sp = .st) .store A n = .ok gs →
    done gs ((List.range n).map fun j => (rdS s d).extractLsb' (8 * j) 8) (exec (.sts d a i sp sz) s)) ∧
  (sp ≠ .w → dataOk → A.toNat % 64 = 0 → accessSegs s (agentOf s.me) (sp = .st) .store A (if t = .e2m1x then 864 else 1024) = .ok gs →
    done gs (if t = .e2m1x then e2 else raw) (exec (.stv v a i sp t) s)) ∧
  (dataOk → (rdS s a).toNat % 64 = 0 → accessSegs s (agentOf s.me) true (.counted k.toNat) (rdS s a) 1024 = .ok gs →
    done gs raw (exec (.stc v a k t) s))) ∧
  (∀ (s : State) (k : LineAcc) (gs : List Seg) (bs : List Byte), s.Tidy →
  k.writes = true → (∀ g ∈ gs, g.st = true → linesCheck s k g.addr g.len = none) → gs.length ≤ 1 ∨ (∀ g ∈ gs, g.st = false) →
  Wrote gs bs s (storeBytes k gs bs s))

/-- R109, R136 to R143, R146, R374: the strided and indexed forms access one element for each enabled lane, at the lane's own
address, in ascending lane order, in VA, in the store and through windows. The loads write the enabled lanes only (or zero the
others), the stores write their lanes' bytes. The lowest enabled lane that fails raises its fault; an uncorrectable line poisons
the register. Lanes are done one at a time: where the agenda cuts a store, the lanes left wait (log 31); a load or a window store that it cuts is not
described here. The latency of a load with no enabled lane, and the address an uncorrectable line is reported with, are the model's
readings (log 74), as is that a store to such a line writes its bytes (log 25). -/
def Obligations.LaneAccesses : Prop :=
  ∀ (s : State) (d x : VReg) (a b : SReg) (m : Sys2Proof.MReg) (sp : Space) (t : Tag) (sc : Fin 4) (u z : Bool) (gs : Nat → List Seg) (ws : Nat → WinRef),
  let w := laneW t
  let n := w / 8
  let on := (List.range (lanes t)).filter fun i => (rdM s m).getLsbD i
  let whole := ∀ k rest, s.agenda ≠ .cut k :: rest
  let strided := fun (i : Nat) => rdS s a + BitVec.ofNat 64 i * rdS s b
  let scaled := fun (i : Nat) => rdS s a + BitVec.ofNat 64 (if sc.val = 0 then 1 else if sc.val = 1 then n else 64) *
    (let p := laneBits (rdV s x).bits w i
     if u then BitVec.ofNat 64 p else BitVec.ofInt 64 (BitVec.ofNat w p).toInt)
  let tagFault := fun (r : VReg) => (if (rdV s r).tag = .none then { cause := 0x05, addr := BitVec.ofNat 64 r.val }
    else if (rdV s r).tag = .poison then { cause := 0x11, sub := 3, addr := BitVec.ofNat 64 r.val }
    else { cause := 0x04, addr := BitVec.ofNat 64 r.val } : FaultInfo)
  let dataOk := (rdV s d).tag ≠ .none ∧ (rdV s d).tag ≠ .poison ∧ (t = .raw ∨ (rdV s d).tag = t)
  let index : Tag := if w = 8 then .i8 else if w = 16 then .i16 else .i32
  let reach := fun (k : LineAcc) (addr : Nat → Word) (i : Nat) => if (addr i).toNat % n ≠ 0 then Except.error { cause := 0x0B, addr := addr i }
    else accessSegs s (agentOf s.me) (sp = .st) k (addr i) n
  let win := fun (acc : Right) (addr : Nat → Word) (i : Nat) =>
    winCheckAll s (agentOf s.me) ((addr i).toNat / 2 ^ 48) ((addr i).toNat % 2 ^ 48) n acc n false
  let first := fun (i : Nat) (ok : Nat → Prop) => ∃ pre post, on = pre ++ i :: post ∧ ∀ j ∈ pre, ok j
  let lanesOf := fun (data mask : BitVec 8192) (val : Nat → Nat) => ∀ (o : BitVec 8192) (i : Nat), i < lanes t →
    laneBits ((o &&& ~~~mask) ||| (data &&& mask)) w i = if i ∈ on then val i else if z then 0 else laneBits o w i
  let loads := fun (addr : Nat → Word) (o : Out) =>
    let s' := on.foldl (fun s i => stepSegs .plain (some s.me.uid) (gs i) s) s
    let lands := fun (up : Upd) (ft : Option FaultInfo) (A : Word) => o = .next (if sp = .st ∧ (∀ i ∈ on, (addr i).toNat / 2 ^ 28 % 8 = s.me.die)
      then withFlight 20 up 0 s'.me.sq.arrive ft s' else withPend up true true ft (some A) s')
    (sp ≠ .w → whole → (∀ i ∈ on, reach .plain addr i = .ok (gs i)) →
      ((∀ i ∈ on, badLine s (gs i) = none) → ∃ data mask, lanesOf data mask (fun i => leNat (readSegs s (gs i)) % 2 ^ w) ∧
        lands (.v d data mask (some t)) none (addr (on.headD 0))) ∧
      (∀ i, first i (fun j => badLine s (gs j) = none) → badLine s (gs i) ≠ none →
        lands (.v d 0 0 (some .poison)) (some { cause := 0x16, addr := addr i, detail := [7] }) (addr (on.headD 0)))) ∧
    (sp ≠ .w → ∀ i f, first i (fun j => ∃ g, reach .plain addr j = .ok g) → reach .plain addr i = .error f → o = .next (raise f s)) ∧
    (sp = .w → whole → on = [] → ∃ mask, lanesOf 0 mask (fun _ => 0) ∧ o = .next (withPend (.v d 0 mask (some t)) true true none (some (addr 0)) s)) ∧
    (sp = .w → on ≠ [] → (∀ i ∈ on, win .read addr i = .ok (ws i)) → ∃ mask, lanesOf 0 mask (fun _ => 0) ∧
      o = .next (on.foldl (fun y i => sendRemote y.me.uid (agentOf y.me) y.me.tid (ws i) (.load n) false (.load s.ids (.lane w i)) y)
        (withPend (.v d 0 mask (some t)) false true none (some (addr (on.headD 0))) s))) ∧
    (sp = .w → ∀ i f, first i (fun j => ∃ g, win .read addr j = .ok g) → win .read addr i = .error f → o = .next (raise f s))
  let stores := fun (addr : Nat → Word) (o : Out) =>
    let bytes := fun i => leBytes n (laneBits (rdV s d).bits w i)
    (¬dataOk → o = .next (raise (tagFault d) s)) ∧
    (dataOk →
      (sp ≠ .w → (∀ i ∈ on, reach .store addr i = .ok (gs i)) →
        let done := fun (is : List Nat) (y : State) => is.foldl (fun y i => storeBytes .store (gs i) (bytes i) y) y
        (whole → o = .next (withStore true .mem none (done on s))) ∧
        (∀ k rest, s.agenda = .cut k :: rest → k ≤ on.length → ∃ u, u = done (on.take k) { s with agenda := rest } ∧
          o = .next { u with me := { u.me with sq := { u.me.sq with
            rest := some (.write ((on.drop k).map fun i => (gs i, bytes i))) } } })) ∧
      (sp ≠ .w → ∀ i f, first i (fun j => ∃ g, reach .store addr j = .ok g) → reach .store addr i = .error f → o = .next (raise f s)) ∧
      (sp = .w → whole → on = [] → o = .next (withStore true .mem none s)) ∧
      (sp = .w → on ≠ [] → (∀ i ∈ on, win .write addr i = .ok (ws i)) →
        o = .next (on.foldl (fun y i => sendRemote y.me.uid (agentOf y.me) y.me.tid (ws i) (.store (bytes i)) false (.store s.ids) y)
          (withStore false .mem none s))) ∧
      (sp = .w → ∀ i f, first i (fun j => ∃ g, win .write addr j = .ok g) → win .write addr i = .error f → o = .next (raise f s)))
  loads strided (exec (.ldvs d a b m sp t z) s) ∧ stores strided (exec (.stvs d a b m sp t) s) ∧
  ((rdV s x).tag = index → loads scaled (exec (.ldvx d a x m sp t sc u z) s) ∧ stores scaled (exec (.stvx d a x m sp t sc u) s)) ∧
  ((rdV s x).tag ≠ index → exec (.ldvx d a x m sp t sc u z) s = .next (raise (tagFault x) s) ∧
    exec (.stvx d a x m sp t sc u) s = .next (raise (tagFault x) s))

/-- R229: the store line table. A read, store, atomic or consuming access of one line that passes steps it as the table says; one that
does not pass raises the table's cause at the line. R144, R232, R234: `pfh` fills lines that their home slices do not hold (absent
or dropped) and that are readable, moves no data and raises nothing; a line beyond the top of the space is skipped. `rcq` reads the
state of one line and changes none. -/
def Obligations.LinesAndQueries : Prop :=
  (∀ (s : State) (a : Nat) (m : Nat), s.Tidy →
  let goes := fun (k : LineAcc) (l : LineSt) => linesCheck s k a 1 = none ∧ lineAt (stepLine k a s) a = l
  let fails := fun (k : LineAcc) (c : Nat) => ∃ f, linesCheck s k a 1 = some f ∧ f.cause = c ∧ f.sub = 0 ∧ f.addr = BitVec.ofNat 64 a
  (lineAt s a = .uncounted → goes .plain .uncounted ∧ goes .consume .uncounted ∧ goes .store .uncounted ∧ goes .atomic .uncounted ∧
    goes (.counted m) (.counted m)) ∧
  (∀ n, lineAt s a = .counted n → goes .plain (.counted n) ∧ goes .consume (if n ≤ 1 then .empty else .counted (n - 1)) ∧
    fails .store 0x0E ∧ fails .atomic 0x0E ∧ fails (.counted m) 0x0E) ∧
  (lineAt s a = .empty → fails .plain 0x0D ∧ fails .consume 0x0D ∧ fails .atomic 0x0D ∧ goes .store .uncounted ∧ goes (.counted m) (.counted m)) ∧
  (lineAt s a = .counter → goes .plain .counter ∧ goes .consume .counter ∧ fails .store 0x0F ∧ fails .atomic 0x0F ∧ fails (.counted m) 0x0F) ∧
  goes .query (lineAt s a)) ∧
  (∀ (s : State) (d a : SReg) (i : BitVec 18) (n : Ix8) (sp : Space) (g : Seg), s.Tidy →
  let A := rdS s a + i.signExtend 64
  let line := fun (j : Nat) => A.toNat / 64 * 64 + 64 * j
  let asked := fun (l : Nat) => (getAt .absent s.home l = .absent ∨ getAt .absent s.home l = .dropped) ∧
    ∃ j < 2 ^ n.val, line j < 2 ^ 64 ∧ ∃ pa, translate s s.me.site s.me.world .read (BitVec.ofNat 64 (line j)) = .ok pa ∧ pa / 64 = l
  (∃ h, exec (.pfh a i n) s = .next (retireNow { s with home := h }) ∧ ∀ l,
    (asked l → getAt .absent h l = .clean) ∧ (¬ asked l → getAt .absent h l = getAt .absent s.home l)) ∧
  (accessSegs s (agentOf s.me) (sp = .st) .query A 1 = .ok [g] → ∃ v : Nat, PendsS d (BitVec.ofNat 64 v) true s (exec (.rcq d a i sp) s) ∧
    (g.st = false → v = match getAt .absent s.home (g.addr / 64) with | .counted c => c | _ => 255) ∧
    (g.st = true → ∃ w : Nat, v = w + (match lineAt s g.addr with | .uncounted => 255 | .counted c => c | .empty => 0 | .counter => 511) ∧
      (w = 0 ∨ w = 512) ∧ (w = 512 ↔ ∃ p ∈ (dieOf s (g.addr / 2 ^ 28 % 8)).pails, p.base ≤ 64 * (g.addr / 64) ∧
        64 * (g.addr / 64) < p.base + 64 * p.lines * p.depth))) ∧
  (∀ f, accessSegs s (agentOf s.me) (sp = .st) .query A 1 = .error f → exec (.rcq d a i sp) s = .next (raise f s)))

/-- R146, R235, R236, R374: the atomics, performed as one: the old value returns in `d`, zero-extended (`s0` returns none and the operation
counts as a store), and memory takes the new value; an uncorrectable line gives no data, takes none and gives a boundary fault (the
model's reading, log 25). Through a window an atomic is
one remote operation of the thread. -/
def Obligations.AtomicsUpdateMemory : Prop :=
  ∀ (s : State) (j : Instr) (op : AtomOp) (d a : SReg) (b c : Word) (sp : Space) (q : Bool) (gs : List Seg),
  atomForm s j = some (op, d, a, b, c, sp, q) → s.Tidy →
  let A := rdS s a
  let n := if q then 8 else 4
  let old := leNat (readSegs s gs)
  let result := fun (t : State) => if d = 0 then withStore true .mem none t else withPend (.s d (BitVec.ofNat 64 old)) true true none (some A) t
  let noData := fun (t : State) => let f : Option FaultInfo := some { cause := 0x16, addr := A, detail := [7] }
    if d = 0 then withStore true .mem f t else withPend (.keepS d) true true f (some A) t
  (sp ≠ .w → A.toNat % n ≠ 0 → exec j s = .next (raise { cause := 0x0B, addr := A } s)) ∧
  (sp ≠ .w → A.toNat % n = 0 → ∀ f, accessSegs s (agentOf s.me) (sp = .st) .atomic A n = .error f → exec j s = .next (raise f s)) ∧
  (sp ≠ .w → A.toNat % n = 0 → accessSegs s (agentOf s.me) (sp = .st) .atomic A n = .ok gs → badLine s gs ≠ none →
    exec j s = .next (noData (stepSegs .atomic (some s.me.uid) gs s))) ∧
  (sp = .w → match winCheckAll s (agentOf s.me) (A.toNat / 2 ^ 48) (A.toNat % 2 ^ 48) n .atomic n false with
    | .error f => exec j s = .next (raise f s)
    | .ok w => let r := RemoteOp.atomic op n b c
      (d = 0 → exec j s = .next (sendRemote s.me.uid (agentOf s.me) s.me.tid w r false (.store s.ids) (withStore false .mem none s))) ∧
      (d ≠ 0 → exec j s = .next (sendRemote s.me.uid (agentOf s.me) s.me.tid w r false (.load s.ids (.scalar false))
        (withPend (.s d 0) false true none (some A) s)))) ∧
  (sp ≠ .w → A.toNat % n = 0 → accessSegs s (agentOf s.me) (sp = .st) .atomic A n = .ok gs → badLine s gs = none →
    ∃ new t, AtomGives op (8 * n) old (b.toNat % 2 ^ (8 * n)) (c.toNat % 2 ^ (8 * n)) new ∧ new < 2 ^ (8 * n) ∧
      Wrote gs (leBytes n new) s t ∧ exec j s = .next (result t))

/-! ### Windows (R371 to R379) -/

/-- R136, R374, R375, R379: every access through a window that passes the checks of R374 is one remote operation of the thread, sent
with the entry's target, key and address; its result stays outstanding. One that does not pass raises the check's fault. R376, R377:
`fencex` retires when no earlier remote operation of the thread is outstanding, its engines' apart, and holds its group otherwise;
`wset` names the window table and drops the launch's cached entries; `wset.inv` drops those of one handle. -/
def Obligations.WindowAccesses : Prop :=
  (∀ (s : State) (d a : SReg) (v : VReg) (i : BitVec 18) (k : BitVec 28) (h : BitVec 16) (sz : Size) (u : Bool) (t : Tag),
  let n := szBytes sz
  let len := if t = .e2m1x then 864 else 1024
  let A := rdS s a + i.signExtend 64
  let hd := fun (x : Word) => x.toNat / 2 ^ 48
  let of_ := fun (x : Word) => x.toNat % 2 ^ 48
  let big := fun (x : Word) => decide (x.toNat / 2 ^ 48 ≠ 0)
  let load := fun (x : Except FaultInfo WinRef) (A : Word) (n : Nat) (sh : LoadShape) (up : Upd) (o : Out) => match x with
    | .error f => o = .next (raise f s)
    | .ok w => o = .next (sendRemote s.me.uid (agentOf s.me) s.me.tid w (.load n) false (.load s.ids sh) (withPend up false true none (some A) s))
  let store := fun (x : Except FaultInfo WinRef) (bs : List Byte) (o : Out) => match x with
    | .error f => o = .next (raise f s)
    | .ok w => o = .next (sendRemote s.me.uid (agentOf s.me) s.me.tid w (.store bs) false (.store s.ids) (withStore false .mem none s))
  let chk := winCheckAll s (agentOf s.me)
  let dataOk := (rdV s v).tag ≠ .none ∧ (rdV s v).tag ≠ .poison ∧ (t = .raw ∨ (rdV s v).tag = t)
  load (chk (hd A) (of_ A) n .read n false) A n (.scalar (!u)) (.s d 0) (exec (.lds d a i .w sz u) s) ∧
  load (chk (hd A) (of_ A) len .read 64 false) A len (.vec t) (.v v 0 (BitVec.allOnes 8192) (some t)) (exec (.ldv v a i .w t) s) ∧
  load (chk h.toNat (of_ (rdS s a)) n .read n (big (rdS s a))) (winAddr h.toNat (of_ (rdS s a))) n (.scalar false) (.s d 0)
    (exec (.ldw d h a sz) s) ∧
  load (chk h.toNat (of_ (rdS s a)) len .read 64 (big (rdS s a))) (winAddr h.toNat (of_ (rdS s a))) len (.vec t)
    (.v v 0 (BitVec.allOnes 8192) (some t)) (exec (.ldwVec v h a t) s) ∧
  store (chk (hd A) (of_ A) n .write n false) (leBytes n (rdS s d).toNat) (exec (.sts d a i .w sz) s) ∧
  store (chk h.toNat (of_ (rdS s a)) n .write n (big (rdS s a))) (leBytes n (rdS s d).toNat) (exec (.stw d h a sz) s) ∧
  (dataOk → store (chk (hd A) (of_ A) len .write 64 false) (memOfVec t (rdV s v).bits) (exec (.stv v a i .w t) s) ∧
    store (chk h.toNat (of_ (rdS s a)) len .write 64 (big (rdS s a))) (memOfVec t (rdV s v).bits) (exec (.stwVec v h a t) s)) ∧
  (match chk (hd (rdS s a)) (of_ (rdS s a)) 8 .atomic 8 false with
    | .error f => exec (.kaddw a k) s = .next (raise f s)
    | .ok w => exec (.kaddw a k) s = .next (sendRemote s.me.uid (agentOf s.me) s.me.tid w (.add k.toNat) true (.store s.ids)
        (withStore false .plain none s)))) ∧
  (∀ (s : State) (a b : SReg),
  let va := rdS s a
  let n := (rdS s b).toNat
  ((∀ o ∈ s.fab.outs, o.cid = s.me.uid → ∃ t x, o.use = .engine t x) → exec .fencex s = .next (retireNow s)) ∧
  ((∃ o ∈ s.fab.outs, o.cid = s.me.uid ∧ ∀ t x, o.use ≠ .engine t x) → exec .fencex s = .next (holdHere s)) ∧
  (va.toNat % 32 ≠ 0 → exec (.wset a b) s = .next (raise { cause := 0x0B, addr := va } s)) ∧
  (va.toNat % 32 = 0 → (n = 0 ∨ 65536 < n) → exec (.wset a b) s = .next (raise { cause := 0x02, addr := rdS s b } s)) ∧
  (va.toNat % 32 = 0 → 0 < n → n ≤ 65536 → exec (.wset a b) s = .next (retireNow
    { s with launches := s.launches.map (fun l => if l.num = s.me.lnch then { l with win := some (va, n) } else l)
             fab := { s.fab with wins := s.fab.wins.filter fun w => w.lnch ≠ s.me.lnch } })) ∧
  exec (.wsetInv a) s = .next (retireNow { s with fab := { s.fab with
    wins := s.fab.wins.filter fun w => !(w.lnch = s.me.lnch && w.h = (rdS s a).toNat % 2 ^ 16) } }))

/-! ### Banks, pails, counters (R184 to R204, R220 to R239) -/

/-- R220, R223 to R227: `brel` and `bwait` check their vat and their banks. A `brel` is held until every earlier store and every earlier
tile-engine, ladle, re-shard or channel command is complete; it then releases its banks in ascending order, one operation each: each
passes to the awaiting launch with the lowest number or is free, and without P its counted lines become EMPTY. `bwait` retires when
the launch owns every bank of the mask, and holds its group until then. That `brel` waits for no slot of its own group and for no
store that is no memory store, and with an empty mask too, is the model's reading (log 27), as is that the agenda may cut it between
two banks (log 31) and that a launch awaits no bank a second time (log 84). What a released bank holds stays, its line data, counter
modes and, with P, reader counts; one that passes to a launch of the other world is wiped (R222, R223). Both check the world of the
vat (R391). R237 to R239: `pdef` names the live entry with the same fields or makes one, whose lines become EMPTY, when the
descriptor passes its checks, the worlds of its vats among them (R391); `pdef.rel` frees an entry. The addresses that the failing
checks name (log 36), and what becomes of a counter address that is none of the store (log 95), are the model's readings. R239,
R243: one step of the pail hardware, in every state: where the filled add of the next slot in order is due, it adds 1 to the fill
counter; else, where the free add of the next slot is due, 1 to the free counter; it changes nothing where neither is due. The entry
goes on to the next slot, and nothing else of the die's pails changes. An add that its counter's check withholds gives cause 0x11,
sub-code 5 to the access that completed the slot and is lost, memory unchanged: that later slots go on is the model's reading (log
10). -/
def Obligations.BanksAndPails : Prop :=
  (∀ (s : State) (a b : SReg) (pass : Bool), s.Tidy →
  let i : Instr := if pass then .brelP a b else .brel a b
  let x := rdS s a
  let mask := (rdS s b).toNat % 2 ^ 16
  let vat := x.toNat / 2 ^ 28 % 8 * 1024 + x.toNat / 2 ^ 22 % 64 * 16
  let banks := ((List.range 16).filter fun n => mask.testBit n).map fun n => vat + n
  let outside := x.getLsbD 31 = true ∨ cacheVat s (x.toNat / 2 ^ 28 % 8) (x.toNat / 2 ^ 22 % 64) = true
  let shut := bit (dieOf s (x.toNat / 2 ^ 28 % 8)).vatw (x.toNat / 2 ^ 22 % 64) = true ∧ s.me.world = false
  let wiped := fun (k : Nat) => ∃ l, nextOwner s k = some l ∧ l.world ≠ getAt false s.bankWorld k
  let waits := (∃ o ∈ s.me.sq.stores, o.grp < s.me.sq.group ∧ o.kind = .mem) ∨ ∃ c ∈ s.me.sq.cmds, c.grp < s.me.sq.group ∧ c.op.brelWaits = true
  let released := fun (ns : List Nat) (t : State) =>
    (∀ k, bankOwner t k = if k ∈ ns then (match nextOwner s k with | some l => l.num | none => 0) else bankOwner s k) ∧
    (∀ y, bankNo (64 * (y / 64)) ∉ ns → getByte t.store y = getByte s.store y ∧ lineAt t y = lineAt s y) ∧
    (∀ y k, k = bankNo (64 * (y / 64)) → k ∈ ns → (wiped k → getByte t.store y = 0 ∧ lineAt t y = .uncounted) ∧
      (¬ wiped k → getByte t.store y = getByte s.store y ∧
        lineAt t y = if pass = false ∧ isCounted (lineAt s y) = true then .empty else lineAt s y)) ∧ t.hbm = s.hbm ∧ t.me.regs = s.me.regs ∧ t.me.ctl = s.me.ctl
  let named := fun n => ∃ l, launchOf s s.me.lnch = some l ∧ ∃ g ∈ l.grants, g.ho = true ∧ n ∈ grantBanks g
  (outside → ∀ q ∈ [i, .bwait a b], exec q s = .next (raise (accFault 0x0A 3 x false) s)) ∧
  (¬ outside → shut → ∀ q ∈ [i, .bwait a b], exec q s = .next (raise (accFault 0x0C 0 x false) s)) ∧
  (¬ outside → ¬ shut → (∃ n ∈ banks, bankOwner s n ≠ s.me.lnch) → exec i s = .next (raise { cause := 0x19, addr := x } s)) ∧
  (¬ outside → ¬ shut → (∀ n ∈ banks, bankOwner s n = s.me.lnch) →
    (waits → exec i s = .next (holdHere s)) ∧
    (¬ waits → mask = 0 → exec i s = .next (retireNow s)) ∧
    (¬ waits → mask ≠ 0 → (∀ n rest, s.agenda ≠ .cut n :: rest) → ∃ t, exec i s = .next (withStore true .plain none t) ∧ released banks t) ∧
    (∀ n rest, ¬ waits → mask ≠ 0 → s.agenda = .cut n :: rest → n ≤ banks.length → ∃ t, released (banks.take n) t ∧
      exec i s = .next { t with me := { t.me with sq := { t.me.sq with rest := some (.release pass (banks.drop n)) } } })) ∧
  (¬ outside → ¬ shut → (∃ n ∈ banks, ¬ named n) → exec (.bwait a b) s = .next (raise { cause := 0x19, addr := x } s)) ∧
  (¬ outside → ¬ shut → (∀ n ∈ banks, named n) →
    ((∀ n ∈ banks, bankOwner s n = s.me.lnch) → exec (.bwait a b) s = .next (retireNow s)) ∧
    ((∃ n ∈ banks, bankOwner s n ≠ s.me.lnch) → exec (.bwait a b) s = .next (holdHere s)))) ∧
  (∀ (s : State) (n : Ix8) (a : SReg) (gs : List Seg) (bs : List Byte), s.Tidy →
  let raw := BitVec.ofNat 256 (leNat bs)
  let p := pailDesc raw
  let die := p.base / 2 ^ 28
  let pails := (dieOf s die).pails
  let here := readDesc s (rdS s a) 32 32 = .ok (gs, bs)
  let fails := fun (c b : Nat) (x : Word) => ∃ f, f.cause = c ∧ f.sub = b ∧ f.addr = x ∧ exec (.pdef n a) s = .next (raise f s)
  let fits := p.base < 2 ^ 31 ∧ cacheVat s die (p.base / 2 ^ 22 % 64) = false ∧ p.base % 2 ^ 22 + p.size ≤ 0x300000
  let owned := ∀ y ∈ p.lineAddrs ++ [p.fillc, p.freec], bankOwner s (bankNo y) = s.me.lnch
  let armed := lineAt s p.fillc = .counter ∧ lineAt s p.freec = .counter
  let open_ := ∀ y ∈ [p.base, p.fillc, p.freec], bit (dieOf s (y / 2 ^ 28)).vatw (y / 2 ^ 22 % 64) = true → s.me.world = true
  let apart := ∀ q ∈ pails, ¬(p.base < q.base + 64 * q.lines * q.depth ∧ q.base < p.base + p.size)
  let counted := fun y => y ∈ p.lineAddrs ∧ isCounted (lineAt s y) = true
  let named := fun (e g : Nat) (t : State) => withFlight 1 .none 0 s.me.sq.arrive none
    { t with me := { t.me with regs := { t.me.regs with pl := t.me.regs.pl.set n (pailReg raw die e g) } } }
  (∀ f, readDesc s (rdS s a) 32 32 = .error f → exec (.pdef n a) s = .next (raise f s)) ∧
  (here → pailFieldsOk raw = false → fails 0x02 0 (rdS s a)) ∧
  (here → pailFieldsOk raw = true →
    ((2 ^ 31 ≤ p.base ∨ cacheVat s die (p.base / 2 ^ 22 % 64) = true ∨ 0x300000 ≤ p.base % 2 ^ 22) → fails 0x0A 3 (BitVec.ofNat 64 p.base)) ∧
    (p.base < 2 ^ 31 → cacheVat s die (p.base / 2 ^ 22 % 64) = false → p.base % 2 ^ 22 < 0x300000 → 0x300000 < p.base % 2 ^ 22 + p.size →
      fails 0x0A 3 (BitVec.ofNat 64 (p.base / 2 ^ 22 * 2 ^ 22 + 0x300000))) ∧
    (fits → ¬ open_ → ∃ y ∈ [p.base, p.fillc, p.freec], fails 0x0C 0 (BitVec.ofNat 64 y)) ∧
    (fits → open_ → (∃ y ∈ p.lineAddrs ++ [p.fillc, p.freec], bankOwner s (bankNo y) ≠ s.me.lnch) → ∃ y ∈ p.lineAddrs ++ [p.fillc, p.freec],
      bankOwner s (bankNo y) ≠ s.me.lnch ∧ fails 0x19 0 (BitVec.ofNat 64 y)) ∧
    (fits → open_ → owned → ¬ armed → ∃ y, (y = p.fillc ∨ y = p.freec) ∧ fails 0x0F 2 (BitVec.ofNat 64 y)) ∧
    (fits → open_ → owned → armed →
      (∀ q, pails.find? (samePail s.me.lnch p) = some q → exec (.pdef n a) s = .next (named q.entry q.gen (touchDesc gs s))) ∧
      (pails.find? (samePail s.me.lnch p) = none →
        (¬ apart → fails 0x0C 2 (rdS s a)) ∧
        (apart → (∀ e < 128, ∃ q ∈ pails, q.entry = e) → fails 0x0C 1 (rdS s a)) ∧
        (apart → ∀ e < 128, (∀ q ∈ pails, q.entry ≠ e) → (∀ k < e, ∃ q ∈ pails, q.entry = k) →
          (∀ y, counted y → (∀ z < y, ¬ counted z) → fails 0x0E 0 (BitVec.ofNat 64 y)) ∧
          ((∀ y, ¬ counted y) →
            let t := makePail s.me.lnch p e (touchDesc gs s)
            exec (.pdef n a) s = .next (named e (getAt 0 (dieOf (touchDesc gs s) die).pgens e) t) ∧ ∀ y ∈ p.lineAddrs, lineAt t y = .empty))))) ∧
  (pailOf s s.me.regs.pl[n] = none → exec (.pdefRel n) s = .next (raise { cause := 0x0C } s)) ∧
  (∀ q, pailOf s s.me.regs.pl[n] = some q → exec (.pdefRel n) s = .next (withFlight 1 .none 0 s.me.sq.arrive none
    (let t := freePailEntry (fld (s.me.regs.pl[n]).toNat 23 3) q.entry s
     { t with me := { t.me with regs := { t.me.regs with pl := t.me.regs.pl.set n 0 } } })))) ∧
  (∀ (s : State) (die e : Nat),
  let pails := (dieOf s die).pails
  let put := fun (f : PailDef → PailDef) => pails.map fun x => if x.entry = e then f x else x
  let due := fun (p : PailDef) (l : List (Nat × PailBy)) (k : Nat) => l.find? fun x => x.1 = k % p.depth
  let adds := fun (p : PailDef) (a : Nat) (u : PailBy) (new : PailDef → PailDef) =>
    (addCheck s (launchWorld s p.lnch) p.lnch a = none → ∃ t, exec (.pailCounterAdd die e) s = .next t ∧
      Added a 1 s t ∧ (dieOf t die).pails = put new) ∧
    (addCheck s (launchWorld s p.lnch) p.lnch a ≠ none → exec (.pailCounterAdd die e) s =
      .next (pailFault u 0x11 5 a { s with dies := vmod s.dies die fun d => { d with pails := put new } }))
  (pails.find? (fun x => x.entry = e) = none → exec (.pailCounterAdd die e) s = .next s) ∧
  (∀ p, pails.find? (fun x => x.entry = e) = some p →
    (∀ j u, due p p.owedF p.nextF = some (j, u) →
      adds p p.fillc u fun x => { x with nextF := x.nextF + 1, owedF := x.owedF.erase (j, u) }) ∧
    (∀ j u, due p p.owedF p.nextF = none → due p p.owedE p.nextE = some (j, u) →
      adds p p.freec u fun x => { x with nextE := x.nextE + 1, owedE := x.owedE.erase (j, u) }) ∧
    (due p p.owedF p.nextF = none → due p p.owedE p.nextE = none → exec (.pailCounterAdd die e) s = .next s)))

/-- R188 to R193, R391: the counter instructions and their checks: handle, world of the vat, owner, counter mode. `kset` writes a handle, `kset.clr` clears it; the mode forms arm and disarm a
line; `kadd` and `kaddr` add a register and a constant (the arrive suffix of one whose own add is discarded counts: the model's choice,
log 92), wake the waiters whose threshold is passed and saturate at the top with a boundary
fault; `kread` and `kaddr` return the value. An add whose checks passed, but which the agenda cut off (log 31) from its line's counter mode, is
discarded with 0x0F, sub-code 2; the old value of such a `kaddr` is a free value (log 5). -/
def Obligations.CounterInstructions : Prop :=
  ∀ (s : State) (k : KReg) (d a : SReg) (i : BitVec 28) (j : BitVec 16), s.Tidy →
  let x := rdS s a
  let h := rdK s k
  let c := h.toNat / 8 % 2 ^ 29 * 8
  let line := BitVec.ofNat 64 (c / 64 * 64)
  let valid := h.getLsbD 63 = true
  let shut := bit (dieOf s (c / 2 ^ 28)).vatw (c / 2 ^ 22 % 64) = true ∧ s.me.world = false
  let owned := ¬ shut ∧ bankOwner s (bankNo c) = s.me.lnch
  let armed := lineAt s c = .counter
  let whole := ∀ n rest, s.agenda ≠ .cut n :: rest
  let late : Option FaultInfo := some { cause := 0x0F, sub := 2, addr := BitVec.ofNat 64 c, detail := [7] }
  let sat := fun (n : Nat) => if 2 ^ 64 ≤ counterAt s c + n then some ({ cause := 0x0F, sub := 1, addr := BitVec.ofNat 64 c, detail := [7] } : FaultInfo) else none
  let inVat := x.toNat < 2 ^ 31 ∧ cacheVat s (x.toNat / 2 ^ 28) (x.toNat / 2 ^ 22 % 64) = false ∧ x.toNat % 2 ^ 22 < 0x300000
  (2 ^ 32 ≤ x.toNat → exec (.kset k a) s = .next (raise (accFault 0x0A 3 x false) s)) ∧
  (x.toNat < 2 ^ 32 → x.toNat % 8 ≠ 0 → exec (.kset k a) s = .next (raise { cause := 0x0B, addr := x } s)) ∧
  (x.toNat < 2 ^ 32 → x.toNat % 8 = 0 → ¬ inVat → exec (.kset k a) s = .next (raise (accFault 0x0A 3 x false) s)) ∧
  (x.toNat % 8 = 0 → inVat → exec (.kset k a) s = .next (withPend (.k k (BitVec.ofNat 64 (2 ^ 63 + x.toNat))) true false none none s)) ∧
  exec (.ksetClr k) s = .next (withPend (.k k 0) true false none none s) ∧
  (¬ valid → ∀ q ∈ [Instr.kmodeOn k, .kmodeOff k, .kadd k a i, .kaddr k d a j, .kread k d], exec q s = .next (raise { cause := 0x0C } s)) ∧
  (valid → shut → (∀ q ∈ [Instr.kmodeOn k, .kmodeOff k, .kadd k a i, .kaddr k d a j],
    exec q s = .next (raise (accFault 0x0C 0 (BitVec.ofNat 64 c) true) s)) ∧
    exec (.kread k d) s = .next (raise (accFault 0x0C 0 (BitVec.ofNat 64 c) false) s)) ∧
  (valid → ¬ shut → ¬ owned → ∀ q ∈ [Instr.kmodeOn k, .kmodeOff k, .kadd k a i, .kaddr k d a j, .kread k d],
    exec q s = .next (raise { cause := 0x19, addr := BitVec.ofNat 64 c } s)) ∧
  (whole → ¬ armed → ∀ n, goOn (.add c n none) s = withStore true .plain late s ∧
    ∃ v, goOn (.add c n (some d)) s = withPend (.s d v) true true late none { s with fresh := s.fresh + 1 }) ∧
  (valid → owned →
    ((lineAt s c = .uncounted ∨ armed) → exec (.kmodeOn k) s = .next (withStore true .plain none (setLine c .counter s))) ∧
    (lineAt s c ≠ .uncounted → ¬ armed → exec (.kmodeOn k) s = .next (raise { cause := 0x0C, addr := line } s)) ∧
    ((∃ e ∈ s.dies.toList, ∃ w ∈ e.wft, waitsOnLine c w = true) → exec (.kmodeOff k) s = .next (raise { cause := 0x0F, sub := 3, addr := line } s)) ∧
    ((∀ e ∈ s.dies.toList, ∀ w ∈ e.wft, waitsOnLine c w = false) →
      exec (.kmodeOff k) s = .next (withStore true .plain none (if lineAt s c = .counter then setLine c .uncounted s else s))) ∧
    (¬ armed → ∀ q ∈ [Instr.kadd k a i, .kaddr k d a j, .kread k d],
      exec q s = .next (raise { cause := 0x0F, sub := 2, addr := BitVec.ofNat 64 c } s)) ∧
    (armed → PendsS d (BitVec.ofNat 64 (counterAt s c)) true s (exec (.kread k d) s)) ∧
    (armed → whole →
      (∃ t, Added c (x.toNat + i.toNat) s t ∧ exec (.kadd k a i) s = .next (withStore true .plain (sat (x.toNat + i.toNat)) t)) ∧
      (∃ t, Added c (x.toNat + j.toNat) s t ∧ exec (.kaddr k d a j) s =
        .next (withPend (.s d (BitVec.ofNat 64 (counterAt s c))) true true (sat (x.toNat + j.toNat)) none t))) ∧
    (∀ rest, armed → s.agenda = .cut 0 :: rest →
      let held := fun (r : SlotRest) => (.next { s with agenda := rest, me := { s.me with sq := { s.me.sq with rest := some r } } } : Out)
      exec (.kadd k a i) s = held (.add c (x.toNat + i.toNat) none) ∧ exec (.kaddr k d a j) s = held (.add c (x.toNat + j.toNat) (some d))))

/-- R175, R188, R194, R200, R201, R207, R391: `kwait` retires once its counter is at its target, which resolves the wait if one was
registered, and otherwise registers it and holds its group; a deadlock its registration closes is raised, as is one found for it
since. R160, R197, R198: thread-group barriers. A `bar` arrives and, when its arrival completes the phase, B rises by 1, every bit
is cleared and it retires; otherwise it is held, and it does not arrive again when it is looked at again. A caller whose bit is
still set waits for the phase's end. `bar.a` arrives and returns the B its phase ends with; `bar.w` waits for a B. That a `bar.a`
which waits for its bit registers an edge is the model's reading (log 23). -/
def Obligations.WaitsAndBarriers : Prop :=
  (∀ (s : State) (k : KReg) (a : SReg) (i : BitVec 16),
  let c := (rdK s k).toNat / 8 % 2 ^ 29 * 8
  let valid := (rdK s k).getLsbD 63 = true
  let shut := bit (dieOf s (c / 2 ^ 28)).vatw (c / 2 ^ 22 % 64) = true ∧ s.me.world = false
  let owned := ¬ shut ∧ bankOwner s (bankNo c) = s.me.lnch
  let armed := lineAt s c = .counter
  let past := if s.me.wt.on.isSome = true then resolveWait s else s
  let target := min ((rdS s a).toNat + i.toNat) (2 ^ 64 - 1)
  let w := registerWait (.counter c target) [] s
  (¬ valid → exec (.kwait k a i) s = .next (raise { cause := 0x0C } s)) ∧
  (valid → shut → exec (.kwait k a i) s = .next (raise (accFault 0x0C 0 (BitVec.ofNat 64 c) false) s)) ∧
  (valid → ¬ shut → ¬ owned → exec (.kwait k a i) s = .next (raise { cause := 0x19, addr := BitVec.ofNat 64 c } s)) ∧
  (valid → owned → ¬ armed → exec (.kwait k a i) s = .next (raise { cause := 0x0F, sub := 2, addr := BitVec.ofNat 64 c } s)) ∧
  (valid → owned → armed → s.me.wt.dead = none →
    (target ≤ counterAt s c → exec (.kwait k a i) s = .next (retireNow past)) ∧
    (counterAt s c < target → w.me.wt.dead = none → exec (.kwait k a i) s = .next (holdHere w)) ∧
    (∀ f, counterAt s c < target → w.me.wt.dead = some f → exec (.kwait k a i) s = .next (raise f w))) ∧
  (∀ f, valid → owned → armed → s.me.wt.dead = some f → exec (.kwait k a i) s = .next (raise f s))) ∧
  (∀ (s : State) (d a b : SReg) (g : Group) (m : Member),
  let h := rdS s a
  let t := (rdS s b).toNat
  let at_ := s.me.sq.at_
  let past := if s.me.wt.on.isSome = true then resolveWait s else s
  let arrived := s.me.wt.phases.find? fun x => x.1 = at_ && x.2.1 = h
  let last := { g with members := g.members.map fun (x : Member) => if x.tid = s.me.tid && x.present then { x with bit := true } else x }
  (∀ f, memberCheck s h = .error f → f = { cause := 0x0C, addr := h } ∧ ∀ q ∈ [Instr.bar a, .barA d a, .barW a b], exec q s = .next (raise f s)) ∧
  (memberCheck s h = .ok (g, m) → s.me.wt.dead = none →
    (m.bit = false → arrived = none → let u := barArrive at_ h g s
      (last.phaseEnds = true → exec (.bar a) s = .next (barDone at_ u) ∧
        ∃ g', (dieOf u (h.toNat / 2 ^ 28 % 8)).groups.find? (fun x => x.entry = g.entry) = some g' ∧ g'.b = g.b + 1 ∧ ∀ x ∈ g'.members, x.bit = false) ∧
      (last.phaseEnds = false → (barHeld h (g.b + 1) u).me.wt.dead = none → exec (.bar a) s = .next (holdHere (barHeld h (g.b + 1) u)))) ∧
    (m.bit = true → arrived = none → (barHeld h (g.b + 1) s).me.wt.dead = none → exec (.bar a) s = .next (holdHere (barHeld h (g.b + 1) s))) ∧
    (∀ x, arrived = some x →
      (x.2.2 ≤ g.b → exec (.bar a) s = .next (barDone at_ s)) ∧
      (g.b < x.2.2 → (barHeld h x.2.2 s).me.wt.dead = none → exec (.bar a) s = .next (holdHere (barHeld h x.2.2 s)))) ∧
    (m.bit = false → exec (.barA d a) s = .next (withPend (.s d (BitVec.ofNat 64 (g.b + 1))) true true none none (arrive h g past).1)) ∧
    (m.bit = true → (barHeld h (g.b + 1) s).me.wt.dead = none → exec (.barA d a) s = .next (holdHere (barHeld h (g.b + 1) s))) ∧
    (t ≤ g.b → exec (.barW a b) s = .next (retireNow past)) ∧
    (g.b < t → (barHeld h t s).me.wt.dead = none → exec (.barW a b) s = .next (holdHere (barHeld h t s)))) ∧
  (∀ die e g, (dieOf s die).groups.find? (fun x => x.entry = e) = some g → die < 8 →
    (g.phaseEnds = true ↔ g.members.length = g.size ∧ (∃ x ∈ g.members, x.present = true) ∧ ∀ x ∈ g.members, x.present = true → x.bit = true) ∧
    (g.phaseEnds = true → ∃ g', (dieOf (endPhase die e s) die).groups.find? (fun x => x.entry = e) = some g' ∧ g'.b = g.b + 1 ∧
      (∀ m ∈ g'.members, m.bit = false) ∧ g'.members.map (fun m => m.tid) = g.members.map (fun m => m.tid)) ∧
    (g.phaseEnds = false → endPhase die e s = s)))

/-- R188, R202, R203, R391: owner records. A declaration makes a record unless an equal one is there and returns 1, or 0 when the table
is full; the drops remove the records of the counter that the caller, or its launch, declared; the queries count edges, records and
free entries. The order of the checks (log 55), that a deadlock is sought among the waits not satisfied (log 78), and that a record
two threads have declared is the first one's (log 91), are the model's readings and choice. R39, R195, R196, R201, R208: the steps
of the counter hardware. An owed arrive add is made once; a token reaches its waiter's list; a poll interval lets an unregistered
waiter look again; the walks handed to the dispatch core are examined, and the newest member of a deadlocked set that such a walk
leads to traps with cause 0x10. The order of the pairs a deadlock lists is the model's choice (log 24). -/
def Obligations.OwnersAndWaitHardware : Prop :=
  (∀ (s : State) (k : KReg) (d a : SReg),
  let c := (rdK s k).toNat / 8 % 2 ^ 29 * 8
  let valid := (rdK s k).getLsbD 63 = true
  let shut := bit (dieOf s (c / 2 ^ 28)).vatw (c / 2 ^ 22 % 64) = true ∧ s.me.world = false
  let owned := ¬ shut ∧ bankOwner s (bankNo c) = s.me.lnch
  let x := rdS s a
  let die := c / 2 ^ 28
  let gives := fun (kind tid : Nat) (v : Word) (i : Instr) => valid → owned →
    ((∃ e ∈ (dieOf s die).wft, sameOwner s.me.lnch tid c kind v e = true) → PendsS d 1 true s (exec i s)) ∧
    ((∀ e ∈ (dieOf s die).wft, sameOwner s.me.lnch tid c kind v e = false) →
      (freeWft (dieOf s die) = none → PendsS d 0 true s (exec i s)) ∧
      (∀ n, freeWft (dieOf s die) = some n → exec i s = .next (withPend (.s d 1) true true none none
        (inherit (placeWft die { entry := n, lnch := s.me.lnch, tid, stamp := stampOf s die, kind := .owner c kind v s.me.tid, owners := [] } s)))))
  gives 0 s.me.tid 0 (.wfown k d) ∧
  (x.toNat % 2 ^ 24 < s.me.nthr → gives 0 (x.toNat % 2 ^ 24) 0 (.wfownT k d a)) ∧
  (x.getLsbD 63 = true → gives 1 0 (handleKey s x) (.wfownG k d a)) ∧
  (∀ g, handleGroup s x = some g → handleKey s x = g.key) ∧
  gives 2 s.me.tid (BitVec.ofNat 64 (x.toNat % 2 ^ 32)) (.wfownE k d a) ∧
  gives 3 0 (if x.getLsbD 63 then BitVec.ofNat 64 (2 ^ 63 + x.toNat % 2 ^ 16) else BitVec.ofNat 64 (x.toNat % 2 ^ 6)) (.wfownR k d a) ∧
  (valid → s.me.nthr ≤ x.toNat % 2 ^ 24 → exec (.wfownT k d a) s = .next (raise { cause := 0x0C, addr := x } s)) ∧
  (valid → x.getLsbD 63 = false → exec (.wfownG k d a) s = .next (raise { cause := 0x0C, addr := x } s)) ∧
  (¬ valid → ∀ q ∈ [Instr.wfown k d, .wfownT k d a, .wfownG k d a, .wfownE k d a, .wfownR k d a, .wfdrop k, .wfdropAll k, .wfqW k d, .wfqO k d],
    exec q s = .next (raise { cause := 0x0C } s)) ∧
  (valid → shut → ∀ q ∈ [Instr.wfown k d, .wfownE k d a, .wfownR k d a, .wfdrop k, .wfdropAll k, .wfqW k d, .wfqO k d],
    exec q s = .next (raise (accFault 0x0C 0 (BitVec.ofNat 64 c) false) s)) ∧
  (valid → ¬ shut → ¬ owned → ∀ q ∈ [Instr.wfown k d, .wfownE k d a, .wfownR k d a, .wfdrop k, .wfdropAll k, .wfqW k d, .wfqO k d],
    exec q s = .next (raise { cause := 0x19, addr := BitVec.ofNat 64 c } s)) ∧
  (valid → owned →
    (∀ all, exec (if all then .wfdropAll k else .wfdrop k) s = .next (withStore true .plain none (inherit
      { s with dies := vmod s.dies die (fun y => { y with wft := y.wft.filter fun e => match e.kind with
        | .owner z _ _ by_ => !(z = c && e.lnch = s.me.lnch && (all || by_ = s.me.tid)) | _ => true }) }))) ∧
    PendsS d (BitVec.ofNat 64 ((edgesOf s).filter fun e => match e.e.kind with | .edge (.counter y _) => y = c | _ => false).length) true s
      (exec (.wfqW k d) s) ∧
    PendsS d (BitVec.ofNat 64 ((dieOf s die).wft.filter fun e => match e.kind with | .owner y .. => y = c | _ => false).length) true s
      (exec (.wfqO k d) s)) ∧
  PendsS d (BitVec.ofNat 64 (8192 - (dieOf s s.me.die).wft.length)) true s (exec (.wfqF d) s)) ∧
  (∀ (s : State) (c addr entry order : Nat) (x : Ctx), s.Tidy → findCtx c s = some x →
  (addr ∈ x.sq.owed → addCheck s x.world x.lnch addr = none → ∃ t, exec (.arriveAdd c addr) s = .next t ∧
    counterAt t addr = min (counterAt s addr + 1) (2 ^ 64 - 1) ∧ ∃ y, findCtx c t = some y ∧ y.sq.owed = x.sq.owed.erase addr) ∧
  (addr ∉ x.sq.owed → exec (.arriveAdd c addr) s = .next s) ∧
  ((c, entry, order) ∈ s.tokens → x.wt.entry = some entry → x.wt.stamp = order →
    ∃ t y, exec (.wakeToken c entry order) s = .next t ∧ t.tokens = s.tokens.erase (c, entry, order) ∧ findCtx c t = some y ∧
      (x.wt.tokens.length < 8 → y.wt.tokens = x.wt.tokens ++ [(entry, order)]) ∧
      (8 ≤ x.wt.tokens.length → y.wt.tokens = x.wt.tokens ∧ y.wt.overflow = true)) ∧
  ((c, entry, order) ∉ s.tokens → exec (.wakeToken c entry order) s = .next s) ∧
  (∃ t y, exec (.unregisteredWaitPoll c) s = .next t ∧ findCtx c t = some y ∧ y.wt.again = (x.wt.again || x.wt.unregistered)) ∧
  (∀ die, die < 8 → ∃ t, exec (.dispatchDeadlockCheck die) s = .next t ∧ (dieOf t die).walks = [] ∧
    ((dieOf s die).walks = [] → t = inherit s) ∧
    (∀ n e v, (dieOf s die).walks = [n] →
      let es := deadSet s (waitsOf s).length (waitsOf s)
      let set := reachOf s es es.length [e]
      es.find? (fun y => y.die = die && y.e.entry = n) = some e → newest set = some v → v.e.uid = c →
        v ∈ set ∧ (∀ y ∈ set, y.e.stamp ≤ v.e.stamp) ∧ ∃ y f, findCtx c t = some y ∧ y.wt.dead = some f ∧ f.cause = 0x10 ∧ f.sub = 1)) ∧
  (∀ y ∈ deadSet s (waitsOf s).length (waitsOf s), let o := ownersOf s y.e
    o.unjoined = false ∧ o.outside = false ∧ o.threads ≠ [] ∧ ∀ u ∈ o.threads, ∃ z ∈ deadSet s (waitsOf s).length (waitsOf s), z.e.uid = u))

/-! ### Threads (R152 to R162, R181, R183) -/

/-- R152, R154 to R156, R181: thread instructions. `exit` and `trig` are noted and act later: a `trig` takes its place among the
operations, and retires and counts once every operation before it is done; its arrive add is then owed, an operation of its own
(R243). `prio` answers the old base priority and takes the new one at the boundary after its group, for the thread or for every
thread of its launch, unless it is above the launch record's. R166, R171, R183: `launch` appends a record to a queue: a full ring
answers −1, a ring of the secure world −2 to another agent, and otherwise the record's address stands in the next ring entry, NOTIFY
is one higher and the old NOTIFY is the answer. The queue slots mapped to the header take the new NOTIFY as a maximum. That the line
is known by its physical address on every die (log 30), and that the ring's entry is checked last (log 29), are the model's
readings. -/
def Obligations.ThreadInstructions : Prop :=
  (∀ (s : State) (d a : SReg) (n : PReg) (r : Bool),
  let p := if r then (rdS s a).toNat % 16 else n.val
  let late := fun (x : Late) => withPend (.s d (BitVec.ofNat 64 (s.me.bpri % 16))) true false none none
    { s with me := { s.me with sq := { s.me.sq with late := s.me.sq.late ++ [x] } } }
  let lead := match launchOf s s.me.lnch with | some l => bits l.conf 44 4 | none => s.me.bpri
  exec .exit s = .next { s with me := { s.me with sq := { s.me.sq with exiting := some s.me.sq.arrive } } } ∧
  exec .trig s = .next { s with ids := s.ids + 1, me := { s.me with trigs := s.me.trigs ++ [(s.me.sq.arrive, s.ids + 1, s.me.sq.cmdCount)] } } ∧
  (lead < p → ∀ q ∈ [Instr.prio d a n r, .prioAll d a n r], exec q s = .next (raise { cause := 0x0C, addr := BitVec.ofNat 64 p } s)) ∧
  (p ≤ lead → exec (.prio d a n r) s = .next (late (.prio false p)) ∧ exec (.prioAll d a n r) s = .next (late (.prio true p))) ∧
  (∀ all k, s.me.sq.late = [.prio all k] → let t := closeGroup s
    let e := endGroup { s with me := { s.me with sq := { s.me.sq with late := [] } } }
    t.me.bpri = k ∧ t.me.regs = e.me.regs ∧ t.others.map (fun x => x.regs) = e.others.map (fun x => x.regs) ∧
    (all = true → ∀ x ∈ t.others ++ t.saved.map (fun v => v.ctx), x.lnch = e.me.lnch → x.bpri = k) ∧
    (all = false → t.others.map (fun x => x.bpri) = e.others.map (fun x => x.bpri))) ∧
  (∀ c x, findCtx c s = some x → (∀ arr ids cmds rest, x.trigs = (arr, ids, cmds) :: rest → doneBefore s x ids cmds = true →
    exec (.trigRetire c) s = .next (countTrig c (modCtx c (fun x => { x with trigs := x.trigs.drop 1
                                                                             sq := { x.sq with owed := x.sq.owed ++ arr.toList } }) s))) ∧
    (∀ arr ids cmds rest, x.trigs = (arr, ids, cmds) :: rest → doneBefore s x ids cmds = false → exec (.trigRetire c) s = .next s) ∧
    (∀ l, launchOf s x.lnch = some l → ∃ m, launchOf (countTrig c s) x.lnch = some m ∧ m.trigd = if x.triggered then l.trigd else l.trigd + 1))) ∧
  (∀ (s : State) (d a b : SReg) (g : Seg) (gs rs : List Seg) (h : QueueHdr),
  let hdr := rdS s a
  let rcd := rdS s b
  let full := (h.notify + 2 ^ 64 - h.read) % 2 ^ 64 = 2 ^ h.lsz
  (∀ f, appendCheck s (agentOf s.me) hdr rcd = .error f → exec (.launch d a b) s = .next (raise f s)) ∧
  ((hdr.toNat % 64 ≠ 0 → exec (.launch d a b) s = .next (raise { cause := 0x0B, addr := hdr } s)) ∧
    (hdr.toNat % 64 = 0 → rcd.toNat % 64 ≠ 0 → exec (.launch d a b) s = .next (raise { cause := 0x0B, addr := rcd } s))) ∧
  (appendCheck s (agentOf s.me) hdr rcd = .ok (g :: gs, h, rs) →
    (full → PendsS d (-1) true s (exec (.launch d a b) s)) ∧
    (¬full → h.w = true → s.me.world = false → PendsS d (-2) true s (exec (.launch d a b) s)) ∧
    (¬full → (h.w = true → s.me.world = true) → ∃ t u n, exec (.launch d a b) s = .next (withPend (.s d (BitVec.ofNat 64 h.notify)) true true none none t) ∧
      u = writeSegs (stepSegs .store (some s.me.uid) rs s) rs (leBytes 8 rcd.toNat) ∧ n = BitVec.ofNat 64 (h.notify + 1) ∧
      t = notifyLine g.addr n (writeSegs (stepSegs .atomic (some s.me.uid) (g :: gs) u) (g :: gs)
        (leBytes 8 n.toNat ++ (readSegs u (g :: gs)).drop 8)))) ∧
  (∀ t pa v, t = notifyLine pa v s → ∀ die < 8, (dieOf t die).q.map (fun x => x.reg) =
    (dieOf s die).q.map fun x => if x.mapped = true ∧ headerPa s die x = some pa ∧ x.reg.toNat < v.toNat then v else x.reg))

/-- R157 to R161: thread groups. A join of a new key makes a group and takes rank 0, a join of a live one takes the next rank, errors come
back in the handle; `leave` removes the caller; the queries read the handle or the home table. -/
def Obligations.ThreadGroups : Prop :=
  ∀ (s : State) (d a b : SReg),
  let key := rdS s a
  let size := (rdS s b).toNat
  let h := rdS s a
  let ds := dieSet s s.me.lnch
  let die := ds.getD (key.toNat % ds.length) s.me.die
  let gone := (dieOf s die).groups.find? fun g => g.lnch = s.me.lnch && g.key = key
  let gives := fun (v : Word) (t : State) (o : Out) => o = .next (withPend (.s d v) true true none none t)
  let err := fun (e : Nat) => gives (BitVec.ofNat 64 (e * 2 ^ 56)) s (exec (.join d a b) s)
  ((size = 0 ∨ 4096 < size) → err 2) ∧
  (0 < size → size ≤ 4096 →
    (gone = none → freeGroup (dieOf s die) = none → err 1) ∧
    (∀ e, gone = none → freeGroup (dieOf s die) = some e → gives (groupHandle size 0 die e (genOf (dieOf s die) e))
      (noteJoin die e (genOf (dieOf s die) e) (modDie die (fun d => { d with groups := d.groups ++
        [{ entry := e, lnch := s.me.lnch, key, size, members := [newMember s.me.tid 0], b := 0 }] }) s)) (exec (.join d a b) s)) ∧
    (∀ g, gone = some g →
      (∀ m, g.present s.me.tid = some m → gives (groupHandle g.size m.rank die g.entry (genOf (dieOf s die) g.entry)) s (exec (.join d a b) s)) ∧
      (g.present s.me.tid = none → (g.size ≠ size → err 3) ∧ (g.size = size → g.size ≤ g.members.length → err 4) ∧
        (g.size = size → g.members.length < g.size → gives (groupHandle size g.members.length die g.entry (genOf (dieOf s die) g.entry))
          (noteJoin die g.entry (genOf (dieOf s die) g.entry) (modGroup die g.entry
            (fun g' => { g' with members := g'.members ++ [newMember s.me.tid g.members.length] }) s)) (exec (.join d a b) s))))) ∧
  (∀ g m, memberCheck s h = .ok (g, m) → ∃ t, exec (.leave a) s = .next (withStore true .plain none t) ∧ t.me.regs = s.me.regs ∧
    t.dies = (leaveGroup (bits h 28 3) g.entry s.me.tid s).dies ∧ t.me.groups = s.me.groups.erase (bits h 28 3, bits h 20 8, bits h 4 16)) ∧
  (∀ f, memberCheck s h = .error f → exec (.leave a) s = .next (raise f s)) ∧
  (h.getLsbD 63 = true → PendsS d (BitVec.ofNat 64 (bits h 31 12)) false s (exec (.grank d a) s) ∧
    PendsS d (BitVec.ofNat 64 (bits h 43 13)) false s (exec (.gsize d a) s)) ∧
  (h.getLsbD 63 = false → ∀ q ∈ [Instr.grank d a, .gsize d a, .gsizeJ d a], exec q s = .next (raise { cause := 0x0C, addr := h } s)) ∧
  (∀ g, handleGroup s h = some g → PendsS d (BitVec.ofNat 64 (g.members.filter fun m => m.present).length) true s (exec (.gsizeJ d a) s)) ∧
  (handleGroup s h = none → exec (.gsizeJ d a) s = .next (raise { cause := 0x0C, addr := h } s))

/-! ### Tiles (R253 to R278) -/

/-- R257, R261, R264, R265, R269 to R271, R273, R275, R277: the tile commands. One whose issue checks pass takes the next command tag and
waits in the context's list with its operands as read at issue; one that fails raises the first failing check's fault. The issued configuration
of the destination changes at issue, and the group's other reads of it go on seeing the one it began with (R46). That `tstv` of a tile tagged
NONE is refused at issue with 0x05 (log 35), and that the handle is checked before the operands (log 55), are the model's readings. -/
def Obligations.TileCommandsIssue : Prop :=
  ∀ (s : State) (t mp : Ix8) (a b : SReg) (n : BitVec 8) (r : BitVec 7) (v : VReg) (m : Sys2Proof.MReg) (u : Ix8) (c : Bool) (k : Option KReg)
    (g : Tag) (d : Fin 4),
  let mr := s.me.regs.mp[mp]
  let cfg := (tileOf s.me t).icfg
  let ka := kcAddr s k
  let was := s.me.sq.cfgWas
  let issued := fun (w : Word) => { s with me := modTile t (fun x => { x with icfg := w }) { s.me with sq := { s.me.sq with
    cfgWas := if was.any (fun x => x.1 = t.val) = true then was else (t.val, cfg) :: was
    tagLate := s.me.sq.tagLate.filter fun x => x.1 ≠ t.val } } }
  let runs := fun (chk : Option FaultInfo) (x : State) (o : Out) => o = .next (match chk with | some f => raise f s | none => x)
  let fits := fun (g : Tag) => (rdS s a).toNat % 128 + (r.toNat + 1) ≤ cfgRows cfg &&
    (if g = .e2m1x then cfgRB cfg % 16 = 0 && (r.toNat + 1) * cfgRB cfg ≤ 768 else (r.toNat + 1) * cfgRB cfg ≤ 1024)
  let ok := fun (w : Word) => decide (1 ≤ cfgRB w ∧ cfgRB w ≤ 512 ∧ 1 ≤ cfgRows w ∧ cfgRows w ≤ 128 ∧ 1 ≤ w.toNat % 16 ∧ (w.toNat % 16 ≤ 9 ∨ w.toNat % 16 = 15))
  exec (.tzero t) s = .next (withCmd (.tzero t) none s) ∧
  exec (.tcons t n) s = .next (withCmd (.tcons t n.toNat) none s) ∧
  exec (.dtab d a) s = .next (withCmd (.dtab d.val (rdS s a)) none s) ∧
  (ok (rdS s a) = false → exec (.tcfg t a) s = .next (raise { cause := 0x02, addr := rdS s a } s)) ∧
  (ok (rdS s a) = true → ∃ w, w = csrNew .write 0x20 cfg (rdS s a) ∧ exec (.tcfg t a) s = .next (withCmd (.tcfg t w) none (issued w))) ∧
  runs (firstFault [kcCheck s k, mapTileCheck s t mr (rdS s b)])
    (withCmd (.tld t mr (rdS s a) (rdS s b) c ka) ka (issued (withTag cfg (mapTag mr.bits)))) (exec (.tld t mp a b c k) s) ∧
  runs (firstFault [kcCheck s k, mapTileCheck s t mr (rdS s b), tstTagCheck t cfg (mapTag mr.bits)])
    (withCmd (.tst t mr (rdS s a) (rdS s b) n.toNat ka) ka s) (exec (.tst t mp a b n k) s) ∧
  runs (firstFault [sourceCheck s v, failIf (!fits (rdV s v).tag) { cause := 0x02, addr := rdS s a }])
    (withCmd (.tldv t (rdV s v) ((rdS s a).toNat % 128) (r.toNat + 1)) none (issued (withTag cfg (rdV s v).tag))) (exec (.tldv t v a r) s) ∧
  (cfgTag cfg = .none → exec (.tstv t v a r) s = .next (raise { cause := 0x05, addr := BitVec.ofNat 64 t.val } s)) ∧
  (cfgTag cfg ≠ .none → fits (cfgTag cfg) = false → exec (.tstv t v a r) s = .next (raise { cause := 0x02, addr := rdS s a } s)) ∧
  (cfgTag cfg ≠ .none → fits (cfgTag cfg) = true → ∃ y,
    exec (.tstv t v a r) s = .next (withCmd (.tstv v t ((rdS s a).toNat % 128) (r.toNat + 1) s.ids) none y) ∧
    y.me.sq.pends = s.me.sq.pends ++ [{ id := s.ids, upd := .v v 0 (BitVec.allOnes 8192) (some (cfgTag cfg)), ready := false, cls := false
                                        flags := 0, arrive := none, fault := none, addr := none
                                        src := .engine (s.me.sq.cmdCount % 2 ^ 32) }] ∧
    y.me.sq.arrive = s.me.sq.arrive ∧ y.me.regs = s.me.regs ∧ y.hbm = s.hbm ∧ y.store = s.store) ∧
  runs (firstFault [kcCheck s k, mapCheck mr (rdS s b)])
    (withCmd (.tmc mr (rdS s a) (rdS s b) ((rdM s m).setWidth 64) u.val c ka) ka s) (exec (.tmc mp a b m u c k) s) ∧
  runs (firstFault [kcCheck s k, failIf ((rdS s b).toNat % 256 = 0 || (tldzWin cfg (rdS s b) g).isNone) { cause := 0x02, addr := rdS s b }])
    (withCmd (.tldz t g (rdS s a) (rdS s b) ka) ka (issued (withTag cfg g))) (exec (.tldz t a b g k) s) ∧
  (∀ gs bs, readDesc s (rdS s a) 64 64 = .ok (gs, bs) →
    runs (failIf (!mapOk (BitVec.ofNat 512 (leNat bs))) { cause := 0x02, addr := rdS s a })
      (withFlight 1 .none 0 (touchDesc gs s).me.sq.arrive none (modRegs (fun q => { q with mp := q.mp.set mp { bits := BitVec.ofNat 512 (leNat bs), raster := [] } })
        (touchDesc gs s))) (exec (.mset mp a) s)) ∧
  (∀ f, readDesc s (rdS s a) 64 64 = .error f → exec (.mset mp a) s = .next (raise f s)) ∧
  ((64 < (rdS s b).toNat ∨ (0 < (rdS s b).toNat ∧ mr.bits.getLsbD 71 = false)) → exec (.mord mp a b) s = .next (raise { cause := 0x02, addr := rdS s b } s)) ∧
  (∀ f, 0 < (rdS s b).toNat → (rdS s b).toNat ≤ 64 → mr.bits.getLsbD 71 = true → readDesc s (rdS s a) 4 (4 * (rdS s b).toNat) = .error f →
    exec (.mord mp a b) s = .next (raise f s)) ∧
  (∀ gs bs, 0 < (rdS s b).toNat → (rdS s b).toNat ≤ 64 → mr.bits.getLsbD 71 = true → readDesc s (rdS s a) 4 (4 * (rdS s b).toNat) = .ok (gs, bs) →
    ∃ q : MapReg, mapNq q.bits = (rdS s b).toNat ∧ q.raster = ((List.range (rdS s b).toNat).map fun i => BitVec.ofNat 32 (leNat ((bs.drop (4 * i)).take 4))) ∧
      (∀ j < 512, (j < 72 ∨ 79 ≤ j) → q.bits.getLsbD j = mr.bits.getLsbD j) ∧
      exec (.mord mp a b) s = .next (withFlight 1 .none 0 (touchDesc gs s).me.sq.arrive none
        (modRegs (fun x => { x with mp := x.mp.set mp q }) (touchDesc gs s)))) ∧
  ((rdS s b).toNat = 0 → ∃ q : MapReg, mapNq q.bits = 0 ∧ q.raster = [] ∧
    exec (.mord mp a b) s = .next (withFlight 1 .none 0 s.me.sq.arrive none (modRegs (fun x => { x with mp := x.mp.set mp q }) s)))

/-- R253, R259, R262, R272: the tile queries, the receive ports, and `wait`, which retires when no more than its limits are outstanding. That
`trecv` raises the handle's fault whatever the port's state is the model's order of checks (log 55). -/
def Obligations.TileQueriesAndPorts : Prop :=
  ∀ (s : State) (b : SReg) (t n : Ix8) (h : KReg) (l st c q : PReg),
  let x := tileOf s.me t
  let core := coreOf s s.me.die s.me.core
  let port := portOf s s.me.die s.me.core n.val
  let ports := fun (f : List PortBind → List PortBind) => withFlight 1 .none 0 s.me.sq.arrive none (modPorts s.me.die s.me.core f s)
  (∃ v : Nat, PendsS b (BitVec.ofNat 64 v) true s (exec (.tcfgqSt b t) s) ∧ v % 2 = (tileBusy s.me false t).toNat ∧
    v / 2 % 2 = (tileBusy s.me true t).toNat ∧ v / 8 % 2 = (core.ports.any fun p => p.lnch = s.me.lnch && p.tid = s.me.tid && p.tile.val = t.val).toNat ∧
    v / 2 ^ 20 % 16 = (cfgTag x.cfg).code ∧ v / 2 ^ 24 % 256 = x.cnt % 256 ∧ v / 2 ^ 32 = x.ver.toNat) ∧
  PendsS b (if s.me.sq.cmdCount = 0 then -1 else BitVec.ofNat 64 ((s.me.sq.cmdCount - 1) % 2 ^ 32)) true s (exec (.tcfgqTag b) s) ∧
  PendsS b core.sep true s (exec (.tcfgqSep b) s) ∧
  ((∀ e ∈ s.me.sq.cmds, e.finished = true ∨ t.val ∉ e.op.tiles.2) → (∀ e ∈ s.me.sq.cmds, ∀ y pd, e.op ≠ .query y pd) → (∀ p ∈ s.me.sq.pends, p.id ≠ s.ids) →
    ∃ y, exec (.tcfgqVer b t) s = .next y ∧ y.me.sq.cmds = s.me.sq.cmds ∧ y.me.sq.pends = s.me.sq.pends ++
      [{ id := s.ids, upd := .s b (x.ver.setWidth 64), ready := true, cls := true, flags := 0, arrive := s.me.sq.arrive, fault := none, addr := none, src := .own }]) ∧
  ((∃ e ∈ s.me.sq.cmds, e.finished = false ∧ t.val ∈ e.op.tiles.2) → (∀ e ∈ s.me.sq.cmds, ∀ y pd, e.op ≠ .query y pd) →
    ∃ y, exec (.tcfgqVer b t) s = .next y ∧ y.me.sq.pends = s.me.sq.pends ++
      [{ id := s.ids, upd := .s b 0, ready := false, cls := true, flags := 0, arrive := s.me.sq.arrive, fault := none, addr := none, src := .own }]) ∧
  (∀ f, handleCheck s h = some f → exec (.trecv t h n) s = .next (raise f s)) ∧
  (handleCheck s h = none →
    ((port = none ∨ ∃ p, port = some p ∧ p.lnch = s.me.lnch ∧ p.tid = s.me.tid) →
      exec (.trecv t h n) s = .next (ports fun l => l.filter (fun p => p.port ≠ n.val) ++
        [{ port := n.val, cid := s.me.cid, lnch := s.me.lnch, tid := s.me.tid, tile := t, addr := counterOf s h }])) ∧
    (∀ p, port = some p → (p.lnch ≠ s.me.lnch ∨ p.tid ≠ s.me.tid) →
      exec (.trecv t h n) s = .next (raise { cause := 0x0C, addr := BitVec.ofNat 64 n.val } s))) ∧
  ((∃ p, port = some p ∧ p.lnch = s.me.lnch ∧ p.tid = s.me.tid) →
    exec (.trecvRel n) s = .next (ports fun l => l.filter fun p => p.port ≠ n.val)) ∧
  ((port = none ∨ ∃ p, port = some p ∧ (p.lnch ≠ s.me.lnch ∨ p.tid ≠ s.me.tid)) →
    exec (.trecvRel n) s = .next (raise { cause := 0x0C, addr := BitVec.ofNat 64 n.val } s)) ∧
  (s.me.wt.dead = none →
    ((s.me.sq.passed = true ∨ (outL s.me ≤ l.val ∧ outS s.me ≤ st.val ∧ outC s.me ≤ c.val ∧ outT s.me ≤ q.val)) →
      exec (.wait l st c q) s = .next (retireNow s)) ∧
    (s.me.sq.passed = false → (l.val < outL s.me ∨ st.val < outS s.me ∨ c.val < outC s.me ∨ q.val < outT s.me) →
      exec (.wait l st c q) s = .next (holdHere s))) ∧
  (∀ f, s.me.wt.dead = some f → exec (.wait l st c q) s = .next (raise f s))

/-- R39, R191, R255, R257, R258, R261, R271: a command acts when it may, and not while an earlier unfinished one touches a tile it
writes or writes a tile it reads, nor, for the tile engine, before an earlier tile command of the context; that the tile engine's
commands do not overtake one another is the model's reading (log 75). It completes when nothing of it is left: its completion
counter rises by its amount, then, an operation of its own (R243), its arrive counter by 1, and it leaves class C with the last of
them; one that faulted adds nothing and delivers its fault. Zeroing a tile clears it and faults with 0x0E on a COUNTED one; counting
sets a reader count and faults with 0x0D on an EMPTY tile, 0x0E on a COUNTED one; a configuration or a count whose arrive add is
withheld changes nothing. Rows that were loaded from a register read back as they were. R67, R258, R267 to R271, R277: what a tile
command does when it executes, its map in VA or the store. `tld` puts the elements of its map, or padding, at their places of its
window and `tldz` those its stream decodes to; `tldv` puts rows of a register there; a COUNTED destination faults with 0x0E, the
first element that cannot be read with its own fault, and the tile is tagged POISON. `tst` writes the elements of the unpadded
positions, those of a higher position last, and changes nothing if one of them may not be written; `tstv` fills its register from
rows; both fault on an EMPTY source with 0x0D, on a POISON one with 0x11. Nothing else of memory or of the registers changes. What
such a fault has for `XADDR` is R258's table with the model's readings (logs 61, 80). R263, R268: a map's positions. Dimension 0
runs fastest; position `k` lies at the base plus each coordinate times its stride, and is padded exactly when a coordinate is below
0 or at or beyond its extent. -/
def Obligations.TileCommandsAct : Prop :=
  (∀ (s : State) (tag : Nat) (x : Cmd),
  let u := s.me.uid
  findCmd u tag s = some x →
  (mayAct s s.me x = true → exec (.engineCommandExecute u tag) s = .next (settleQueries u (doCmd u s.me x s))) ∧
  (mayAct s s.me x = false → exec (.engineCommandExecute u tag) s = .next s) ∧
  (x.begun = false → (∃ e ∈ before (isCmd tag) s.me.sq.cmds, e.finished = false ∧
      ((∃ t ∈ x.op.tiles.2, t ∈ e.op.tiles.1 ∨ t ∈ e.op.tiles.2) ∨ ∃ t ∈ x.op.tiles.1, t ∈ e.op.tiles.2)) → mayAct s s.me x = false) ∧
  (x.begun = false → x.op.engine = 0 → s.me.status ≠ .saving → (∃ y ∈ s.me.sq.cmds, isCmd y.tag y = true ∧ y.op.engine = 0 ∧ y.begun = false ∧ y.seq < x.seq) →
    mayAct s s.me x = false) ∧
  (mayComplete x = true → exec (.engineCommandComplete u tag) s = .next (settleQueries u (completeCmd u s.me x s))) ∧
  (mayComplete x = false → exec (.engineCommandComplete u tag) s = .next s) ∧
  (∀ t : Ix8, x.op = .tzero t → ((tileOf s.me t).cnt = 0 ∨ (tileOf s.me t).cnt = 255) →
    let y := tileOf (doCmd u s.me x s).me t
    (∀ i, tileData y i = 0 ∧ tileSide y i = 0) ∧ y.cnt = 255 ∧ y.ver = (tileOf s.me t).ver + 1 ∧ y.cfg = (tileOf s.me t).cfg) ∧
  (∀ t : Ix8, x.op = .tzero t → x.fault = none → 1 ≤ (tileOf s.me t).cnt → (tileOf s.me t).cnt ≤ 254 →
    ∃ y, TileIs t y s (doCmd u s.me x s) ∧ Poisoned (tileOf s.me t) y ∧ Failed u tag (cmdFault x 0x0E 0 0) (doCmd u s.me x s)) ∧
  (∀ (t : Ix8) n, x.op = .tcons t n → x.fault = none → (tileOf s.me t).cnt ≠ 255 → (tileOf s.me t).cnt < 255 → let d := doCmd u s.me x s
    d.me.regs = s.me.regs ∧ SameBytes s d ∧ Failed u tag (cmdFault x (if (tileOf s.me t).cnt = 0 then 0x0D else 0x0E) 0 0) d) ∧
  (∀ t n w, (x.op = .tcons t n ∧ (tileOf s.me t).cnt = 255 ∨ x.op = .tcfg t w) → x.fault = none → let d := doCmd u s.me x s
    (∀ a, x.arrive = some a → addCheck s s.me.world s.me.lnch a ≠ none → d.me.regs = s.me.regs ∧ SameBytes s d ∧ ∃ f, Failed u tag f d) ∧
    ((∀ a, x.arrive = some a → addCheck s s.me.world s.me.lnch a = none) → Executed u tag 0 d ∧
      (x.op = .tcons t n → TileIs t { tileOf s.me t with cnt := n } s d) ∧
      (x.op = .tcfg t w → TileIs t { tileOf s.me t with cfg := w, ver := (tileOf s.me t).ver + 1 } s d) ∧
      ∀ a, x.arrive = some a → counterAt d a = min (counterAt s a + 1) (2 ^ 64 - 1))) ∧
  (mayComplete x = true →
    let o := exec (.engineCommandComplete u tag) s
    let gone := fun (t : State) => ∀ y ∈ t.me.sq.cmds, isCmd tag y = false
    let adds := fun (a : Nat) => addCheck s s.me.world s.me.lnch a
    (∀ f, x.fault = some f → ∃ t, o = .next t ∧ gone t ∧ f ∈ t.me.sq.faults ∧ SameBytes s t ∧ t.me.regs = s.me.regs) ∧
    (∀ a, x.fault = none → x.kc = some a →
      (adds a = none → ∃ t, o = .next t ∧ Added a x.amount s t ∧ (x.arrive = none → gone t) ∧
        (x.arrive ≠ none → ∃ y, findCmd u tag t = some y ∧ y = { x with kc := none })) ∧
      (adds a ≠ none → ∃ t, o = .next t ∧ gone t ∧ SameBytes s t ∧ ∃ f ∈ t.me.sq.faults, f.addr = BitVec.ofNat 64 a ∧ f.tag = tag ∧
        (f.cause = if adds a = some 0x0F then 0x11 else (adds a).getD 0))) ∧
    (∀ a, x.fault = none → x.kc = none → x.arrive = some a → (∀ v t r n pd, x.op ≠ .tstv v t r n pd) →
      (adds a = none → ∃ t, o = .next t ∧ gone t ∧ Added a 1 s t) ∧
      (adds a ≠ none → ∃ t, o = .next t ∧ gone t ∧ SameBytes s t ∧ ∃ f ∈ t.me.sq.faults, f.addr = BitVec.ofNat 64 a ∧ f.tag = tag)) ∧
    (x.fault = none → x.kc = none → x.arrive = none → ∃ t, o = .next t ∧ gone t ∧ SameBytes s t ∧ t.me.regs = s.me.regs)) ∧
  (∀ (v : VData) (row n : Nat) (y : Tile), v.tag ≠ .e2m1x → cfgTag y.cfg = v.tag → n * cfgRB y.cfg ≤ 1024 → ∀ i < n * cfgRB y.cfg,
    laneBits (getRows (putRows v row n y) row n) 8 i = laneBits v.bits 8 i) ∧
  (∀ (v : VData) (row n : Nat) (y : Tile) (i : Nat), (i < row * cfgRB y.cfg ∨ (row + n) * cfgRB y.cfg ≤ i) →
    tileData (putRows v row n y) i = tileData y i)) ∧
  (∀ (s : State) (tag : Nat) (x : Cmd) (t : Ix8) (mp : MapReg) (org plc A : Word) (cons : Bool)
    (kc : Option Nat) (w : TileWin) (gs : Nat → List Seg) (bs : Nat → List Byte) (v : VData) (r : VReg) (row n pd : Nat) (g : Tag), s.Tidy →
  let id := s.me.uid
  let o := exec (.engineCommandExecute id tag) s
  let tl := tileOf s.me t
  let rb := cfgRB tl.cfg
  let free := tl.cnt = 0 ∨ tl.cnt = 255
  let held := 1 ≤ tl.cnt ∧ tl.cnt ≤ 254
  let writes := fun (m : Nat) (P : Tile → Prop) => ∃ z y, o = .next z ∧ Executed id tag m z ∧ SameBytes s z ∧ TileIs t y s z ∧ P y
  let spoils := fun (f : FaultInfo) => ∃ z y, o = .next z ∧ Failed id tag (engFault x f) z ∧ SameBytes s z ∧ TileIs t y s z ∧ Poisoned tl y
  let fails := fun (f : FaultInfo) => ∃ z, o = .next z ∧ Failed id tag (engFault x f) z ∧ SameBytes s z ∧ z.me.regs = s.me.regs
  let at_ := position mp org plc
  let live := (List.range (mapCount mp.bits)).filter fun k => !(at_ k).1
  let tg := mapTag mp.bits
  let size := (elemSize tg).1
  findCmd id tag s = some x → x.begun = false → mayAct s s.me x = true →
  (x.op = .tld t mp org plc cons kc → mapSp mp.bits ≠ 2 → mapWin tl.cfg mp plc = some w →
    let rd := fun k => loadElem s (agentOf s.me) (mapSp mp.bits) tg cons (at_ k).2
    ((∀ k ∈ live, rd k = .ok (gs k, bs k)) →
      (free → writes (mapCount mp.bits * size) (Filled w tg (mapCount mp.bits) (fun k => if (at_ k).1 then padElem tg else bs k) tl)) ∧
      (held → spoils { cause := 0x0E })) ∧
    (∀ pre k post f, live = pre ++ k :: post → (∀ j ∈ pre, ∃ y, rd j = .ok y) → rd k = .error f → spoils f)) ∧
  (x.op = .tst t mp org plc n kc → mapSp mp.bits ≠ 2 →
    (tl.cnt = 0 → fails { cause := 0x0D }) ∧
    (tl.cnt ≠ 0 → cfgTag tl.cfg = .poison → fails { cause := 0x11, sub := 3 }) ∧
    (tl.cnt ≠ 0 → cfgTag tl.cfg ≠ .poison → mapWin tl.cfg mp plc = some w →
      let line := fun k => w.frow + k * size / w.w
      let byte := fun k => w.fbyte + k * size % w.w
      let el := fun k => (List.range size).map (fun b => tileData tl (line k * rb + byte k + b)) ++
        if tg = .e2m1x then [tileSide tl (64 * line k + byte k / 16), tileSide tl (64 * line k + 32 + byte k / 16)] else []
      let wr := fun k => engSegs s (agentOf s.me) (mapSp mp.bits) (if n = 0 then .store else .counted n) (at_ k).2 (elemSize tg).2 (elemAlign tg)
      ((∀ k ∈ live, wr k = .ok (gs k)) → ∃ z, o = .next z ∧ Executed id tag (live.length * (elemSize tg).2) z ∧
        Wrote (live.flatMap gs) (live.flatMap el) s z) ∧
      (∀ pre k post f, live = pre ++ k :: post → (∀ j ∈ pre, ∃ y, wr j = .ok y) → wr k = .error f → fails f))) ∧
  (x.op = .tldv t v row n →
    (free → writes 0 fun y => y.cfg = withTag tl.cfg v.tag ∧ y.ver = tl.ver + 1 ∧ y.cnt = 255 ∧
      (∀ i < n, ∀ b < rb, tileData y ((row + i) * rb + b) = v.bits.extractLsb' (8 * (i * rb + b)) 8) ∧
      (∀ i, (i < row * rb ∨ (row + n) * rb ≤ i) → tileData y i = if tl.cnt = 0 then 0 else tileData tl i) ∧
      (v.tag = .e2m1x → rb ≤ 512 → ∀ i < n, ∀ j < rb / 16,
        tileSide y (64 * (row + i) + j) = v.bits.extractLsb' (8 * (768 + i * rb / 16 + j)) 8 ∧
        tileSide y (64 * (row + i) + 32 + j) = v.bits.extractLsb' (8 * (816 + i * rb / 16 + j)) 8) ∧
      (v.tag ≠ .e2m1x → ∀ i, tileSide y i = tileSide tl i)) ∧
    (held → spoils { cause := 0x0E })) ∧
  (x.op = .tstv r t row n pd → ∀ p ∈ s.me.sq.pends, p.id = pd → ∀ q d m c, p.upd = .v q d m c →
    let lands := fun (P : BitVec 8192 → BitVec 8192 → Option Tag → Prop) (z : State) =>
      ∃ e ∈ z.me.sq.pends, ∃ d m c, e.id = pd ∧ e.upd = .v q d m c ∧ P d m c
    (tl.cnt = 0 → fails { cause := 0x0D } ∧ ∀ z, o = .next z → lands (fun _ m c => m = 0 ∧ c = some .poison) z) ∧
    (tl.cnt ≠ 0 → cfgTag tl.cfg = .poison → fails { cause := 0x11, sub := 3 } ∧
      ∀ z, o = .next z → lands (fun _ m c => m = 0 ∧ c = some .poison) z) ∧
    (tl.cnt ≠ 0 → cfgTag tl.cfg ≠ .poison → ∃ z, o = .next z ∧ Executed id tag 0 z ∧ SameBytes s z ∧ z.me.regs = s.me.regs ∧
      lands (fun d m c => m = BitVec.allOnes 8192 ∧ c = some (cfgTag tl.cfg) ∧
        let cell := fun j => d.extractLsb' (8 * j) 8
        (cfgTag tl.cfg ≠ .e2m1x → ∀ j < 1024, cell j = if j < n * rb then tileData tl (row * rb + j) else 0) ∧
        (cfgTag tl.cfg = .e2m1x → (∀ j < 768, cell j = if j < n * rb then tileData tl (row * rb + j) else 0) ∧
          (∀ i < n, ∀ j < rb / 16, i * (rb / 16) + j < 48 →
            cell (768 + i * (rb / 16) + j) = tileSide tl (64 * (row + i) + j) ∧
            cell (816 + i * (rb / 16) + j) = tileSide tl (64 * (row + i) + 32 + j)) ∧
          ∀ j < 1024, 864 ≤ j → cell j = 0)) z)) ∧
  (x.op = .tldz t g A plc kc → A.toNat % 64 = 0 → tldzWin tl.cfg plc g = some w →
    let rows := plc.toNat % 256
    let m := rows * w.w / (elemSize g).1
    let um := (elemSize g).2
    let stream := sepStream s (agentOf s.me) s.me.regs.sep g (m * um) (m * um + 1) A []
    (∀ hs out, stream = .ok (hs, out) → out.length = m * um ∧
      (free → writes (rows * w.w) (Filled w g m (fun k => (out.drop (k * um)).take um) tl)) ∧ (held → spoils { cause := 0x0E })) ∧
    (∀ f, stream = .error f → spoils f)) ∧
  (x.op = .tldz t g A plc kc → A.toNat % 64 ≠ 0 → spoils { cause := 0x0B, addr := A })) ∧
  (∀ (mp : MapReg) (org plc : Word) (k : Nat), k < mapCount mp.bits →
  let i := coords mp.bits k
  let dim := fun d => mapDim mp.bits d
  let c := fun (d : Nat) => (origins mp org plc).getD d 0 + ((i.getD d 0 * (dim d).dil : Nat) : Int) - ((dim d).pad : Int)
  i.length = 6 ∧ (∀ d < 6, i.getD d 0 < (dim d).n) ∧
  k = i.getD 0 0 + (dim 0).n * (i.getD 1 0 + (dim 1).n * (i.getD 2 0 + (dim 2).n * (i.getD 3 0 + (dim 3).n * (i.getD 4 0 + (dim 4).n * i.getD 5 0)))) ∧
  ((position mp org plc k).1 = true ↔ ∃ d < 6, c d < 0 ∨ ((dim d).ext : Int) ≤ c d) ∧
  (position mp org plc k).2 = mapBase mp.bits + BitVec.ofInt 64 (c 0 * (dim 0).stride + c 1 * (dim 1).stride + c 2 * (dim 2).stride +
    c 3 * (dim 3).stride + c 4 * (dim 4).stride + c 5 * (dim 5).stride))

/-! ### The churn (R279 to R300) -/

/-- R283, R285, R292 to R295: the churn commands. A command whose issue checks pass takes the next command tag; clearing commands set the
issued accumulator tag at once. -/
def Obligations.ChurnCommandsIssue : Prop :=
  ∀ (s : State) (n qb st z w ca cb ua ub act q : Bool) (t u : Ix8) (a : SReg) (bv : Option VReg) (x : Option Ix8),
  let v := rdS s a
  let lo := v.toNat % 2 ^ 32
  let hi := v.toNat / 2 ^ 32
  let runs := fun (chk : Option FaultInfo) (y : State) (o : Out) => o = .next (match chk with | some f => raise f s | none => y)
  let itag := fun (g : Tag) => { s with me := { s.me with regs := { s.me.regs with churn := modAcc n (fun e => { e with itag := g }) s.me.regs.churn } } }
  runs (mmaCheck s n t u v z ua ub) (withCmd (.mma n t u v z w ca cb ua ub (cfgTag (tileOf s.me t).icfg)) none
    (if z then itag (if cfgTag (tileOf s.me t).icfg = .i8 then .i32 else .fp32) else s)) (exec (.mma n t u a z w ca cb ua ub) s) ∧
  exec (.mmzI32 n) s = .next (withCmd (.mmz n false) none (itag .i32)) ∧
  exec (.mmzFp32 n) s = .next (withCmd (.mmz n true) none (itag .fp32)) ∧
  runs (mmdrCheck s t n v bv x) (withCmd (.mmdr t n v (bv.map (rdV s)) x act q z (cfgTag (tileOf s.me t).icfg)) none s) (exec (.mmdr t n a bv x act q z) s) ∧
  exec (.qld n qb st a) s = .next (withCmd (.qld n qb st v none) none s) ∧
  exec (.qldBind n qb st a t) s = .next (withCmd (.qld n qb st v (some t)) none s) ∧
  exec (.qst n qb st a) s = .next (withCmd (.qst n qb st v) none s) ∧
  exec (.etab a) s = .next (withCmd (.etab v) none s) ∧
  runs (failIf (!(finite32 lo && finite32 hi && decide (Real.cmp (decodeFmt fmtFP32 lo) (decodeFmt fmtFP32 hi) < 0))) { cause := 0x02, addr := v })
    (withCmd (.eset false v) none s) (exec (.esetRng a) s) ∧
  runs (failIf (!finite32 lo) { cause := 0x02, addr := v }) (withCmd (.eset true v) none s) (exec (.esetQ a) s)

/-- R286 to R288, R291: what one K block adds. With the corrections of its own rows the difference of squares is exactly the dot product
of two blocks of I8 values, so an I32 accumulator grows by it and clamps (or wraps under W); a floating one takes the sum with the
partial, exact at the blocks' exponents, rounded once to nearest, and a NaN block makes it the canonical NaN. R279, R288 to R299:
what the churn commands do when they execute. `mma` adds the partials of its K blocks in ascending order to the rectangle its
operands span, from zero under Z, forms or keeps its corrections and makes its consuming reads; a failing check changes the set's
tag alone. `mmdr` writes each element's value, biased, activated and converted, at its place, the index of the row's largest to the
arg-max tile, and clears the rectangle under Z. `mmz` clears a set, `eset` and `etab` set the drain's parameters, `qld` and `qst`
move a correction register. Memory takes nothing but what `qst` stores. That a POISON set and a stale correction give `XADDR` 0 is
the model's choice (log 80), the entry of a NaN block a free value (log 5). -/
def Obligations.ChurnAccumulatesProducts : Prop :=
  ((∀ a b : List Int, a.length = b.length → a.length ≤ 512 → (∀ x ∈ a ++ b, -128 ≤ x ∧ x ≤ 127) →
    blockPartial a b (sumSq a) (sumSq b) = (List.zipWith (fun x y => x * y) a b).sum) ∧
  (∀ (a b : List Int), a.length = b.length → a.length ≤ 32 → (∀ x ∈ a ++ b, -32768 ≤ x ∧ x ≤ 32768) →
    blockPartial a b (sumSq a) (sumSq b) = (List.zipWith (fun x y => x * y) a b).sum) ∧
  (∀ (nan : Bool) (c : BitVec 48) (p e : Int), let y := (c.setWidth 32).toInt + p
    (accumulate .i8 false nan c p e).setWidth 32 = BitVec.ofInt 32 (max (-2 ^ 31) (min (2 ^ 31 - 1) y)) ∧
    (accumulate .i8 true nan c p e).setWidth 32 = BitVec.ofInt 32 y) ∧
  (∀ (t : Tag) (w : Bool) (c : BitVec 48) (p e : Int), t ≠ .i8 → accumulate t w true c p e = BitVec.ofNat 48 (canonNaN fmtFP32)) ∧
  (∀ (t : Tag) (w : Bool) (c : BitVec 48) (p e : Int), t ≠ .i8 → let x := decodeFmt fmtFP32 (c.toNat % 2 ^ 32)
    accumulate t w false c p e = BitVec.ofNat 48
      (((Real.add .rne x (.fin (decide (p < 0)) p.natAbs e)).1.round fmtFP32 .rne).1) ∧
    ∀ neg m k, x = .fin neg m k → (if neg then -1 else 1) * (m : Int) ≠ 0 → p ≠ 0 → k = e → (if neg then -1 else 1) * (m : Int) + p ≠ 0 →
      let y := (if neg then -1 else 1) * (m : Int) + p
      accumulate t w false c p e = BitVec.ofNat 48 ((Real.fin (decide (y < 0)) y.natAbs e).round fmtFP32 .rne).1) ∧
  (∀ c : Corr, bits c.desc 8 6 = 0 → bit c.desc 14 = true → 1 ≤ bits c.desc 0 8 → bits c.desc 0 8 ≤ 128 →
    (match Tag.ofCode (bits c.desc 18 4) with | some t => mmaTag t | none => false) = true →
    ∃ r, corrParse (corrImage c) = some r ∧ r.desc = c.desc ∧ ∀ e < 128, r.entry e = c.entry e)) ∧
  (∀ (s : State) (tag : Nat) (x : Cmd) (n z w ca cb ua ub qb st fp act q : Bool) (t u : Ix8)
    (A : Word) (g : Tag) (bind : Option Ix8) (bv : Option VData) (y : Option Ix8) (gs : List Seg) (bs : List Byte), s.Tidy →
  let id := s.me.uid
  let o := exec (.engineCommandExecute id tag) s
  let h := s.me.regs.churn
  let a := tileOf s.me t
  let b := tileOf s.me u
  let el := fun (k : Churn) (i j : Nat) => getAt 0 (accOf k n).elems (128 * i + j)
  let r0 := A.toNat % 128
  let c0 := A.toNat / 256 % 128
  let other := fun (k : Churn) => accOf k (!n) = accOf h (!n)
  let params := fun (k : Churn) => k.qs = h.qs ∧ k.zp = h.zp ∧ k.lo = h.lo ∧ k.hi = h.hi ∧ k.etab = h.etab
  let corrs := fun (k : Churn) => k.qa = h.qa ∧ k.qb = h.qb
  let does := fun (P : State → Prop) => ∃ v, o = .next v ∧ Executed id tag 0 v ∧ SameBytes s v ∧ P v
  let tilesToo := fun (v : State) => v.me.regs = { s.me.regs with t := v.me.regs.t, churn := v.me.regs.churn }
  let only := fun (P : Churn → Prop) => does fun v => P v.me.regs.churn ∧ v.me.regs = { s.me.regs with churn := v.me.regs.churn }
  let fails := fun (f : FaultInfo) (P : Churn → Prop) => ∃ v, o = .next v ∧ Failed id tag (engFault x f) v ∧ SameBytes s v ∧
    P v.me.regs.churn ∧ v.me.regs = { s.me.regs with churn := v.me.regs.churn }
  findCmd id tag s = some x → x.begun = false → mayAct s s.me x = true →
  (x.op = .mmz n fp → only fun k => (∀ i j, el k i j = 0) ∧ (accOf k n).atag = (if fp then .fp32 else .i32) ∧
    (accOf k n).itag = (accOf h n).itag ∧ other k ∧ corrs k ∧ params k) ∧
  (x.op = .eset q A → only fun k => k.acc = h.acc ∧ corrs k ∧ k.etab = h.etab ∧
    (q = true → k.qs = A.setWidth 32 ∧ k.zp = A.extractLsb' 32 32 ∧ k.lo = h.lo ∧ k.hi = h.hi) ∧
    (q = false → k.lo = A.setWidth 32 ∧ k.hi = A.extractLsb' 32 32 ∧ k.qs = h.qs ∧ k.zp = h.zp)) ∧
  (x.op = .etab A → (engRead s (agentOf s.me) false A 2048 = .ok (gs, bs) → only fun k => k.acc = h.acc ∧ corrs k ∧ k.qs = h.qs ∧ k.zp = h.zp ∧
      k.lo = h.lo ∧ k.hi = h.hi ∧ k.etab.length = 256 ∧ ∀ i < 256, k.etab[i]? = some (BitVec.ofNat 32 (leNat ((bs.drop (8 * i)).take 4)),
        BitVec.ofNat 32 (leNat ((bs.drop (8 * i + 4)).take 4)))) ∧
    (∀ f, engRead s (agentOf s.me) false A 2048 = .error f → fails f fun k => k = h)) ∧
  (x.op = .qld n qb st A bind →
    let rest := fun (k : Churn) => k.acc = h.acc ∧ params k ∧ corrOf k n (!qb) = corrOf h n (!qb) ∧ ∀ p, corrOf k (!n) p = corrOf h (!n) p
    (engRead s (agentOf s.me) st A 1088 = .ok (gs, bs) →
      (∀ r, corrParse bs = some r → only fun k => rest k ∧ (corrOf k n qb).entries = r.entries ∧
        (bind = none → (corrOf k n qb).desc = r.desc) ∧
        ∀ e, bind = some e → let d := (corrOf k n qb).desc
          d.extractLsb' 32 32 = (tileOf s.me e).ver ∧ d.extractLsb' 15 3 = BitVec.ofNat 3 e.val ∧
          ∀ j < 64, (j < 15 ∨ (18 ≤ j ∧ j < 32)) → d.getLsbD j = r.desc.getLsbD j) ∧
      (corrParse bs = none → fails { cause := 0x11, sub := 2, addr := A } fun k => rest k ∧ (corrOf k n qb).v = false)) ∧
    (∀ f, engRead s (agentOf s.me) st A 1088 = .error f → fails f fun k => rest k ∧ (corrOf k n qb).v = false)) ∧
  (x.op = .qst n qb st A → let c := corrOf h n qb
    (engSegs s (agentOf s.me) st.toNat .store A 1088 64 = .ok gs → ∃ v, o = .next v ∧ Executed id tag 0 v ∧
      Wrote gs (leBytes 8 c.desc.toNat ++ List.replicate 56 0 ++ (List.range 128).flatMap fun e => leBytes 8 (c.entry e).toNat) s v) ∧
    (∀ f, engSegs s (agentOf s.me) st.toNat .store A 1088 64 = .error f → fails f fun k => k = h)) ∧
  (x.op = .mma n t u A z w ca cb ua ub g →
    let M := cfgRows a.cfg
    let N := cfgRows b.cfg
    let nb := kBlocks g (cfgRB a.cfg)
    let want : Tag := if g = .i8 then .i32 else .fp32
    let start := fun i j => if z = true ∧ ((accOf h n).atag ≠ want ∨ (r0 ≤ i ∧ i < r0 + M ∧ c0 ≤ j ∧ j < c0 + N)) then 0 else el h i j
    let add := fun (i j : Nat) (c : BitVec 48) (k : Nat) =>
      let e := edgeBlock a g i k
      let f := edgeBlock b g j k
      accumulate g w (e.nan || f.nan) c (blockPartial e.ints f.ints (if ua then ((corrOf h n false).entry i).toNat else sumSq e.ints)
        (if ub then ((corrOf h n true).entry j).toNat else sumSq f.ints)) (e.e + f.e)
    let eats := fun (e : Ix8) => (ca = true ∧ e = t) ∨ (cb = true ∧ e = u)
    let formed := fun (k : Churn) (side reuse : Bool) (e : Ix8) (v : Tile) =>
      (reuse = true → corrOf k n side = corrOf h n side) ∧
      (reuse = false → 1 < nb → (corrOf k n side).v = false) ∧
      (reuse = false → nb = 1 → (corrOf k n side).desc = corrDesc v.ver (cfgRB v.cfg) g e (cfgRows v.cfg) ∧
        ∀ i < cfgRows v.cfg, cfgRows v.cfg < 256 → (edgeBlock v g i 0).nan = false →
          (corrOf k n side).entry i = BitVec.ofInt 48 (sumSq (edgeBlock v g i 0).ints))
    (mmaReadCheck s.me n t u z ua ub g = none → r0 + M ≤ 128 → c0 + N ≤ 128 → does fun v =>
      let k := v.me.regs.churn
      tilesToo v ∧ (∀ i < 128, ∀ j < 128, el k i j = if r0 ≤ i ∧ i < r0 + M ∧ c0 ≤ j ∧ j < c0 + N
        then (List.range nb).foldl (add (i - r0) (j - c0)) (start i j) else start i j) ∧
      (accOf k n).atag = (if z then want else (accOf h n).atag) ∧ (accOf k n).itag = (accOf h n).itag ∧ other k ∧ params k ∧
      formed k false ua t a ∧ formed k true ub u b ∧
      ∀ e : Ix8, tileOf v.me e = let c := tileOf s.me e; if eats e ∧ 1 ≤ c.cnt ∧ c.cnt ≤ 254 then { c with cnt := c.cnt - 1 } else c) ∧
    (∀ f, mmaReadCheck s.me n t u z ua ub g = some f → fails f fun k => (∀ i j, el k i j = el h i j) ∧ (accOf k n).atag = .poison ∧
      (accOf k n).itag = .poison ∧ other k ∧ corrs k ∧ params k) ∧
    ((cfgTag a.cfg = .poison ∨ cfgTag b.cfg = .poison) → mmaReadCheck s.me n t u z ua ub g = some { cause := 0x11, sub := 3 }) ∧
    (cfgTag a.cfg ≠ .poison → cfgTag b.cfg ≠ .poison →
      ((a.cnt = 0 ∨ b.cnt = 0) → mmaReadCheck s.me n t u z ua ub g = some { cause := 0x0D }) ∧
      (a.cnt ≠ 0 → b.cnt ≠ 0 → z = false → (accOf h n).atag = .poison → mmaReadCheck s.me n t u z ua ub g = some { cause := 0x11, sub := 3 }) ∧
      (a.cnt ≠ 0 → b.cnt ≠ 0 → (z = true ∨ (accOf h n).atag ≠ .poison) →
        (ua = true ∧ (corrOf h n false).desc ≠ corrDesc a.ver (cfgRB a.cfg) g t (cfgRows a.cfg) ∨
          ub = true ∧ (corrOf h n true).desc ≠ corrDesc b.ver (cfgRB b.cfg) g u (cfgRows b.cfg)) →
        mmaReadCheck s.me n t u z ua ub g = some { cause := 0x11, sub := 4 }))) ∧
  (x.op = .mmdr t n A bv y act q z g → drainTag g = true →
    let size := (elemSize g).1
    let rb := cfgRB a.cfg
    let M := cfgRows a.cfg
    let N := rb / size
    let counted := fun (c : Tile) => 1 ≤ c.cnt ∧ c.cnt ≤ 254
    let spoils := fun (f : FaultInfo) => ∃ v, o = .next v ∧ Failed id tag (engFault x f) v ∧ SameBytes s v ∧ v.me.regs.churn = h ∧
      Poisoned a (tileOf v.me t) ∧ ∀ e, y = some e → e ≠ t → Poisoned (tileOf s.me e) (tileOf v.me e)
    let val := fun (i j : Nat) =>
      let e := (el h (r0 + i) (c0 + j)).toNat % 2 ^ 32
      let raw := if (accOf h n).atag = .i32 then Drain.int (BitVec.ofNat 32 e).toInt else .flt e
      let biased := match bv with
        | none => raw
        | some v => match raw with
          | .int m => .int (max (-2 ^ 31) (min (2 ^ 31 - 1) (m + (BitVec.ofNat 32 (laneBits v.bits 32 (c0 + j))).toInt)))
          | .flt p => .flt (fAdd fmtFP32 .rne (decodeFmt fmtFP32 p) (decodeFmt fmtFP32 (laneBits v.bits 32 (c0 + j)))).1
      if act then .flt (actOf h (match biased with | .int m => ((Real.ofInt m).round fmtFP32 .rne).1 | .flt p => p)) else biased
    let old := fun (c : Tile) (k : Nat) => if c.cnt = 0 then 0 else tileData c k
    (y ≠ some t → (accOf h n).atag = .poison → spoils { cause := 0x11, sub := 3 }) ∧
    (y ≠ some t → (accOf h n).atag ≠ .poison → (counted a ∨ ∃ e, y = some e ∧ counted (tileOf s.me e)) → spoils { cause := 0x0E }) ∧
    (((accOf h n).atag = .i32 ∨ (accOf h n).atag = .fp32) → (a.cnt = 0 ∨ a.cnt = 255) → y ≠ some t →
      (∀ e, y = some e → (tileOf s.me e).cnt = 0 ∨ (tileOf s.me e).cnt = 255) → does fun v =>
      let d := tileOf v.me t
      tilesToo v ∧ d.cfg = a.cfg ∧ d.ver = a.ver + 1 ∧ d.cnt = 255 ∧ (∀ k, tileSide d k = tileSide a k) ∧
      (∀ i < M, ∀ j < N, ∀ e < size, tileData d (i * rb + j * size + e) = (leBytes size (drainOut h g q (val i j))).getD e 0) ∧
      (∀ k, (∀ i < M, ∀ j < N, ∀ e < size, k ≠ i * rb + j * size + e) → tileData d k = old a k) ∧
      (∀ e, y = some e → let c := tileOf s.me e
        let d := tileOf v.me e
        d.cfg = c.cfg ∧ d.ver = c.ver + 1 ∧ d.cnt = 255 ∧
        (4 ≤ cfgRB c.cfg → (∀ i < M, ∀ k < 4, tileData d (i * cfgRB c.cfg + k) = (leBytes 4 (argRow ((List.range N).map (val i)))).getD k 0) ∧
          ∀ k, (∀ i < M, ∀ e < 4, k ≠ i * cfgRB c.cfg + e) → tileData d k = old c k)) ∧
      (∀ e : Ix8, e ≠ t → y ≠ some e → tileOf v.me e = tileOf s.me e) ∧
      let k := v.me.regs.churn
      (∀ i j, j < 128 → el k i j = if z = true ∧ r0 ≤ i ∧ i < r0 + M ∧ c0 ≤ j ∧ j < c0 + N then 0 else el h i j) ∧
      (accOf k n).atag = (accOf h n).atag ∧ (accOf k n).itag = (accOf h n).itag ∧ other k ∧ corrs k ∧ params k) ∧
    (∀ m : Int, isInt g = true → (drainOut h g false (.int m)) = ofInt (laneW g) (max (-2 ^ (laneW g - 1)) (min (2 ^ (laneW g - 1) - 1) m))) ∧
    (∀ p, isFloat g = true → drainOut h g false (.flt p) = ((decodeFmt fmtFP32 p).round (fmtOf g) .rne).1)))

/-! ### Eight dies (R334 to R360) -/

/-- R338 to R345: layouts. `lset` names a checked descriptor; `lcoord` gives the caller's block origin, its rank or the grid size;
`lnbr` gives the neighbour along an axis of the grid, which wraps. R339, R340: a well-formed layout of KIND 1, 2 or 3 gives every
element of the global array to exactly one die of the grid. -/
def Obligations.Layouts : Prop :=
  (∀ (s : State) (n q : Ix8) (a b : SReg) (ax : Fin 4) (dir : Bool),
  let x := s.me.regs.lay[n]
  let A := rdS s a
  (∀ gs bs, readDesc s A 64 64 = .ok (gs, bs) →
    (layOk s (BitVec.ofNat 512 (leNat bs)) = true → exec (.lset n a) s = .next (withFlight 1 .none 0 (touchDesc gs s).me.sq.arrive none
      (modRegs (fun r => { r with lay := r.lay.set n (BitVec.ofNat 512 (leNat bs)) }) (touchDesc gs s)))) ∧
    (layOk s (BitVec.ofNat 512 (leNat bs)) = false → exec (.lset n a) s = .next (raise { cause := 0x17, sub := 2, addr := A } s))) ∧
  (∀ f, readDesc s A 64 64 = .error f → exec (.lset n a) s = .next (raise f s)) ∧
  (layV x = false → ∀ i ∈ [Instr.lcoord b n q, .lnbr b n ax dir],
    exec i s = .next (raise { cause := 0x17, sub := 0, addr := BitVec.ofNat 64 n.val } s)) ∧
  (layV x = true → gridOf x (torusOf s s.me.die) = none → ∀ i ∈ [Instr.lcoord b n q, .lnbr b n ax dir],
    exec i s = .next (raise { cause := 0x17, sub := 1, addr := BitVec.ofNat 64 n.val } s)) ∧
  (∀ g, layV x = true → gridOf x (torusOf s s.me.die) = some g →
    (∀ i < 3, g.getD i 0 + layO x i = torusAt s s.me.die i ∧ g.getD i 0 < layE x i) ∧
    PendsS b (BitVec.ofNat 64 (if q.val < 4 then (blockOrigin x g).getD q.val 0 else
      if q.val = 4 then g.getD 0 0 + layE x 0 * (g.getD 1 0 + layE x 1 * g.getD 2 0) else layE x 0 * layE x 1 * layE x 2)) true s (exec (.lcoord b n q) s) ∧
    (ax.val < 3 → layOk s x = true → ∃ (w : Word) (c : List Nat), PendsS b w true s (exec (.lnbr b n ax dir) s) ∧ c.length = 3 ∧
      (∀ i < 3, c.getD i 0 = if i = ax.val then layO x i + (if dir then g.getD i 0 + 1 else g.getD i 0 + layE x i - 1) % layE x i else torusAt s s.me.die i) ∧
      w.toNat % 2 ^ 6 = dieAt c ∧ w.toNat / 2 ^ 6 % 2 ^ 6 = c.getD 0 0 ∧ w.toNat / 2 ^ 12 % 2 ^ 6 = c.getD 1 0 ∧ w.toNat / 2 ^ 18 % 2 ^ 6 = c.getD 2 0 ∧
      (w.getLsbD 24 = true ↔ ∃ i < 3, c.getD i 0 / 2 ≠ modCoord s i) ∧ (w.getLsbD 25 = true ↔ c = torusOf s s.me.die) ∧
      w.toNat / 2 ^ 32 = rankOf x ((List.range 3).map fun i => c.getD i 0 - layO x i)))) ∧
  (∀ (s : State) (x : Lay) (i : List Nat), layOk s x = true → layKind x ≠ 4 → i.length = 4 →
  (∀ k < 4, i.getD k 0 < layG x k) →
  (∃ r < layP x, ∀ k < 4, (blockOrigin x (gridOfRank x r)).getD k 0 ≤ i.getD k 0 ∧ i.getD k 0 < (blockOrigin x (gridOfRank x r)).getD k 0 + layB x k) ∧
  ∀ r < layP x, ∀ r' < layP x,
    (∀ k < 4, (blockOrigin x (gridOfRank x r)).getD k 0 ≤ i.getD k 0 ∧ i.getD k 0 < (blockOrigin x (gridOfRank x r)).getD k 0 + layB x k) →
    (∀ k < 4, (blockOrigin x (gridOfRank x r')).getD k 0 ≤ i.getD k 0 ∧ i.getD k 0 < (blockOrigin x (gridOfRank x r')).getD k 0 + layB x k) → r = r')

/-- R346: receive bindings, one for each world and KEY on a die, held by one launch. R348, R350, R352, R391: `hsend`, `reshard` and
`cred` take the next command tag when their checks pass; a `cred` joins the reduction of its KEY whose number is how many its die
has issued. `cred.ch` needs the channel function too (R391). That the fault of a secure function comes at issue, after the handle's
check and before the operands', is the model's order (logs 12, 55). -/
def Obligations.DieCommandsIssue : Prop :=
  (∀ (s : State) (n : Ix8) (k : KReg),
  let x := s.me.regs.lay[n]
  let key := layKey x
  let free := match bindingOf s s.me.die s.me.world key with | some b => b.lnch = s.me.lnch | none => (dieOf s s.me.die).recvs.length < 32
  (∀ f, handleCheck s k = some f → exec (.hrecv n k) s = .next (raise f s)) ∧
  (handleCheck s k = none → ∀ f, layCheck s n = .error f → exec (.hrecv n k) s = .next (raise f s)) ∧
  (∀ f, layCheck s n = .error f → exec (.hrecvRel n) s = .next (raise f s)) ∧
  (∀ g, s.me.die < 8 → layCheck s n = .ok (x, g) →
    (handleCheck s k = none → bindingOf s s.me.die s.me.world key = none → 32 ≤ (dieOf s s.me.die).recvs.length →
      exec (.hrecv n k) s = .next (raise { cause := 0x17, sub := 5, addr := BitVec.ofNat 64 key } s)) ∧
    (∀ b, handleCheck s k = none → bindingOf s s.me.die s.me.world key = some b → b.lnch ≠ s.me.lnch →
      exec (.hrecv n k) s = .next (raise { cause := 0x17, sub := 6, addr := BitVec.ofNat 64 key } s)) ∧
    (handleCheck s k = none → free → counterOf s k / 2 ^ 28 % 8 ≠ s.me.die →
      exec (.hrecv n k) s = .next (raise { cause := 0x17, sub := 7, addr := BitVec.ofNat 64 (counterOf s k) } s)) ∧
    (handleCheck s k = none → free → counterOf s k / 2 ^ 28 % 8 = s.me.die → ∃ t,
      exec (.hrecv n k) s = .next (withFlight 1 .none 0 s.me.sq.arrive none t) ∧ t.me = s.me ∧ t.hbm = s.hbm ∧ t.store = s.store ∧
      bindingOf t s.me.die s.me.world key = some ⟨s.me.world, key, s.me.lnch, counterOf s k⟩ ∧
      ∀ d w y, (d, w, y) ≠ (s.me.die, s.me.world, key) → bindingOf t d w y = bindingOf s d w y) ∧
    (∀ b, bindingOf s s.me.die s.me.world key = some b → b.lnch ≠ s.me.lnch →
      exec (.hrecvRel n) s = .next (raise { cause := 0x17, sub := 6, addr := BitVec.ofNat 64 key } s)) ∧
    ((∀ b, bindingOf s s.me.die s.me.world key = some b → b.lnch = s.me.lnch) → ∃ t,
      exec (.hrecvRel n) s = .next (withFlight 1 .none 0 s.me.sq.arrive none t) ∧ t.me = s.me ∧ t.hbm = s.hbm ∧ t.store = s.store ∧
      bindingOf t s.me.die s.me.world key = none ∧ ∀ d w y, (d, w, y) ≠ (s.me.die, s.me.world, key) → bindingOf t d w y = bindingOf s d w y))) ∧
  (∀ (s : State) (n d : Ix8) (ax : Fin 4) (dir : Bool) (k : Option KReg) (a b : SReg) (ch : Option (Fin 64)),
  let x := s.me.regs.lay[n]
  let ka := kcAddr s k
  let send := Instr.hsend n ax dir k
  let o := credOps (rdS s a) (rdS s b)
  let cred := match ch with | some c => Instr.credCh a b c k | none => .cred a b k
  let j := credCount s s.me.lnch o.key s.me.die
  let open_ := crwCheck s 0 = none ∧ (ch ≠ none → crwCheck s 2 = none)
  let bad := o.n = 0 ∨ (rdS s b).toNat / 2 ^ 20 % 2 ^ 12 ≠ 0 ∨ o.m.testBit s.me.die = false ∨ o.r &&& o.m ≠ o.r ∨ (ch = none ↔ o.r = 0)
  (∀ f, kcCheck s k = some f → ∀ i ∈ [send, .reshard d n k, cred], exec i s = .next (raise f s)) ∧
  (kcCheck s k = none →
    (∀ f, layCheck s n = .error f → exec send s = .next (raise f s)) ∧
    (∀ g, layCheck s n = .ok (x, g) →
      (layKind x ≠ 1 ∨ layHalo x = 0 → exec send s = .next (raise { cause := 0x17, sub := 4, addr := BitVec.ofNat 64 n.val } s)) ∧
      (layKind x = 1 → layHalo x ≠ 0 → exec send s = .next (withCmd (.hsend x ax.val dir ka) ka s))) ∧
    (∀ f, crwCheck s 1 = some f → exec (.reshard d n k) s = .next (raise f s)) ∧
    (crwCheck s 1 = none →
      let y := s.me.regs.lay[d]
      (layV y = false → exec (.reshard d n k) s = .next (raise { cause := 0x17, sub := 0, addr := BitVec.ofNat 64 d.val } s)) ∧
      (layV y = true → ∀ f, layCheck s n = .error f → exec (.reshard d n k) s = .next (raise f s)) ∧
      (∀ g, layV y = true → layCheck s n = .ok (x, g) →
        ((layTag y ≠ layTag x ∨ ∃ i < 4, layG y i ≠ layG x i) →
          exec (.reshard d n k) s = .next (raise { cause := 0x17, sub := 3, addr := BitVec.ofNat 64 n.val } s)) ∧
        (layTag y = layTag x → (∀ i < 4, layG y i = layG x i) → exec (.reshard d n k) s = .next (withCmd (.reshard y x ka) ka s)))) ∧
    (∀ f, crwCheck s 0 = some f → exec cred s = .next (raise f s)) ∧
    (∀ f, ch ≠ none → crwCheck s 0 = none → crwCheck s 2 = some f → exec cred s = .next (raise f s)) ∧
    (open_ → bad → exec cred s = .next (raise { cause := 0x02, addr := rdS s b } s)) ∧
    (open_ → ¬bad → o.src / 2 ^ 28 % 8 ≠ s.me.die → exec cred s = .next (raise { cause := 0x02, addr := rdS s a } s)) ∧
    (open_ → ¬bad → o.src / 2 ^ 28 % 8 = s.me.die → o.src % 64 ≠ 0 →
      exec cred s = .next (raise { cause := 0x0B, addr := BitVec.ofNat 64 o.src } s)) ∧
    (open_ → ¬bad → o.src / 2 ^ 28 % 8 = s.me.die → o.src % 64 = 0 → o.dst % 64 ≠ 0 →
      exec cred s = .next (raise { cause := 0x0B, addr := BitVec.ofNat 64 o.dst } s)) ∧
    (open_ → ¬bad → o.src / 2 ^ 28 % 8 = s.me.die → o.src % 64 = 0 → o.dst % 64 = 0 → ∃ t, exec cred s = .next t ∧
      t.me = (withCmd (.cred o.src o.dst o.n o.m o.r o.key (ch.map Fin.val) j ka) ka s).me ∧ t.hbm = s.hbm ∧ t.store = s.store ∧
      credCount t s.me.lnch o.key s.me.die = j + 1 ∧
      ∃ r, findRed t s.me.lnch o.key j = some r ∧ { die := s.me.die, cid := s.me.uid, tag := s.me.sq.cmdCount % 2 ^ 32, src := o.src, dst := o.dst
                                                    n := o.n, m := o.m, r := o.r, ch := ch.map Fin.val } ∈ r.ins)))

/-- R336, R346, R348, R350, R354: the next piece of an `hsend` or a `reshard` arrives. Within the module it needs a landing buffer, a
binding of its world and KEY and an armed counter; its bytes are written as one write; then, an event of its own as an add is an
operation of its own (R243), the counter grows by their number and the buffer is released. That the command goes on after an add
that saturates is the model's reading (log 26). R273, R274: a multicast reserves one buffer at each destination in ascending order,
keeping the binding it finds there, and is then delivered core by core in each receiver's tile order: the tile that was bound is
written and the counter that was bound grows by the bytes of the map. A destination that is not ready ends it: what it reserved is
given back. That a tile which no longer fits when the arrival comes is tagged POISON, with 0x11, sub-code 2, and that no arrival
follows one that faulted, is the model's reading (log 85); that an add which saturates is reported and the command goes on, log 26.
The issued TAG of the tile follows at once, or after the group the receiver has in issue (R46). -/
def Obligations.Arrivals : Prop :=
  (∀ (s : State) (u tag : Nat) (c : Ctx) (x : Cmd) (p : Piece) (ps : List Piece) (i : Instr),
  s.Tidy →
  ((∃ l ax dir k, x.op = .hsend l ax dir k ∧ i = .ladleArrival u tag) ∨ (∃ l y k, x.op = .reshard l y k ∧ i = .reshardArrival u tag)) →
  findCtx u s = some c → findCmd u tag s = some x → x.pieces = p :: ps → x.stage = 2 → x.fault = none →
  (∀ m, p.mod = some m → exec i s = .next (if earlierRemote s u x = true then s else sendPiece u c x (m % 2 ^ 16) p (m / 2 ^ 16) s)) ∧
  (p.mod = none → p.owes = none → bufferFree s c.die p.die = false → exec i s = .next s) ∧
  (p.mod = none → p.owes = none → bufferFree s c.die p.die = true →
    (bindingOf s p.die c.world p.key = none →
      exec i s = .next (failCmd u x { cause := 0x11, sub := 5, addr := BitVec.ofNat 64 p.key } s)) ∧
    ∀ b, bindingOf s p.die c.world p.key = some b →
      (lineAt s b.addr ≠ .counter → exec i s = .next (failCmd u x { cause := 0x11, sub := 5, addr := BitVec.ofNat 64 b.addr } s)) ∧
      (lineAt s b.addr = .counter →
        (∀ f, arriveSegs s b p.die p.cells = .error f → exec i s = .next (failCmd u x f s)) ∧
        (∀ r, arriveSegs s b p.die p.cells = .ok r → exec i s = .next (pieceWritten u x (b.lnch, b.addr)
          (useBuffer c.die p.die (· + 1) (storeAll (stepSegs .store (some u)) p.die r s)))))) ∧
  (∀ l a, p.mod = none → p.owes = some (l, a) → let t := useBuffer c.die p.die (· - 1) s
    (addCheck s c.world l a = none → let y := addCounter a p.cells.length t
      counterAt y.1 a = min (counterAt s a + p.cells.length) (2 ^ 64 - 1) ∧
      (y.2 = true ↔ 2 ^ 64 ≤ counterAt s a + p.cells.length) ∧
      exec i s = .next (pieceDone u x (if y.2 then recordFault u (engFault x { cause := 0x0F, sub := 1, addr := BitVec.ofNat 64 a }) y.1 else y.1))) ∧
    (∀ k, addCheck s c.world l a = some k → exec i s = .next (failCmd u x (engFault x
      { cause := if k = 0x0F then 0x11 else k, sub := if k = 0x0F then 5 else 0, addr := BitVec.ofNat 64 a }) t)))) ∧
  (∀ (s : State) (u tag : Nat) (c : Ctx) (x : Cmd) (mp : MapReg) (org plc mask : Word) (port : Nat) (cons : Bool) (kc : Option Nat),
  s.Tidy → findCtx u s = some c → findCmd u tag s = some x → x.op = .tmc mp org plc mask port cons kc →
  (∀ k, x.todo.find? (fun k => !x.reserved.contains k) = some k → x.stage = 2 → x.amount = 0 → x.fault = none →
    (4 ≤ (coreOf s c.die k).branch → exec (.multicastReservation u tag) s = .next s) ∧
    ((coreOf s c.die k).branch < 4 →
      (∀ f, destCheck s c.die k port mp plc = .error f → exec (.multicastReservation u tag) s = .next
        (failCmd u x f (modCmd u tag (fun y => { y with reserved := [], landings := [] }) (dropReserved u c x s)))) ∧
      (∀ b, destCheck s c.die k port mp plc = .ok b → exec (.multicastReservation u tag) s =
        .next (modCmd u tag (fun y => { y with reserved := y.reserved ++ [k], landings := y.landings ++ [⟨k, b.uid, b.tile, b.addr⟩] })
          (modSqOf b.uid (fun q => { q with cmds := q.cmds ++ [newCmd tag (.arrival b.tile u tag) none q.group none s.ids] })
            (modCore c.die k (fun r => { r with branch := r.branch + 1 }) s)))))) ∧
  (∀ k, (portOf s c.die k port = none → destCheck s c.die k port mp plc = .error { cause := 0x11, sub := 5, addr := BitVec.ofNat 64 k }) ∧
    ∀ b, portOf s c.die k port = some b →
      (lineAt s b.addr ≠ .counter → destCheck s c.die k port mp plc = .error { cause := 0x11, sub := 5, addr := BitVec.ofNat 64 b.addr }) ∧
      ∀ r, lineAt s b.addr = .counter → findCtx b.uid s = some r →
        (mapWin (tileOf r b.tile).icfg mp plc = none → destCheck s c.die k port mp plc = .error { cause := 0x11, sub := 2 }) ∧
        (mapWin (tileOf r b.tile).icfg mp plc ≠ none → destCheck s c.die k port mp plc = .ok b)) ∧
  (∀ k ks b r, x.todo = k :: ks → x.stage = 2 → (∀ i ∈ x.todo, i ∈ x.reserved) → x.landings.find? (fun l => l.core = k) = some b →
    findCtx b.uid s = some r →
    let t := arrivalWrite x b c.world c.lnch mp plc s
    let bytes := x.elems.map fun e => e.2.2
    (mayBegin r (isArrival u tag) = false → exec (.multicastArrival u tag) s = .next s) ∧
    let v := leaveOrder u tag b.uid (freeBranch c.die k t.1)
    let left := x.landings.filter fun l => l.core ≠ k
    let next := fun (w : State) => modCmd u tag (fun y => { y with
      todo := ks, reserved := y.reserved.erase k, landings := y.landings.filter (fun l => l.core ≠ k), amount := y.amount + mapTotal mp.bits }) w
    (mayBegin r (isArrival u tag) = true →
      (t.2.1 = none → exec (.multicastArrival u tag) s = .next (next v)) ∧
      (∀ f, t.2.1 = some f → t.2.2 = true → exec (.multicastArrival u tag) s = .next (next (recordFault u f v))) ∧
      (∀ f, t.2.1 = some f → t.2.2 = false → exec (.multicastArrival u tag) s = .next (failCmd u x f
        (modCmd u tag (fun y => { y with reserved := [], landings := [] }) (dropReserved u c { x with landings := left } v))))) ∧
    (mapWin (tileOf r b.tile).cfg mp plc = none → t = (poisonTileOf b.uid b.tile s, some { cause := 0x11, sub := 2 }, false)) ∧
    ∀ w, mapWin (tileOf r b.tile).cfg mp plc = some w →
      (tileWrite (placeElems w (mapTag mp.bits) bytes) (mapTag mp.bits) (tileOf r b.tile) = none → t = (s, some { cause := 0x0E }, false)) ∧
      ∀ y, tileWrite (placeElems w (mapTag mp.bits) bytes) (mapTag mp.bits) (tileOf r b.tile) = some y → addCheck s c.world c.lnch b.addr = none →
        t.2.2 = true ∧ (t.2.1 = none ↔ counterAt s b.addr + mapTotal mp.bits < 2 ^ 64) ∧
        counterAt t.1 b.addr = min (counterAt s b.addr + mapTotal mp.bits) (2 ^ 64 - 1) ∧
        ∃ d, findCtx b.uid t.1 = some d ∧
          (r.sq.mid = false → tileOf d b.tile = { y with icfg := withTag y.icfg (mapTag mp.bits) }) ∧
          (r.sq.mid = true → tileOf d b.tile = y ∧ (b.tile.val, mapTag mp.bits) ∈ d.sq.tagLate)))

/-- R352 to R354: a reduction is formed once every die named has joined and their commands agree (where they do not, every one of them has
met 0x11, sub-code 2, and may complete with it): all contributions are read, and each
element is the sum of eight in the fixed order, with a die that is not in M at minus zero. The result is then delivered to the dies of R
in ascending order, one landing buffer each. -/
def Obligations.Reductions : Prop :=
  ∀ (s : State) (lnch key j : Nat) (r : Reduction) (x : Contrib),
  let t := redReads r s
  let word := fun (d e : Nat) => match r.ins.find? (fun y => y.die = d) with
    | some y => if x.m.testBit d then (words32 (((contribCmd t y).bind fun k => (k.elems.head?).map fun e => e.2.2).getD [])).getD e 0 else 0x80000000
    | none => 0x80000000
  let add := fun a b => (fAdd fmtFP32 .rne (decodeFmt fmtFP32 a) (decodeFmt fmtFP32 b)).1
  findRed s lnch key j = some r →
  (redComplete r = false ∨ r.result ≠ none → exec (.creameryReduction lnch key j) s = .next s) ∧
  (redComplete r = true → r.result = none → r.ins.head? = some x →
    ((∃ y ∈ r.ins, y.n ≠ x.n ∨ y.m ≠ x.m ∨ y.r ≠ x.r ∨ y.ch ≠ x.ch) →
      ∃ v, v = endRed r (some { cause := 0x11, sub := 2 }) 0 s ∧ exec (.creameryReduction lnch key j) s = .next v ∧ findRed v lnch key j = none ∧
        ∀ y ∈ r.ins, ∀ k, contribCmd s y = some k → ∃ k', contribCmd v y = some k' ∧ k'.begun = true ∧ k'.todo = [] ∧
          k'.fault = some (engFault k { cause := 0x11, sub := 2 })) ∧
    ((∀ y ∈ r.ins, y.n = x.n ∧ y.m = x.m ∧ y.r = x.r ∧ y.ch = x.ch) →
      (∀ f, redFault r t = some f → exec (.creameryReduction lnch key j) s = .next (endRed r (some (plainFault f)) 0 t)) ∧
      (redFault r t = none → ∃ ys : List (BitVec 32), ys.length = x.n ∧
        (∀ e < x.n, ys[e]? = some (BitVec.ofNat 32 (add (add (add (word 0 e) (word 1 e)) (add (word 2 e) (word 3 e)))
          (add (add (word 4 e) (word 5 e)) (add (word 6 e) (word 7 e)))))) ∧
        (x.ch = none → exec (.creameryReduction lnch key j) s = .next (modRed lnch key j
          (fun r => { r with result := some ys, toBuf := (List.range 8).filter fun d => x.r.testBit d }) t)) ∧
        (∀ ch, x.ch = some ch → exec (.creameryReduction lnch key j) s = .next (redToChan r x ch ys t))))) ∧
  (∀ ys d ds, r.result = some ys → r.toBuf = d :: ds →
    (8 ≤ (dieOf s d).landing → exec (.reductionDelivery lnch key j) s = .next s) ∧
    ((dieOf s d).landing < 8 → exec (.reductionDelivery lnch key j) s = .next
      (modRed lnch key j (fun r => { r with toBuf := ds, held := r.held ++ [d] }) (modDie d (fun y => { y with landing := y.landing + 1 }) s)))) ∧
  (∀ ys d ds z w, r.result = some ys → r.toBuf = [] → r.held = d :: ds → r.ins.find? (fun y => y.die = d) = some z →
    w = (match findCtx z.cid s with | some c => c.world | none => false) →
    ∃ A : Word, (z.dst < 2 ^ 32 → A.toNat % 2 ^ 28 = z.dst % 2 ^ 28 ∧ A.toNat / 2 ^ 31 = z.dst / 2 ^ 31 ∧ (d < 8 → A.toNat / 2 ^ 28 % 8 = d)) ∧
      let free := fun (v : State) => modDie d (fun y => { y with landing := y.landing - 1 }) v
      let ends := fun (f : Option FaultInfo) (v : State) => exec (.reductionDelivery lnch key j) s = .next (
        if ds = [] then endRed { r with held := [], written := r.written ++ [d], fault := f } f (4 * ys.length * (r.written.length + 1)) (free v)
        else modRed lnch key j (fun _ => { r with held := ds, written := r.written ++ [d], fault := f }) (free v))
      match storeSegs s { world := w, lnch := r.lnch, die := d } 1 .store 64 [(A, ys.flatMap fun y => leBytes 4 y.toNat)] with
      | .ok g => ends r.fault (storeAll (stepSegs .store (some z.cid)) d g s)
      | .error f => ends (if r.fault.isSome then r.fault else some (plainFault f)) s)

/-- R355 to R358, R360: channels. An end is declared by `chset` and given up by `chset.rel`, which waits for its thread's own
operations; `chsend` queues an item under a command tag and `chrecv` takes the next number. That the CRW check comes first (logs 12,
55), that an entry counts among the 1,024 while an end is declared and that what is queued on a redeclared end stays queued (log
38), and the address of a failing pail (log 36), are the model's readings. A receive end declared anew has its pail's lines EMPTY;
that the pail's adds that are due are made first, so that they may reach other state, is the model's choice too (log 38). R357,
R358, R360: the oldest send of a channel is written into the pail's next slot while the sender has credit, and the oldest receive
takes its item once the filled counter has passed its number, or faults. A send to another module leaves through the window of its
end once the earlier remote operations of the threads that issued it are done, one item at a time (the model's choice, log 86). -/
def Obligations.Channels : Prop :=
  (∀ (s : State) (c : Fin 64) (a : SReg) (v : VReg),
  let l := s.me.lnch
  (∀ f, crwCheck s 2 = some f → ∀ i ∈ [Instr.chset c a, .chsetRel c, .chsend c v, .chrecv v c], exec i s = .next (raise f s)) ∧
  (crwCheck s 2 = none →
    (∀ f, readDesc s (rdS s a) 32 32 = .error f → exec (.chset c a) s = .next (raise f s)) ∧
    (∀ gs bs, readDesc s (rdS s a) 32 32 = .ok (gs, bs) →
      let x := BitVec.ofNat 256 (leNat bs)
      let e := chanEnd x s.me.tid s.me.uid
      let rcv := chanIsRcv x
      let die := e.pail / 2 ^ 28
      let taken := (∃ o, (chanEnds (chanOf s l c.val) rcv).1 = some o ∧ o.tid ≠ s.me.tid) ∨ (chanOf s l c.val = none ∧ 1024 ≤ s.chans.length)
      let other := ∃ o, (chanEnds (chanOf s l c.val) rcv).2 = some o ∧ (o.tag ≠ e.tag ∨ o.lanes ≠ e.lanes ∨ o.depth ≠ e.depth)
      (chanFieldsOk x = false → exec (.chset c a) s = .next (raise { cause := 0x02, addr := rdS s a } s)) ∧
      (chanFieldsOk x = true →
        (∀ f, rcv = true → pailPlan s l (chanPail e) (rdS s a) = .error f → exec (.chset c a) s = .next (raise f s)) ∧
        ((rcv = true → ∃ p, pailPlan s l (chanPail e) (rdS s a) = .ok p) →
          (taken → exec (.chset c a) s = .next (raise { cause := 0x18, sub := 3, addr := BitVec.ofNat 64 c.val } s)) ∧
          (¬taken → other → exec (.chset c a) s = .next (raise { cause := 0x18, sub := 1, addr := BitVec.ofNat 64 c.val } s)) ∧
          (¬taken → ¬other → ∃ t d o, exec (.chset c a) s = .next (withFlight 1 .none 0 t.me.sq.arrive none t) ∧
            chanOf t l c.val = some d ∧ (chanEnds (some d) rcv).1 = some o ∧ sameEnd o e = true ∧
            ((∀ p ∈ (dieOf s die).pails, p.owedF = [] ∧ p.owedE = []) →
              t.me = (touchDesc gs s).me ∧ (chanEnds (some d) rcv).2 = (chanEnds (chanOf s l c.val) rcv).2) ∧
            (rcv = true → (∀ o', (chanEnds (chanOf s l c.val) rcv).1 = some o' → sameEnd o' e = false) → s.Tidy →
              (dieOf s die).pails.Pairwise (fun p q => p.entry ≠ q.entry) →
              (∀ i < slotLines e * e.depth, lineAt t (e.pail + 64 * i) = .empty) ∧
              ∀ p ∈ (dieOf t die).pails, p.entry = o.pentry → (∀ b ∈ p.filled, b = false) ∧ p.owedF = [] ∧ p.owedE = []) ∧
            ∀ o', (chanEnds (chanOf s l c.val) rcv).1 = some o' → o.queue.map (fun y => (y.cid, y.op)) = o'.queue.map fun y => (y.cid, y.op))))) ∧
    (holdsEnd s c.val false = none → holdsEnd s c.val true = none →
      exec (.chsetRel c) s = .next (raise { cause := 0x18, sub := 0, addr := BitVec.ofNat 64 c.val } s)) ∧
    (holdsEnd s c.val false ≠ none ∨ holdsEnd s c.val true ≠ none →
      (chanBusy s c.val = true → exec (.chsetRel c) s = .next (holdHere s)) ∧
      (chanBusy s c.val = false → ∃ t, exec (.chsetRel c) s = .next (withFlight 1 .none 0 t.me.sq.arrive none t) ∧
        t = releaseEnds l c.val s.me.tid s ∧ holdsEnd t c.val false = none ∧ holdsEnd t c.val true = none)) ∧
    (holdsEnd s c.val false = none → exec (.chsend c v) s = .next (raise { cause := 0x18, sub := 0, addr := BitVec.ofNat 64 c.val } s)) ∧
    (∀ d e, holdsEnd s c.val false = some (d, e) →
      (d.rcvGone = true → exec (.chsend c v) s = .next (raise { cause := 0x18, sub := 2, addr := BitVec.ofNat 64 c.val } s)) ∧
      (∀ f, d.rcvGone = false → srcCheck s (fun t => t = e.tag) v = some f → exec (.chsend c v) s = .next (raise f s)) ∧
      (d.rcvGone = false → srcCheck s (fun t => t = e.tag) v = none →
        let item := vecBytes (rdV s v).bits (e.lanes * laneW e.tag / 8)
        ∃ t, exec (.chsend c v) s = .next t ∧ t.me = (withCmd (.chsend c.val item) none s).me ∧ t.hbm = s.hbm ∧ t.store = s.store ∧
          ∃ d', chanOf t l c.val = some d' ∧ d'.rcv = d.rcv ∧ d'.snd = some { e with queue := e.queue ++
            [{ cid := s.me.uid, lnch := l, tid := s.me.tid, op := s.me.sq.cmdCount % 2 ^ 32, item, n := 0 }] })) ∧
    (∀ d e, holdsEnd s c.val true = some (d, e) →
      (d.sndGone = true → d.written ≤ e.count → exec (.chrecv v c) s = .next (raise { cause := 0x18, sub := 2, addr := BitVec.ofNat 64 c.val } s)) ∧
      (d.sndGone = false ∨ e.count < d.written → ∃ t, exec (.chrecv v c) s = .next t ∧
        (∃ k : Pend, t.me = { s.me with sq := { s.me.sq with pends := s.me.sq.pends ++ [k] } } ∧
          k = { id := s.ids, upd := .v v 0 (BitVec.allOnes 8192) (some e.tag), ready := false, cls := true, flags := 0, arrive := s.me.sq.arrive, fault := none, addr := none, src := .item }) ∧ t.hbm = s.hbm ∧ t.store = s.store ∧
        ∃ d', chanOf t l c.val = some d' ∧ d'.snd = d.snd ∧ d'.rcv = some { e with count := e.count + 1, queue := e.queue ++
          [{ cid := s.me.uid, lnch := l, tid := s.me.tid, op := s.ids, item := [], n := e.count }] })) ∧
    (holdsEnd s c.val true = none → exec (.chrecv v c) s = .next (raise { cause := 0x18, sub := 0, addr := BitVec.ofNat 64 c.val } s)))) ∧
  (∀ (s : State) (lnch ch : Nat) (c : Chan), chanOf s lnch ch = some c →
  (∀ e o q, c.snd = some e → e.queue = o :: q → sendOver s o = (none, false) → e.rem = true → e.base ≤ e.count →
    let out := ∃ x ∈ s.fab.outs, x.lnch = lnch ∧ ∃ p t n d bs, x.req.op = .item p ch t n d bs
    (e.base + e.depth ≤ e.count ∨ out → exec (.channelItemWrite lnch ch) s = .next s) ∧
    (e.count < e.base + e.depth → ¬out → exec (.channelItemWrite lnch ch) s = .next (sendItem c e o s))) ∧
  (∀ e o q, c.snd = some e → e.queue = o :: q →
    (∀ f, sendOver s o = (some f, true) → exec (.channelItemWrite lnch ch) s = .next (endSend c o (some f) s)) ∧
    (sendOver s o = (none, true) → exec (.channelItemWrite lnch ch) s = .next (dropSend c false s))) ∧
  ((c.snd = none ∨ ∃ e, c.snd = some e ∧ (e.queue = [] ∨ (e.rem = false ∧ c.rcv = none ∧ ∃ o q, e.queue = o :: q ∧ sendOver s o = (none, false)))) →
    exec (.channelItemWrite lnch ch) s = .next s) ∧
  (∀ e r o q, c.snd = some e → c.rcv = some r → e.rem = false → e.queue = o :: q → sendOver s o = (none, false) →
    let w := match launchOf s lnch with | some l => l.world | none => (findCtx e.cid s).any (·.world)
    (e.base + e.depth ≤ e.count → exec (.channelItemWrite lnch ch) s = .next s) ∧
    (e.count < e.base + e.depth → e.base ≤ e.count →
      (∀ t, itemWrite o.cid lnch e r w o.item s = .ok t → exec (.channelItemWrite lnch ch) s = .next (endSend c o none t)) ∧
      (∀ f, itemWrite o.cid lnch e r w o.item s = .error f → exec (.channelItemWrite lnch ch) s = .next (endSend c o (some f) s)))) ∧
  (∀ e, c.rcv = some e → (e.queue = [] ∨ ∃ o q, e.queue = o :: q ∧ counterAt s e.fillc < e.base + o.n + 1) →
    exec (.channelItemRead lnch ch) s = .next s) ∧
  (c.rcv = none → exec (.channelItemRead lnch ch) s = .next s) ∧
  (∀ e o q, c.rcv = some e → e.queue = o :: q → e.base + o.n + 1 ≤ counterAt s e.fillc →
    let n := 64 * slotLines e
    let w := match launchOf s lnch with | some l => l.world | none => (findCtx e.cid s).any (·.world)
    let t := modChan lnch ch (fun x => { x with rcv := x.rcv.map fun y => { y with queue := y.queue.drop 1 } }) s
    let res := exec (.channelItemRead lnch ch) s
    let fails := fun (f : FaultInfo) => res = .next (modSqOf o.cid (fun k => { k with pends := k.pends.map fun p => if p.id = o.op then
      { p with ready := true, arrive := none, fault := some f, upd := noData p.upd } else p }) t)
    match accessSegs t { world := w, lnch, die := e.pdie } true .consume (BitVec.ofNat 64 (e.pail + n * (o.n % e.depth))) n with
    | .error f => fails { f with detail := if f.detail.isEmpty then [4] else f.detail }
    | .ok gs => match badLine t gs with
      | some x => fails { cause := 0x16, addr := x, detail := [4] }
      | none => res = .next (modSqOf o.cid (fun k => { k with pends := k.pends.map fun p => if p.id = o.op then
          { p with ready := true, upd := itemUpd e.tag ((readSegs t gs).take (e.lanes * laneW e.tag / 8)) p.upd } else p }) (stepSegs .consume (some o.cid) gs t))))

/-! ### Modules on fibre (R364 to R382) -/

/-- R246, R251, R354, R368, R372, R375, R378, R379: a request at its target. It is performed in its place in its flow, held
ahead of a gap (256 to a port), and not performed twice; one that may pass later is answered receiver-not-ready and does not
move the flow on. The right and the bounds are those of an export entry of its key, world and kind; what a load, a store, an
atomic and a counter add do is as at home; an engine command's read or write is one operation. A face or piece is written under its binding
and counted; an item goes into the next slot of the receive end it names, and waits until that is declared; a credit and the end of an end are
noted. An uncorrectable line is answered in error with its line (log 76). No export of launch 0 reaches a store bank (R220), and an item of
the non-secure world no secure channel function (R391). The write of a face and its add are two operations (R243): that the request waits in its
place between them, and the answer where the counter has gone meanwhile, are the model's choices (log 31). Elements of a map as parts of one
operation, the roots of die 0 and the room of a port are the model's readings (logs 13, 21, 46). -/
def Obligations.RemoteRequestsAtTarget : Prop :=
  ∀ (s : State) (q : RemoteReq) (room : Bool),
  let arrives := exec (.remoteRequestArrives ⟨q, room⟩) s
  let e := slotEntry (portAt s q.port)
  let takes := (portAt s q.port).st ≠ .rotor ∨ bits e 22 12 = q.src ∨ bit e 20 = true
  let early := (s.fab.early.filter fun x => x.port = q.port).length
  let s1 : State := { s with fab := { s.fab with early := s.fab.early.erase q } }
  let r := perform q s1
  let a := answer q r.2 r.1
  let t : State := { a with fab := { a.fab with expect := (a.fab.expect.filter fun x => !(x.1 = q.src && x.2.1 = q.flow)) ++ [(q.src, q.flow, q.seq + 1)] } }
  let line := fun (w : Word) => BitVec.ofNat 64 (w.toNat / 64 * 64)
  let said := fun (f : FaultInfo) => if f.cause ∈ [0x0D, 0x0E, 0x0F, 0x16] then Answer.err f.cause f.sub (line f.addr) else .rnr
  let word := fun (a : Nat) => [(⟨true, a, 8, BitVec.ofNat 64 a⟩ : Seg)]
  (isMine s q = false ∨ 32 ≤ q.port → arrives = .next s) ∧
  (isMine s q = true → q.port < 32 → (room = false ∨ ¬takes) → arrives = .next (answer q .rnr s)) ∧
  (isMine s q = true → q.port < 32 → room = true → takes →
    (q.seq < expected s q → arrives = .next s) ∧
    (expected s q < q.seq →
      (256 ≤ early → arrives = .next (answer q .rnr s)) ∧
      (early < 256 → q ∉ s.fab.early → arrives = .next { s with fab := { s.fab with early := s.fab.early ++ [q] } }) ∧
      (early < 256 → q ∈ s.fab.early → arrives = .next s)) ∧
    (q.seq = expected s q →
      (r.2 = .rnr → arrives = .next (settleMarks a)) ∧
      (r.2 = .hold → arrives = .next (settleMarks { r.1 with fab := { r.1.fab with early := r.1.fab.early ++ [q] } })) ∧
      (r.2 ≠ .rnr → r.2 ≠ .hold → expected t q = q.seq + 1 ∧
        arrives = .next (settleMarks (drainEarly q.src q.flow t.fab.early.length t))))) ∧
  (∀ data, answer q (.ok data) s = sendReply (replyPort q) (q.src, 0, q.flow, q.seq, data) s) ∧
  answer q .rnr s = sendReply (replyPort q) (q.src, 1, q.flow, q.seq, []) s ∧
  (let p := perform q s
   (s.fab.portw.getLsbD q.port = true → q.port < 64 → q.world = false → p = (s, .rnr)) ∧
   ((∀ d k c, q.op ≠ .face d k c) → (∀ l c, q.op ≠ .gather l c) → (∀ l c, q.op ≠ .scatter l c) →
     (∀ x ∈ s.fab.exports, exportAdmits q x.2 = false) → p = (s, .rnr)) ∧
   (∀ l, admittedFor s q = some l → (s.fab.portw.getLsbD q.port = false ∨ q.world = true) →
    let ag : Agent := { world := q.world, lnch := l, die := 0 }
    let noBank := q.store = true ∧ l = 0
    (noBank → (∃ n, q.op = .load n) ∨ (∃ bs, q.op = .store bs) ∨ (∃ o n b c, q.op = .atomic o n b c) ∨ (∃ i, q.op = .add i) → p = (s, .rnr)) ∧
    let refused := fun (k : LineAcc) (n : Nat) =>
      (∀ f, accessSegs s ag q.store k q.addr n = .error f → p = (s, said f)) ∧
      (∀ gs x, accessSegs s ag q.store k q.addr n = .ok gs → badLine s gs = some x → p = (s, .err 0x16 0 (line x)))
    (∀ n, ¬noBank → q.op = .load n → refused .plain n ∧ ∀ gs, accessSegs s ag q.store .plain q.addr n = .ok gs → badLine s gs = none →
      p = (stepSegsBy .plain none ⟨0, none, some q⟩ gs s, .ok (readSegs s gs))) ∧
    (∀ bs, ¬noBank → q.op = .store bs → refused .store bs.length ∧ ∀ gs, accessSegs s ag q.store .store q.addr bs.length = .ok gs → badLine s gs = none → s.Tidy →
      p.2 = .ok [] ∧ Wrote gs bs s p.1) ∧
    (∀ op n b c, ¬noBank → q.op = .atomic op n b c → refused .atomic n ∧ ∀ gs, accessSegs s ag q.store .atomic q.addr n = .ok gs → badLine s gs = none →
      s.Tidy → (n = 4 ∨ n = 8) → let old := leNat (readSegs s gs)
      p.2 = .ok (leBytes n old) ∧ ∃ new, new < 2 ^ (8 * n) ∧ AtomGives op (8 * n) old (b.toNat % 2 ^ (8 * n)) (c.toNat % 2 ^ (8 * n)) new ∧
        Wrote gs (leBytes n new) s p.1) ∧
    (∀ i, q.op = .add i → (q.store = false → p = (s, .err 0x0F 2 (line q.addr))) ∧ (q.store = true → l ≠ 0 →
      (∀ f, storeCheck s ag true q.addr 8 = some f →
        p = (s, said f)) ∧
      (storeCheck s ag true q.addr 8 = none →
        (lineAt s q.addr.toNat ≠ .counter → p = (s, .err 0x0F 2 (line q.addr))) ∧
        (∀ x, lineAt s q.addr.toNat = .counter → badLine s (word q.addr.toNat) = some x → p = (s, .err 0x16 0 (line x))) ∧
        (lineAt s q.addr.toNat = .counter → badLine s (word q.addr.toNat) = none → s.Tidy → Added q.addr.toNat i s p.1 ∧
          p.2 = if 2 ^ 64 ≤ counterAt s q.addr.toNat + i then .err 0x0F 1 (line q.addr) else .ok [])))) ∧
    (∀ pc own t ln depth data, q.op = .item pc own t ln depth data → s.fab.crw.getLsbD 2 = true → q.world = false → p = (s, .rnr)) ∧
    (∀ pc own t ln depth data, q.op = .item pc own t ln depth data → (s.fab.crw.getLsbD 2 = false ∨ q.world = true) → let ch := chanOf s l pc
      ((∀ c, ch = some c → c.rcv = none) → p = (s, if ch.any (fun c => c.rcvGone) = true then .rnr else .hold)) ∧
      ∀ c r, ch = some c → c.rcv = some r →
        let fits := r.rem = true ∧ winEntryNo s l r.win = some q.src ∧ r.pch = own ∧ r.tag = t ∧ r.lanes = ln ∧ r.depth = depth
        (¬fits → p = (s, .err 0x18 1 0)) ∧
        (fits → let v := itemWrite 0 l { r with count := c.written } r (match launchOf s l with | some x => x.world | none => false) data s
          let n := 64 * slotLines r
          let a := r.pail + n * (c.written % r.depth)
          (∀ f, v = .error f → p = (s, said f)) ∧
          (∀ y x, v = .ok y → badLine s [⟨true, a, n, BitVec.ofNat 64 a⟩] = some x → p = (s, .err 0x16 0 (line x))) ∧
          (∀ y, v = .ok y → badLine s [⟨true, a, n, BitVec.ofNat 64 a⟩] = none →
            p = (modChan l pc (fun c => { c with written := c.written + 1 }) y, .ok [])))) ∧
    (∀ pc, q.op = .credit pc → p.2 = .silent ∧ ∀ c, chanOf s l pc = some c →
      p.1 = modChan l pc (fun c => { c with snd := c.snd.map fun e => { e with base := e.base + 1 } }) s) ∧
    (∀ pc, q.op = .endGone pc → p.2 = .silent ∧ ∀ c, chanOf s l pc = some c →
      (∀ e, c.snd = some e → p.1 = if e.rem = true then recvEndGone c s else s) ∧
      (∀ e, c.snd = none → c.rcv = some e → p.1 = if e.rem = true then sendEndGone c s else s))) ∧
   (∀ d k c, q.op = .face d k c → (s.fab.portw.getLsbD q.port = false ∨ q.world = true) →
     let v : State := { s with
       dies := vmod s.dies d fun y => { y with landing := y.landing - 1 }
       fab := { s.fab with half := s.fab.half.filter fun x => x.1 ≠ q } }
     ((∃ x ∈ s.fab.half, x.1 = q) →
       (bindingOf s d q.world k = none → p = (v, .err 0x0F 2 0)) ∧
       ∀ b, bindingOf s d q.world k = some b →
         (addCheck s b.world b.lnch b.addr ≠ none → p = (v, .err 0x0F 2 (line (BitVec.ofNat 64 b.addr)))) ∧
         (addCheck s b.world b.lnch b.addr = none → p.1 = (addCounter b.addr c.length v).1 ∧ (s.Tidy → Added b.addr c.length s p.1) ∧
           p.2 = if 2 ^ 64 ≤ counterAt s b.addr + c.length then .err 0x0F 1 (line (BitVec.ofNat 64 b.addr)) else .ok [])) ∧
     ((∀ x ∈ s.fab.half, x.1 ≠ q) → bindingOf s d q.world k = none → p = (s, .rnr)) ∧
     ∀ b, (∀ x ∈ s.fab.half, x.1 ≠ q) → bindingOf s d q.world k = some b →
       (addCheck s b.world b.lnch b.addr ≠ none → p = (s, .rnr)) ∧
       (addCheck s b.world b.lnch b.addr = none → 8 ≤ (dieOf s d).landing → p = (s, .hold)) ∧
       (addCheck s b.world b.lnch b.addr = none → (dieOf s d).landing < 8 →
         (∀ f, arriveSegs s b d c = .error f → p = (s, said f)) ∧
         ∀ r, arriveSegs s b d c = .ok r → let y := storeAll (stepSegs .store (some 0)) d r s
           (∀ x, badLine s (r.flatMap (fun z => z.1) ++ word b.addr) = some x → p = (s, .err 0x16 0 (line x))) ∧
           (badLine s (r.flatMap (fun z => z.1) ++ word b.addr) = none → p = ({ y with
             dies := vmod y.dies d fun z => { z with landing := z.landing + 1 }
             fab := { y.fab with half := y.fab.half ++ [(q, false)] } }, .hold)))) ∧
   (∀ ps c, q.op = .gather ps c → (s.fab.portw.getLsbD q.port = false ∨ q.world = true) →
     let k := if c then LineAcc.consume else .plain
     (∀ x, targetParts s q k 2 ps = .error x → p = (s, x)) ∧
     ∀ l, targetParts s q k 2 ps = .ok l → p = (stepSegsBy k none ⟨0, none, some q⟩ (distinctLines l.flatten) s, .ok (l.flatMap (readSegs s)))) ∧
   (∀ ps c, q.op = .scatter ps c → (s.fab.portw.getLsbD q.port = false ∨ q.world = true) →
     let k := if c = 0 then LineAcc.store else .counted c
     (∀ x, targetParts s q k 3 (ps.map fun y => y.1) = .error x → p = (s, x)) ∧
     ∀ l, targetParts s q k 3 (ps.map fun y => y.1) = .ok l → p = ((l.zip (ps.map fun y => y.2)).foldl (fun u y => writeSegs u y.1 y.2)
       (stepSegsBy k none ⟨0, none, some q⟩ (distinctLines l.flatten) s), .ok [])))

/-- R252, R375, R378: answers at the issuer. An acknowledgement gives the load its data, ends the store or moves the engine command on;
receiver-not-ready retries up to RLIM times (0 acts as 1), each after its back-off; an error answer faults: at the window address
for a core's access, at the line for an engine's, and where two channel ends disagree at the sender's own channel. R368, R380, R382,
R391: a relay holds a request for another module while its buffer has room, the slot it came in permits it and its world may, and
forwards it when a path is open; a forward answered receiver-not-ready stays and is retried, and its last answer goes on to the
source; one that has no path to its target is answered receiver-not-ready. When a module has become unreachable, each operation that
waits for it and each later one of its flow faults at its owner with 0x12, sub-code 1, and is outstanding no more, the flow ends,
and operations to other modules, which share no flow with those, stay (of operations with an identity each). The line of an answer
and the limit of a forward's retries (log 76), and the answer to a forward without a path (log 89), are the model's readings. -/
def Obligations.AnswersAndRelays : Prop :=
  (∀ (s : State) (op : Nat) (data : List Byte) (cause sub : Nat) (line : Word) (o : RemoteOut), outOf s op = some o →
  let err := exec (.errorAnswer op cause ⟨sub, line⟩) s
  let engine := ∃ tag piece, o.use = .engine tag piece
  (o.st ≠ .sent → exec (.acknowledgementArrives op data) s = .next s ∧ exec (.receiverNotReady op) s = .next s ∧ err = .next s) ∧
  (o.st = .sent →
    (∀ pd sh, o.use = .load pd sh → exec (.acknowledgementArrives op data) s = .next (takeData o pd sh data (dropOut op s))) ∧
    (∀ st, o.use = .store st → exec (.acknowledgementArrives op data) s = .next (settleStore o.cid st true (dropOut op s))) ∧
    (∀ tag piece, o.use = .engine tag piece → exec (.acknowledgementArrives op data) s = .next (engineAck o.cid tag piece data (dropOut op s))) ∧
    (let lim := max 1 (bits s.fab.fabcfg 24 4)
     (o.retries < lim → ∃ t, exec (.receiverNotReady op) s = .next t ∧ t.me = s.me ∧
       outOf t op = some { o with st := .backoff, retries := o.retries + 1 }) ∧
     (lim ≤ o.retries → exec (.receiverNotReady op) s = .next (failFlow o 0 s))) ∧
    (cause ∈ [0x0D, 0x0E, 0x0F, 0x16] →
      (engine → err = .next (failOut o { cause, sub, addr := line } s)) ∧
      (¬engine → err = .next (failOut o { cause, sub, addr := o.win, detail := [7] } s))) ∧
    (∀ ch own t n d bs, o.req.op = .item ch own t n d bs → cause = 0x18 →
      err = .next (failOut o { cause, sub, addr := BitVec.ofNat 64 own } s)) ∧
    (cause ∉ [0x0D, 0x0E, 0x0F, 0x16] → (cause ≠ 0x18 ∨ ∀ ch own t n d bs, o.req.op ≠ .item ch own t n d bs) → err = .next s)) ∧
  (∃ t, exec (.retryBackoffExpiry op) s = .next t ∧ t.me = s.me ∧ t.others = s.others ∧ t.hbm = s.hbm ∧ t.store = s.store ∧
    outOf t op = some (if o.st = .backoff then { o with st := .queued } else o))) ∧
  (∀ (s : State) (q : RemoteReq) (m op : Nat) (data : List Byte) (cause sub : Nat) (line : Word),
  let fwd := exec (.relayForward q) s
  let held := s.fab.relay.find? fun f => f.req = q
  (∀ f, held = some f →
    (f.st ≠ .queued ∨ relayPath s q.target = none → fwd = .next s) ∧
    let goes := fun (i : Nat) (t : State) => { t with fab := { t.fab with
      ports := t.fab.ports.map fun p => { p with allow := p.allow.filter fun x => x.1 ≠ f.id }
      relay := s.fab.relay.map fun x => if x.id = f.id then { x with st := .sent, via := some i } else x
      sent := s.fab.sent ++ [(q.target, 5, q.flow, q.seq, [])] } }
    (∀ i, f.st = .queued → relayPath s q.target = some i → (portAt s i).st = .held → fwd = .next (goes i s)) ∧
    (∀ i, f.st = .queued → relayPath s q.target = some i → (portAt s i).st ≠ .held →
      let part := getAt 0 (portAt s i).allow f.id
      let queues := bindQueues s i (portAt s i).queues
      let port := fun left allow => { s with fab := { s.fab with ports := vmod s.fab.ports i fun p => { p with left, queues, allow } } }
      (q.target ∉ queues → fwd = .next s) ∧
      (q.target ∈ queues → payload q - part ≤ (portAt s i).left →
        fwd = .next (goes i (port ((portAt s i).left - (payload q - part)) (portAt s i).allow))) ∧
      (q.target ∈ queues → (portAt s i).left < payload q - part → fwd =
        .next (port 0 (setAt 0 (portAt s i).allow f.id (part + (portAt s i).left)))))) ∧
  (∀ i, relayPath s q.target = some i → let e := slotEntry (portAt s i)
    i ∈ routePorts s q.target ∧ ((portAt s i).st = .held ∨ ((portAt s i).st = .rotor ∧ bit e 21 = true ∧ bit e 20 = true ∧ bits e 22 12 = q.target))) ∧
  (held = none → isMine s q = true ∨ 32 ≤ q.port → fwd = .next s) ∧
  (held = none → isMine s q = false → q.port < 32 →
    let path := nextHop s q.target = some q.target ∧ reachable s q.target = true
    let full := 16 * 2 ^ 20 < (s.fab.relay.map fun f => payload f.req).sum + payload q
    let shut := s.fab.crw.getLsbD 3 = true ∧ q.world = false
    let slot := (portAt s q.port).st = .rotor ∧ bit (slotEntry (portAt s q.port)) 20 = false
    (full ∨ shut ∨ slot ∨ ¬ path → fwd = .next (answer q .rnr s)) ∧
    (¬ full → ¬ shut → ¬ slot → path → fwd = .next { s with ids := s.ids + 1, fab := { s.fab with
      relay := s.fab.relay ++ [{ id := s.ids, req := q, st := .queued, retries := 0, via := none }] } })) ∧
  (outOf s op = none → ∀ f, s.fab.relay.find? (fun f => f.id = op && decide (f.st = .sent)) = some f →
    exec (.acknowledgementArrives op data) s = .next (endFwd f (.ok data) s) ∧
    exec (.errorAnswer op cause ⟨sub, line⟩) s = .next (endFwd f (.err cause sub line) s) ∧
    (max 1 (bits s.fab.fabcfg 24 4) ≤ f.retries → exec (.receiverNotReady op) s = .next (endFwd f .rnr s)) ∧
    (f.retries < max 1 (bits s.fab.fabcfg 24 4) → exec (.receiverNotReady op) s = .next { s with fab := { s.fab with
      relay := s.fab.relay.map fun x => if x.id = op then { x with st := .backoff, retries := x.retries + 1 } else x } })) ∧
  (∃ t, exec (.peerUnreachable m) s = .next t ∧ t.hbm = s.hbm ∧ t.store = s.store ∧
    (∀ o ∈ t.fab.outs, o ∈ s.fab.outs ∧ (o.req.target = m → outReach s o = true)) ∧
    (∀ o ∈ s.fab.outs, (s.fab.outs.map fun x => x.id).Nodup → o.req.target ≠ m →
      (∀ x ∈ s.fab.outs, x.req.target = m → x.cid = o.cid → x.req.flow ≠ o.req.flow) → o ∈ t.fab.outs) ∧
    (∀ o ∈ s.fab.outs, (s.fab.outs.map fun x => x.id).Nodup → o.req.target = m → outReach s o = false →
      (∀ c, findCtx o.cid t = some c → ∀ v ∈ c.flows, ¬(v.1 = m ∧ v.2.1 = o.req.flow)) ∧
      ∀ x ∈ s.fab.outs, x.cid = o.cid → x.req.flow = o.req.flow → o.req.seq ≤ x.req.seq → x ∉ t.fab.outs ∧
        ((∀ n k, x.use ≠ .engine n k) → ∀ c, findCtx x.cid s = some c → ∃ d f, findCtx x.cid t = some d ∧ f ∈ d.sq.faults ∧
          f.cause = 0x12 ∧ f.sub = 1 ∧ f.addr = x.win) ∧
        (∀ n k y, x.use = .engine n k → findCmd x.cid n s = some y → ∃ z f, findCmd x.cid n t = some z ∧ z.fault = some f ∧
          (y.fault = none → f.cause = 0x12 ∧ f.sub = 1))) ∧
    (∀ f ∈ s.fab.relay, f.req.target = m → (nextHop s m ≠ some m ∨ reachable s m = false) → f ∉ t.fab.relay ∧
      ∃ r ∈ t.fab.resp, r.msg = (f.req.src, 1, f.req.flow, f.req.seq, [])) ∧
    (∀ f ∈ s.fab.relay, f.req.target ≠ m → (∀ g ∈ s.fab.relay, g.req.target = m → g.id ≠ f.id) → f ∈ t.fab.relay)))

/-- R366, R367, R379, R381: port states. A valid configuration locks a port that is down; a change asked of a port in use, or of the
length of a rotor port's slot table, drains it to DARK first, one marker for each flow with a message that it carried, and the
configuration that is then written locks it again; locking ends in HELD or ROTOR, or DOWN when a direction has no wavelength. That a
change asked of a port in use is not kept while it drains, that a draining port ignores writes, and what a failure does to a port in
LOCKING (log 44), and that such a port takes a new configuration and locks afresh (log 88), are the model's readings. R368, R369: a
rotor's next slot. The slot number advances and wraps after the last slot, and the slot brings its allowance; in a slot that permits
sending, the oldest answers and the oldest requests that go to its peer, or by it as the relay where the slot permits that, are
sent, as many as the slot's bytes and the bytes already sent of each by this port allow; one that is cut keeps the account of its
bytes; each goes only from one of the 64 queues. That ports in a change hold their traffic, and the order of answers before
requests, are the model's readings (logs 45, 66). -/
def Obligations.PortsAndRotors : Prop :=
  (∀ (s : State) (n : Nat) (x : Word) (tx rx : Nat) (mark : Nat × Nat), n < 32 →
  let p := portAt s n
  let y := opcfgValue n x
  let wavesT := 8 * bits p.cfg 38 6
  let wavesR := 8 * bits p.cfg 32 6
  let set := fun (f : Port → Port) => modPort n f s
  let put := fun (c : Word) (st : PortSt) => set fun p => { p with cfg := c, st }
  let down := fun (t : State) => reroute (modPort n (fun p => { p with
    st := .down, txok := 0, rxok := 0, markers := 0, allow := [], chg := false, left := 0, queues := [] }) t)
  let up := fun a b => set fun p => { p with
    st := if bit p.cfg 62 then .rotor else .held, rot := 0, slot := 64, txok := min 255 a, rxok := min 255 b, allow := if p.chg then p.allow else []
    chg := false, left := 0 }
  let drains := set fun p => { p with st := .quiesce, markers := flowsOn s n, chg := true }
  (opcfgOk x = false → exec (.opcfgWrite n x) s = .next (errRecord 8 0x05 0 [BitVec.ofNat 64 (0x1000 + 8 * n), x] s)) ∧
  (opcfgOk x = true ↔ 4 ≤ bits x 48 8 ∧ bits x 48 8 ≤ 200 ∧ 1 ≤ bits x 44 4 ∧ bits x 44 4 ≤ 10 ∧ bits x 44 4 < bits x 48 8 ∧ bits x 38 6 + bits x 32 6 ≤ 32) ∧
  (∀ i < 64, y.getLsbD i = (x.getLsbD i && decide (19 ≤ i) && !(decide (n < 24 ∧ i = 62)))) ∧
  (opcfgOk x = true →
    (bit y 63 = false → p.st = .down → exec (.opcfgWrite n x) s = .next (put y .down)) ∧
    (bit y 63 = false → p.st ≠ .down → exec (.opcfgWrite n x) s = .next (down (put y p.st))) ∧
    (bit y 63 = true →
      (p.st = .down → bit p.cfg 63 = false → exec (.opcfgWrite n x) s = .next (put y .locking)) ∧
      (p.st = .down → bit p.cfg 63 = true → exec (.opcfgWrite n x) s = .next (put y .down)) ∧
      (p.st = .dark ∨ p.st = .locking → exec (.opcfgWrite n x) s = .next (reroute (put y .locking))) ∧
      (p.st = .held ∨ p.st = .rotor →
        let asks := bits p.cfg 20 12 ≠ bits y 20 12 ∨ bits p.cfg 62 1 ≠ bits y 62 1 ∨ bits p.cfg 38 6 ≠ bits y 38 6 ∨ bits p.cfg 32 6 ≠ bits y 32 6 ∨
          (bit p.cfg 62 = true ∧ bits p.cfg 56 6 ≠ bits y 56 6)
        (¬asks → exec (.opcfgWrite n x) s = .next (put y p.st)) ∧ (asks → exec (.opcfgWrite n x) s = .next drains)) ∧
      (p.st = .quiesce → exec (.opcfgWrite n x) s = .next s))) ∧
  (p.st = .locking → exec (.portLocked n) s = .next (up wavesT wavesR)) ∧
  (p.st ≠ .locking → exec (.portLocked n) s = .next s ∧ exec (.portLockTimeout n tx rx) s = .next s) ∧
  (p.st = .locking →
    (tx = 0 ∨ rx = 0 → exec (.portLockTimeout n tx rx) s =
      .next (opticalRecord n ((if tx = 0 then 1 else 0) + if rx = 0 then 2 else 0) (down s))) ∧
    (0 < tx → 0 < rx → wavesT ≤ tx → wavesR ≤ rx → exec (.portLockTimeout n tx rx) s = .next (up wavesT wavesR)) ∧
    (0 < tx → 0 < rx → tx < wavesT ∨ rx < wavesR → exec (.portLockTimeout n tx rx) s =
      .next (opticalRecord n ((if tx < wavesT then 1 else 0) + if rx < wavesR then 2 else 0) (up (min tx wavesT) (min rx wavesR))))) ∧
  (p.st = .quiesce → exec (.drainMarker ⟨n, none⟩) s = .next (set fun p => { p with markers := p.markers - 1 })) ∧
  (p.st = .quiesce → p.markers = 0 → exec (.quiesceDone n) s = .next (set fun p => { p with st := .dark })) ∧
  (p.st ≠ .quiesce ∨ p.markers ≠ 0 → exec (.quiesceDone n) s = .next s) ∧
  (p.st ≠ .quiesce → exec (.drainMarker ⟨n, none⟩) s = .next s) ∧
  exec (.drainMarker ⟨n, some mark⟩) s = .next (settleMarks { s with fab := { s.fab with marks := s.fab.marks ++ [(n, mark.1, mark.2)] } }) ∧
  (p.st = .down → exec (.wavelengthFailure n tx rx) s = .next s) ∧
  (p.st = .locking →
    let gone := (0 < tx ∧ wavesT ≤ tx) ∨ (0 < rx ∧ wavesR ≤ rx)
    (¬gone → exec (.wavelengthFailure n tx rx) s = .next s) ∧
    (gone → exec (.wavelengthFailure n tx rx) s = .next (down (opticalRecord n ((if 0 < tx then 1 else 0) + if 0 < rx then 2 else 0) s)))) ∧
  (p.st ≠ .down → p.st ≠ .locking →
    let t := opticalRecord n ((if 0 < tx then 1 else 0) + if 0 < rx then 2 else 0) (set fun p => { p with txok := p.txok - tx, rxok := p.rxok - rx })
    (tx < p.txok → rx < p.rxok → exec (.wavelengthFailure n tx rx) s = .next t) ∧
    (p.txok ≤ tx ∨ p.rxok ≤ rx → exec (.wavelengthFailure n tx rx) s = .next (down t)))) ∧
  (∀ (s : State) (n : Nat), n < 32 →
  let p := portAt s n
  let k := if bits p.cfg 56 6 ≤ p.slot then 0 else p.slot + 1
  let e := getAt 0 p.slots k
  let m := bits e 22 12
  let t : State := modPort n (fun p => { p with
    slot := k, left := 64 * bits e 0 20, rot := if bits p.cfg 56 6 ≤ p.slot ∧ p.slot ≠ 64 then (p.rot + 1) % 2 ^ 32 else p.rot }) s
  let by_ := fun (x : Nat) => n ∈ routePorts t x ∧ nextHop t x = some m ∧ (x = m ∨ bit e 20 = true)
  let rest := fun (x : Nat × Nat) => x.2 - getAt 0 p.allow x.1
  let own := SMap.canon 0 p.allow = true ∧ ((slotReplies t n e ++ slotOuts t n e).map fun x => x.1).Nodup
  let served := fun (u : State) (budget : Nat) (l : List (Nat × Nat)) (ids : List Nat) (left : Nat) =>
    ∃ j ≤ l.length, ids = (l.take j).map (fun x => x.1) ∧ ((l.take j).map rest).sum ≤ budget ∧
      (∀ x, l[j]? = some x → budget < ((l.take (j + 1)).map rest).sum ∧ left = 0 ∧
        (own → getAt 0 (portAt u n).allow x.1 = getAt 0 p.allow x.1 + (budget - ((l.take j).map rest).sum))) ∧
      (j = l.length → left = budget - (l.map rest).sum)
  (p.st ≠ .rotor → exec (.rotorSlotStart n) s = .next s) ∧
  (p.st = .rotor → bit e 21 = false → exec (.rotorSlotStart n) s = .next t) ∧
  (p.st = .rotor → bit e 21 = true → ∃ u ra ro left, exec (.rotorSlotStart n) s = .next u ∧ u.me = s.me ∧ u.others = s.others ∧ u.hbm = s.hbm ∧ u.store = s.store ∧
    (portAt u n).slot = k ∧ (portAt u n).st = .rotor ∧ (portAt u n).cfg = p.cfg ∧ (portAt u n).slots = p.slots ∧
    (portAt u n).queues = bindQueues t n p.queues ∧ (p.queues.length ≤ 64 → (portAt u n).queues.length ≤ 64) ∧
    (m ∈ bindQueues t n p.queues → served u (64 * bits e 0 20) (slotReplies t n e) ra left ∧ served u left (slotOuts t n e) ro (portAt u n).left) ∧
    (m ∉ bindQueues t n p.queues → ra = [] ∧ ro = []) ∧
    u.fab.outs = (s.fab.outs.map fun o => if o.id ∈ ro then { o with st := .sent, via := some n } else o) ∧
    u.fab.sent = s.fab.sent ++ (s.fab.resp.filter fun r => r.id ∈ ra).map (fun r => r.msg)) ∧
  (∀ x, x ∈ slotOuts t n e ↔ ∃ o ∈ s.fab.outs, o.st = .queued ∧ mustWait t o = false ∧ (∀ d y c, o.req.op ≠ .face d y c) ∧ by_ o.req.target ∧ x = (o.id, payload o.req)))

/-! ### The module (R171 to R173, R182, R215, R388 to R400) -/

/-- R171 to R173: a queue slot is mapped on a header, whose greatest notify value is kept when it is mapped there again, and unmapped
into it; a notify raises the slot's register or, unmapped, the header's word. Which slots a notify reaches (log 30), and that a
header that cannot be read counts as one whose NOTIFY is 0 (log 15), are the model's readings. R172, R215, R364, R389 to R391:
management registers. Each keeps the bits it has; a locked one ignores writes; `DMCFG` and `VATW` are refused with a record while
what they govern is in use; `QMAP` takes the dispatch core's writes only. That what `DMCFG` governs is the whole die is the model's
reading (log 47). -/
def Obligations.QueueSlotsAndRegisters : Prop :=
  (∀ (s : State) (d q : Nat) (x : Word), d < 8 → q < 32 →
  let v := slotAt s d q
  let hdr := qmapHdr x
  let raised := if v.reg.ult x then x else v.reg
  (v.mapped = false →
    (∀ h, readHdr s d hdr = .ok h →
      let n := BitVec.ofNat 64 h.notify
      let t := devTouch (queueAgent d (queueWorld s d hdr)) hdr 64 s
      exec (.qmapMap d q x) s = .next (modSlot d q (fun _ => { mapped := true, ever := true, fw := bit x 62, hdr, reg := if v.ever = true ∧ v.hdr = hdr ∧ n.ult v.reg = true then v.reg else n, cand := none, head := headLaunch t d hdr }) t)) ∧
    (∀ f, readHdr s d hdr = .error f → ∃ t, exec (.qmapMap d q x) s = .next t ∧ (slotAt t d q).mapped = true ∧ (slotAt t d q).hdr = hdr ∧
      (slotAt t d q).reg = if v.ever = true ∧ v.hdr = hdr then v.reg else 0)) ∧
  (v.mapped = true → exec (.qmapMap d q x) s = .next (mapSlot d q (bit x 62) hdr (unmapSlot d q s))) ∧
  (v.mapped = true → exec (.qmapUnmap d q) s = .next (headerMax d v.hdr v.reg (modSlot d q (fun y => { y with mapped := false, cand := none, head := none }) s))) ∧
  (v.mapped = false → exec (.qmapUnmap d q) s = .next s) ∧
  (∀ h w g gs, readHdr s d w = .ok h → let ag := queueAgent d (queueWorld s d w)
    vaSegs s ag.site ag.world .read w 8 = .ok (g :: gs) →
      headerMax d w x s = notifyLine g.addr (BitVec.ofNat 64 (max h.notify x.toNat)) (devWrite ag w (leBytes 8 (max h.notify x.toNat)) s)) ∧
  (halted s = true → exec (.notify d q x) s = .next s) ∧
  (halted s = false →
    (v.mapped = true → ∃ t, exec (.notify d q x) s = .next t ∧ (slotAt t d q).reg = raised ∧ (slotAt t d q).hdr = v.hdr ∧ t.me = s.me ∧
      t.hbm = s.hbm ∧ t.store = s.store) ∧
    (v.mapped = false → v.ever = true → exec (.notify d q x) s = .next (headerMax d v.hdr x s)) ∧
    (v.mapped = false → v.ever = false → exec (.notify d q x) s = .next (errRecord d 0x03 0 [BitVec.ofNat 64 q, x] s)))) ∧
  (∀ (s : State) (d a : Nat) (x : Word), d < 8 →
  let die := dieOf s d
  let v := dmcfgValue x
  let busy := grantHeld s d = true ∨ dirtyHeld s d = true
  let vbusy := ∃ b ∈ s.banks, b.1 / 1024 = d ∧ b.2 ≠ 0 ∧ bit (x ^^^ die.vatw) (b.1 / 16 % 64) = true
  (bit die.dmcfg 7 = true → exec (.dmcfgWrite d x) s = .next s) ∧
  (bit die.dmcfg 7 = false → bits v 0 5 ≠ bits die.dmcfg 0 5 → busy → exec (.dmcfgWrite d x) s = .next (errRecord d 0x05 0 [0, x] s)) ∧
  (bit die.dmcfg 7 = false → (bits v 0 5 = bits die.dmcfg 0 5 ∨ ¬ busy) →
    exec (.dmcfgWrite d x) s = .next (modDie d (fun y => { y with dmcfg := v }) s)) ∧
  v.toNat < 256 ∧ (∀ i < 8, i ≠ 0 → i ≠ 4 → v.getLsbD i = x.getLsbD i) ∧ bits v 0 3 ≠ 0 ∧
  (vbusy → exec (.vatwWrite d x) s = .next (errRecord d 0x05 0 [0x18, x] s)) ∧
  (¬ vbusy → exec (.vatwWrite d x) s = .next (modDie d (fun y => { y with vatw := x }) s)) ∧
  (regAt a = none → exec (.managementRegisterWrite a x) s = .next s) ∧
  (∀ r, regAt a = some r → exec (.managementRegisterWrite a x) s = .next (regWrite r x s).1) ∧
  (∀ r ∈ [MReg.rotep, .portw, .crw, .trt0 d, .trt1 d], ∃ y : Word, (∀ i < 64, y.getLsbD i = true → x.getLsbD i = true) ∧
    regRead (regWrite r x s).1 r = y ∧ (regWrite r x s).2 = true) ∧
  regRead (regWrite .rotep x s).1 .rotep = x ∧
  (∀ e, (regWrite (.region e) x s).1.fab.regions = setAt 0 s.fab.regions e (x &&& 0xC000000FFFFFFFFF)) ∧
  (bit s.fab.mpos 63 = true → (regWrite .mpos x s) = (s, false)) ∧ (bit s.fab.fabcfg 63 = true → regWrite .fabcfg x s = (s, false)) ∧
  (bit s.fab.mpos 63 = false → ∀ i < 30, (regRead (regWrite .mpos x s).1 .mpos).getLsbD i = x.getLsbD i) ∧
  (∀ q < 32, regWrite (.qmap d q) x s = (errRecord d 0x05 0 [BitVec.ofNat 64 (0x600 + 8 * q), x] s, false)))

/-- R2, R388, R389, R395, R397, R400: commands on the two TZ ports. Statuses come in their order, 0x03 for a secure region or a line whose home vat is secure; data are read and written at physical
addresses; a halted module answers `RECORDS` only, which empties the buffers of all sources, merged in order, into the stream of every port
that has asked. The status of an APPEND to a failing ring (log 29), 0x05 for a write that is ignored (log 53), and that MEASURE without a
key answers nothing (log 87), are the model's choices. -/
def Obligations.TzCommands : Prop :=
  ∀ (s : State) (port pa n a : Nat) (hdr rcd x : Word) (data nonce : List Byte),
  let ans := fun st bs (t : State) => (.next (tzAnswer port st bs t) : Out)
  let commands := [Instr.mread port pa n, .mwrite port pa data, .append port hdr rcd, .cread port a, .cwrite port a x, .measure port nonce]
  let shut := fun n => regionSecure s pa = true ∨ ∃ a ∈ lineStarts pa n, homeSecure s a = true
  let form := fun n => n % 8 = 0 ∧ 8 ≤ n ∧ n ≤ 4096 ∧ pa % 8 = 0 ∧ pa % 4096 + n ≤ 4096
  (halted s = true → ∀ i ∈ commands, exec i s = .next s) ∧
  (2 ≤ port → exec (.records port) s = .next s ∧ ∀ i ∈ commands, exec i s = .next s) ∧
  (port < 2 → halted s = false →
    (¬ form n → exec (.mread port pa n) s = ans 1 [] s) ∧ (¬ form data.length → exec (.mwrite port pa data) s = ans 1 [] s) ∧
    (form n → 2 ^ 39 ≤ pa → exec (.mread port pa n) s = ans 2 [] s) ∧ (form data.length → 2 ^ 39 ≤ pa → exec (.mwrite port pa data) s = ans 2 [] s) ∧
    (form n → pa < 2 ^ 39 → shut n → exec (.mread port pa n) s = ans 3 [] s) ∧
    (form data.length → pa < 2 ^ 39 → shut data.length → exec (.mwrite port pa data) s = ans 3 [] s) ∧
    (form n → pa < 2 ^ 39 → ¬shut n → (∃ b, badLine s (paSegs pa n) = some b) → exec (.mread port pa n) s = ans 4 [] s) ∧
    (form n → pa < 2 ^ 39 → ¬shut n → badLine s (paSegs pa n) = none →
      exec (.mread port pa n) s = ans 0 ((List.range n).map fun i => getByte s.hbm (pa + i)) (stepSegs .plain none (paSegs pa n) s)) ∧
    (form data.length → pa < 2 ^ 39 → ¬shut data.length → s.Tidy → ∃ t, exec (.mwrite port pa data) s = ans 0 [] t ∧ t.store = s.store ∧
      ∀ b, getByte t.hbm b = if pa ≤ b ∧ b < pa + data.length then data.getD (b - pa) 0 else getByte s.hbm b) ∧
    (∀ f, appendCheck s (queueAgent 0 false) hdr rcd = .error f →
      exec (.append port hdr rcd) s = ans (if f.cause = 0x0B then 1 else if f.cause = 0x0A then 2 else 3) [] s) ∧
    (∀ gs h rs, appendCheck s (queueAgent 0 false) hdr rcd = .ok (gs, h, rs) →
      (∀ b, badLine s (gs ++ rs) = some b → exec (.append port hdr rcd) s = ans 4 [] s) ∧
      (badLine s (gs ++ rs) = none → exec (.append port hdr rcd) s =
        ans 0 (leBytes 8 (appendDo none gs h rs false rcd s).2.toNat) (appendDo none gs h rs false rcd s).1)) ∧
    (regAt a = none → exec (.cread port a) s = ans 2 [] s ∧ exec (.cwrite port a x) s = ans 2 [] s) ∧
    (∀ r, regAt a = some r → exec (.cread port a) s = ans 0 (leBytes 8 (regRead s r).toNat) s ∧
      (cwriteRefused r x = true → exec (.cwrite port a x) s = ans 5 [] (refusedWrite (regSource r) (BitVec.ofNat 64 a) x s)) ∧
      (cwriteRefused r x = false → exec (.cwrite port a x) s = ans (if (regWrite r x s).2 then 0 else 5) [] (regWrite r x s).1)) ∧
    (s.sys.booted = true → (s.sys.wrapKey = false ∨ s.sys.keysHeld = true) → exec (.measure port nonce) s = .next s) ∧
    (s.sys.booted = true → s.sys.wrapKey = true → s.sys.keysHeld = false → exec (.measure port nonce) s = ans 0 (measureReport s.sys nonce) s) ∧
    (s.sys.booted = false → exec (.measure port nonce) s = .next { s with sys := { s.sys with measures := s.sys.measures ++ [(port, nonce)] } })) ∧
  (port < 2 → ∃ (t : State) (rs : List ErrRec), exec (.records port) s = .next t ∧ (∀ p, p ∈ t.sys.asked ↔ p = port ∨ p ∈ s.sys.asked) ∧ t.sys.crErrs = [] ∧
    (∀ d ∈ t.dies.toList, d.errs = []) ∧ rs.Perm ((s.dies.toList.flatMap fun d => d.errs) ++ s.sys.crErrs) ∧
    rs.Pairwise (fun r z => r.time.ult z.time = true ∨ (r.time = z.time ∧ (r.src < z.src ∨ (r.src = z.src ∧ z.seq.ult r.seq = false)))) ∧
    (s.sys.asked.Nodup → ∀ p < 2, vget [] t.sys.streams p = vget [] s.sys.streams p ++ if p ∈ t.sys.asked then rs.flatMap recordBytes else []) ∧
    (∀ r, (recordBytes r).length = 64) ∧ t.me = s.me ∧ t.hbm = s.hbm ∧ t.store = s.store)

/-- R182, R392, R394, R397 to R399: reports of lost records, the alarm, the thermal trip, resets, fenced cores. That a reset
empties HBM, that reset and boot are one step, and what register 0x0B reads, are the model's choices (logs 2, 51, 63); a wrong header
fails as a wrong signature (log 62). -/
def Obligations.ModuleEvents : Prop :=
  ∀ (s : State) (d k : Nat) (x : Byte),
  (d < 8 → 0 < (dieOf s d).errLost → (dieOf s d).errs.length < 256 → ∃ t r, exec (.recordsLostReport d) s = .next t ∧ (dieOf t d).errLost = 0 ∧
    (dieOf t d).errs = (dieOf s d).errs ++ [r] ∧ r.cls = 0x09 ∧ r.detail = recDetail d (dieOf s d).errSeq 0x09 0 [BitVec.ofNat 64 (dieOf s d).errLost] ∧ t.me = s.me) ∧
  (d < 8 → ((dieOf s d).errLost = 0 ∨ 256 ≤ (dieOf s d).errs.length) → exec (.recordsLostReport d) s = .next s) ∧
  ((s.sys.crLost = 0 ∨ 256 ≤ s.sys.crErrs.length) → exec (.recordsLostReport 8) s = .next s) ∧
  (0 < s.sys.crLost → s.sys.crErrs.length < 256 → ∃ t r, exec (.recordsLostReport 8) s = .next t ∧ t.sys.crLost = 0 ∧
    t.sys.crErrs = s.sys.crErrs ++ [r] ∧ r.cls = 0x09 ∧ r.detail = recDetail 8 s.sys.crSeq 0x09 0 [BitVec.ofNat 64 s.sys.crLost] ∧ t.me = s.me) ∧
  (∃ t, exec .securityAlarm s = .next t ∧ t.sys.alarm = true ∧ halted t = true ∧ (∀ p ∈ t.fab.ports.toList, p.st = .down) ∧
    (Config.almh = false → t.sys.imageKey = 0 ∧ t.sys.wrapKey = false)) ∧
  (d < 8 → ∃ t, exec (.thermalTrip d) s = .next t ∧ t.sys.tripped = true ∧ halted t = true ∧ (∀ p ∈ t.fab.ports.toList, p.st = .down) ∧
    t.sys.wrapKey = s.sys.wrapKey ∧ t.sys.imageKey = s.sys.imageKey) ∧
  (∃ t, exec (.thermalThrottle d) s = .next t ∧ t.me = s.me ∧ t.hbm = s.hbm ∧ t.store = s.store) ∧
  (∃ t, exec .moduleReset s = .next t ∧ t.hbm = [] ∧ t.store = [] ∧ t.launches = [] ∧ (∀ q ∈ t.dies.toList, ∀ y ∈ q.q.toList, y.mapped = false) ∧
    exec (.i2cResetRequest 0xA5) s = .next t ∧ (t.sys.booted = true ↔ t.sys.alarm = false) ∧
    ((∀ k < 3, fwGood k (Config.flashImage k 0) = true) → t.sys.alarm = false) ∧
    (t.sys.alarm = false → ∀ k < 3, (vget false t.sys.runs k = true ↔ fwGood k (Config.flashImage k 0) = true ∨ fwGood k (Config.flashImage k 1) = true))) ∧
  (∀ k img, fwGood k img = true → leNat (img.take 4) = 0x4B525946 ∧ leNat ((img.drop 4).take 1) = k ∧ Config.minSvn ≤ leNat ((img.drop 8).take 8) ∧
    img.length = 128 + leNat ((img.drop 16).take 8) + 7856) ∧
  (x ≠ 0xA5 → exec (.i2cResetRequest x) s = .next s) ∧ i2cRead State.reset 0x0B = 0 ∧
  (d < 8 → k < 64 → let freed := fun (c : Ctx) => if c.die = d && c.core = k && c.status = .fenced then { c with status := .killing } else c
    exec (.fencedCoreRestore d k) s = .next (modCore d k (fun c => { c with fenced := false }) { modDie d (fun y => { y with
      binds := y.binds.map fun r => if r.core = k then { r with fenced := false } else r }) s with me := freed s.me, others := s.others.map freed }))

/-! ### Results, traps and contexts (R48 to R50, R142, R305, R321 to R329) -/

/-- R154, R175, R178 to R180, R321 to R324, R326: `yield`, at the boundary after its group, and the end of a slice form the
effective priority again and ask for pre-emption when another candidate could use the context's resources; a context that was
asked is saved at its next pre-emption point, its image written at its save area under the next save count, and a restore brings
back its registers. A waiter that holds an edge which a thread of its launch, not bound yet, is to resolve keeps its slot (R150). A boundary at which R180 delays a request counts one slice underflow, once for a request. When a restored context may be saved, and when what it inherits applies, are the model's readings (logs 18,
22, 56); so is that standing requests, the watchdog's and `ctxsv` still take the slot of such a waiter (log 83). -/
def Obligations.SlicesAndSaves : Prop :=
  (∀ (s : State), exec .yield s = .next (addLate .yield (retireNow s))) ∧
  (∀ (s : State), s.me.sq.late = [.yield] → let e := endGroup { s with me := { s.me with sq := { s.me.sq with late := [] } } }
    closeGroup s = sliceEnds e.me.uid e) ∧
  (∀ (s : State) (u : Nat), exec (.sliceExpiry u) s = .next (sliceEnds u s)) ∧
  (∀ (s : State) (u : Nat) (c : Ctx), findCtx u s = some c → let t := modCtx u (fun x => x.formPri x.bpri) s
    (c.status ≠ .running → sliceEnds u s = s) ∧
    let asks := wanted t (c.formPri c.bpri) = true ∨ gangAsked t c.lnch = true
    (c.status = .running → (keepsSlot t c = true ∨ ¬asks) → sliceEnds u s = t) ∧
    (c.status = .running → keepsSlot t c = false → asks → sliceEnds u s = askPreempt u t)) ∧
  (∀ (s : State) (c : Ctx), keepsSlot s c = true ↔ ∃ l, launchOf s c.lnch = some l ∧ l.gang = false ∧ ∃ x ∈ edgesOf s, x.e.uid = c.uid ∧
    ∃ u ∈ (ownersOf s x.e).threads, u / 2 ^ 24 = l.num ∧ u % 2 ^ 24 < l.n ∧ u % 2 ^ 24 ∉ l.bound ∧ u % 2 ^ 24 ∉ l.ended) ∧
  (∀ (s : State) n, gangAsked s n = true ↔ ∃ l, launchOf s n = some l ∧ l.gang = true ∧ ((∃ x ∈ bound s, x.lnch = n ∧ x.preReq = true) ∨
    (∃ d ∈ s.dies.toList, ∃ r ∈ d.binds, r.lnch = n ∧ r.asked = true ∧ r.killed = false) ∨
    ∃ v ∈ s.saved, v.ctx.lnch = n ∧ ∀ d ∈ s.dies.toList, ∀ r ∈ d.binds, ¬(r.lnch = n ∧ r.tid = v.ctx.tid))) ∧
  (∀ (c : Ctx) (p : Nat), (c.formPri p).epri = max p c.ipri ∧ ((c.formPri p).inh = true ↔ p < c.ipri)) ∧
  (∀ (s : State), s.me.status = .running → (∀ l, launchOf s s.me.lnch = some l → l.gang = false) →
    (askPreempt s.me.uid s).me = if s.me.preReq = true then s.me else { s.me with preReq := true, delayed := false }) ∧
  (∀ (s : State), let late := s.me.fresh = true ∨
      (s.me.freshIt = true ∧ s.me.sq.loops ≠ [] ∧ s.me.ctl.handler = false ∧ heldAtWait s = false)
    (s.me.preReq = true → s.me.delayed = false → s.me.status = .running → late →
      noteDelay s = modDie s.me.die (fun d => { d with slices := d.slices + 1 }) { s with me := { s.me with delayed := true } }) ∧
    (s.me.preReq = false ∨ s.me.delayed = true ∨ ¬ late → noteDelay s = s)) ∧
  (∀ (s : State), preemptPoint s = true ↔ s.me.sq.queue = [] ∧ s.me.sq.rest = none ∧ (s.me.ctl.handler = true ∨ s.me.sq.faults = []) ∧ fetchFault s = none ∧
    s.me.fresh = false ∧ gangWaits s s.me = false ∧ (s.me.sq.loops = [] ∨ s.me.ctl.handler = true ∨ s.me.stepped = true ∨ heldAtWait s = true)) ∧
  (∀ (s : State) (c : Ctx), gangWaits s c = true ↔ ∃ l, launchOf s c.lnch = some l ∧ l.gang = true ∧
    ((∃ x ∈ bound s, x.lnch = c.lnch ∧ x.fresh = true ∧ x.status = .running) ∨ ∃ d ∈ s.dies.toList, ∃ r ∈ d.binds, r.lnch = c.lnch ∧ r.killed = false)) ∧
  (∀ (s : State), s.me.status = .running → (s.me.preReq = false ∨ preemptPoint s = false) → exec (.preemptSave s.me.uid) s = .next s) ∧
  (∀ (s : State), s.me.status = .running → s.me.preReq = true → preemptPoint s = true → engineIdle s.me = true →
    (∀ c ∈ s.others, c.uid ≠ s.me.uid) → ∃ v : Saved, v.va.toNat % 4096 = 0 ∧ v.va ≠ 0 ∧ v.count = s.me.saves + 1 ∧ v.ctx.regs = s.me.regs ∧
      v.ctx.ctl = s.me.ctl ∧ v.ctx.sq = s.me.sq ∧ v.ctx.status = .saving ∧ v.ctx.uid = s.me.uid ∧
      let bytes := imageBytes v.salt v.ctx
      let x := { s with me := { s.me with status := .saving, epri := max s.me.bpri s.me.ipri, inh := decide (s.me.ipri > s.me.bpri) }, fresh := s.fresh + 1 }
      let t := devWrite (agentOf v.ctx) v.va (bytes ++ integrityArea s.sys.imageKey v.va v.count bytes) x
      exec (.preemptSave s.me.uid) s = .next { t with me := Ctx.reset, saved := t.saved ++ [v] }) ∧
  (∀ (s : State), s.me.status = .running → s.me.preReq = true → preemptPoint s = true → engineIdle s.me = false → (∀ c ∈ s.others, c.uid ≠ s.me.uid) →
    exec (.preemptSave s.me.uid) s = .next { s with me := { s.me with status := .saving } }) ∧
  (∀ (s : State) (v : Saved) (die : Nat) (r : BindRec), s.me.status = .free → let t := restoreBind v die r s
    t.me.status = .running ∧ t.me.regs = v.ctx.regs ∧ t.me.ctl = v.ctx.ctl ∧ t.me.sq = { v.ctx.sq with cmds := t.me.sq.cmds } ∧
      t.me.sq.cmds.map (fun x => (x.tag, x.op)) = v.ctx.sq.cmds.map (fun x => (x.tag, x.op)) ∧ t.me.bpri = v.ctx.bpri ∧ t.me.epri = max r.psnap v.ctx.ipri ∧
      t.me.core = r.core ∧ t.me.hctx = r.hctx ∧ t.me.fresh = true ∧ ∀ x ∈ t.saved, x.ctx.uid ≠ v.ctx.uid)

/-- R329: the firmware instructions run in handler mode of a service launch only. `ctxsv` holds its group until the entry is free; `ctxld`
writes a bind record and holds until the entry has left BINDING; `dload` makes a dictionary resident. The XADDR of a `dload` without room (log
12), which copies stay (log 16), that `ctxld` refuses a record that does not fit its core, and that a record of no known launch is written and
then dropped (log 82), are the model's choices. -/
def Obligations.FirmwareInstructions : Prop :=
  ∀ (s : State) (a b : SReg),
  let x := rdS s a
  let d := bits x 8 3
  let e := bits x 0 8
  let c := bits x 0 6
  let w := rdS s b
  let n := bits w 0 12
  let service := s.me.ctl.handler = true ∧ ∃ l, launchOf s s.me.lnch = some l ∧ l.service = true
  (¬ service → ∀ i ∈ [Instr.ctxsv a, .ctxld a b, .dload a b], exec i s = .next (raise { cause := 0x0C } s)) ∧
  (service →
    let binding := ∃ r ∈ (dieOf s d).binds, r.entry = e ∧ r.killed = false
    (entryFree s d e = true → exec (.ctxsv a) s = .next (retireNow s)) ∧
    (entryFree s d e = false → ctxAt s d e = none → exec (.ctxsv a) s = .next (holdHere s)) ∧
    (∀ k, entryFree s d e = false → ctxAt s d e = some k → exec (.ctxsv a) s = .next (holdHere (askPreempt k.uid s))) ∧
    (2048 < n → exec (.dload a b) s = .next (raise { cause := 0x02, addr := 2048 } s)) ∧
    (n ≤ 2048 → resident s d c w = true → exec (.dload a b) s = .next (retireNow s)) ∧
    (n ≤ 2048 → resident s d c w = false →
      let kept := ((keepDicts s d c n).map fun y => y.entries.length).sum
      (4096 < kept + n → exec (.dload a b) s = .next (raise { cause := 0x0C, sub := 1, addr := Config.openAddr 5 } s)) ∧
      (kept + n ≤ 4096 →
        (∀ i j rd, loadDict d c w s.me.world (touchDict d c w s.me.world s) = .error (i, j, rd) →
          exec (.dload a b) s = .next (raise { cause := 0x02, addr := BitVec.ofNat 64 (i + j * 2 ^ 12) } s)) ∧
        (∀ t, loadDict d c w s.me.world (touchDict d c w s.me.world s) = .ok t → exec (.dload a b) s = .next (retireNow t)))) ∧
    (∀ f, ctxldRead s w = .error f → exec (.ctxld a b) s = .next (raise f s)) ∧
    (∀ gs raw, ctxldRead s w = .ok (gs, raw) →
      (s.me.sq.loading = none → entryFree s d e = true → ctxldRoom s d e raw = none → exec (.ctxld a b) s = .next (raise { cause := 0x02, addr := w } s)) ∧
      (s.me.sq.loading = none → entryFree s d e = false → exec (.ctxld a b) s = .next (holdHere s)) ∧
      (∀ r, s.me.sq.loading = none → entryFree s d e = true → ctxldRoom s d e raw = some r →
        (raw.getLsbD 0 = false → exec (.ctxld a b) s = .next (retireNow s)) ∧
        (raw.getLsbD 0 = true → ∃ t, exec (.ctxld a b) s = .next (holdHere t) ∧
          t = modSq (fun q => { q with loading := some (256 * d + e) }) (addBind d r (stepSegs .plain (some s.me.uid) gs s)))) ∧
      (s.me.sq.loading = some (256 * d + e) →
        (binding → exec (.ctxld a b) s = .next (holdHere s)) ∧
        (¬binding → exec (.ctxld a b) s =
          .next (retireNow { s with me := { s.me with sq := { s.me.sq with loading := none } } })))))

/-! ### The dispatch (R147 to R149, R156, R163 to R182) -/

/-- R163, R173 to R175, R178: one decision of a die's dispatch core. Candidates stand by priority, saved threads before heads of equal
priority; the first that can be placed is served, and where the die lacks room for the threads that the first of all has on it, the
lowest context below it there, but for a waiter that keeps its slot (R150), is asked to give way. That the place given to the die's
selection holds for one thread, and the others of a gang stand at the first place that fits, is the model's choice (log 93). R29,
R148, R177, R182, R323, R328: a bind record is obeyed once, unless its thread has been killed or its core fenced. The launch's
dictionary is made resident, and the thread gets its first registers or is restored from its image, if that is as it was written;
else it ends; a gang that loses a bind to a fenced core is called off whole (R149). That bit 0 of ENTRY is dropped (log 64), that an
image's data stand beside it and a thread without one ends (log 56), that a member bound late has its gang's request (log 50), and
what a dictionary that fails at a restore does to the thread (log 82), are the model's choices. -/
def Obligations.DispatchAndBind : Prop :=
  (∀ (s : State) (die core hctx fb tb : Nat),
  let go := exec (.dispatchSelect die core hctx fb tb) s
  let t := (List.range 32).foldl (fun s q => if (slotAt s die q).mapped then settleHead die q s else s) s
  let p : Place := ⟨core, hctx, fb, tb⟩
  (8 ≤ die ∨ halted s = true → go = .next s) ∧
  (die < 8 → halted s = false →
    (candidates t die = [] → go = .next t) ∧
    (∀ c cs, candidates t die = c :: cs →
      let v := if tryPlace die p (c.2.onDie die) t = none then (match victim t die c.1 with | some x => askPreempt x.uid t | none => t) else t
      ((∀ x ∈ c :: cs, serve die p x.2 v = none) → go = .next v) ∧
      (∀ xs x ys u, c :: cs = xs ++ x :: ys → (∀ y ∈ xs, serve die p y.2 v = none) → serve die p x.2 v = some u → go = .next u))) ∧
  (candidates s die).Pairwise (fun x y => y.1 ≤ x.1) ∧
  (∀ x, x ∈ candidates s die ↔ x ∈ savedCands s die ∨ x ∈ headCands s die) ∧
  (∀ k, (candidates s die).filter (fun x => x.1 = k) = (savedCands s die ++ headCands s die).filter fun x => x.1 = k) ∧
  (∀ k x, victim s die k = some x → x ∈ bound s ∧ x.die = die ∧ x.status = .running ∧ x.epri < k ∧
    keepsSlot s x = false ∧ ∀ y ∈ bound s, y.die = die → y.status = .running → y.epri < k → keepsSlot s y = false → x.epri ≤ y.epri)) ∧
  (∀ (s : State) (die entry : Nat),
  let go := exec (.bind die entry) s
  ((dieOf s die).binds.find? (fun r => r.entry = entry) = none → go = .next s) ∧
  (∀ r, (dieOf s die).binds.find? (fun r => r.entry = entry) = some r →
    (r.killed = true → go = .next s) ∧ (r.killed = false → launchOf s r.lnch = none → go = .next (dropBind die entry s))) ∧
  (∀ r l, (dieOf s die).binds.find? (fun r => r.entry = entry) = some r → r.killed = false → launchOf s r.lnch = some l →
    let past := r.img = 0 ∧ l.live = false
    let fenced := (coreOf s die r.core).fenced = true
    (past → go = .next (dropBind die entry s)) ∧
    (¬past → fenced → go = .next (callOffGang l.num (dropBind die entry s))) ∧
    (¬past → ¬fenced → let w := touchDict die r.core l.dict l.world s
      (∀ e j rd, loadDict die r.core l.dict l.world w = .error (e, j, rd) →
        let f := failLaunch l.num 0x80 (BitVec.ofNat 64 (e + j * 2 ^ 12 + (if rd then 2 ^ 15 else 0))) (dropBind die entry s)
        (r.img = 0 ∨ f.saved.find? (fun v => v.ctx.uid = 2 ^ 24 * r.lnch + r.tid) = none → go = .next f) ∧
        (∀ v, r.img ≠ 0 → f.saved.find? (fun v => v.ctx.uid = 2 ^ 24 * r.lnch + r.tid) = some v → go = .next (endThread v.ctx false none f))) ∧
      (∀ t, loadDict die r.core l.dict l.world w = .ok t → let u := dropBind die entry t
        (r.img = 0 → go = .next (joinRequest l.num r.tid r.asked (firstBind l die r u))) ∧
        (∀ v, r.img ≠ 0 → u.saved.find? (fun v => v.ctx.uid = 2 ^ 24 * r.lnch + r.tid) = some v →
          let y := touchImage v r.img u
          (imageOk y v r.img = true → go = .next (joinRequest l.num r.tid r.asked (restoreBind v die r y))) ∧
          (imageOk y v r.img = false → go = .next (abortRestore die l r.tid (some v) y))) ∧
        (r.img ≠ 0 → u.saved.find? (fun v => v.ctx.uid = 2 ^ 24 * r.lnch + r.tid) = none → go = .next (abortRestore die l r.tid none u))))) ∧
  (∀ (k : Nat) (t : State), callOffGang k t = if (launchOf t k).any (fun l => l.gang) = true then
    askAll k { t with dies := t.dies.map fun d => { d with binds := d.binds.filter fun r => r.lnch ≠ k || r.killed } } else t) ∧
  (∀ (v : Saved) (img : Word) gs, v.va = img → s.sys.alarm = false → vaSegs s (agentOf v.ctx).site (agentOf v.ctx).world .read img (imageSize v.ctx) = .ok gs →
    badLine s gs = none → let n := coveredSize v.ctx
    let bs := readSegs s gs
    (imageOk s v img = true ↔ ∀ b < (n + 4095) / 4096, (bs.drop (n + 16 * b)).take 16 =
      (hmac s.sys.imageKey (((bs.take n).drop (4096 * b)).take 4096 ++ leBytes 8 img.toNat ++ leBytes 4 b ++ leBytes 8 v.count)).take 16)) ∧
  (∀ (v : Saved) (img : Word), (v.va ≠ img ∨ s.sys.alarm = true ∨
    (∃ f, vaSegs s (agentOf v.ctx).site (agentOf v.ctx).world .read img (imageSize v.ctx) = .error f) ∨
    ∃ gs x, vaSegs s (agentOf v.ctx).site (agentOf v.ctx).world .read img (imageSize v.ctx) = .ok gs ∧ badLine s gs = some x) → imageOk s v img = false) ∧
  (∀ (l : Launch) (r : BindRec), let c := bindCtx s l die r
    (∀ i < 15, c.regs.s.toList[i + 1]? = some (l.args.getD i 0)) ∧ c.regs.s[61] = l.sp ∧ c.regs.s[62] = l.gp ∧ c.regs.s[0] = 0 ∧
    (∀ i : Fin 640, c.regs.v[i].tag = .none) ∧ (∀ i : Fin 16, c.regs.k[i] = 0) ∧ c.sq.next = ⟨l.entry &&& 0xFFFFFFFFFFFFFFFE, 0⟩ ∧ c.sq.next.pc.toNat % 2 = 0 ∧ c.ctl.handler = false ∧
    c.status = .running ∧ c.lnch = l.num ∧ c.tid = r.tid ∧ c.world = l.world ∧ c.core = r.core ∧ c.bpri = l.pri))

/-- R155, R156, R169, R177, R182, R202: ends. A retired thread leaves its context and is counted; the watchdog asks, bound or BINDING, kills, bound
or BINDING or neither, and at last marks the entry FENCED and fences the core; a killed context, but a FENCED one, leaves once what it had begun
has run out; the owner records of a thread that ends unbound go. What a killed
context drops, and the order of a thread's last steps, are the model's readings (logs 48, 49): TRIGD and EXITD are counted and the thread leaves in
three events, as each add is an operation of its own (R243, log 31). -/
def Obligations.ThreadsEnd : Prop :=
  ∀ (s : State) (u : Nat),
  let counted := fun (x : Ctx) (t : State) => boundCtx t u = none ∧ ∀ l, launchOf s x.lnch = some l → ∃ m, launchOf t x.lnch = some m ∧
    m.exitd = (if x.exited then l.exitd else l.exitd + 1) ∧ m.ended = l.ended ++ [x.tid] ∧ m.trigd = if x.triggered then l.trigd else l.trigd + 1
  (∀ x, findCtx u s = some x →
    let idle := outL x = 0 ∧ outS x = 0 ∧ outC x = 0 ∧ outT x = 0 ∧ x.trigs = [] ∧ x.sq.owed = [] ∧ ∀ o ∈ s.fab.outs, o.cid ≠ u
    let tallies := fun (t : State) (tr ex : Nat) (gone : List Nat) => exec (.threadRetire u) s = .next t ∧ ∀ l, launchOf s x.lnch = some l →
      ∃ m, launchOf t x.lnch = some m ∧ m.trigd = l.trigd + tr ∧ m.exitd = l.exitd + ex ∧ m.ended = l.ended ++ gone
    (x.status ≠ .retiring ∨ ¬ idle → exec (.threadRetire u) s = .next s) ∧
    (x.status = .retiring → idle → x.triggered = false → ∃ t d, tallies t 1 0 [] ∧ findCtx u t = some d ∧ d.triggered = true ∧ d.exited = x.exited) ∧
    (x.status = .retiring → idle → x.triggered = true → x.exited = false → ∃ t d, tallies t 0 1 [] ∧ findCtx u t = some d ∧ d.triggered = true ∧
      d.exited = true) ∧
    (x.status = .retiring → idle → x.triggered = true → x.exited = true → ∃ t, tallies t 0 0 [x.tid] ∧ boundCtx t u = none)) ∧
  (∀ x, boundCtx s u = some x →
    let drained := x.sq.cmds = [] ∧ x.sq.stores = [] ∧ ∀ o ∈ s.fab.outs, o.cid ≠ u
    let mark := modCtx u (fun y => { y with status := .fenced }) s
    (x.status ≠ .killing ∨ ¬ drained → exec (.killDrainComplete u) s = .next s) ∧
    (x.status = .killing → drained → ∃ t, exec (.killDrainComplete u) s = .next t ∧ counted x t) ∧
    (∀ l, launchOf s x.lnch = some l →
      (x.status ≠ .killing ∨ l.limit 2 = 0 → exec (.watchdogT3 u) s = .next s) ∧
      (x.status = .killing → l.limit 2 ≠ 0 → exec (.watchdogT3 u) s =
        .next (if (coreOf mark x.die x.core).fenced = true then mark else fenceCore x.die x.core mark)))) ∧
  (∀ d k,
    let f := modCore d k (fun y => { y with fenced := true }) s
    let off := ((dieOf f d).binds.filter fun r => decide (r.core = k) && !r.killed).foldl (fun s r => callOffGang r.lnch s)
      (modDie d (fun y => { y with binds := y.binds.filter fun r => r.core ≠ k || r.killed }) f)
    let t := errRecord d 0x07 0 [BitVec.ofNat 64 d, BitVec.ofNat 64 k] off
    fenceCore d k s = ((bound t).filter fun y => y.die = d && y.core = k).foldl (fun s y => askPreempt y.uid s) t) ∧
  (∀ d r rs l, boundCtx s u = none → bindsOf s u = (d, r) :: rs → launchOf s r.lnch = some l →
    let mark := modBinds u (fun y => { y with fenced := true }) s
    (r.killed = false ∨ r.fenced = true → exec (.killDrainComplete u) s = .next s) ∧
    (r.killed = true → r.fenced = false → exec (.killDrainComplete u) s = .next (endUnbound l r.tid (dropBind d r.entry s))) ∧
    (r.killed = false ∨ r.fenced = true ∨ l.limit 2 = 0 → exec (.watchdogT3 u) s = .next s) ∧
    (r.killed = true → r.fenced = false → l.limit 2 ≠ 0 → exec (.watchdogT3 u) s =
      .next (if (coreOf mark d r.core).fenced = true then mark else fenceCore d r.core mark))) ∧
  (∀ (l : Launch) tid, s.saved.find? (fun v => v.ctx.uid = 2 ^ 24 * l.num + tid) = none →
    endUnbound l tid s = endCheck l.num (dropThread l.num tid (countEnd l.num tid false false true s))) ∧
  (∀ l n tid, launchOf s n = some l → u = 2 ^ 24 * n + tid →
    (∀ x, boundCtx s u = some x →
      (l.limit 0 = 0 ∨ x.wds ≠ 0 → exec (.watchdogT1 n tid) s = .next s) ∧
      (l.limit 0 ≠ 0 → x.wds = 0 → exec (.watchdogT1 n tid) s =
        .next (askPreempt u (modCtx u (fun c => { c with wds := 1, wdt := max c.wdt (l.limit 0) }) s)))) ∧
    (∀ d r rs, boundCtx s u = none → bindsOf s u = (d, r) :: rs → let t := modBinds u (fun y => { y with wds := 1, wdt := max y.wdt (l.limit 0), asked := true }) s
      (l.limit 0 = 0 ∨ r.wds ≠ 0 → exec (.watchdogT1 n tid) s = .next s) ∧
      (l.limit 0 ≠ 0 → r.wds = 0 → exec (.watchdogT1 n tid) s = .next (if l.gang = true then askAll n t else t))) ∧
    (l.limit 1 = 0 ∨ l.n ≤ tid ∨ tid ∈ l.ended → exec (.watchdogT2 n tid) s = .next s) ∧
    (l.limit 1 ≠ 0 → tid < l.n → tid ∉ l.ended →
      let err := setErr n 0x15 (BitVec.ofNat 64 tid) false
      (∀ x, boundCtx s u = some x →
        (x.status = .killing ∨ x.status = .fenced → exec (.watchdogT2 n tid) s = .next s) ∧
        (x.status ≠ .killing → x.status ≠ .fenced → exec (.watchdogT2 n tid) s = .next (err (modCtx x.uid (killCtx (l.limit 1)) s)) ∧
          let y := killCtx (l.limit 1) x
          y.status = .killing ∧ y.wds = 2 ∧ y.sq.queue = [] ∧ y.sq.flights = [] ∧ y.sq.pends = [] ∧ y.sq.stores = x.sq.stores)) ∧
      (∀ d r rs, boundCtx s u = none → bindsOf s u = (d, r) :: rs →
        (r.killed = true → exec (.watchdogT2 n tid) s = .next s) ∧
        (r.killed = false → exec (.watchdogT2 n tid) s = .next (err { s with dies := s.dies.map fun d => { d with binds := d.binds.map fun r =>
          if 2 ^ 24 * r.lnch + r.tid = u then { r with killed := true, wds := 2, wdt := max r.wdt (l.limit 1) } else r } }))) ∧
      (boundCtx s u = none → bindsOf s u = [] → exec (.watchdogT2 n tid) s = .next (endUnbound l tid (err s)))))

/-! ### Every form completes somewhere -/

/-- R27, R253 to R278, R279 to R300, R338 to R360: tile, churn and die commands. One whose issue checks pass takes the next command tag
and waits in the context's list; the queries and the bindings answer at once; a `wait` whose limits hold retires. R166, R188 to
R204, R223 to R226, R237, R238, R371 to R376, R391: banks, pails, windows, counters, waits and owner records. With their banks
owned, their handles valid, their vats of a world they may reach and their counters armed these forms complete with their effects; a
wait whose condition holds retires. What a `brel` waits for before it releases, and that it does so with no bank named, is the
model's reading (log 27). R18, R107 to R109, R120 to R122, R136 to R143: the forms that name registers through data, and the strided
and indexed accesses, complete when every register they compute is in the footprint and fit by its tag, or every enabled lane's
access passes its checks: the result is in flight or outstanding, the store is outstanding, and no trap is taken. Here and in the
next clauses no cut of the agenda (log 31) lets others in between the lanes, the banks, or the check and the add of one slot. R152
to R162, R166, R181, R198, R329: threads, groups, firmware. The numbers are answered at once, `exit`, `trig`, `yield` and `prio` are
noted; a member's barrier that ends the phase retires. (`trap` and `xret` complete in the statement on traps and returns.) -/
def Obligations.EveryFormCompletes : Prop :=
  (∀ (s : State) (a b : SReg) (v : VReg) (m : Sys2Proof.MReg) (k : Option KReg) (K : KReg) (t n u : Ix8) (j : BitVec 8) (rr : BitVec 7) (g : Tag) (e : Fin 4) (dir c1 c2 z w ua ub : Bool)
    (l st c q : PReg) (bv : Option VReg) (y : Option Ix8) (ch : Fin 64) (gs : List Seg) (bs : List Byte) (lay : Lay) (gr : List Nat),
  let x := rdS s a
  let mr := s.me.regs.mp[n]
  let cfg := (tileOf s.me t).icfg
  let ka := kcAddr s k
  let next := fun (i : Instr) (t : State) => exec i s = .next t
  let issues := fun (i : Instr) (op : CmdOp) (kc : Option Nat) => ∃ v : State, next i (withCmd op kc v) ∧ v.me.sq = { s.me.sq with cfgWas := v.me.sq.cfgWas, tagLate := v.me.sq.tagLate } ∧ v.me.ctl = s.me.ctl ∧ v.hbm = s.hbm ∧ v.store = s.store
  let slot := fun (i : Instr) => ∃ v : State, next i (withFlight 1 .none 0 s.me.sq.arrive none v) ∧ v.me.ctl = s.me.ctl
  let gives := fun (i : Instr) => ∃ r : Word, next i (withPend (.s b r) true true none none s)
  let port := portOf s s.me.die s.me.core n.val
  let mine := ∃ p : PortBind, port = some p ∧ p.lnch = s.me.lnch ∧ p.tid = s.me.tid
  let finite := fun (x : Nat) => finite32 x = true
  let lo := x.toNat % 2 ^ 32
  let hi := x.toNat / 2 ^ 32
  let o := credOps x (rdS s b)
  (cfgOk x = true → issues (.tcfg t a) (.tcfg t (csrNew .write 0x20 cfg x)) none) ∧
  issues (.tzero t) (.tzero t) none ∧ issues (.tcons t j) (.tcons t j.toNat) none ∧ issues (.dtab e a) (.dtab e.val x) none ∧
  gives (.tcfgqSt b t) ∧ gives (.tcfgqTag b) ∧ gives (.tcfgqSep b) ∧
  ((∀ y ∈ s.me.sq.cmds, y.finished = true ∨ t.val ∉ y.op.tiles.2) → (∀ y ∈ s.me.sq.cmds, ∀ (z : Ix8) (pd : Nat), y.op ≠ .query z pd) → (∀ p ∈ s.me.sq.pends, p.id ≠ s.ids) →
    ∃ (v : State) (p : Pend), next (.tcfgqVer b t) v ∧ v.me.sq.pends = s.me.sq.pends ++ [p] ∧ p.ready = true ∧ p.upd = .s b ((tileOf s.me t).ver.setWidth 64)) ∧
  (readDesc s x 64 64 = .ok (gs, bs) → mapOk (BitVec.ofNat 512 (leNat bs)) = true → slot (.mset n a)) ∧ ((rdS s b).toNat = 0 → slot (.mord n a b)) ∧
  (kcCheck s k = none → mapTileCheck s t mr (rdS s b) = none → issues (.tld t n a b c1 k) (.tld t mr x (rdS s b) c1 ka) ka ∧
    (cfgTag cfg = mapTag mr.bits → cfgTag cfg ≠ .none → cfgTag cfg ≠ .poison → issues (.tst t n a b j k) (.tst t mr x (rdS s b) j.toNat ka) ka)) ∧
  (sourceCheck s v = none → rowsCheck cfg x (rr.toNat + 1) (rdV s v).tag = none → issues (.tldv t v a rr) (.tldv t (rdV s v) (x.toNat % 128) (rr.toNat + 1)) none) ∧
  (cfgTag cfg ≠ .none → rowsCheck cfg x (rr.toNat + 1) (cfgTag cfg) = none → ∃ y : State, next (.tstv t v a rr) (withCmd (.tstv v t (x.toNat % 128) (rr.toNat + 1) s.ids) none y) ∧
    ∃ p : Pend, y.me.sq.pends = s.me.sq.pends ++ [p] ∧ p.id = s.ids ∧ p.ready = false) ∧
  (kcCheck s k = none → mapCheck mr (rdS s b) = none → issues (.tmc n a b m u c1 k) (.tmc mr x (rdS s b) ((rdM s m).setWidth 64) u.val c1 ka) ka) ∧
  (kcCheck s k = none → (rdS s b).toNat % 256 ≠ 0 → tldzWin cfg (rdS s b) g ≠ none → issues (.tldz t a b g k) (.tldz t g x (rdS s b) ka) ka) ∧
  (handleCheck s K = none → (port = none ∨ mine) → slot (.trecv t K n)) ∧ (mine → slot (.trecvRel n)) ∧
  (s.me.wt.dead = none → outL s.me ≤ l.val → outS s.me ≤ st.val → outC s.me ≤ c.val → outT s.me ≤ q.val → next (.wait l st c q) (retireNow s)) ∧
  (mmaCheck s dir t u x z ua ub = none → issues (.mma dir t u a z w c1 c2 ua ub) (.mma dir t u x z w c1 c2 ua ub (cfgTag cfg)) none) ∧
  issues (.mmzI32 dir) (.mmz dir false) none ∧ issues (.mmzFp32 dir) (.mmz dir true) none ∧
  (mmdrCheck s t dir x bv y = none → issues (.mmdr t dir a bv y c1 c2 z) (.mmdr t dir x (bv.map (rdV s)) y c1 c2 z (cfgTag cfg)) none) ∧
  issues (.qld dir c1 c2 a) (.qld dir c1 c2 x none) none ∧ issues (.qldBind dir c1 c2 a t) (.qld dir c1 c2 x (some t)) none ∧
  issues (.qst dir c1 c2 a) (.qst dir c1 c2 x) none ∧ issues (.etab a) (.etab x) none ∧
  (finite lo → finite hi → Real.cmp (decodeFmt fmtFP32 lo) (decodeFmt fmtFP32 hi) < 0 → issues (.esetRng a) (.eset false x) none) ∧
  (finite lo → issues (.esetQ a) (.eset true x) none) ∧
  (readDesc s x 64 64 = .ok (gs, bs) → layOk s (BitVec.ofNat 512 (leNat bs)) = true → slot (.lset n a)) ∧
  (layCheck s n = .ok (lay, gr) →
    gives (.lcoord b n t) ∧ gives (.lnbr b n e dir) ∧
    ((∀ r : RecvBind, bindingOf s s.me.die s.me.world (layKey lay) = some r → r.lnch = s.me.lnch) → slot (.hrecvRel n) ∧
      (handleCheck s K = none → counterOf s K / 2 ^ 28 % 8 = s.me.die → (dieOf s s.me.die).recvs.length < 32 → slot (.hrecv n K))) ∧
    (kcCheck s k = none → layKind lay = 1 → layHalo lay ≠ 0 → issues (.hsend n e dir k) (.hsend lay e.val dir ka) ka) ∧
    (kcCheck s k = none → crwCheck s 1 = none → layV s.me.regs.lay[t] = true → layTag s.me.regs.lay[t] = layTag lay →
      (∀ i < 4, layG s.me.regs.lay[t] i = layG lay i) → issues (.reshard t n k) (.reshard s.me.regs.lay[t] lay ka) ka)) ∧
  (kcCheck s k = none → crwCheck s 0 = none →
    let i := credCount s s.me.lnch o.key s.me.die
    (credCheck s x (rdS s b) false = none → ∃ v : State, next (.cred a b k) v ∧ v.me = (withCmd (.cred o.src o.dst o.n o.m o.r o.key none i ka) ka s).me) ∧
    (crwCheck s 2 = none → credCheck s x (rdS s b) true = none → ∃ v : State, next (.credCh a b ch k) v ∧ v.me = (withCmd (.cred o.src o.dst o.n o.m o.r o.key (some ch.val) i ka) ka s).me)) ∧
  (crwCheck s 2 = none →
    (readDesc s x 32 32 = .ok (gs, bs) → chanFieldsOk (BitVec.ofNat 256 (leNat bs)) = true → chanIsRcv (BitVec.ofNat 256 (leNat bs)) = false →
      chanOf s s.me.lnch ch.val = none → s.chans.length < 1024 → slot (.chset ch a)) ∧
    ((holdsEnd s ch.val false ≠ none ∨ holdsEnd s ch.val true ≠ none) → chanBusy s ch.val = false → slot (.chsetRel ch)) ∧
    (∀ (d : Chan) (r : ChanEnd), holdsEnd s ch.val false = some (d, r) → d.rcvGone = false → (rdV s v).tag = r.tag → r.tag ≠ .none → r.tag ≠ .poison →
      ∃ f : State, next (.chsend ch v) f ∧ f.me = (withCmd (.chsend ch.val (vecBytes (rdV s v).bits (r.lanes * laneW r.tag / 8))) none s).me) ∧
    (∀ (d : Chan) (r : ChanEnd), holdsEnd s ch.val true = some (d, r) → d.sndGone = false →
      ∃ (f : State) (k : Pend), next (.chrecv v ch) f ∧ f.me = { s.me with sq := { s.me.sq with pends := s.me.sq.pends ++ [k] } } ∧ k.src = .item ∧
        k.upd = .v v 0 (BitVec.allOnes 8192) (some r.tag) ∧ k.ready = false ∧ k.arrive = s.me.sq.arrive))) ∧
  (∀ (s : State) (a b d : SReg) (v : VReg) (k : KReg) (n : Ix8) (i : BitVec 28) (j : BitVec 16) (h : BitVec 16) (sz : Size) (t : Tag) (w : WinRef) (gs : List Seg) (bs : List Byte),
  let x := rdS s a
  let next := fun (i : Instr) (t : State) => exec i s = .next t
  let mask := (rdS s b).toNat % 2 ^ 16
  let banks := ((List.range 16).filter fun n => mask.testBit n).map fun n => x.toNat / 2 ^ 28 % 8 * 1024 + x.toNat / 2 ^ 22 % 64 * 16 + n
  let vat := x.getLsbD 31 = false ∧ cacheVat s (x.toNat / 2 ^ 28 % 8) (x.toNat / 2 ^ 22 % 64) = false
  let own := ∀ n ∈ banks, bankOwner s n = s.me.lnch
  let done := (∀ o ∈ s.me.sq.stores, o.grp < s.me.sq.group → o.kind ≠ .mem) ∧ ∀ c ∈ s.me.sq.cmds, c.grp < s.me.sq.group → c.op.brelWaits = false
  let named := ∀ n ∈ banks, ∃ l : Launch, launchOf s s.me.lnch = some l ∧ ∃ g ∈ l.grants, g.ho = true ∧ n ∈ grantBanks g
  let c := (rdK s k).toNat / 8 % 2 ^ 29 * 8
  let whole := ∀ k rest, s.agenda ≠ .cut k :: rest
  let past := if s.me.wt.on.isSome = true then resolveWait s else s
  let reach := bit (dieOf s (c / 2 ^ 28)).vatw (c / 2 ^ 22 % 64) = true → s.me.world = true
  let held := (rdK s k).getLsbD 63 = true ∧ reach ∧ bankOwner s (bankNo c) = s.me.lnch
  let armed := held ∧ lineAt s c = .counter
  let chk := winCheckAll s (agentOf s.me)
  let len := if t = .e2m1x then 864 else 1024
  let far := fun (n align : Nat) (acc : Right) => chk h.toNat (x.toNat % 2 ^ 48) n acc align (decide (x.toNat / 2 ^ 48 ≠ 0)) = .ok w
  let owns := fun (i : Instr) => ∃ (r : Word) (u : State), (r = 0 ∨ r = 1) ∧ next i (withPend (.s d r) true true none none u) ∧ u.me.regs = s.me.regs ∧ u.me.ctl = s.me.ctl
  let drops := fun (i : Instr) => ∃ u : State, next i (withStore true .plain none u) ∧ u.me.regs = s.me.regs ∧ u.me.ctl = s.me.ctl
  let counts := fun (i : Instr) => ∃ r : Word, next i (withPend (.s d r) true true none none s)
  let send := fun (op : RemoteOp) (waits : Bool) (use : RemoteFor) => sendRemote s.me.uid (agentOf s.me) s.me.tid w op waits use
  (vat → own → done → mask = 0 → next (.brel a b) (retireNow s) ∧ next (.brelP a b) (retireNow s)) ∧
  (vat → own → done → mask ≠ 0 → whole → s.Tidy → ∀ pass : Bool, ∃ u, next (if pass then .brelP a b else .brel a b) (withStore true .plain none u) ∧ u.me.regs = s.me.regs ∧
    u.me.ctl = s.me.ctl ∧ u.me.sq.stores = s.me.sq.stores ∧ ∀ n ∈ banks, bankOwner u n = match nextOwner s n with | some l => l.num | none => 0) ∧
  (vat → own → named → next (.bwait a b) (retireNow s)) ∧
  (∀ plan : PailPlan, readDesc s x 32 32 = .ok (gs, bs) → pailFieldsOk (BitVec.ofNat 256 (leNat bs)) = true →
    pailPlan s s.me.lnch (pailDesc (BitVec.ofNat 256 (leNat bs))) x = .ok plan → ∃ u : State, next (.pdef n a) (withFlight 1 .none 0 s.me.sq.arrive none u) ∧ u.me.ctl = s.me.ctl) ∧
  (∀ q : PailDef, pailOf s s.me.regs.pl[n] = some q → ∃ u : State, next (.pdefRel n) (withFlight 1 .none 0 s.me.sq.arrive none u) ∧ u.me.ctl = s.me.ctl ∧ u.me.regs.pl[n] = 0) ∧
  (x.toNat % 32 = 0 → 0 < (rdS s b).toNat → (rdS s b).toNat ≤ 65536 → ∃ u : State, next (.wset a b) (retireNow u) ∧ u.me = s.me ∧
    u.launches = s.launches.map fun (l : Launch) => if l.num = s.me.lnch then { l with win := some (x, (rdS s b).toNat) } else l) ∧
  (∃ u : State, next (.wsetInv a) (retireNow u) ∧ u.me = s.me ∧ ∀ y ∈ u.fab.wins, ¬(y.lnch = s.me.lnch ∧ y.h = x.toNat % 2 ^ 16)) ∧
  ((∀ o ∈ s.fab.outs, o.cid ≠ s.me.uid) → next .fencex (retireNow s)) ∧
  (far (szBytes sz) (szBytes sz) .read → next (.ldw d h a sz) (send (.load (szBytes sz)) false (.load s.ids (.scalar false))
    (withPend (.s d 0) false true none (some (winAddr h.toNat (x.toNat % 2 ^ 48))) s))) ∧
  (far len 64 .read → next (.ldwVec v h a t) (send (.load len) false (.load s.ids (.vec t))
    (withPend (.v v 0 (BitVec.allOnes 8192) (some t)) false true none (some (winAddr h.toNat (x.toNat % 2 ^ 48))) s))) ∧
  (far (szBytes sz) (szBytes sz) .write → next (.stw d h a sz) (send (.store (leBytes (szBytes sz) (rdS s d).toNat)) false (.store s.ids) (withStore false .mem none s))) ∧
  (far len 64 .write → (rdV s v).tag ≠ .none → (rdV s v).tag ≠ .poison → (t = .raw ∨ (rdV s v).tag = t) →
    next (.stwVec v h a t) (send (.store (memOfVec t (rdV s v).bits)) false (.store s.ids) (withStore false .mem none s))) ∧
  (chk (x.toNat / 2 ^ 48) (x.toNat % 2 ^ 48) 8 .atomic 8 false = .ok w → next (.kaddw a i) (send (.add i.toNat) true (.store s.ids) (withStore false .plain none s))) ∧
  (x.toNat % 8 = 0 → x.toNat < 2 ^ 31 → cacheVat s (x.toNat / 2 ^ 28) (x.toNat / 2 ^ 22 % 64) = false → x.toNat % 2 ^ 22 < 0x300000 →
    next (.kset k a) (withPend (.k k (BitVec.ofNat 64 (2 ^ 63 + x.toNat))) true false none none s)) ∧
  next (.ksetClr k) (withPend (.k k 0) true false none none s) ∧
  (held → (lineAt s c = .uncounted ∨ lineAt s c = .counter) → next (.kmodeOn k) (withStore true .plain none (setLine c .counter s))) ∧
  (held → (∀ e ∈ s.dies.toList, ∀ y ∈ e.wft, waitsOnLine c y = false) →
    next (.kmodeOff k) (withStore true .plain none (if lineAt s c = .counter then setLine c .uncounted s else s))) ∧
  (armed → whole → counterAt s c + x.toNat + i.toNat < 2 ^ 64 → next (.kadd k a i) (withStore true .plain none (addCounter c (x.toNat + i.toNat) s).1)) ∧
  (armed → whole → counterAt s c + x.toNat + j.toNat < 2 ^ 64 →
    next (.kaddr k d a j) (withPend (.s d (BitVec.ofNat 64 (counterAt s c))) true true none none (addCounter c (x.toNat + j.toNat) s).1)) ∧
  (armed → next (.kread k d) (withPend (.s d (BitVec.ofNat 64 (counterAt s c))) true true none none s)) ∧
  (armed → s.me.wt.dead = none → x.toNat + j.toNat ≤ counterAt s c → next (.kwait k a j) (retireNow past)) ∧
  (held → owns (.wfown k d) ∧ owns (.wfownE k d a) ∧ owns (.wfownR k d a) ∧ (x.toNat % 2 ^ 24 < s.me.nthr → owns (.wfownT k d a)) ∧
    (x.getLsbD 63 = true → owns (.wfownG k d a)) ∧ drops (.wfdrop k) ∧ drops (.wfdropAll k) ∧ counts (.wfqW k d) ∧ counts (.wfqO k d)) ∧
  next (.wfqF d) (withPend (.s d (BitVec.ofNat 64 (8192 - (dieOf s s.me.die).wft.length))) true true none none s)) ∧
  (∀ (s : State) (d a b : VReg) (x y : SReg) (m : Sys2Proof.MReg) (g z u : Bool) (sp : Space) (t : Tag) (sc : Fin 4) (gs : Nat → List Seg),
  let on := fun (n : Nat) => (List.range n).filter fun i => (rdM s m).getLsbD i
  let grans := on (if g then 512 else 256)
  let from_ := fun (i : Nat) => b.val + laneBits (rdV s a).bits 16 i
  let to_ := fun (i : Nat) => d.val + laneBits (rdV s a).bits 16 i
  let tagOf := fun (r : Nat) => (rdV s (regNo r)).tag
  let good := fun (t : Tag) => t ≠ .none ∧ t ≠ .poison
  let strided := fun (i : Nat) => rdS s x + BitVec.ofNat 64 i * rdS s y
  let scaled := fun (i : Nat) => rdS s x + BitVec.ofNat 64 (if sc.val = 0 then 1 else if sc.val = 1 then laneW t / 8 else 64) *
    (let p := laneBits (rdV s a).bits (laneW t) i
     if u then BitVec.ofNat 64 p else BitVec.ofInt 64 (BitVec.ofNat (laneW t) p).toInt)
  let passes := fun (k : LineAcc) (addr : Nat → Word) => sp ≠ .w ∧ (∀ k rest, s.agenda ≠ .cut k :: rest) ∧ ∀ i ∈ on (lanes t), (addr i).toNat % (laneW t / 8) = 0 ∧
    accessSegs s (agentOf s.me) (sp = .st) k (addr i) (laneW t / 8) = .ok (gs i) ∧ badLine s (gs i) = none
  let loaded := fun (o : Out) => ∃ (v : State) (data : BitVec 8192) (mask : BitVec 8192), o = .next v ∧ v.me.regs = s.me.regs ∧ v.me.ctl = s.me.ctl ∧
    ((∃ f : Flight, v.me.sq.flights = s.me.sq.flights ++ [f] ∧ f.due = s.me.sq.group + 20 ∧ f.upd = .v d data mask (some t)) ∨
      ∃ p : Pend, v.me.sq.pends = s.me.sq.pends ++ [p] ∧ p.ready = true ∧ p.upd = .v d data mask (some t))
  let stored := fun (o : Out) => ∃ v : State, o = .next (withStore true .mem none v) ∧ v.me.regs = s.me.regs ∧ v.me.ctl = s.me.ctl ∧ v.me.sq.stores = s.me.sq.stores
  let dataOk := good (rdV s d).tag ∧ (t = .raw ∨ (rdV s d).tag = t)
  let indexOk := (rdV s a).tag = if laneW t = 8 then .i8 else if laneW t = 16 then .i16 else .i32
  ((rdV s a).tag = .i16 → (∀ i ∈ grans, from_ i < s.me.foot ∧ good (tagOf (from_ i)) ∧ tagOf (from_ i) ≠ .e2m1x ∧ tagOf (from_ i) = tagOf (from_ (grans.headD 0))) →
    ∃ (data mask : BitVec 8192) (tag : Option Tag), exec (.vgetl d a m b g z) s = .next (withFlight 3 (.v d data mask tag) 0 s.me.sq.arrive none s)) ∧
  ((rdV s a).tag = .i16 → good (rdV s b).tag → (rdV s b).tag ≠ .e2m1x → (∀ i ∈ grans, to_ i < s.me.foot ∧ (tagOf (to_ i) = (rdV s b).tag ∨ tagOf (to_ i) = .none)) →
    ∃ (v : State) (rs : List (VReg × BitVec 8192 × Option (Tag × BitVec 8192))), v.me = s.me ∧
      exec (.vputl d a b m g) s = .next (withFlight 3 (.puts (rdV s b).bits rs) 0 s.me.sq.arrive none v)) ∧
  (a.val + (rdS s x).toNat < s.me.foot → good (tagOf (a.val + (rdS s x).toNat)) →
    ∃ v : VData, v = rdV s (regNo (a.val + (rdS s x).toNat)) ∧
      exec (.vmovx d a x) s = .next (withFlight 3 (.v d v.bits (BitVec.allOnes 8192) (some v.tag)) 0 s.me.sq.arrive none s)) ∧
  (d.val + (rdS s x).toNat < s.me.foot → good (rdV s a).tag → exec (.vstx d a x) s =
    .next (withFlight 3 (.v (regNo (d.val + (rdS s x).toNat)) (rdV s a).bits (BitVec.allOnes 8192) (some (rdV s a).tag)) 0 s.me.sq.arrive none s)) ∧
  (passes .plain strided → loaded (exec (.ldvs d x y m sp t z) s)) ∧ (passes .plain scaled → indexOk → loaded (exec (.ldvx d x a m sp t sc u z) s)) ∧
  (passes .store strided → dataOk → stored (exec (.stvs d x y m sp t) s)) ∧ (passes .store scaled → indexOk → dataOk → stored (exec (.stvx d x a m sp t sc u) s))) ∧
  (∀ (s : State) (a b d : SReg) (n : PReg) (r : Bool) (g : Group) (m : Member) (gs rs : List Seg) (h : QueueHdr),
  let x := rdS s a
  let next := fun (i : Instr) (t : State) => exec i s = .next t
  let gives := fun (v : Word) (cls : Bool) (i : Instr) => next i (withPend (.s d v) true cls none none s)
  let p := if r then x.toNat % 16 else n.val
  let lead := match launchOf s s.me.lnch with | some l => bits l.conf 44 4 | none => s.me.bpri
  let past := if s.me.wt.on.isSome = true then resolveWait s else s
  let late := fun (y : Late) => withPend (.s d (BitVec.ofNat 64 (s.me.bpri % 16))) true false none none
    { s with me := { s.me with sq := { s.me.sq with late := s.me.sq.late ++ [y] } } }
  let die := x.toNat / 2 ^ 8 % 8
  let entry := x.toNat % 2 ^ 8
  let w := rdS s b
  let firmware := s.me.ctl.handler = true ∧ ∃ l : Launch, launchOf s s.me.lnch = some l ∧ l.service = true
  let at_ := s.me.sq.at_
  gives (BitVec.ofNat 64 (s.me.tid % 2 ^ 24)) false (.tid d) ∧ gives (BitVec.ofNat 64 (s.me.nthr % 2 ^ 25)) false (.tcount d) ∧
  (∃ (v : Word) (u : State), next (.join d a b) (withPend (.s d v) true true none none u) ∧ u.me.regs = s.me.regs ∧ u.me.ctl = s.me.ctl) ∧
  (memberCheck s x = .ok (g, m) → ∃ u : State, next (.leave a) (withStore true .plain none u) ∧ u.me.regs = s.me.regs ∧ u.me.ctl = s.me.ctl) ∧
  (x.getLsbD 63 = true → gives (BitVec.ofNat 64 (x.toNat / 2 ^ 31 % 2 ^ 12)) false (.grank d a) ∧ gives (BitVec.ofNat 64 (x.toNat / 2 ^ 43 % 2 ^ 13)) false (.gsize d a)) ∧
  (handleGroup s x = some g → gives (BitVec.ofNat 64 (g.members.filter fun (m : Member) => m.present).length) true (.gsizeJ d a)) ∧
  next .exit { s with me := { s.me with sq := { s.me.sq with exiting := some s.me.sq.arrive } } } ∧
  next .yield (addLate .yield (retireNow s)) ∧
  next .trig { s with ids := s.ids + 1, me := { s.me with trigs := s.me.trigs ++ [(s.me.sq.arrive, s.ids + 1, s.me.sq.cmdCount)] } } ∧
  (appendCheck s (agentOf s.me) x w = .ok (gs, h, rs) → ∃ (v : Word) (u : State), next (.launch d a b) (withPend (.s d v) true true none none u) ∧ u.me.regs = s.me.regs) ∧
  (p ≤ lead → next (.prio d a n r) (late (.prio false p)) ∧ next (.prioAll d a n r) (late (.prio true p))) ∧
  (memberCheck s x = .ok (g, m) → s.me.wt.dead = none →
    (m.bit = false → (s.me.wt.phases.find? fun y => y.1 = at_ && y.2.1 = x) = none →
      ({ g with members := g.members.map fun (y : Member) => if y.tid = s.me.tid && y.present then { y with bit := true } else y } : Group).phaseEnds = true →
      exec (.bar a) s = .next (barDone at_ (barArrive at_ x g s))) ∧
    (m.bit = false → next (.barA d a) (withPend (.s d (BitVec.ofNat 64 (g.b + 1))) true true none none (arrive x g past).1)) ∧
    (w.toNat ≤ g.b → next (.barW a b) (retireNow past))) ∧
  (firmware → entryFree s die entry = true → next (.ctxsv a) (retireNow s)) ∧
  (firmware → s.me.sq.loading = some (256 * die + entry) → (∀ r ∈ (dieOf s die).binds, r.entry = entry → r.killed = true) → (∃ y, ctxldRead s w = .ok y) →
    next (.ctxld a b) (retireNow { s with me := { s.me with sq := { s.me.sq with loading := none } } })) ∧
  (firmware → w.toNat % 2 ^ 12 ≤ 2048 → resident s die (x.toNat % 2 ^ 6) w = true → next (.dload a b) (retireNow s)))
end

