-- ==== Sys2Proof/Laws/State.lean ====
section
/-! SUPPORT. What each plain update of the state leaves in each field: one lemma a field, true by `rfl`. -/

namespace Sys2Proof.Machine

/-! ### `modSq` -/

@[simp] theorem modSq_me (f : Seq → Seq) (s : State) : (modSq f s).me = { s.me with sq := f s.me.sq } := rfl
@[simp] theorem modSq_others (f : Seq → Seq) (s : State) : (modSq f s).others = s.others := rfl
@[simp] theorem modSq_saved (f : Seq → Seq) (s : State) : (modSq f s).saved = s.saved := rfl
@[simp] theorem modSq_left (f : Seq → Seq) (s : State) : (modSq f s).left = s.left := rfl
@[simp] theorem modSq_hbm (f : Seq → Seq) (s : State) : (modSq f s).hbm = s.hbm := rfl
@[simp] theorem modSq_store (f : Seq → Seq) (s : State) : (modSq f s).store = s.store := rfl
@[simp] theorem modSq_lines (f : Seq → Seq) (s : State) : (modSq f s).lines = s.lines := rfl
@[simp] theorem modSq_home (f : Seq → Seq) (s : State) : (modSq f s).home = s.home := rfl
@[simp] theorem modSq_banks (f : Seq → Seq) (s : State) : (modSq f s).banks = s.banks := rfl
@[simp] theorem modSq_bankWorld (f : Seq → Seq) (s : State) : (modSq f s).bankWorld = s.bankWorld := rfl
@[simp] theorem modSq_badStore (f : Seq → Seq) (s : State) : (modSq f s).badStore = s.badStore := rfl
@[simp] theorem modSq_badHbm (f : Seq → Seq) (s : State) : (modSq f s).badHbm = s.badHbm := rfl
@[simp] theorem modSq_tlb (f : Seq → Seq) (s : State) : (modSq f s).tlb = s.tlb := rfl
@[simp] theorem modSq_dies (f : Seq → Seq) (s : State) : (modSq f s).dies = s.dies := rfl
@[simp] theorem modSq_cores (f : Seq → Seq) (s : State) : (modSq f s).cores = s.cores := rfl
@[simp] theorem modSq_launches (f : Seq → Seq) (s : State) : (modSq f s).launches = s.launches := rfl
@[simp] theorem modSq_nextLaunch (f : Seq → Seq) (s : State) : (modSq f s).nextLaunch = s.nextLaunch := rfl
@[simp] theorem modSq_chans (f : Seq → Seq) (s : State) : (modSq f s).chans = s.chans := rfl
@[simp] theorem modSq_reductions (f : Seq → Seq) (s : State) : (modSq f s).reductions = s.reductions := rfl
@[simp] theorem modSq_credSeq (f : Seq → Seq) (s : State) : (modSq f s).credSeq = s.credSeq := rfl
@[simp] theorem modSq_fab (f : Seq → Seq) (s : State) : (modSq f s).fab = s.fab := rfl
@[simp] theorem modSq_sys (f : Seq → Seq) (s : State) : (modSq f s).sys = s.sys := rfl
@[simp] theorem modSq_clk (f : Seq → Seq) (s : State) : (modSq f s).clk = s.clk := rfl
@[simp] theorem modSq_ids (f : Seq → Seq) (s : State) : (modSq f s).ids = s.ids := rfl
@[simp] theorem modSq_tokens (f : Seq → Seq) (s : State) : (modSq f s).tokens = s.tokens := rfl
@[simp] theorem modSq_fresh (f : Seq → Seq) (s : State) : (modSq f s).fresh = s.fresh := rfl
@[simp] theorem modSq_agenda (f : Seq → Seq) (s : State) : (modSq f s).agenda = s.agenda := rfl

/-! ### `modRegs` -/

@[simp] theorem modRegs_me (f : Regs → Regs) (s : State) : (modRegs f s).me = { s.me with regs := f s.me.regs } := rfl
@[simp] theorem modRegs_others (f : Regs → Regs) (s : State) : (modRegs f s).others = s.others := rfl
@[simp] theorem modRegs_saved (f : Regs → Regs) (s : State) : (modRegs f s).saved = s.saved := rfl
@[simp] theorem modRegs_left (f : Regs → Regs) (s : State) : (modRegs f s).left = s.left := rfl
@[simp] theorem modRegs_hbm (f : Regs → Regs) (s : State) : (modRegs f s).hbm = s.hbm := rfl
@[simp] theorem modRegs_store (f : Regs → Regs) (s : State) : (modRegs f s).store = s.store := rfl
@[simp] theorem modRegs_lines (f : Regs → Regs) (s : State) : (modRegs f s).lines = s.lines := rfl
@[simp] theorem modRegs_home (f : Regs → Regs) (s : State) : (modRegs f s).home = s.home := rfl
@[simp] theorem modRegs_banks (f : Regs → Regs) (s : State) : (modRegs f s).banks = s.banks := rfl
@[simp] theorem modRegs_bankWorld (f : Regs → Regs) (s : State) : (modRegs f s).bankWorld = s.bankWorld := rfl
@[simp] theorem modRegs_badStore (f : Regs → Regs) (s : State) : (modRegs f s).badStore = s.badStore := rfl
@[simp] theorem modRegs_badHbm (f : Regs → Regs) (s : State) : (modRegs f s).badHbm = s.badHbm := rfl
@[simp] theorem modRegs_tlb (f : Regs → Regs) (s : State) : (modRegs f s).tlb = s.tlb := rfl
@[simp] theorem modRegs_dies (f : Regs → Regs) (s : State) : (modRegs f s).dies = s.dies := rfl
@[simp] theorem modRegs_cores (f : Regs → Regs) (s : State) : (modRegs f s).cores = s.cores := rfl
@[simp] theorem modRegs_launches (f : Regs → Regs) (s : State) : (modRegs f s).launches = s.launches := rfl
@[simp] theorem modRegs_nextLaunch (f : Regs → Regs) (s : State) : (modRegs f s).nextLaunch = s.nextLaunch := rfl
@[simp] theorem modRegs_chans (f : Regs → Regs) (s : State) : (modRegs f s).chans = s.chans := rfl
@[simp] theorem modRegs_reductions (f : Regs → Regs) (s : State) : (modRegs f s).reductions = s.reductions := rfl
@[simp] theorem modRegs_credSeq (f : Regs → Regs) (s : State) : (modRegs f s).credSeq = s.credSeq := rfl
@[simp] theorem modRegs_fab (f : Regs → Regs) (s : State) : (modRegs f s).fab = s.fab := rfl
@[simp] theorem modRegs_sys (f : Regs → Regs) (s : State) : (modRegs f s).sys = s.sys := rfl
@[simp] theorem modRegs_clk (f : Regs → Regs) (s : State) : (modRegs f s).clk = s.clk := rfl
@[simp] theorem modRegs_ids (f : Regs → Regs) (s : State) : (modRegs f s).ids = s.ids := rfl
@[simp] theorem modRegs_tokens (f : Regs → Regs) (s : State) : (modRegs f s).tokens = s.tokens := rfl
@[simp] theorem modRegs_fresh (f : Regs → Regs) (s : State) : (modRegs f s).fresh = s.fresh := rfl
@[simp] theorem modRegs_agenda (f : Regs → Regs) (s : State) : (modRegs f s).agenda = s.agenda := rfl

/-! ### `modCtl` -/

@[simp] theorem modCtl_me (f : Ctl → Ctl) (s : State) : (modCtl f s).me = { s.me with ctl := f s.me.ctl } := rfl
@[simp] theorem modCtl_others (f : Ctl → Ctl) (s : State) : (modCtl f s).others = s.others := rfl
@[simp] theorem modCtl_saved (f : Ctl → Ctl) (s : State) : (modCtl f s).saved = s.saved := rfl
@[simp] theorem modCtl_left (f : Ctl → Ctl) (s : State) : (modCtl f s).left = s.left := rfl
@[simp] theorem modCtl_hbm (f : Ctl → Ctl) (s : State) : (modCtl f s).hbm = s.hbm := rfl
@[simp] theorem modCtl_store (f : Ctl → Ctl) (s : State) : (modCtl f s).store = s.store := rfl
@[simp] theorem modCtl_lines (f : Ctl → Ctl) (s : State) : (modCtl f s).lines = s.lines := rfl
@[simp] theorem modCtl_home (f : Ctl → Ctl) (s : State) : (modCtl f s).home = s.home := rfl
@[simp] theorem modCtl_banks (f : Ctl → Ctl) (s : State) : (modCtl f s).banks = s.banks := rfl
@[simp] theorem modCtl_bankWorld (f : Ctl → Ctl) (s : State) : (modCtl f s).bankWorld = s.bankWorld := rfl
@[simp] theorem modCtl_badStore (f : Ctl → Ctl) (s : State) : (modCtl f s).badStore = s.badStore := rfl
@[simp] theorem modCtl_badHbm (f : Ctl → Ctl) (s : State) : (modCtl f s).badHbm = s.badHbm := rfl
@[simp] theorem modCtl_tlb (f : Ctl → Ctl) (s : State) : (modCtl f s).tlb = s.tlb := rfl
@[simp] theorem modCtl_dies (f : Ctl → Ctl) (s : State) : (modCtl f s).dies = s.dies := rfl
@[simp] theorem modCtl_cores (f : Ctl → Ctl) (s : State) : (modCtl f s).cores = s.cores := rfl
@[simp] theorem modCtl_launches (f : Ctl → Ctl) (s : State) : (modCtl f s).launches = s.launches := rfl
@[simp] theorem modCtl_nextLaunch (f : Ctl → Ctl) (s : State) : (modCtl f s).nextLaunch = s.nextLaunch := rfl
@[simp] theorem modCtl_chans (f : Ctl → Ctl) (s : State) : (modCtl f s).chans = s.chans := rfl
@[simp] theorem modCtl_reductions (f : Ctl → Ctl) (s : State) : (modCtl f s).reductions = s.reductions := rfl
@[simp] theorem modCtl_credSeq (f : Ctl → Ctl) (s : State) : (modCtl f s).credSeq = s.credSeq := rfl
@[simp] theorem modCtl_fab (f : Ctl → Ctl) (s : State) : (modCtl f s).fab = s.fab := rfl
@[simp] theorem modCtl_sys (f : Ctl → Ctl) (s : State) : (modCtl f s).sys = s.sys := rfl
@[simp] theorem modCtl_clk (f : Ctl → Ctl) (s : State) : (modCtl f s).clk = s.clk := rfl
@[simp] theorem modCtl_ids (f : Ctl → Ctl) (s : State) : (modCtl f s).ids = s.ids := rfl
@[simp] theorem modCtl_tokens (f : Ctl → Ctl) (s : State) : (modCtl f s).tokens = s.tokens := rfl
@[simp] theorem modCtl_fresh (f : Ctl → Ctl) (s : State) : (modCtl f s).fresh = s.fresh := rfl
@[simp] theorem modCtl_agenda (f : Ctl → Ctl) (s : State) : (modCtl f s).agenda = s.agenda := rfl

/-! ### `modDie` -/

@[simp] theorem modDie_me (d : Nat) (f : Die → Die) (s : State) : (modDie d f s).me = s.me := rfl
@[simp] theorem modDie_others (d : Nat) (f : Die → Die) (s : State) : (modDie d f s).others = s.others := rfl
@[simp] theorem modDie_saved (d : Nat) (f : Die → Die) (s : State) : (modDie d f s).saved = s.saved := rfl
@[simp] theorem modDie_left (d : Nat) (f : Die → Die) (s : State) : (modDie d f s).left = s.left := rfl
@[simp] theorem modDie_hbm (d : Nat) (f : Die → Die) (s : State) : (modDie d f s).hbm = s.hbm := rfl
@[simp] theorem modDie_store (d : Nat) (f : Die → Die) (s : State) : (modDie d f s).store = s.store := rfl
@[simp] theorem modDie_lines (d : Nat) (f : Die → Die) (s : State) : (modDie d f s).lines = s.lines := rfl
@[simp] theorem modDie_home (d : Nat) (f : Die → Die) (s : State) : (modDie d f s).home = s.home := rfl
@[simp] theorem modDie_banks (d : Nat) (f : Die → Die) (s : State) : (modDie d f s).banks = s.banks := rfl
@[simp] theorem modDie_bankWorld (d : Nat) (f : Die → Die) (s : State) : (modDie d f s).bankWorld = s.bankWorld := rfl
@[simp] theorem modDie_badStore (d : Nat) (f : Die → Die) (s : State) : (modDie d f s).badStore = s.badStore := rfl
@[simp] theorem modDie_badHbm (d : Nat) (f : Die → Die) (s : State) : (modDie d f s).badHbm = s.badHbm := rfl
@[simp] theorem modDie_tlb (d : Nat) (f : Die → Die) (s : State) : (modDie d f s).tlb = s.tlb := rfl
@[simp] theorem modDie_dies (d : Nat) (f : Die → Die) (s : State) : (modDie d f s).dies = vmod s.dies d f := rfl
@[simp] theorem modDie_cores (d : Nat) (f : Die → Die) (s : State) : (modDie d f s).cores = s.cores := rfl
@[simp] theorem modDie_launches (d : Nat) (f : Die → Die) (s : State) : (modDie d f s).launches = s.launches := rfl
@[simp] theorem modDie_nextLaunch (d : Nat) (f : Die → Die) (s : State) : (modDie d f s).nextLaunch = s.nextLaunch := rfl
@[simp] theorem modDie_chans (d : Nat) (f : Die → Die) (s : State) : (modDie d f s).chans = s.chans := rfl
@[simp] theorem modDie_reductions (d : Nat) (f : Die → Die) (s : State) : (modDie d f s).reductions = s.reductions := rfl
@[simp] theorem modDie_credSeq (d : Nat) (f : Die → Die) (s : State) : (modDie d f s).credSeq = s.credSeq := rfl
@[simp] theorem modDie_fab (d : Nat) (f : Die → Die) (s : State) : (modDie d f s).fab = s.fab := rfl
@[simp] theorem modDie_sys (d : Nat) (f : Die → Die) (s : State) : (modDie d f s).sys = s.sys := rfl
@[simp] theorem modDie_clk (d : Nat) (f : Die → Die) (s : State) : (modDie d f s).clk = s.clk := rfl
@[simp] theorem modDie_ids (d : Nat) (f : Die → Die) (s : State) : (modDie d f s).ids = s.ids := rfl
@[simp] theorem modDie_tokens (d : Nat) (f : Die → Die) (s : State) : (modDie d f s).tokens = s.tokens := rfl
@[simp] theorem modDie_fresh (d : Nat) (f : Die → Die) (s : State) : (modDie d f s).fresh = s.fresh := rfl
@[simp] theorem modDie_agenda (d : Nat) (f : Die → Die) (s : State) : (modDie d f s).agenda = s.agenda := rfl

/-! ### `modCore` -/

@[simp] theorem modCore_me (d c : Nat) (f : Core → Core) (s : State) : (modCore d c f s).me = s.me := rfl
@[simp] theorem modCore_others (d c : Nat) (f : Core → Core) (s : State) : (modCore d c f s).others = s.others := rfl
@[simp] theorem modCore_saved (d c : Nat) (f : Core → Core) (s : State) : (modCore d c f s).saved = s.saved := rfl
@[simp] theorem modCore_left (d c : Nat) (f : Core → Core) (s : State) : (modCore d c f s).left = s.left := rfl
@[simp] theorem modCore_hbm (d c : Nat) (f : Core → Core) (s : State) : (modCore d c f s).hbm = s.hbm := rfl
@[simp] theorem modCore_store (d c : Nat) (f : Core → Core) (s : State) : (modCore d c f s).store = s.store := rfl
@[simp] theorem modCore_lines (d c : Nat) (f : Core → Core) (s : State) : (modCore d c f s).lines = s.lines := rfl
@[simp] theorem modCore_home (d c : Nat) (f : Core → Core) (s : State) : (modCore d c f s).home = s.home := rfl
@[simp] theorem modCore_banks (d c : Nat) (f : Core → Core) (s : State) : (modCore d c f s).banks = s.banks := rfl
@[simp] theorem modCore_bankWorld (d c : Nat) (f : Core → Core) (s : State) : (modCore d c f s).bankWorld = s.bankWorld := rfl
@[simp] theorem modCore_badStore (d c : Nat) (f : Core → Core) (s : State) : (modCore d c f s).badStore = s.badStore := rfl
@[simp] theorem modCore_badHbm (d c : Nat) (f : Core → Core) (s : State) : (modCore d c f s).badHbm = s.badHbm := rfl
@[simp] theorem modCore_tlb (d c : Nat) (f : Core → Core) (s : State) : (modCore d c f s).tlb = s.tlb := rfl
@[simp] theorem modCore_dies (d c : Nat) (f : Core → Core) (s : State) : (modCore d c f s).dies = s.dies := rfl
@[simp] theorem modCore_cores (d c : Nat) (f : Core → Core) (s : State) : (modCore d c f s).cores = setAt Core.reset s.cores (64 * d + c) (f (coreOf s d c)) := rfl
@[simp] theorem modCore_launches (d c : Nat) (f : Core → Core) (s : State) : (modCore d c f s).launches = s.launches := rfl
@[simp] theorem modCore_nextLaunch (d c : Nat) (f : Core → Core) (s : State) : (modCore d c f s).nextLaunch = s.nextLaunch := rfl
@[simp] theorem modCore_chans (d c : Nat) (f : Core → Core) (s : State) : (modCore d c f s).chans = s.chans := rfl
@[simp] theorem modCore_reductions (d c : Nat) (f : Core → Core) (s : State) : (modCore d c f s).reductions = s.reductions := rfl
@[simp] theorem modCore_credSeq (d c : Nat) (f : Core → Core) (s : State) : (modCore d c f s).credSeq = s.credSeq := rfl
@[simp] theorem modCore_fab (d c : Nat) (f : Core → Core) (s : State) : (modCore d c f s).fab = s.fab := rfl
@[simp] theorem modCore_sys (d c : Nat) (f : Core → Core) (s : State) : (modCore d c f s).sys = s.sys := rfl
@[simp] theorem modCore_clk (d c : Nat) (f : Core → Core) (s : State) : (modCore d c f s).clk = s.clk := rfl
@[simp] theorem modCore_ids (d c : Nat) (f : Core → Core) (s : State) : (modCore d c f s).ids = s.ids := rfl
@[simp] theorem modCore_tokens (d c : Nat) (f : Core → Core) (s : State) : (modCore d c f s).tokens = s.tokens := rfl
@[simp] theorem modCore_fresh (d c : Nat) (f : Core → Core) (s : State) : (modCore d c f s).fresh = s.fresh := rfl
@[simp] theorem modCore_agenda (d c : Nat) (f : Core → Core) (s : State) : (modCore d c f s).agenda = s.agenda := rfl

/-! ### `modLaunch` -/

@[simp] theorem modLaunch_me (l : Nat) (f : Launch → Launch) (s : State) : (modLaunch l f s).me = s.me := rfl
@[simp] theorem modLaunch_others (l : Nat) (f : Launch → Launch) (s : State) : (modLaunch l f s).others = s.others := rfl
@[simp] theorem modLaunch_saved (l : Nat) (f : Launch → Launch) (s : State) : (modLaunch l f s).saved = s.saved := rfl
@[simp] theorem modLaunch_left (l : Nat) (f : Launch → Launch) (s : State) : (modLaunch l f s).left = s.left := rfl
@[simp] theorem modLaunch_hbm (l : Nat) (f : Launch → Launch) (s : State) : (modLaunch l f s).hbm = s.hbm := rfl
@[simp] theorem modLaunch_store (l : Nat) (f : Launch → Launch) (s : State) : (modLaunch l f s).store = s.store := rfl
@[simp] theorem modLaunch_lines (l : Nat) (f : Launch → Launch) (s : State) : (modLaunch l f s).lines = s.lines := rfl
@[simp] theorem modLaunch_home (l : Nat) (f : Launch → Launch) (s : State) : (modLaunch l f s).home = s.home := rfl
@[simp] theorem modLaunch_banks (l : Nat) (f : Launch → Launch) (s : State) : (modLaunch l f s).banks = s.banks := rfl
@[simp] theorem modLaunch_bankWorld (l : Nat) (f : Launch → Launch) (s : State) : (modLaunch l f s).bankWorld = s.bankWorld := rfl
@[simp] theorem modLaunch_badStore (l : Nat) (f : Launch → Launch) (s : State) : (modLaunch l f s).badStore = s.badStore := rfl
@[simp] theorem modLaunch_badHbm (l : Nat) (f : Launch → Launch) (s : State) : (modLaunch l f s).badHbm = s.badHbm := rfl
@[simp] theorem modLaunch_tlb (l : Nat) (f : Launch → Launch) (s : State) : (modLaunch l f s).tlb = s.tlb := rfl
@[simp] theorem modLaunch_dies (l : Nat) (f : Launch → Launch) (s : State) : (modLaunch l f s).dies = s.dies := rfl
@[simp] theorem modLaunch_cores (l : Nat) (f : Launch → Launch) (s : State) : (modLaunch l f s).cores = s.cores := rfl
@[simp] theorem modLaunch_launches (l : Nat) (f : Launch → Launch) (s : State) : (modLaunch l f s).launches = s.launches.map fun x => if x.num = l then f x else x := rfl
@[simp] theorem modLaunch_nextLaunch (l : Nat) (f : Launch → Launch) (s : State) : (modLaunch l f s).nextLaunch = s.nextLaunch := rfl
@[simp] theorem modLaunch_chans (l : Nat) (f : Launch → Launch) (s : State) : (modLaunch l f s).chans = s.chans := rfl
@[simp] theorem modLaunch_reductions (l : Nat) (f : Launch → Launch) (s : State) : (modLaunch l f s).reductions = s.reductions := rfl
@[simp] theorem modLaunch_credSeq (l : Nat) (f : Launch → Launch) (s : State) : (modLaunch l f s).credSeq = s.credSeq := rfl
@[simp] theorem modLaunch_fab (l : Nat) (f : Launch → Launch) (s : State) : (modLaunch l f s).fab = s.fab := rfl
@[simp] theorem modLaunch_sys (l : Nat) (f : Launch → Launch) (s : State) : (modLaunch l f s).sys = s.sys := rfl
@[simp] theorem modLaunch_clk (l : Nat) (f : Launch → Launch) (s : State) : (modLaunch l f s).clk = s.clk := rfl
@[simp] theorem modLaunch_ids (l : Nat) (f : Launch → Launch) (s : State) : (modLaunch l f s).ids = s.ids := rfl
@[simp] theorem modLaunch_tokens (l : Nat) (f : Launch → Launch) (s : State) : (modLaunch l f s).tokens = s.tokens := rfl
@[simp] theorem modLaunch_fresh (l : Nat) (f : Launch → Launch) (s : State) : (modLaunch l f s).fresh = s.fresh := rfl
@[simp] theorem modLaunch_agenda (l : Nat) (f : Launch → Launch) (s : State) : (modLaunch l f s).agenda = s.agenda := rfl

/-! ### `setLine` -/

@[simp] theorem setLine_me (a : Nat) (l : LineSt) (s : State) : (setLine a l s).me = s.me := rfl
@[simp] theorem setLine_others (a : Nat) (l : LineSt) (s : State) : (setLine a l s).others = s.others := rfl
@[simp] theorem setLine_saved (a : Nat) (l : LineSt) (s : State) : (setLine a l s).saved = s.saved := rfl
@[simp] theorem setLine_left (a : Nat) (l : LineSt) (s : State) : (setLine a l s).left = s.left := rfl
@[simp] theorem setLine_hbm (a : Nat) (l : LineSt) (s : State) : (setLine a l s).hbm = s.hbm := rfl
@[simp] theorem setLine_store (a : Nat) (l : LineSt) (s : State) : (setLine a l s).store = s.store := rfl
@[simp] theorem setLine_lines (a : Nat) (l : LineSt) (s : State) : (setLine a l s).lines = setAt .uncounted s.lines (a / 64) l := rfl
@[simp] theorem setLine_home (a : Nat) (l : LineSt) (s : State) : (setLine a l s).home = s.home := rfl
@[simp] theorem setLine_banks (a : Nat) (l : LineSt) (s : State) : (setLine a l s).banks = s.banks := rfl
@[simp] theorem setLine_bankWorld (a : Nat) (l : LineSt) (s : State) : (setLine a l s).bankWorld = s.bankWorld := rfl
@[simp] theorem setLine_badStore (a : Nat) (l : LineSt) (s : State) : (setLine a l s).badStore = s.badStore := rfl
@[simp] theorem setLine_badHbm (a : Nat) (l : LineSt) (s : State) : (setLine a l s).badHbm = s.badHbm := rfl
@[simp] theorem setLine_tlb (a : Nat) (l : LineSt) (s : State) : (setLine a l s).tlb = s.tlb := rfl
@[simp] theorem setLine_dies (a : Nat) (l : LineSt) (s : State) : (setLine a l s).dies = s.dies := rfl
@[simp] theorem setLine_cores (a : Nat) (l : LineSt) (s : State) : (setLine a l s).cores = s.cores := rfl
@[simp] theorem setLine_launches (a : Nat) (l : LineSt) (s : State) : (setLine a l s).launches = s.launches := rfl
@[simp] theorem setLine_nextLaunch (a : Nat) (l : LineSt) (s : State) : (setLine a l s).nextLaunch = s.nextLaunch := rfl
@[simp] theorem setLine_chans (a : Nat) (l : LineSt) (s : State) : (setLine a l s).chans = s.chans := rfl
@[simp] theorem setLine_reductions (a : Nat) (l : LineSt) (s : State) : (setLine a l s).reductions = s.reductions := rfl
@[simp] theorem setLine_credSeq (a : Nat) (l : LineSt) (s : State) : (setLine a l s).credSeq = s.credSeq := rfl
@[simp] theorem setLine_fab (a : Nat) (l : LineSt) (s : State) : (setLine a l s).fab = s.fab := rfl
@[simp] theorem setLine_sys (a : Nat) (l : LineSt) (s : State) : (setLine a l s).sys = s.sys := rfl
@[simp] theorem setLine_clk (a : Nat) (l : LineSt) (s : State) : (setLine a l s).clk = s.clk := rfl
@[simp] theorem setLine_ids (a : Nat) (l : LineSt) (s : State) : (setLine a l s).ids = s.ids := rfl
@[simp] theorem setLine_tokens (a : Nat) (l : LineSt) (s : State) : (setLine a l s).tokens = s.tokens := rfl
@[simp] theorem setLine_fresh (a : Nat) (l : LineSt) (s : State) : (setLine a l s).fresh = s.fresh := rfl
@[simp] theorem setLine_agenda (a : Nat) (l : LineSt) (s : State) : (setLine a l s).agenda = s.agenda := rfl

/-! ### `tick` -/

@[simp] theorem tick_me (s : State) : (tick s).me = s.me := rfl
@[simp] theorem tick_others (s : State) : (tick s).others = s.others := rfl
@[simp] theorem tick_saved (s : State) : (tick s).saved = s.saved := rfl
@[simp] theorem tick_left (s : State) : (tick s).left = s.left := rfl
@[simp] theorem tick_hbm (s : State) : (tick s).hbm = s.hbm := rfl
@[simp] theorem tick_store (s : State) : (tick s).store = s.store := rfl
@[simp] theorem tick_lines (s : State) : (tick s).lines = s.lines := rfl
@[simp] theorem tick_home (s : State) : (tick s).home = s.home := rfl
@[simp] theorem tick_banks (s : State) : (tick s).banks = s.banks := rfl
@[simp] theorem tick_bankWorld (s : State) : (tick s).bankWorld = s.bankWorld := rfl
@[simp] theorem tick_badStore (s : State) : (tick s).badStore = s.badStore := rfl
@[simp] theorem tick_badHbm (s : State) : (tick s).badHbm = s.badHbm := rfl
@[simp] theorem tick_tlb (s : State) : (tick s).tlb = s.tlb := rfl
@[simp] theorem tick_dies (s : State) : (tick s).dies = s.dies := rfl
@[simp] theorem tick_cores (s : State) : (tick s).cores = s.cores := rfl
@[simp] theorem tick_launches (s : State) : (tick s).launches = s.launches := rfl
@[simp] theorem tick_nextLaunch (s : State) : (tick s).nextLaunch = s.nextLaunch := rfl
@[simp] theorem tick_chans (s : State) : (tick s).chans = s.chans := rfl
@[simp] theorem tick_reductions (s : State) : (tick s).reductions = s.reductions := rfl
@[simp] theorem tick_credSeq (s : State) : (tick s).credSeq = s.credSeq := rfl
@[simp] theorem tick_fab (s : State) : (tick s).fab = s.fab := rfl
@[simp] theorem tick_sys (s : State) : (tick s).sys = s.sys := rfl
@[simp] theorem tick_clk (s : State) : (tick s).clk = s.clk + 1 + Config.clkGap s.clk := rfl
@[simp] theorem tick_ids (s : State) : (tick s).ids = s.ids := rfl
@[simp] theorem tick_tokens (s : State) : (tick s).tokens = s.tokens := rfl
@[simp] theorem tick_fresh (s : State) : (tick s).fresh = s.fresh := rfl
@[simp] theorem tick_agenda (s : State) : (tick s).agenda = s.agenda := rfl

/-! ### Registers through updates that leave them alone -/

@[simp] theorem rdS_modSq (f : Seq → Seq) (s : State) (r : SReg) : rdS (modSq f s) r = rdS s r := rfl
@[simp] theorem rdP_modSq (f : Seq → Seq) (s : State) (r : PReg) : rdP (modSq f s) r = rdP s r := rfl
@[simp] theorem rdM_modSq (f : Seq → Seq) (s : State) (r : Sys2Proof.MReg) : rdM (modSq f s) r = rdM s r := rfl
@[simp] theorem rdV_modSq (f : Seq → Seq) (s : State) (r : VReg) : rdV (modSq f s) r = rdV s r := rfl
@[simp] theorem rdK_modSq (f : Seq → Seq) (s : State) (r : KReg) : rdK (modSq f s) r = rdK s r := rfl

/-- `s0` reads zero (R14). -/
@[simp] theorem rdS_zero (s : State) : rdS s 0 = 0 := rfl
/-- `p0` reads 1 (R14). -/
@[simp] theorem rdP_zero (s : State) : rdP s 0 = true := rfl
/-- `m0` reads all ones (R14). -/
@[simp] theorem rdM_zero (s : State) : rdM s 0 = BitVec.allOnes 1024 := rfl

end Sys2Proof.Machine
end

