-- ==== Sys2Proof/Laws/Memory.lean ====
section
/-! SUPPORT. Sparse maps and memory: reading after writing, and that every write keeps the canonical form. -/

namespace Sys2Proof.Machine

variable {α : Type} [DecidableEq α]

theorem canon_nil (d : α) : SMap.canon d ([] : SMap α) = true := by simp [SMap.canon]

theorem canon_iff (d : α) (m : SMap α) :
    SMap.canon d m = true ↔ m.Pairwise (fun x y => x.1 < y.1) ∧ ∀ x ∈ m, x.2 ≠ d := by
  simp [SMap.canon]

/-- Leaving entries out keeps the form. -/
theorem canon_filter (d : α) (p : Nat × α → Bool) {m : SMap α} (h : SMap.canon d m = true) :
    SMap.canon d (m.filter p) = true := by
  rw [canon_iff] at h ⊢
  exact ⟨h.1.filter p, fun x hx => h.2 x (List.mem_of_mem_filter hx)⟩

/-- The keys of a written map: those of the old one, and perhaps the key written. -/
theorem mem_setAt {d v : α} {k : Nat} {x : Nat × α} {m : SMap α} (h : x ∈ setAt d m k v) : x ∈ m ∨ (x = (k, v) ∧ v ≠ d) := by
  induction m with
  | nil => by_cases hv : v = d <;> simp_all [setAt]
  | cons y m ih =>
    unfold setAt at h
    split_ifs at h <;> simp_all
    all_goals tauto

/-- Writing a key keeps the form. -/
theorem canon_setAt {d : α} (k : Nat) (v : α) {m : SMap α} (h : SMap.canon d m = true) :
    SMap.canon d (setAt d m k v) = true := by
  induction m with
  | nil => by_cases hv : v = d <;> simp [setAt, canon_iff, hv]
  | cons y m ih =>
    rw [canon_iff, List.pairwise_cons] at h
    have hm : SMap.canon d m = true := (canon_iff d m).2 ⟨h.1.2, fun x hx => h.2 x (by simp [hx])⟩
    unfold setAt
    split_ifs with h1 h2 h3 h4
    · exact (canon_iff d _).2 ⟨List.pairwise_cons.2 h.1, h.2⟩
    · refine (canon_iff d _).2 ⟨List.pairwise_cons.2 ⟨?_, List.pairwise_cons.2 h.1⟩, ?_⟩
      · rintro x hx
        rcases List.mem_cons.1 hx with rfl | hx
        · exact h1
        · exact h1.trans (h.1.1 x hx)
      · rintro x hx
        rcases List.mem_cons.1 hx with rfl | hx
        · exact h2
        · exact h.2 x hx
    · exact hm
    · refine (canon_iff d _).2 ⟨List.pairwise_cons.2 ⟨?_, h.1.2⟩, ?_⟩
      · intro x hx
        have := h.1.1 x hx
        simp_all
      · rintro x hx
        rcases List.mem_cons.1 hx with rfl | hx
        · exact h4
        · exact h.2 x (by simp [hx])
    · have hi := (canon_iff d _).1 (ih hm)
      refine (canon_iff d _).2 ⟨List.pairwise_cons.2 ⟨?_, hi.1⟩, ?_⟩
      · intro x hx
        rcases mem_setAt hx with hx | ⟨rfl, -⟩
        · exact h.1.1 x hx
        · show y.1 < k
          omega
      · rintro x hx
        rcases List.mem_cons.1 hx with rfl | hx
        · exact h.2 _ (by simp)
        · exact hi.2 x hx

/-- A key reads what was written to it. -/
theorem getAt_setAt_same {d : α} (k : Nat) (v : α) {m : SMap α} (h : SMap.canon d m = true) :
    getAt d (setAt d m k v) k = v := by
  induction m with
  | nil => by_cases hv : v = d <;> simp [setAt, getAt, hv]
  | cons y m ih =>
    rw [canon_iff, List.pairwise_cons] at h
    have hm : SMap.canon d m = true := (canon_iff d m).2 ⟨h.1.2, fun x hx => h.2 x (by simp [hx])⟩
    have hfree : ∀ n : SMap α, (∀ x ∈ n, k < x.1) → getAt d n k = d := by
      intro n hn
      induction n with
      | nil => rfl
      | cons z n ihn =>
        have hz := hn z (by simp)
        simp only [getAt]
        rw [if_neg (by omega)]
        exact ihn fun x hx => hn x (by simp [hx])
    unfold setAt
    split_ifs with h1 h2 h3 h4
    · rw [h2]
      refine hfree (y :: m) fun x hx => ?_
      rcases List.mem_cons.1 hx with rfl | hx
      · exact h1
      · exact h1.trans (h.1.1 x hx)
    · simp [getAt]
    · rw [h4]
      exact hfree m fun x hx => by have := h.1.1 x hx; omega
    · simp [getAt]
    · simp only [getAt]
      rw [if_neg (by omega)]
      exact ih hm

/-- Every other key reads as before. -/
theorem getAt_setAt_other {d : α} {k j : Nat} (v : α) (hj : j ≠ k) {m : SMap α} (h : SMap.canon d m = true) :
    getAt d (setAt d m k v) j = getAt d m j := by
  induction m with
  | nil => by_cases hv : v = d <;> simp [setAt, getAt, hv, Ne.symm hj]
  | cons y m ih =>
    rw [canon_iff, List.pairwise_cons] at h
    have hm : SMap.canon d m = true := (canon_iff d m).2 ⟨h.1.2, fun x hx => h.2 x (by simp [hx])⟩
    unfold setAt
    split_ifs with h1 h2 h3 h4
    · rfl
    · simp [getAt, Ne.symm hj]
    · simp only [getAt]
      rw [if_neg (by omega)]
    · simp only [getAt]
      rw [if_neg (by omega), if_neg (by omega)]
    · simp only [getAt]
      split_ifs
      · rfl
      · exact ih hm

/-- A key of any map reads what `putAt` wrote to it. -/
theorem getAt_putAt_same {d : α} (k : Nat) (v : α) (m : SMap α) : getAt d (putAt d m k v) k = v := by
  have hfree : ∀ n : SMap α, (∀ x ∈ n, x.1 ≠ k) → getAt d n k = d := by
    intro n hn
    induction n with
    | nil => rfl
    | cons z n ih =>
      simp only [getAt]
      rw [if_neg (hn z (by simp))]
      exact ih fun x hx => hn x (by simp [hx])
  have key : ∀ n : SMap α, (∀ x ∈ n, x.1 ≠ k) → getAt d (setAt d n k v) k = v := by
    intro n hn
    induction n with
    | nil => by_cases hv : v = d <;> simp [setAt, getAt, hv]
    | cons y n ih =>
      have hy := hn y (by simp)
      have ht := ih fun x hx => hn x (by simp [hx])
      unfold setAt
      split_ifs with h1 h2 h3 h4
      · rw [h2]
        exact hfree (y :: n) hn
      · simp [getAt]
      · exact absurd h3.symm hy
      · exact absurd h3.symm hy
      · simp only [getAt]
        rw [if_neg hy]
        exact ht
  exact key _ fun x hx => by simpa using (List.mem_filter.1 hx).2

/-- Every other key of it reads as before. -/
theorem getAt_putAt_other {d : α} {k j : Nat} (v : α) (hj : j ≠ k) (m : SMap α) : getAt d (putAt d m k v) j = getAt d m j := by
  have hset : ∀ n : SMap α, getAt d (setAt d n k v) j = getAt d n j ∨ ∃ x ∈ n, x.1 = k := by
    intro n
    induction n with
    | nil => left; by_cases hv : v = d <;> simp [setAt, getAt, hv, Ne.symm hj]
    | cons y n ih =>
      unfold setAt
      split_ifs with h1 h2 h3 h4
      · exact .inl rfl
      · left; simp [getAt, Ne.symm hj]
      · exact .inr ⟨y, by simp, h3.symm⟩
      · exact .inr ⟨y, by simp, h3.symm⟩
      · rcases ih with h | ⟨x, hx, hk⟩
        · left
          simp only [getAt]
          split_ifs
          · rfl
          · exact h
        · exact .inr ⟨x, by simp [hx], hk⟩
  have hfil : ∀ n : SMap α, getAt d (n.filter (·.1 ≠ k)) j = getAt d n j := by
    intro n
    induction n with
    | nil => rfl
    | cons y n ih =>
      by_cases hy : y.1 = k
      · simp only [List.filter, hy, ne_eq, not_true_eq_false, decide_false, getAt]
        rw [if_neg (Ne.symm hj)]
        exact ih
      · simp only [List.filter, hy, ne_eq, not_false_eq_true, decide_true, getAt]
        rw [← ih]
  rcases hset (m.filter (·.1 ≠ k)) with h | ⟨x, hx, hk⟩
  · exact h.trans (hfil m)
  · exact absurd hk (by simpa using (List.mem_filter.1 hx).2)

/-! ### Bytes -/

theorem wf_nil : Memory.wf [] = true := canon_nil 0

theorem wf_setByte (a : Nat) (b : Byte) {m : List Host.Cell} (h : Memory.wf m = true) : Memory.wf (setByte m a b) = true :=
  canon_setAt a b h

theorem wf_writeN (a : Nat) (bs : List Byte) {m : List Host.Cell} (h : Memory.wf m = true) : Memory.wf (writeN m a bs) = true := by
  induction bs generalizing a m with
  | nil => exact h
  | cons b bs ih => exact ih (a + 1) (wf_setByte a b h)

theorem wf_filter (p : Host.Cell → Bool) {m : List Host.Cell} (h : Memory.wf m = true) : Memory.wf (m.filter p) = true :=
  canon_filter 0 p h

theorem getByte_setByte_same (a : Nat) (b : Byte) {m : List Host.Cell} (h : Memory.wf m = true) : getByte (setByte m a b) a = b :=
  getAt_setAt_same a b h

theorem getByte_setByte_other {a c : Nat} (b : Byte) (hc : c ≠ a) {m : List Host.Cell} (h : Memory.wf m = true) :
    getByte (setByte m a b) c = getByte m c :=
  getAt_setAt_other b hc h

/-- A byte after a write of `bs` at `a`. -/
theorem getByte_writeN (a c : Nat) (bs : List Byte) {m : List Host.Cell} (h : Memory.wf m = true) :
    getByte (writeN m a bs) c = if a ≤ c ∧ c < a + bs.length then bs.getD (c - a) 0 else getByte m c := by
  induction bs generalizing a m with
  | nil => simp only [writeN, List.length_nil]; rw [if_neg (by omega)]
  | cons b bs ih =>
    rw [writeN, ih (a + 1) (wf_setByte a b h)]
    by_cases hca : c = a
    · subst hca
      rw [if_neg (by omega), getByte_setByte_same c b h, if_pos (by simp)]
      simp
    · rw [getByte_setByte_other b hca h]
      simp only [List.length_cons]
      by_cases hr : a + 1 ≤ c ∧ c < a + 1 + bs.length
      · rw [if_pos hr, if_pos (by omega)]
        obtain ⟨k, rfl⟩ := Nat.exists_eq_add_of_le hr.1
        rw [show a + 1 + k - a = k + 1 by omega, show a + 1 + k - (a + 1) = k by omega]
        simp
      · rw [if_neg hr, if_neg (by omega)]

@[simp] theorem length_leBytes (n x : Nat) : (leBytes n x).length = n := by
  induction n generalizing x with
  | zero => rfl
  | succ n ih => simp [leBytes, ih]

/-- Bytes just written read back. -/
theorem readN_writeN (a : Nat) (bs : List Byte) {m : List Host.Cell} (h : Memory.wf m = true) : readN (writeN m a bs) a bs.length = bs := by
  refine List.ext_getElem (by simp [readN]) fun i h1 h2 => ?_
  simp only [readN, List.getElem_map, List.getElem_range, getByte_writeN a (a + i) bs h]
  rw [if_pos (by omega), Nat.add_sub_cancel_left, List.getD_eq_getElem _ _ h2]

end Sys2Proof.Machine
end

