-- ==== Sys2Proof/Laws/Dispatch.lean ====
section
/-! SUPPORT. What `exec` is on each constructor: its arm, so that no proof unfolds the dispatch. -/

namespace Sys2Proof.Machine

variable (s : State)

theorem exec_nop : exec (.nop) s = execNop s := rfl
theorem exec_add (d : SReg) (a : SReg) (b : SReg) : exec (.add d a b) s = execAdd d a b s := rfl
theorem exec_sub (d : SReg) (a : SReg) (b : SReg) : exec (.sub d a b) s = execSub d a b s := rfl
theorem exec_addi (d : SReg) (a : SReg) (imm : BitVec 26) : exec (.addi d a imm) s = execAddi d a imm s := rfl
theorem exec_mul (d : SReg) (a : SReg) (b : SReg) : exec (.mul d a b) s = execMul d a b s := rfl
theorem exec_mulh (d : SReg) (a : SReg) (b : SReg) : exec (.mulh d a b) s = execMulh d a b s := rfl
theorem exec_mulhl (d : SReg) (a : SReg) (b : SReg) : exec (.mulhl d a b) s = execMulhl d a b s := rfl
theorem exec_divq (d : SReg) (a : SReg) (b : SReg) (u : Bool) : exec (.divq d a b u) s = execDivq d a b u s := rfl
theorem exec_remq (d : SReg) (a : SReg) (b : SReg) (u : Bool) : exec (.remq d a b u) s = execRemq d a b u s := rfl
theorem exec_and (d : SReg) (a : SReg) (b : SReg) : exec (.and d a b) s = execAnd d a b s := rfl
theorem exec_or (d : SReg) (a : SReg) (b : SReg) : exec (.or d a b) s = execOr d a b s := rfl
theorem exec_xor (d : SReg) (a : SReg) (b : SReg) : exec (.xor d a b) s = execXor d a b s := rfl
theorem exec_andn (d : SReg) (a : SReg) (b : SReg) : exec (.andn d a b) s = execAndn d a b s := rfl
theorem exec_andi (d : SReg) (a : SReg) (imm : BitVec 26) : exec (.andi d a imm) s = execAndi d a imm s := rfl
theorem exec_ori (d : SReg) (a : SReg) (imm : BitVec 26) : exec (.ori d a imm) s = execOri d a imm s := rfl
theorem exec_xori (d : SReg) (a : SReg) (imm : BitVec 26) : exec (.xori d a imm) s = execXori d a imm s := rfl
theorem exec_shl (d : SReg) (a : SReg) (b : SReg) : exec (.shl d a b) s = execShl d a b s := rfl
theorem exec_shr (d : SReg) (a : SReg) (b : SReg) : exec (.shr d a b) s = execShr d a b s := rfl
theorem exec_sra (d : SReg) (a : SReg) (b : SReg) : exec (.sra d a b) s = execSra d a b s := rfl
theorem exec_shli (d : SReg) (a : SReg) (imm : BitVec 26) : exec (.shli d a imm) s = execShli d a imm s := rfl
theorem exec_shri (d : SReg) (a : SReg) (imm : BitVec 26) : exec (.shri d a imm) s = execShri d a imm s := rfl
theorem exec_srai (d : SReg) (a : SReg) (imm : BitVec 26) : exec (.srai d a imm) s = execSrai d a imm s := rfl
theorem exec_rotl (d : SReg) (a : SReg) (b : SReg) : exec (.rotl d a b) s = execRotl d a b s := rfl
theorem exec_min (d : SReg) (a : SReg) (b : SReg) : exec (.min d a b) s = execMin d a b s := rfl
theorem exec_max (d : SReg) (a : SReg) (b : SReg) : exec (.max d a b) s = execMax d a b s := rfl
theorem exec_minl (d : SReg) (a : SReg) (b : SReg) : exec (.minl d a b) s = execMinl d a b s := rfl
theorem exec_maxl (d : SReg) (a : SReg) (b : SReg) : exec (.maxl d a b) s = execMaxl d a b s := rfl
theorem exec_clz (d : SReg) (a : SReg) : exec (.clz d a) s = execClz d a s := rfl
theorem exec_ctz (d : SReg) (a : SReg) : exec (.ctz d a) s = execCtz d a s := rfl
theorem exec_popc (d : SReg) (a : SReg) : exec (.popc d a) s = execPopc d a s := rfl
theorem exec_bswap (d : SReg) (a : SReg) : exec (.bswap d a) s = execBswap d a s := rfl
theorem exec_sext (d : SReg) (a : SReg) (imm : BitVec 26) : exec (.sext d a imm) s = execSext d a imm s := rfl
theorem exec_zext (d : SReg) (a : SReg) (imm : BitVec 26) : exec (.zext d a imm) s = execZext d a imm s := rfl
theorem exec_li (d : SReg) (v : BitVec 32) (sh : Fin 64) : exec (.li d v sh) s = execLi d v sh s := rfl
theorem exec_lih (d : SReg) (v : BitVec 32) (sh : Fin 64) : exec (.lih d v sh) s = execLih d v sh s := rfl
theorem exec_mov (d : SReg) (a : SReg) : exec (.mov d a) s = execMov d a s := rfl
theorem exec_sel (d : SReg) (a : SReg) (b : SReg) (q : PReg) (inv : Bool) : exec (.sel d a b q inv) s = execSel d a b q inv s := rfl
theorem exec_addp (d : SReg) (a : SReg) (b : SReg) (n : Ix8) : exec (.addp d a b n) s = execAddp d a b n s := rfl
theorem exec_cmp (c : Cond) (q : PReg) (a : SReg) (b : SReg) : exec (.cmp c q a b) s = execCmp c q a b s := rfl
theorem exec_cmpi (c : Cond) (q : PReg) (a : SReg) (imm : BitVec 30) : exec (.cmpi c q a imm) s = execCmpi c q a imm s := rfl
theorem exec_pand (d : PReg) (a : PReg) (b : PReg) : exec (.pand d a b) s = execPand d a b s := rfl
theorem exec_por (d : PReg) (a : PReg) (b : PReg) : exec (.por d a b) s = execPor d a b s := rfl
theorem exec_pxor (d : PReg) (a : PReg) (b : PReg) : exec (.pxor d a b) s = execPxor d a b s := rfl
theorem exec_pnot (d : PReg) (a : PReg) : exec (.pnot d a) s = execPnot d a s := rfl
theorem exec_pmov (d : PReg) (a : PReg) : exec (.pmov d a) s = execPmov d a s := rfl
theorem exec_pset (d : PReg) (a : SReg) (n : Fin 64) : exec (.pset d a n) s = execPset d a n s := rfl
theorem exec_psetAll (a : SReg) : exec (.psetAll a) s = execPsetAll a s := rfl
theorem exec_pget (d : SReg) : exec (.pget d) s = execPget d s := rfl
theorem exec_br (off : BitVec 30) : exec (.br off) s = execBr off s := rfl
theorem exec_jmp (a : SReg) : exec (.jmp a) s = execJmp a s := rfl
theorem exec_call (off : BitVec 30) : exec (.call off) s = execCall off s := rfl
theorem exec_callr (a : SReg) : exec (.callr a) s = execCallr a s := rfl
theorem exec_ret : exec (.ret) s = execRet s := rfl
theorem exec_loop (body : BitVec 12) (cnt : BitVec 31) : exec (.loop body cnt) s = execLoop body cnt s := rfl
theorem exec_loopReg (body : BitVec 12) (a : SReg) : exec (.loopReg body a) s = execLoopReg body a s := rfl
theorem exec_lbrk : exec (.lbrk) s = execLbrk s := rfl
theorem exec_lidx (d : SReg) (j : Ix8) : exec (.lidx d j) s = execLidx d j s := rfl
theorem exec_lidxN (d : SReg) (j : Ix8) : exec (.lidxN d j) s = execLidxN d j s := rfl
theorem exec_csrr (d : SReg) (n : BitVec 12) : exec (.csrr d n) s = execCsrr d n s := rfl
theorem exec_csrw (n : BitVec 12) (a : SReg) : exec (.csrw n a) s = execCsrw n a s := rfl
theorem exec_csrwSet (n : BitVec 12) (a : SReg) : exec (.csrwSet n a) s = execCsrwSet n a s := rfl
theorem exec_csrwClr (n : BitVec 12) (a : SReg) : exec (.csrwClr n a) s = execCsrwClr n a s := rfl
theorem exec_vadd (d : VReg) (a : VReg) (b : VReg) (m : Sys2Proof.MReg) (z : Bool) (w : Bool) (rm : Rm) : exec (.vadd d a b m z w rm) s = execVadd d a b m z w rm s := rfl
theorem exec_vsub (d : VReg) (a : VReg) (b : VReg) (m : Sys2Proof.MReg) (z : Bool) (w : Bool) (rm : Rm) : exec (.vsub d a b m z w rm) s = execVsub d a b m z w rm s := rfl
theorem exec_vmul (d : VReg) (a : VReg) (b : VReg) (m : Sys2Proof.MReg) (z : Bool) (w : Bool) (rm : Rm) : exec (.vmul d a b m z w rm) s = execVmul d a b m z w rm s := rfl
theorem exec_vfma (d : VReg) (a : VReg) (b : VReg) (m : Sys2Proof.MReg) (z : Bool) (rm : Rm) : exec (.vfma d a b m z rm) s = execVfma d a b m z rm s := rfl
theorem exec_vfms (d : VReg) (a : VReg) (b : VReg) (m : Sys2Proof.MReg) (z : Bool) (rm : Rm) : exec (.vfms d a b m z rm) s = execVfms d a b m z rm s := rfl
theorem exec_vneg (d : VReg) (a : VReg) (m : Sys2Proof.MReg) (z : Bool) (w : Bool) : exec (.vneg d a m z w) s = execVneg d a m z w s := rfl
theorem exec_vabs (d : VReg) (a : VReg) (m : Sys2Proof.MReg) (z : Bool) (w : Bool) : exec (.vabs d a m z w) s = execVabs d a m z w s := rfl
theorem exec_vmin (d : VReg) (a : VReg) (b : VReg) (m : Sys2Proof.MReg) (z : Bool) : exec (.vmin d a b m z) s = execVmin d a b m z s := rfl
theorem exec_vmax (d : VReg) (a : VReg) (b : VReg) (m : Sys2Proof.MReg) (z : Bool) : exec (.vmax d a b m z) s = execVmax d a b m z s := rfl
theorem exec_vand (d : VReg) (a : VReg) (b : VReg) (m : Sys2Proof.MReg) (z : Bool) : exec (.vand d a b m z) s = execVand d a b m z s := rfl
theorem exec_vor (d : VReg) (a : VReg) (b : VReg) (m : Sys2Proof.MReg) (z : Bool) : exec (.vor d a b m z) s = execVor d a b m z s := rfl
theorem exec_vxor (d : VReg) (a : VReg) (b : VReg) (m : Sys2Proof.MReg) (z : Bool) : exec (.vxor d a b m z) s = execVxor d a b m z s := rfl
theorem exec_vshl (d : VReg) (a : VReg) (b : VReg) (m : Sys2Proof.MReg) (z : Bool) : exec (.vshl d a b m z) s = execVshl d a b m z s := rfl
theorem exec_vshr (d : VReg) (a : VReg) (b : VReg) (m : Sys2Proof.MReg) (z : Bool) : exec (.vshr d a b m z) s = execVshr d a b m z s := rfl
theorem exec_vsra (d : VReg) (a : VReg) (b : VReg) (m : Sys2Proof.MReg) (z : Bool) : exec (.vsra d a b m z) s = execVsra d a b m z s := rfl
theorem exec_vclamp (d : VReg) (a : VReg) (b : VReg) (m : Sys2Proof.MReg) (z : Bool) : exec (.vclamp d a b m z) s = execVclamp d a b m z s := rfl
theorem exec_vsplat (t : Tag) (d : VReg) (b : SReg) (m : Sys2Proof.MReg) (z : Bool) : exec (.vsplat t d b m z) s = execVsplat t d b m z s := rfl
theorem exec_vmovs (b : SReg) (a : VReg) (j : Fin 1024) : exec (.vmovs b a j) s = execVmovs b a j s := rfl
theorem exec_vins (d : VReg) (a : VReg) (b : SReg) (j : Fin 1024) : exec (.vins d a b j) s = execVins d a b j s := rfl
theorem exec_vmov (d : VReg) (a : VReg) (m : Sys2Proof.MReg) (z : Bool) : exec (.vmov d a m z) s = execVmov d a m z s := rfl
theorem exec_vsel (d : VReg) (a : VReg) (b : VReg) (m : Sys2Proof.MReg) : exec (.vsel d a b m) s = execVsel d a b m s := rfl
theorem exec_vcmp (c : Cond) (d : Sys2Proof.MReg) (a : VReg) (b : VReg) (m : Sys2Proof.MReg) : exec (.vcmp c d a b m) s = execVcmp c d a b m s := rfl
theorem exec_vcvt (d : VReg) (a : VReg) (m : Sys2Proof.MReg) (t : Tag) (h : Fin 4) (w : Bool) (rm : Rm) : exec (.vcvt d a m t h w rm) s = execVcvt d a m t h w rm s := rfl
theorem exec_vmaskN (d : Sys2Proof.MReg) (a : SReg) : exec (.vmaskN d a) s = execVmaskN d a s := rfl
theorem exec_vmaskNz (d : Sys2Proof.MReg) (a : VReg) : exec (.vmaskNz d a) s = execVmaskNz d a s := rfl
theorem exec_vmaskQ (d : Sys2Proof.MReg) (a : SReg) (q : PReg) : exec (.vmaskQ d a q) s = execVmaskQ d a q s := rfl
theorem exec_mand (d : Sys2Proof.MReg) (a : Sys2Proof.MReg) (b : Sys2Proof.MReg) : exec (.mand d a b) s = execMand d a b s := rfl
theorem exec_mor (d : Sys2Proof.MReg) (a : Sys2Proof.MReg) (b : Sys2Proof.MReg) : exec (.mor d a b) s = execMor d a b s := rfl
theorem exec_mxor (d : Sys2Proof.MReg) (a : Sys2Proof.MReg) (b : Sys2Proof.MReg) : exec (.mxor d a b) s = execMxor d a b s := rfl
theorem exec_mnot (d : Sys2Proof.MReg) (a : Sys2Proof.MReg) : exec (.mnot d a) s = execMnot d a s := rfl
theorem exec_mcnt (d : SReg) (a : Sys2Proof.MReg) : exec (.mcnt d a) s = execMcnt d a s := rfl
theorem exec_mfirst (d : SReg) (a : Sys2Proof.MReg) : exec (.mfirst d a) s = execMfirst d a s := rfl
theorem exec_vrcp (d : VReg) (a : VReg) (m : Sys2Proof.MReg) (z : Bool) (rm : Rm) : exec (.vrcp d a m z rm) s = execVrcp d a m z rm s := rfl
theorem exec_vrsqrt (d : VReg) (a : VReg) (m : Sys2Proof.MReg) (z : Bool) (rm : Rm) : exec (.vrsqrt d a m z rm) s = execVrsqrt d a m z rm s := rfl
theorem exec_vsqrt (d : VReg) (a : VReg) (m : Sys2Proof.MReg) (z : Bool) (rm : Rm) : exec (.vsqrt d a m z rm) s = execVsqrt d a m z rm s := rfl
theorem exec_vexp2 (d : VReg) (a : VReg) (m : Sys2Proof.MReg) (z : Bool) (rm : Rm) : exec (.vexp2 d a m z rm) s = execVexp2 d a m z rm s := rfl
theorem exec_vlog2 (d : VReg) (a : VReg) (m : Sys2Proof.MReg) (z : Bool) (rm : Rm) : exec (.vlog2 d a m z rm) s = execVlog2 d a m z rm s := rfl
theorem exec_vgetl (d : VReg) (a : VReg) (m : Sys2Proof.MReg) (b : VReg) (g : Bool) (z : Bool) : exec (.vgetl d a m b g z) s = execVgetl d a m b g z s := rfl
theorem exec_vputl (d : VReg) (a : VReg) (b : VReg) (m : Sys2Proof.MReg) (g : Bool) : exec (.vputl d a b m g) s = execVputl d a b m g s := rfl
theorem exec_vmovx (d : VReg) (a : VReg) (b : SReg) : exec (.vmovx d a b) s = execVmovx d a b s := rfl
theorem exec_vstx (d : VReg) (a : VReg) (b : SReg) : exec (.vstx d a b) s = execVstx d a b s := rfl
theorem exec_vperm (d : VReg) (a : VReg) (b : VReg) (m : Sys2Proof.MReg) (z : Bool) : exec (.vperm d a b m z) s = execVperm d a b m z s := rfl
theorem exec_vrot (d : VReg) (a : VReg) (b : SReg) (n : Fin 1024) (m : Sys2Proof.MReg) (z : Bool) : exec (.vrot d a b n m z) s = execVrot d a b n m z s := rfl
theorem exec_vshuf (d : VReg) (a : VReg) (b : VReg) (m : Sys2Proof.MReg) (pat : Ix8) (g : Ix8) (z : Bool) : exec (.vshuf d a b m pat g z) s = execVshuf d a b m pat g z s := rfl
theorem exec_vbcast (d : VReg) (a : VReg) (b : SReg) (n : Fin 1024) (m : Sys2Proof.MReg) (z : Bool) : exec (.vbcast d a b n m z) s = execVbcast d a b n m z s := rfl
theorem exec_vcomp (d : VReg) (a : VReg) (m : Sys2Proof.MReg) : exec (.vcomp d a m) s = execVcomp d a m s := rfl
theorem exec_vexpd (d : VReg) (a : VReg) (m : Sys2Proof.MReg) (z : Bool) : exec (.vexpd d a m z) s = execVexpd d a m z s := rfl
theorem exec_vredadd (d : VReg) (a : VReg) (m : Sys2Proof.MReg) (rm : Rm) : exec (.vredadd d a m rm) s = execVredadd d a m rm s := rfl
theorem exec_vredmax (d : VReg) (a : VReg) (m : Sys2Proof.MReg) : exec (.vredmax d a m) s = execVredmax d a m s := rfl
theorem exec_vredmin (d : VReg) (a : VReg) (m : Sys2Proof.MReg) : exec (.vredmin d a m) s = execVredmin d a m s := rfl
theorem exec_vargmax (d : VReg) (a : VReg) (m : Sys2Proof.MReg) : exec (.vargmax d a m) s = execVargmax d a m s := rfl
theorem exec_vscan (d : VReg) (a : VReg) (m : Sys2Proof.MReg) (op : Fin 4) (rm : Rm) : exec (.vscan d a m op rm) s = execVscan d a m op rm s := rfl
theorem exec_vpack (d : VReg) (a : VReg) (b : VReg) (m : Sys2Proof.MReg) (z : Bool) (w : Bool) (rm : Rm) : exec (.vpack d a b m z w rm) s = execVpack d a b m z w rm s := rfl
theorem exec_vunpk (d : VReg) (a : VReg) (m : Sys2Proof.MReg) (h : Bool) (z : Bool) : exec (.vunpk d a m h z) s = execVunpk d a m h z s := rfl
theorem exec_vblk (d : VReg) (a : VReg) (sv : Option VReg) (m : Sys2Proof.MReg) (n : PReg) (x : Bool) (rm : Rm) : exec (.vblk d a sv m n x rm) s = execVblk d a sv m n x rm s := rfl
theorem exec_vunblk (d : VReg) (a : VReg) (m : Sys2Proof.MReg) (n : Ix8) (fp32 : Bool) (z : Bool) (rm : Rm) : exec (.vunblk d a m n fp32 z rm) s = execVunblk d a m n fp32 z rm s := rfl
theorem exec_vwgin (d : VReg) (a : VReg) (m : Sys2Proof.MReg) (z : Bool) : exec (.vwgin d a m z) s = execVwgin d a m z s := rfl
theorem exec_vwgout (d : VReg) (a : VReg) (m : Sys2Proof.MReg) (z : Bool) : exec (.vwgout d a m z) s = execVwgout d a m z s := rfl
theorem exec_vwgfil (d : VReg) (a : VReg) (m : Sys2Proof.MReg) (z : Bool) : exec (.vwgfil d a m z) s = execVwgfil d a m z s := rfl
theorem exec_lds (d : SReg) (a : SReg) (imm : BitVec 18) (sp : Space) (sz : Size) (u : Bool) : exec (.lds d a imm sp sz u) s = execLds d a imm sp sz u s := rfl
theorem exec_sts (d : SReg) (a : SReg) (imm : BitVec 18) (sp : Space) (sz : Size) : exec (.sts d a imm sp sz) s = execSts d a imm sp sz s := rfl
theorem exec_ldv (d : VReg) (a : SReg) (imm : BitVec 18) (sp : Space) (t : Tag) : exec (.ldv d a imm sp t) s = execLdv d a imm sp t s := rfl
theorem exec_stv (d : VReg) (a : SReg) (imm : BitVec 18) (sp : Space) (t : Tag) : exec (.stv d a imm sp t) s = execStv d a imm sp t s := rfl
theorem exec_ldvs (d : VReg) (a : SReg) (b : SReg) (m : Sys2Proof.MReg) (sp : Space) (t : Tag) (z : Bool) : exec (.ldvs d a b m sp t z) s = execLdvs d a b m sp t z s := rfl
theorem exec_stvs (d : VReg) (a : SReg) (b : SReg) (m : Sys2Proof.MReg) (sp : Space) (t : Tag) : exec (.stvs d a b m sp t) s = execStvs d a b m sp t s := rfl
theorem exec_ldvx (d : VReg) (a : SReg) (x : VReg) (m : Sys2Proof.MReg) (sp : Space) (t : Tag) (sc : Fin 4) (u : Bool) (z : Bool) : exec (.ldvx d a x m sp t sc u z) s = execLdvx d a x m sp t sc u z s := rfl
theorem exec_stvx (d : VReg) (a : SReg) (x : VReg) (m : Sys2Proof.MReg) (sp : Space) (t : Tag) (sc : Fin 4) (u : Bool) : exec (.stvx d a x m sp t sc u) s = execStvx d a x m sp t sc u s := rfl
theorem exec_pfh (a : SReg) (imm : BitVec 18) (n : Ix8) : exec (.pfh a imm n) s = execPfh a imm n s := rfl
theorem exec_stc (d : VReg) (a : SReg) (n : BitVec 8) (t : Tag) : exec (.stc d a n t) s = execStc d a n t s := rfl
theorem exec_ldc (d : SReg) (a : SReg) (imm : BitVec 18) (sp : Space) (sz : Size) (u : Bool) : exec (.ldc d a imm sp sz u) s = execLdc d a imm sp sz u s := rfl
theorem exec_ldvc (d : VReg) (a : SReg) (imm : BitVec 18) (sp : Space) (t : Tag) : exec (.ldvc d a imm sp t) s = execLdvc d a imm sp t s := rfl
theorem exec_rcq (d : SReg) (a : SReg) (imm : BitVec 18) (sp : Space) : exec (.rcq d a imm sp) s = execRcq d a imm sp s := rfl
theorem exec_aadd (d : SReg) (a : SReg) (b : SReg) (sp : Space) (q : Bool) : exec (.aadd d a b sp q) s = execAadd d a b sp q s := rfl
theorem exec_amin (d : SReg) (a : SReg) (b : SReg) (sp : Space) (q : Bool) (u : Bool) : exec (.amin d a b sp q u) s = execAmin d a b sp q u s := rfl
theorem exec_amax (d : SReg) (a : SReg) (b : SReg) (sp : Space) (q : Bool) (u : Bool) : exec (.amax d a b sp q u) s = execAmax d a b sp q u s := rfl
theorem exec_aand (d : SReg) (a : SReg) (b : SReg) (sp : Space) (q : Bool) : exec (.aand d a b sp q) s = execAand d a b sp q s := rfl
theorem exec_aor (d : SReg) (a : SReg) (b : SReg) (sp : Space) (q : Bool) : exec (.aor d a b sp q) s = execAor d a b sp q s := rfl
theorem exec_axor (d : SReg) (a : SReg) (b : SReg) (sp : Space) (q : Bool) : exec (.axor d a b sp q) s = execAxor d a b sp q s := rfl
theorem exec_aswp (d : SReg) (a : SReg) (b : SReg) (sp : Space) (q : Bool) : exec (.aswp d a b sp q) s = execAswp d a b sp q s := rfl
theorem exec_acas (d : SReg) (a : SReg) (b : SReg) (c : SReg) (sp : Space) (q : Bool) : exec (.acas d a b c sp q) s = execAcas d a b c sp q s := rfl
theorem exec_brel (a : SReg) (b : SReg) : exec (.brel a b) s = execBrel a b s := rfl
theorem exec_brelP (a : SReg) (b : SReg) : exec (.brelP a b) s = execBrelP a b s := rfl
theorem exec_bwait (a : SReg) (b : SReg) : exec (.bwait a b) s = execBwait a b s := rfl
theorem exec_pdef (n : Ix8) (a : SReg) : exec (.pdef n a) s = execPdef n a s := rfl
theorem exec_pdefRel (n : Ix8) : exec (.pdefRel n) s = execPdefRel n s := rfl
theorem exec_wset (a : SReg) (b : SReg) : exec (.wset a b) s = execWset a b s := rfl
theorem exec_wsetInv (a : SReg) : exec (.wsetInv a) s = execWsetInv a s := rfl
theorem exec_ldw (d : SReg) (h : BitVec 16) (a : SReg) (sz : Size) : exec (.ldw d h a sz) s = execLdw d h a sz s := rfl
theorem exec_ldwVec (d : VReg) (h : BitVec 16) (a : SReg) (t : Tag) : exec (.ldwVec d h a t) s = execLdwVec d h a t s := rfl
theorem exec_stw (d : SReg) (h : BitVec 16) (a : SReg) (sz : Size) : exec (.stw d h a sz) s = execStw d h a sz s := rfl
theorem exec_stwVec (d : VReg) (h : BitVec 16) (a : SReg) (t : Tag) : exec (.stwVec d h a t) s = execStwVec d h a t s := rfl
theorem exec_fencex : exec (.fencex) s = execFencex s := rfl
theorem exec_tcfg (t : Ix8) (a : SReg) : exec (.tcfg t a) s = execTcfg t a s := rfl
theorem exec_tcfgqVer (b : SReg) (t : Ix8) : exec (.tcfgqVer b t) s = execTcfgqVer b t s := rfl
theorem exec_tcfgqSt (b : SReg) (t : Ix8) : exec (.tcfgqSt b t) s = execTcfgqSt b t s := rfl
theorem exec_tcfgqTag (b : SReg) : exec (.tcfgqTag b) s = execTcfgqTag b s := rfl
theorem exec_tcfgqSep (b : SReg) : exec (.tcfgqSep b) s = execTcfgqSep b s := rfl
theorem exec_tzero (t : Ix8) : exec (.tzero t) s = execTzero t s := rfl
theorem exec_mset (mp : Ix8) (a : SReg) : exec (.mset mp a) s = execMset mp a s := rfl
theorem exec_mord (mp : Ix8) (a : SReg) (b : SReg) : exec (.mord mp a b) s = execMord mp a b s := rfl
theorem exec_tld (t : Ix8) (mp : Ix8) (a : SReg) (b : SReg) (c : Bool) (k : Option KReg) : exec (.tld t mp a b c k) s = execTld t mp a b c k s := rfl
theorem exec_tst (t : Ix8) (mp : Ix8) (a : SReg) (b : SReg) (n : BitVec 8) (k : Option KReg) : exec (.tst t mp a b n k) s = execTst t mp a b n k s := rfl
theorem exec_tldv (t : Ix8) (v : VReg) (a : SReg) (n : BitVec 7) : exec (.tldv t v a n) s = execTldv t v a n s := rfl
theorem exec_tstv (t : Ix8) (v : VReg) (a : SReg) (n : BitVec 7) : exec (.tstv t v a n) s = execTstv t v a n s := rfl
theorem exec_tmc (mp : Ix8) (a : SReg) (b : SReg) (m : Sys2Proof.MReg) (u : Ix8) (c : Bool) (k : Option KReg) : exec (.tmc mp a b m u c k) s = execTmc mp a b m u c k s := rfl
theorem exec_trecv (t : Ix8) (k : KReg) (n : Ix8) : exec (.trecv t k n) s = execTrecv t k n s := rfl
theorem exec_trecvRel (n : Ix8) : exec (.trecvRel n) s = execTrecvRel n s := rfl
theorem exec_tcons (t : Ix8) (n : BitVec 8) : exec (.tcons t n) s = execTcons t n s := rfl
theorem exec_dtab (n : Fin 4) (a : SReg) : exec (.dtab n a) s = execDtab n a s := rfl
theorem exec_tldz (t : Ix8) (a : SReg) (b : SReg) (g : Tag) (k : Option KReg) : exec (.tldz t a b g k) s = execTldz t a b g k s := rfl
theorem exec_wait (l : PReg) (st : PReg) (c : PReg) (t : PReg) : exec (.wait l st c t) s = execWait l st c t s := rfl
theorem exec_mma (n : Bool) (t : Ix8) (u : Ix8) (a : SReg) (z : Bool) (w : Bool) (ca : Bool) (cb : Bool) (ua : Bool) (ub : Bool) : exec (.mma n t u a z w ca cb ua ub) s = execMma n t u a z w ca cb ua ub s := rfl
theorem exec_mmzI32 (n : Bool) : exec (.mmzI32 n) s = execMmzI32 n s := rfl
theorem exec_mmzFp32 (n : Bool) : exec (.mmzFp32 n) s = execMmzFp32 n s := rfl
theorem exec_mmdr (t : Ix8) (n : Bool) (a : SReg) (bv : Option VReg) (x : Option Ix8) (act : Bool) (q : Bool) (z : Bool) : exec (.mmdr t n a bv x act q z) s = execMmdr t n a bv x act q z s := rfl
theorem exec_qld (n : Bool) (qb : Bool) (st : Bool) (a : SReg) : exec (.qld n qb st a) s = execQld n qb st a s := rfl
theorem exec_qldBind (n : Bool) (qb : Bool) (st : Bool) (a : SReg) (t : Ix8) : exec (.qldBind n qb st a t) s = execQldBind n qb st a t s := rfl
theorem exec_qst (n : Bool) (qb : Bool) (st : Bool) (a : SReg) : exec (.qst n qb st a) s = execQst n qb st a s := rfl
theorem exec_esetRng (a : SReg) : exec (.esetRng a) s = execEsetRng a s := rfl
theorem exec_esetQ (a : SReg) : exec (.esetQ a) s = execEsetQ a s := rfl
theorem exec_etab (a : SReg) : exec (.etab a) s = execEtab a s := rfl
theorem exec_lset (n : Ix8) (a : SReg) : exec (.lset n a) s = execLset n a s := rfl
theorem exec_lcoord (b : SReg) (n : Ix8) (q : Ix8) : exec (.lcoord b n q) s = execLcoord b n q s := rfl
theorem exec_lnbr (b : SReg) (n : Ix8) (ax : Fin 4) (dir : Bool) : exec (.lnbr b n ax dir) s = execLnbr b n ax dir s := rfl
theorem exec_hsend (n : Ix8) (ax : Fin 4) (dir : Bool) (k : Option KReg) : exec (.hsend n ax dir k) s = execHsend n ax dir k s := rfl
theorem exec_hrecv (n : Ix8) (k : KReg) : exec (.hrecv n k) s = execHrecv n k s := rfl
theorem exec_hrecvRel (n : Ix8) : exec (.hrecvRel n) s = execHrecvRel n s := rfl
theorem exec_reshard (d : Ix8) (n : Ix8) (k : Option KReg) : exec (.reshard d n k) s = execReshard d n k s := rfl
theorem exec_cred (a : SReg) (b : SReg) (k : Option KReg) : exec (.cred a b k) s = execCred a b k s := rfl
theorem exec_credCh (a : SReg) (b : SReg) (c : Fin 64) (k : Option KReg) : exec (.credCh a b c k) s = execCredCh a b c k s := rfl
theorem exec_chset (c : Fin 64) (a : SReg) : exec (.chset c a) s = execChset c a s := rfl
theorem exec_chsetRel (c : Fin 64) : exec (.chsetRel c) s = execChsetRel c s := rfl
theorem exec_chsend (c : Fin 64) (v : VReg) : exec (.chsend c v) s = execChsend c v s := rfl
theorem exec_chrecv (v : VReg) (c : Fin 64) : exec (.chrecv v c) s = execChrecv v c s := rfl
theorem exec_tid (d : SReg) : exec (.tid d) s = execTid d s := rfl
theorem exec_tcount (d : SReg) : exec (.tcount d) s = execTcount d s := rfl
theorem exec_join (d : SReg) (a : SReg) (b : SReg) : exec (.join d a b) s = execJoin d a b s := rfl
theorem exec_leave (a : SReg) : exec (.leave a) s = execLeave a s := rfl
theorem exec_grank (d : SReg) (a : SReg) : exec (.grank d a) s = execGrank d a s := rfl
theorem exec_gsize (d : SReg) (a : SReg) : exec (.gsize d a) s = execGsize d a s := rfl
theorem exec_gsizeJ (d : SReg) (a : SReg) : exec (.gsizeJ d a) s = execGsizeJ d a s := rfl
theorem exec_exit : exec (.exit) s = execExit s := rfl
theorem exec_yield : exec (.yield) s = execYield s := rfl
theorem exec_trig : exec (.trig) s = execTrig s := rfl
theorem exec_launch (d : SReg) (a : SReg) (b : SReg) : exec (.launch d a b) s = execLaunch d a b s := rfl
theorem exec_prio (d : SReg) (a : SReg) (n : PReg) (r : Bool) : exec (.prio d a n r) s = execPrio d a n r s := rfl
theorem exec_prioAll (d : SReg) (a : SReg) (n : PReg) (r : Bool) : exec (.prioAll d a n r) s = execPrioAll d a n r s := rfl
theorem exec_kset (k : KReg) (a : SReg) : exec (.kset k a) s = execKset k a s := rfl
theorem exec_ksetClr (k : KReg) : exec (.ksetClr k) s = execKsetClr k s := rfl
theorem exec_kmodeOn (k : KReg) : exec (.kmodeOn k) s = execKmodeOn k s := rfl
theorem exec_kmodeOff (k : KReg) : exec (.kmodeOff k) s = execKmodeOff k s := rfl
theorem exec_kadd (k : KReg) (a : SReg) (imm : BitVec 28) : exec (.kadd k a imm) s = execKadd k a imm s := rfl
theorem exec_kaddr (k : KReg) (d : SReg) (a : SReg) (imm : BitVec 16) : exec (.kaddr k d a imm) s = execKaddr k d a imm s := rfl
theorem exec_kwait (k : KReg) (a : SReg) (imm : BitVec 16) : exec (.kwait k a imm) s = execKwait k a imm s := rfl
theorem exec_kread (k : KReg) (d : SReg) : exec (.kread k d) s = execKread k d s := rfl
theorem exec_bar (a : SReg) : exec (.bar a) s = execBar a s := rfl
theorem exec_barA (d : SReg) (a : SReg) : exec (.barA d a) s = execBarA d a s := rfl
theorem exec_barW (a : SReg) (b : SReg) : exec (.barW a b) s = execBarW a b s := rfl
theorem exec_wfown (k : KReg) (d : SReg) : exec (.wfown k d) s = execWfown k d s := rfl
theorem exec_wfownT (k : KReg) (d : SReg) (a : SReg) : exec (.wfownT k d a) s = execWfownT k d a s := rfl
theorem exec_wfownG (k : KReg) (d : SReg) (a : SReg) : exec (.wfownG k d a) s = execWfownG k d a s := rfl
theorem exec_wfownE (k : KReg) (d : SReg) (a : SReg) : exec (.wfownE k d a) s = execWfownE k d a s := rfl
theorem exec_wfownR (k : KReg) (d : SReg) (a : SReg) : exec (.wfownR k d a) s = execWfownR k d a s := rfl
theorem exec_wfdrop (k : KReg) : exec (.wfdrop k) s = execWfdrop k s := rfl
theorem exec_wfdropAll (k : KReg) : exec (.wfdropAll k) s = execWfdropAll k s := rfl
theorem exec_wfqW (k : KReg) (d : SReg) : exec (.wfqW k d) s = execWfqW k d s := rfl
theorem exec_wfqO (k : KReg) (d : SReg) : exec (.wfqO k d) s = execWfqO k d s := rfl
theorem exec_wfqF (d : SReg) : exec (.wfqF d) s = execWfqF d s := rfl
theorem exec_kaddw (a : SReg) (imm : BitVec 28) : exec (.kaddw a imm) s = execKaddw a imm s := rfl
theorem exec_trap (imm : BitVec 26) : exec (.trap imm) s = execTrap imm s := rfl
theorem exec_xret : exec (.xret) s = execXret s := rfl
theorem exec_tlbi (a : SReg) : exec (.tlbi a) s = execTlbi a s := rfl
theorem exec_tlbiAll : exec (.tlbiAll) s = execTlbiAll s := rfl
theorem exec_ctxsv (a : SReg) : exec (.ctxsv a) s = execCtxsv a s := rfl
theorem exec_ctxld (a : SReg) (b : SReg) : exec (.ctxld a b) s = execCtxld a b s := rfl
theorem exec_dload (a : SReg) (b : SReg) : exec (.dload a b) s = execDload a b s := rfl
theorem exec_fixedResultLands (c : Nat) : exec (.fixedResultLands c) s = execFixedResultLands c s := rfl
theorem exec_pendingResultArrives (c : Nat) (op : Nat) (ok : Bool) : exec (.pendingResultArrives c op ok) s = execPendingResultArrives c op ok s := rfl
theorem exec_storePerformed (c : Nat) (op : Nat) (ok : Bool) : exec (.storePerformed c op ok) s = execStorePerformed c op ok s := rfl
theorem exec_arriveAdd (c : Nat) (addr : Nat) : exec (.arriveAdd c addr) s = execArriveAdd c addr s := rfl
theorem exec_wakeToken (c : Nat) (entry : Nat) (order : Nat) : exec (.wakeToken c entry order) s = execWakeToken c entry order s := rfl
theorem exec_unregisteredWaitPoll (c : Nat) : exec (.unregisteredWaitPoll c) s = execUnregisteredWaitPoll c s := rfl
theorem exec_dispatchDeadlockCheck (die : Nat) : exec (.dispatchDeadlockCheck die) s = execDispatchDeadlockCheck die s := rfl
theorem exec_trapEntry (c : Nat) (f : FaultInfo) : exec (.trapEntry c f) s = execTrapEntry c f s := rfl
theorem exec_trigRetire (c : Nat) : exec (.trigRetire c) s = execTrigRetire c s := rfl
theorem exec_threadRetire (c : Nat) : exec (.threadRetire c) s = execThreadRetire c s := rfl
theorem exec_dispatchSelect (die : Nat) (core : Nat) (hctx : Nat) (fb : Nat) (tb : Nat) : exec (.dispatchSelect die core hctx fb tb) s = execDispatchSelect die core hctx fb tb s := rfl
theorem exec_bind (die : Nat) (entry : Nat) : exec (.bind die entry) s = execBind die entry s := rfl
theorem exec_sliceExpiry (c : Nat) : exec (.sliceExpiry c) s = execSliceExpiry c s := rfl
theorem exec_preemptSave (c : Nat) : exec (.preemptSave c) s = execPreemptSave c s := rfl
theorem exec_watchdogT1 (lnch : Nat) (tid : Nat) : exec (.watchdogT1 lnch tid) s = execWatchdogT1 lnch tid s := rfl
theorem exec_watchdogT2 (lnch : Nat) (tid : Nat) : exec (.watchdogT2 lnch tid) s = execWatchdogT2 lnch tid s := rfl
theorem exec_watchdogT3 (c : Nat) : exec (.watchdogT3 c) s = execWatchdogT3 c s := rfl
theorem exec_killDrainComplete (c : Nat) : exec (.killDrainComplete c) s = execKillDrainComplete c s := rfl
theorem exec_engineCommandExecute (c : Nat) (tag : Nat) : exec (.engineCommandExecute c tag) s = execEngineCommandExecute c tag s := rfl
theorem exec_engineCommandComplete (c : Nat) (tag : Nat) : exec (.engineCommandComplete c tag) s = execEngineCommandComplete c tag s := rfl
theorem exec_multicastReservation (c : Nat) (tag : Nat) : exec (.multicastReservation c tag) s = execMulticastReservation c tag s := rfl
theorem exec_multicastArrival (c : Nat) (tag : Nat) : exec (.multicastArrival c tag) s = execMulticastArrival c tag s := rfl
theorem exec_ladleArrival (c : Nat) (tag : Nat) : exec (.ladleArrival c tag) s = execLadleArrival c tag s := rfl
theorem exec_reshardArrival (c : Nat) (tag : Nat) : exec (.reshardArrival c tag) s = execReshardArrival c tag s := rfl
theorem exec_creameryReduction (lnch : Nat) (key : Nat) (j : Nat) : exec (.creameryReduction lnch key j) s = execCreameryReduction lnch key j s := rfl
theorem exec_reductionDelivery (lnch : Nat) (key : Nat) (j : Nat) : exec (.reductionDelivery lnch key j) s = execReductionDelivery lnch key j s := rfl
theorem exec_channelItemWrite (lnch : Nat) (ch : Nat) : exec (.channelItemWrite lnch ch) s = execChannelItemWrite lnch ch s := rfl
theorem exec_channelItemRead (lnch : Nat) (ch : Nat) : exec (.channelItemRead lnch ch) s = execChannelItemRead lnch ch s := rfl
theorem exec_pailCounterAdd (die : Nat) (entry : Nat) : exec (.pailCounterAdd die entry) s = execPailCounterAdd die entry s := rfl
theorem exec_remoteRequestArrives (q : Incoming) : exec (.remoteRequestArrives q) s = execRemoteRequestArrives q s := rfl
theorem exec_acknowledgementArrives (op : Nat) (data : List Byte) : exec (.acknowledgementArrives op data) s = execAcknowledgementArrives op data s := rfl
theorem exec_receiverNotReady (op : Nat) : exec (.receiverNotReady op) s = execReceiverNotReady op s := rfl
theorem exec_retryBackoffExpiry (op : Nat) : exec (.retryBackoffExpiry op) s = execRetryBackoffExpiry op s := rfl
theorem exec_errorAnswer (op : Nat) (cause : Nat) (e : ErrorInfo) : exec (.errorAnswer op cause e) s = execErrorAnswer op cause e s := rfl
theorem exec_relayForward (q : RemoteReq) : exec (.relayForward q) s = execRelayForward q s := rfl
theorem exec_drainMarker (m : Marker) : exec (.drainMarker m) s = execDrainMarker m s := rfl
theorem exec_peerUnreachable (m : Nat) : exec (.peerUnreachable m) s = execPeerUnreachable m s := rfl
theorem exec_rotorSlotStart (port : Nat) : exec (.rotorSlotStart port) s = execRotorSlotStart port s := rfl
theorem exec_portLocked (port : Nat) : exec (.portLocked port) s = execPortLocked port s := rfl
theorem exec_portLockTimeout (port : Nat) (tx : Nat) (rx : Nat) : exec (.portLockTimeout port tx rx) s = execPortLockTimeout port tx rx s := rfl
theorem exec_quiesceDone (port : Nat) : exec (.quiesceDone port) s = execQuiesceDone port s := rfl
theorem exec_wavelengthFailure (port : Nat) (tx : Nat) (rx : Nat) : exec (.wavelengthFailure port tx rx) s = execWavelengthFailure port tx rx s := rfl
theorem exec_opcfgWrite (port : Nat) (x : Word) : exec (.opcfgWrite port x) s = execOpcfgWrite port x s := rfl
theorem exec_dmcfgWrite (die : Nat) (x : Word) : exec (.dmcfgWrite die x) s = execDmcfgWrite die x s := rfl
theorem exec_vatwWrite (die : Nat) (x : Word) : exec (.vatwWrite die x) s = execVatwWrite die x s := rfl
theorem exec_qmapMap (die : Nat) (q : Nat) (x : Word) : exec (.qmapMap die q x) s = execQmapMap die q x s := rfl
theorem exec_qmapUnmap (die : Nat) (q : Nat) : exec (.qmapUnmap die q) s = execQmapUnmap die q s := rfl
theorem exec_managementRegisterWrite (addr : Nat) (x : Word) : exec (.managementRegisterWrite addr x) s = execManagementRegisterWrite addr x s := rfl
theorem exec_mread (port : Nat) (pa : Nat) (n : Nat) : exec (.mread port pa n) s = execMread port pa n s := rfl
theorem exec_mwrite (port : Nat) (pa : Nat) (data : List Byte) : exec (.mwrite port pa data) s = execMwrite port pa data s := rfl
theorem exec_append (port : Nat) (hdr : Word) (rcd : Word) : exec (.append port hdr rcd) s = execAppend port hdr rcd s := rfl
theorem exec_notify (die : Nat) (q : Nat) (x : Word) : exec (.notify die q x) s = execNotify die q x s := rfl
theorem exec_cread (port : Nat) (addr : Nat) : exec (.cread port addr) s = execCread port addr s := rfl
theorem exec_cwrite (port : Nat) (addr : Nat) (x : Word) : exec (.cwrite port addr x) s = execCwrite port addr x s := rfl
theorem exec_measure (port : Nat) (nonce : List Byte) : exec (.measure port nonce) s = execMeasure port nonce s := rfl
theorem exec_records (port : Nat) : exec (.records port) s = execRecords port s := rfl
theorem exec_recordsLostReport (src : Nat) : exec (.recordsLostReport src) s = execRecordsLostReport src s := rfl
theorem exec_moduleReset : exec (.moduleReset) s = execModuleReset s := rfl
theorem exec_securityAlarm : exec (.securityAlarm) s = execSecurityAlarm s := rfl
theorem exec_thermalThrottle (die : Nat) : exec (.thermalThrottle die) s = execThermalThrottle die s := rfl
theorem exec_thermalTrip (die : Nat) : exec (.thermalTrip die) s = execThermalTrip die s := rfl
theorem exec_i2cResetRequest (x : Byte) : exec (.i2cResetRequest x) s = execI2cResetRequest x s := rfl
theorem exec_fencedCoreRestore (die : Nat) (core : Nat) : exec (.fencedCoreRestore die core) s = execFencedCoreRestore die core s := rfl

end Sys2Proof.Machine
end

