-- ==== Sys2Proof/Laws/Hash.lean ====
section
/-! SUPPORT. The lengths of what the hash gives, whatever it is given. -/

namespace Sys2Proof.Machine

theorem shaRound_length (v : List HWord) (kw : HWord × HWord) : (shaRound v kw).length = v.length := by
  unfold shaRound
  split <;> rfl

theorem foldl_shaRound_length (l : List (HWord × HWord)) (v : List HWord) : (l.foldl shaRound v).length = v.length := by
  induction l generalizing v with
  | nil => rfl
  | cons x l ih => rw [List.foldl_cons, ih, shaRound_length]

theorem shaBlock_length (h : List HWord) (bs : List Byte) : (shaBlock h bs).length = h.length := by
  simp [shaBlock, foldl_shaRound_length]

theorem shaBlocks_length (n : Nat) (h : List HWord) (bs : List Byte) : (shaBlocks n h bs).length = h.length := by
  induction n generalizing h bs with
  | zero => rfl
  | succ n ih => rw [shaBlocks, ih, shaBlock_length]

@[simp] theorem sha256_length (m : List Byte) : (sha256 m).length = 32 := by
  simp [sha256, beBytes, shaBlocks_length, show shaInit.length = 8 from rfl]

@[simp] theorem hmacBytes_length (k m : List Byte) : (hmacBytes k m).length = 32 := sha256_length _

/-- The tag of a block of an image has 16 bytes. -/
@[simp] theorem blockTag_length (k : BitVec 256) (va : Word) (n b : Nat) (bs : List Byte) : (blockTag k va n b bs).length = 16 := by
  simp [blockTag, hmac]

end Sys2Proof.Machine
end

