-- ==== Sys2Proof/Laws/Ops.lean ====
section
/-! SUPPORT. What the shared operations can do, said once: the state each leaves, what it leaves alone, and that it keeps a tidy
state tidy. -/

namespace Sys2Proof.Machine

/-! ### The shapes in which a meaning leaves its effect -/

theorem emit_eq (lat : Nat) (u : Upd) (fl : Flags) (s : State) : emit lat u fl s = withFlight lat u fl s.me.sq.arrive none s := rfl
theorem emitFault_eq (lat : Nat) (u : Upd) (f : Option FaultInfo) (s : State) : emitFault lat u f s = withFlight lat u 0 s.me.sq.arrive f s := rfl
theorem pend_eq (u : Upd) (r c : Bool) (f : Option FaultInfo) (a : Option Word) (s : State) : pend u r c f a s = withPend u r c f a s := rfl
theorem pendS_eq (d : SReg) (x : Word) (c : Bool) (s : State) : pendS d x c s = withPend (.s d x) true c none none s := rfl
theorem storeOut_eq (r : Bool) (k : StoreKind) (f : Option FaultInfo) (s : State) : storeOut r k f s = withStore r k f s := rfl
theorem redirect_eq (t : Word) (s : State) : redirect t s = withRedir t s := rfl
theorem issueCmd_eq (op : CmdOp) (kc : Option Nat) (s : State) : issueCmd op kc s = withCmd op kc s := rfl

@[simp] theorem checked_none (f : State → State) (s : State) : checked none f s = f s := rfl
@[simp] theorem checked_some (e : FaultInfo) (f : State → State) (s : State) : checked (some e) f s = raise e s := rfl
@[simp] theorem tryWith_ok {α : Type} (a : α) (f : α → State → State) (s : State) : tryWith (.ok a) f s = f a s := rfl
@[simp] theorem tryWith_error {α : Type} (e : FaultInfo) (f : α → State → State) (s : State) : tryWith (.error e) f s = raise e s := rfl

/-- Taking a trap has two outcomes (R307, R309): the handler is entered after the record is stored, or the fault is undeliverable. -/
theorem takeTrap_cases (f : FaultInfo) (p : CodePos) (s : State) :
    (takeTrap f p s = undeliverable f p s ∧ (s.me.ctl.handler = true ∨ s.me.ctl.xvec = 0 ∨ ∃ e, recordSegs s = .error e)) ∨
    ∃ gs, s.me.ctl.handler = false ∧ s.me.ctl.xvec ≠ 0 ∧ recordSegs s = .ok gs ∧
      takeTrap f p s = (let w := writeSegs (stepSegs .store (some s.me.uid) gs s) gs (trapRecord s.me f p (clkWord s))
        withdrawEdge w.me.uid { w with me := enterHandler f p w.me }) := by
  unfold takeTrap
  by_cases h : (s.me.ctl.handler || decide (s.me.ctl.xvec = 0)) = true
  · rw [if_pos h]
    rw [Bool.or_eq_true, decide_eq_true_eq] at h
    exact .inl ⟨rfl, h.imp_right .inl⟩
  · rw [if_neg h]
    rw [Bool.or_eq_true, decide_eq_true_eq, not_or] at h
    cases hr : recordSegs s with
    | error e => exact .inl ⟨rfl, .inr (.inr ⟨e, rfl⟩)⟩
    | ok gs => exact .inr ⟨gs, by simpa using h.1, h.2, rfl, rfl⟩

/-! ### Operations that leave memory and its maps alone -/

/-- What a tidy state speaks of: both memories, the states of lines, the owners and last worlds of banks. -/
def State.mems (s : State) : List Host.Cell × List Host.Cell × SMap LineSt × SMap HomeSt × SMap Nat × SMap Bool :=
  (s.hbm, s.store, s.lines, s.home, s.banks, s.bankWorld)

/-- Two states have the same of it. -/
def SameMemory (s t : State) : Prop := t.mems = s.mems

theorem SameMemory.refl (s : State) : SameMemory s s := Eq.refl s.mems

theorem SameMemory.trans {s t u : State} (h : SameMemory s t) (k : SameMemory t u) : SameMemory s u := Eq.trans k h

/-- What is asked of it. -/
def tidyMems (m : List Host.Cell × List Host.Cell × SMap LineSt × SMap HomeSt × SMap Nat × SMap Bool) : Prop :=
  Memory.wf m.1 = true ∧ Memory.wf m.2.1 = true ∧ SMap.canon .uncounted m.2.2.1 = true ∧ SMap.canon .absent m.2.2.2.1 = true ∧
  SMap.canon 0 m.2.2.2.2.1 = true ∧ SMap.canon false m.2.2.2.2.2 = true

/-- A tidy state stays tidy where it is the same. -/
theorem State.Tidy.of_same {s t : State} (h : s.Tidy) (k : SameMemory s t) : t.Tidy :=
  (congrArg tidyMems k).mpr h

theorem sameMemory_modCtx (u : Nat) (f : Ctx → Ctx) (s : State) : SameMemory s (modCtx u f s) := by
  unfold modCtx; split <;> exact rfl

theorem sameMemory_modSqOf (u : Nat) (f : Seq → Seq) (s : State) : SameMemory s (modSqOf u f s) := sameMemory_modCtx _ _ _

theorem sameMemory_errRecord (src cls code : Nat) (d : List Word) (s : State) : SameMemory s (errRecord src cls code d s) := by
  unfold errRecord; split
  · exact rfl
  · dsimp only; split <;> exact rfl

theorem sameMemory_recordFault (u : Nat) (f : FaultInfo) (s : State) : SameMemory s (recordFault u f s) := by
  unfold recordFault; split
  · exact .refl _
  · exact sameMemory_modSqOf _ _ _

theorem sameMemory_homeEvent (c : Nat) (u : Option Nat) (va : Word) (pa : Nat) (s : State) : SameMemory s (homeEvent c u va pa s) := by
  unfold homeEvent
  extract_lets d s1 s2
  have h1 : SameMemory s s1 := rfl
  have h2 : SameMemory s s2 := by
    show SameMemory s (ite _ _ _)
    split
    · exact h1.trans (sameMemory_errRecord _ _ _ _ _)
    · exact h1
  split
  · split
    · exact h2.trans (sameMemory_recordFault _ _ _)
    · exact h2
  · exact h2

theorem sameMemory_dropEdge (u : Nat) (s : State) : SameMemory s (dropEdge u s) := by
  unfold dropEdge; split
  · exact .refl _
  · split
    · exact sameMemory_modCtx _ _ _
    · exact SameMemory.trans (t := { s with dies := _ }) rfl (sameMemory_modCtx _ _ _)

theorem sameMemory_withdrawEdge (u : Nat) (s : State) : SameMemory s (withdrawEdge u s) := by
  unfold withdrawEdge; split
  · exact (sameMemory_dropEdge u s).trans rfl
  · exact sameMemory_dropEdge u s

/-! ### Operations that write memory keep a tidy state tidy -/

/-- A fold of steps that keep a tidy state keeps it. -/
theorem tidy_foldl {α : Type} (f : State → α → State) (hf : ∀ s a, s.Tidy → (f s a).Tidy) (xs : List α) {s : State} (h : s.Tidy) :
    (xs.foldl f s).Tidy := by
  induction xs generalizing s with
  | nil => exact h
  | cons x xs ih => exact ih (hf s x h)

theorem tidy_setLine (a : Nat) (l : LineSt) {s : State} (h : s.Tidy) : (setLine a l s).Tidy :=
  ⟨h.1, h.2.1, canon_setAt _ _ h.2.2.1, h.2.2.2⟩

theorem tidy_store (m : List Host.Cell) (hm : Memory.wf m = true) {s : State} (h : s.Tidy) : ({ s with store := m } : State).Tidy :=
  ⟨h.1, hm, h.2.2⟩

theorem tidy_stepLine (k : LineAcc) (x : Nat) {s : State} (h : s.Tidy) : (stepLine k x s).Tidy := by
  unfold stepLine; split
  · exact h
  · refine tidy_setLine _ _ ?_
    split
    · exact tidy_store _ (wf_writeN _ _ h.2.1) h
    · exact h

theorem tidy_stepLines (k : LineAcc) (u : PailBy) (a n : Nat) {s : State} (h : s.Tidy) : (stepLines k u a n s).Tidy := by
  unfold stepLines
  exact (tidy_foldl _ (fun s x hs => tidy_stepLine k x hs) _ h).of_same rfl

theorem tidy_stepHome (k : LineAcc) (u : Option Nat) (va : Word) (pa : Nat) {s : State} (h : s.Tidy) : (stepHome k u va pa s).Tidy := by
  unfold stepHome
  have h' : ∀ x, ({ s with home := setAt .absent s.home (pa / 64) x } : State).Tidy := fun x =>
    ⟨h.1, h.2.1, h.2.2.1, canon_setAt _ _ h.2.2.2.1, h.2.2.2.2⟩
  rcases homeNext k (homeAt s pa) with ⟨x, e⟩
  cases e with
  | none => exact h' x
  | some c => exact (h' x).of_same (sameMemory_homeEvent _ _ _ _ _)

theorem tidy_stepSegsBy (k : LineAcc) (u : Option Nat) (b : PailBy) (gs : List Seg) {s : State} (h : s.Tidy) :
    (stepSegsBy k u b gs s).Tidy := by
  unfold stepSegsBy
  refine tidy_foldl _ (fun s g hs => ?_) gs h
  split
  · exact tidy_stepLines _ _ _ _ hs
  · exact tidy_foldl _ (fun s x hs => tidy_stepHome _ _ _ _ hs) _ hs

theorem tidy_stepSegs (k : LineAcc) (u : Option Nat) (gs : List Seg) {s : State} (h : s.Tidy) : (stepSegs k u gs s).Tidy :=
  tidy_stepSegsBy k u (.thread u) gs h

theorem tidy_writeSegs (gs : List Seg) (bs : List Byte) {s : State} (h : s.Tidy) : (writeSegs s gs bs).Tidy := by
  induction gs generalizing s bs with
  | nil => exact h
  | cons g gs ih =>
    unfold writeSegs
    refine ih _ ?_
    split
    · exact tidy_store _ (wf_writeN _ _ h.2.1) h
    · exact ⟨wf_writeN _ _ h.1, h.2⟩

theorem tidy_devWrite (ag : Agent) (a : Word) (bs : List Byte) {s : State} (h : s.Tidy) : (devWrite ag a bs s).Tidy := by
  unfold devWrite; split
  · exact h
  · exact tidy_writeSegs _ _ (tidy_stepSegs _ _ _ h)

theorem tidy_writeStat (l : Nat) {s : State} (h : s.Tidy) : (writeStat l s).Tidy := by
  unfold writeStat; split
  · exact h
  · exact (tidy_devWrite _ _ _ h).of_same (sameMemory_errRecord _ _ _ _ _)

theorem tidy_modLaunch (l : Nat) (f : Launch → Launch) {s : State} (h : s.Tidy) : (modLaunch l f s).Tidy := h.of_same rfl

theorem tidy_setErr (l c : Nat) (e : Word) (k : Bool) {s : State} (h : s.Tidy) : (setErr l c e k s).Tidy :=
  tidy_writeStat _ (tidy_modLaunch _ _ h)

/-- An add to a counter (R190): the tidy form is kept, and nothing but the die stores, the wait-for tables and the tokens changes. -/
theorem tidy_addCounter (a n : Nat) {s : State} (h : s.Tidy) : (addCounter a n s).1.Tidy :=
  (tidy_store (writeN s.store (a / 8 * 8) _) (wf_writeN _ _ h.2.1) h).of_same rfl

theorem tidy_arriveAt (u l a : Nat) {s : State} (h : s.Tidy) : (arriveAt u l a s).Tidy := by
  unfold arriveAt
  dsimp only
  split
  · exact h.of_same (sameMemory_recordFault _ _ _)
  · split
    · exact (tidy_addCounter _ _ h).of_same (sameMemory_recordFault _ _ _)
    · exact tidy_addCounter _ _ h

theorem tidy_retireArrive (u l : Nat) (a : Option Nat) {s : State} (h : s.Tidy) : (retireArrive u l a s).Tidy := by
  unfold retireArrive; split
  · exact h
  · exact tidy_arriveAt _ _ _ h

theorem tidy_retireNow {s : State} (h : s.Tidy) : (retireNow s).Tidy := tidy_retireArrive _ _ _ h

theorem tidy_undeliverable (f : FaultInfo) (p : CodePos) {s : State} (h : s.Tidy) : (undeliverable f p s).Tidy :=
  (tidy_setErr _ _ _ _ (h.of_same (sameMemory_errRecord _ _ _ _ _))).of_same rfl

theorem tidy_takeTrap (f : FaultInfo) (p : CodePos) {s : State} (h : s.Tidy) : (takeTrap f p s).Tidy := by
  rcases takeTrap_cases f p s with ⟨e, -⟩ | ⟨gs, -, -, -, e⟩
  · rw [e]; exact tidy_undeliverable _ _ h
  · rw [e]
    refine State.Tidy.of_same ?_ (sameMemory_withdrawEdge _ _)
    exact (tidy_writeSegs _ _ (tidy_stepSegs _ _ _ h)).of_same rfl

theorem tidy_raise (f : FaultInfo) {s : State} (h : s.Tidy) : (raise f s).Tidy := tidy_takeTrap _ _ h

theorem tidy_checked (c : Option FaultInfo) (f : State → State) (hf : ∀ s : State, s.Tidy → (f s).Tidy) {s : State} (h : s.Tidy) :
    (checked c f s).Tidy := by
  cases c with
  | none => exact hf _ h
  | some e => exact tidy_raise _ h

theorem tidy_tryWith {α : Type} (c : Except FaultInfo α) (f : α → State → State) (hf : ∀ a (s : State), s.Tidy → (f a s).Tidy)
    {s : State} (h : s.Tidy) : (tryWith c f s).Tidy := by
  cases c with
  | ok a => exact hf a _ h
  | error e => exact tidy_raise _ h

theorem tidy_zeroBank (b : Nat) {s : State} (h : s.Tidy) : (zeroBank b s).Tidy :=
  ⟨h.1, wf_filter _ h.2.1, canon_filter _ _ h.2.2.1, h.2.2.2⟩

theorem tidy_takeBank (b : Nat) (l : Launch) {s : State} (h : s.Tidy) : (takeBank b l s).Tidy := by
  unfold takeBank
  have h1 : (if getAt false s.bankWorld b ≠ l.world then zeroBank b s else s).Tidy := by
    split
    · exact tidy_zeroBank _ h
    · exact h
  exact ⟨h1.1, h1.2.1, h1.2.2.1, h1.2.2.2.1, canon_setAt _ _ h1.2.2.2.2.1, canon_setAt _ _ h1.2.2.2.2.2⟩

theorem tidy_emptyBank (u : PailBy) (b : Nat) {s : State} (h : s.Tidy) : (emptyBank u b s).Tidy := by
  unfold emptyBank
  refine tidy_foldl _ (fun s c hs => State.Tidy.of_same ?_ (sameMemory_errRecord _ _ _ _ _)) _ h
  exact (tidy_setLine _ _ hs).of_same rfl

theorem tidy_releaseBank (u : PailBy) (p : Bool) (b : Nat) {s : State} (h : s.Tidy) : (releaseBank u p b s).Tidy := by
  unfold releaseBank
  have h1 : (if p = true then s else emptyBank u b s).Tidy := by
    split
    · exact h
    · exact tidy_emptyBank _ _ h
  dsimp only
  split
  · exact tidy_takeBank _ _ (tidy_modLaunch _ _ h1)
  · exact ⟨h1.1, h1.2.1, h1.2.2.1, h1.2.2.2.1, canon_setAt _ _ h1.2.2.2.2.1, h1.2.2.2.2.2⟩

end Sys2Proof.Machine
end

