-- ==== Sys2Proof/Laws/PerInstr.lean ====
section
/-! SUPPORT. For every instruction of the table, that its operand fields stay inside their places: the opcode fits bits 57 to 49 and
the operands bits 43 to 0 (R36, R40), so no field spills into another part of the slot. -/

namespace Sys2Proof.Laws.Encoding

/-- The opcode and the operand bits of an encoding fit their places in a slot. -/
def Statement (i : Instr) : Prop := ∀ p, encodeParts i = some p → p.1 < 2 ^ 9 ∧ p.2 < 2 ^ 44

theorem tag_code_lt (t : Tag) : t.code < 16 := by cases t <;> decide
theorem rm_code_lt (r : Rm) : r.code < 8 := by cases r <;> decide
theorem cond_code_lt (c : Cond) : c.code < 16 := by cases c <;> decide
theorem space_code_lt (x : Space) : x.code < 4 := by cases x <;> decide
theorem size_code_lt (x : Size) : x.code < 4 := by cases x <;> decide

theorem ffO_le {n : Nat} (k : Option (Fin n)) (lo b : Nat) : ffO k lo b ≤ (n - 1) * 2 ^ lo + 2 ^ b := by
  cases k with
  | none => simp [ffO]
  | some x => have := x.isLt; exact Nat.add_le_add_right (Nat.mul_le_mul_right _ (by omega)) _

/-- A row without an encoding has nothing to show. -/
theorem of_none {i : Instr} (h : encodeParts i = none) : Statement i := fun p hp => by rw [h] at hp; cases hp

/-- A row with its opcode and operand bits. -/
theorem of_parts {i : Instr} (o x : Nat) (h : encodeParts i = some (o, x)) (ho : o < 2 ^ 9) (hx : x < 2 ^ 44) : Statement i := fun p hp => by
  rw [h] at hp; cases hp; exact ⟨ho, hx⟩

theorem nop : Statement (.nop) := of_parts 0x000 (0) rfl (by decide) (by decide)
theorem add (d : SReg) (a : SReg) (b : SReg) : Statement (.add d a b) :=
  of_parts 0x001 _ rfl (by decide) (by have := d.isLt; have := a.isLt; have := b.isLt; simp only [enc_add]; omega)
theorem sub (d : SReg) (a : SReg) (b : SReg) : Statement (.sub d a b) :=
  of_parts 0x002 _ rfl (by decide) (by have := d.isLt; have := a.isLt; have := b.isLt; simp only [enc_sub]; omega)
theorem addi (d : SReg) (a : SReg) (i : BitVec 26) : Statement (.addi d a i) :=
  of_parts 0x003 _ rfl (by decide) (by have := d.isLt; have := a.isLt; have := i.isLt; simp only [enc_addi]; omega)
theorem mul (d : SReg) (a : SReg) (b : SReg) : Statement (.mul d a b) :=
  of_parts 0x004 _ rfl (by decide) (by have := d.isLt; have := a.isLt; have := b.isLt; simp only [enc_mul]; omega)
theorem mulh (d : SReg) (a : SReg) (b : SReg) : Statement (.mulh d a b) :=
  of_parts 0x005 _ rfl (by decide) (by have := d.isLt; have := a.isLt; have := b.isLt; simp only [enc_mulh]; omega)
theorem mulhl (d : SReg) (a : SReg) (b : SReg) : Statement (.mulhl d a b) :=
  of_parts 0x006 _ rfl (by decide) (by have := d.isLt; have := a.isLt; have := b.isLt; simp only [enc_mulhl]; omega)
theorem divq (d : SReg) (a : SReg) (b : SReg) (u : Bool) : Statement (.divq d a b u) :=
  of_parts 0x007 _ rfl (by decide) (by have := d.isLt; have := a.isLt; have := b.isLt; have := Bool.toNat_lt u; simp only [enc_divq]; omega)
theorem remq (d : SReg) (a : SReg) (b : SReg) (u : Bool) : Statement (.remq d a b u) :=
  of_parts 0x008 _ rfl (by decide) (by have := d.isLt; have := a.isLt; have := b.isLt; have := Bool.toNat_lt u; simp only [enc_remq]; omega)
theorem and (d : SReg) (a : SReg) (b : SReg) : Statement (.and d a b) :=
  of_parts 0x009 _ rfl (by decide) (by have := d.isLt; have := a.isLt; have := b.isLt; simp only [enc_and]; omega)
theorem or (d : SReg) (a : SReg) (b : SReg) : Statement (.or d a b) :=
  of_parts 0x00A _ rfl (by decide) (by have := d.isLt; have := a.isLt; have := b.isLt; simp only [enc_or]; omega)
theorem xor (d : SReg) (a : SReg) (b : SReg) : Statement (.xor d a b) :=
  of_parts 0x00B _ rfl (by decide) (by have := d.isLt; have := a.isLt; have := b.isLt; simp only [enc_xor]; omega)
theorem andn (d : SReg) (a : SReg) (b : SReg) : Statement (.andn d a b) :=
  of_parts 0x00C _ rfl (by decide) (by have := d.isLt; have := a.isLt; have := b.isLt; simp only [enc_andn]; omega)
theorem andi (d : SReg) (a : SReg) (i : BitVec 26) : Statement (.andi d a i) :=
  of_parts 0x00D _ rfl (by decide) (by have := d.isLt; have := a.isLt; have := i.isLt; simp only [enc_andi]; omega)
theorem ori (d : SReg) (a : SReg) (i : BitVec 26) : Statement (.ori d a i) :=
  of_parts 0x00E _ rfl (by decide) (by have := d.isLt; have := a.isLt; have := i.isLt; simp only [enc_ori]; omega)
theorem xori (d : SReg) (a : SReg) (i : BitVec 26) : Statement (.xori d a i) :=
  of_parts 0x00F _ rfl (by decide) (by have := d.isLt; have := a.isLt; have := i.isLt; simp only [enc_xori]; omega)
theorem shl (d : SReg) (a : SReg) (b : SReg) : Statement (.shl d a b) :=
  of_parts 0x010 _ rfl (by decide) (by have := d.isLt; have := a.isLt; have := b.isLt; simp only [enc_shl]; omega)
theorem shr (d : SReg) (a : SReg) (b : SReg) : Statement (.shr d a b) :=
  of_parts 0x011 _ rfl (by decide) (by have := d.isLt; have := a.isLt; have := b.isLt; simp only [enc_shr]; omega)
theorem sra (d : SReg) (a : SReg) (b : SReg) : Statement (.sra d a b) :=
  of_parts 0x012 _ rfl (by decide) (by have := d.isLt; have := a.isLt; have := b.isLt; simp only [enc_sra]; omega)
theorem shli (d : SReg) (a : SReg) (i : BitVec 26) : Statement (.shli d a i) :=
  of_parts 0x013 _ rfl (by decide) (by have := d.isLt; have := a.isLt; have := i.isLt; simp only [enc_shli]; omega)
theorem shri (d : SReg) (a : SReg) (i : BitVec 26) : Statement (.shri d a i) :=
  of_parts 0x014 _ rfl (by decide) (by have := d.isLt; have := a.isLt; have := i.isLt; simp only [enc_shri]; omega)
theorem srai (d : SReg) (a : SReg) (i : BitVec 26) : Statement (.srai d a i) :=
  of_parts 0x015 _ rfl (by decide) (by have := d.isLt; have := a.isLt; have := i.isLt; simp only [enc_srai]; omega)
theorem rotl (d : SReg) (a : SReg) (b : SReg) : Statement (.rotl d a b) :=
  of_parts 0x016 _ rfl (by decide) (by have := d.isLt; have := a.isLt; have := b.isLt; simp only [enc_rotl]; omega)
theorem min (d : SReg) (a : SReg) (b : SReg) : Statement (.min d a b) :=
  of_parts 0x017 _ rfl (by decide) (by have := d.isLt; have := a.isLt; have := b.isLt; simp only [enc_min]; omega)
theorem max (d : SReg) (a : SReg) (b : SReg) : Statement (.max d a b) :=
  of_parts 0x018 _ rfl (by decide) (by have := d.isLt; have := a.isLt; have := b.isLt; simp only [enc_max]; omega)
theorem minl (d : SReg) (a : SReg) (b : SReg) : Statement (.minl d a b) :=
  of_parts 0x019 _ rfl (by decide) (by have := d.isLt; have := a.isLt; have := b.isLt; simp only [enc_minl]; omega)
theorem maxl (d : SReg) (a : SReg) (b : SReg) : Statement (.maxl d a b) :=
  of_parts 0x01A _ rfl (by decide) (by have := d.isLt; have := a.isLt; have := b.isLt; simp only [enc_maxl]; omega)
theorem clz (d : SReg) (a : SReg) : Statement (.clz d a) :=
  of_parts 0x01B _ rfl (by decide) (by have := d.isLt; have := a.isLt; simp only [enc_clz]; omega)
theorem ctz (d : SReg) (a : SReg) : Statement (.ctz d a) :=
  of_parts 0x01C _ rfl (by decide) (by have := d.isLt; have := a.isLt; simp only [enc_ctz]; omega)
theorem popc (d : SReg) (a : SReg) : Statement (.popc d a) :=
  of_parts 0x01D _ rfl (by decide) (by have := d.isLt; have := a.isLt; simp only [enc_popc]; omega)
theorem bswap (d : SReg) (a : SReg) : Statement (.bswap d a) :=
  of_parts 0x01E _ rfl (by decide) (by have := d.isLt; have := a.isLt; simp only [enc_bswap]; omega)
theorem sext (d : SReg) (a : SReg) (i : BitVec 26) : Statement (.sext d a i) :=
  of_parts 0x01F _ rfl (by decide) (by have := d.isLt; have := a.isLt; have := i.isLt; simp only [enc_sext]; omega)
theorem zext (d : SReg) (a : SReg) (i : BitVec 26) : Statement (.zext d a i) :=
  of_parts 0x020 _ rfl (by decide) (by have := d.isLt; have := a.isLt; have := i.isLt; simp only [enc_zext]; omega)
theorem li (d : SReg) (v : BitVec 32) (sh : Fin 64) : Statement (.li d v sh) :=
  of_parts 0x021 _ rfl (by decide) (by have := d.isLt; have := v.isLt; have := sh.isLt; simp only [enc_li]; omega)
theorem lih (d : SReg) (v : BitVec 32) (sh : Fin 64) : Statement (.lih d v sh) :=
  of_parts 0x022 _ rfl (by decide) (by have := d.isLt; have := v.isLt; have := sh.isLt; simp only [enc_lih]; omega)
theorem mov (d : SReg) (a : SReg) : Statement (.mov d a) :=
  of_parts 0x023 _ rfl (by decide) (by have := d.isLt; have := a.isLt; simp only [enc_mov]; omega)
theorem sel (d : SReg) (a : SReg) (b : SReg) (q : PReg) (inv : Bool) : Statement (.sel d a b q inv) :=
  of_parts 0x024 _ rfl (by decide) (by have := d.isLt; have := a.isLt; have := b.isLt; have := q.isLt; have := Bool.toNat_lt inv; simp only [enc_sel]; omega)
theorem addp (d : SReg) (a : SReg) (b : SReg) (n : Ix8) : Statement (.addp d a b n) :=
  of_parts 0x025 _ rfl (by decide) (by have := d.isLt; have := a.isLt; have := b.isLt; have := n.isLt; simp only [enc_addp]; omega)
theorem cmp (c : Cond) (q : PReg) (a : SReg) (b : SReg) : Statement (.cmp c q a b) :=
  of_parts 0x026 _ rfl (by decide) (by have := cond_code_lt c; have := q.isLt; have := a.isLt; have := b.isLt; simp only [enc_cmp]; omega)
theorem cmpi (c : Cond) (q : PReg) (a : SReg) (i : BitVec 30) : Statement (.cmpi c q a i) :=
  of_parts 0x027 _ rfl (by decide) (by have := cond_code_lt c; have := q.isLt; have := a.isLt; have := i.isLt; simp only [enc_cmpi]; omega)
theorem pand (d : PReg) (a : PReg) (b : PReg) : Statement (.pand d a b) :=
  of_parts 0x060 _ rfl (by decide) (by have := d.isLt; have := a.isLt; have := b.isLt; simp only [enc_pand]; omega)
theorem por (d : PReg) (a : PReg) (b : PReg) : Statement (.por d a b) :=
  of_parts 0x061 _ rfl (by decide) (by have := d.isLt; have := a.isLt; have := b.isLt; simp only [enc_por]; omega)
theorem pxor (d : PReg) (a : PReg) (b : PReg) : Statement (.pxor d a b) :=
  of_parts 0x062 _ rfl (by decide) (by have := d.isLt; have := a.isLt; have := b.isLt; simp only [enc_pxor]; omega)
theorem pnot (d : PReg) (a : PReg) : Statement (.pnot d a) :=
  of_parts 0x063 _ rfl (by decide) (by have := d.isLt; have := a.isLt; simp only [enc_pnot]; omega)
theorem pmov (d : PReg) (a : PReg) : Statement (.pmov d a) :=
  of_parts 0x064 _ rfl (by decide) (by have := d.isLt; have := a.isLt; simp only [enc_pmov]; omega)
theorem pset (d : PReg) (a : SReg) (n : Fin 64) : Statement (.pset d a n) :=
  of_parts 0x065 _ rfl (by decide) (by have := d.isLt; have := a.isLt; have := n.isLt; simp only [enc_pset]; omega)
theorem psetAll (a : SReg) : Statement (.psetAll a) :=
  of_parts 0x065 _ rfl (by decide) (by have := a.isLt; simp only [enc_psetAll]; omega)
theorem pget (d : SReg) : Statement (.pget d) :=
  of_parts 0x066 _ rfl (by decide) (by have := d.isLt; simp only [enc_pget]; omega)
theorem br (off : BitVec 30) : Statement (.br off) :=
  of_parts 0x067 _ rfl (by decide) (by have := off.isLt; simp only [enc_br]; omega)
theorem jmp (a : SReg) : Statement (.jmp a) :=
  of_parts 0x068 _ rfl (by decide) (by have := a.isLt; simp only [enc_jmp]; omega)
theorem call (off : BitVec 30) : Statement (.call off) :=
  of_parts 0x069 _ rfl (by decide) (by have := off.isLt; simp only [enc_call]; omega)
theorem callr (a : SReg) : Statement (.callr a) :=
  of_parts 0x06A _ rfl (by decide) (by have := a.isLt; simp only [enc_callr]; omega)
theorem ret : Statement (.ret) := of_parts 0x06B (0) rfl (by decide) (by decide)
theorem loop (body : BitVec 12) (cnt : BitVec 31) : Statement (.loop body cnt) :=
  of_parts 0x06C _ rfl (by decide) (by have := body.isLt; have := cnt.isLt; simp only [enc_loop]; omega)
theorem loopReg (body : BitVec 12) (a : SReg) : Statement (.loopReg body a) :=
  of_parts 0x06C _ rfl (by decide) (by have := body.isLt; have := a.isLt; simp only [enc_loopReg]; omega)
theorem lbrk : Statement (.lbrk) := of_parts 0x06D (0) rfl (by decide) (by decide)
theorem lidx (d : SReg) (j : Ix8) : Statement (.lidx d j) :=
  of_parts 0x06E _ rfl (by decide) (by have := d.isLt; have := j.isLt; simp only [enc_lidx]; omega)
theorem lidxN (d : SReg) (j : Ix8) : Statement (.lidxN d j) :=
  of_parts 0x06E _ rfl (by decide) (by have := d.isLt; have := j.isLt; simp only [enc_lidxN]; omega)
theorem csrr (d : SReg) (n : BitVec 12) : Statement (.csrr d n) :=
  of_parts 0x06F _ rfl (by decide) (by have := d.isLt; have := n.isLt; simp only [enc_csrr]; omega)
theorem csrw (n : BitVec 12) (a : SReg) : Statement (.csrw n a) :=
  of_parts 0x070 _ rfl (by decide) (by have := n.isLt; have := a.isLt; simp only [enc_csrw]; omega)
theorem csrwSet (n : BitVec 12) (a : SReg) : Statement (.csrwSet n a) :=
  of_parts 0x070 _ rfl (by decide) (by have := n.isLt; have := a.isLt; simp only [enc_csrwSet]; omega)
theorem csrwClr (n : BitVec 12) (a : SReg) : Statement (.csrwClr n a) :=
  of_parts 0x070 _ rfl (by decide) (by have := n.isLt; have := a.isLt; simp only [enc_csrwClr]; omega)
theorem vadd (d : VReg) (a : VReg) (b : VReg) (m : MReg) (z : Bool) (w : Bool) (rm : Rm) : Statement (.vadd d a b m z w rm) :=
  of_parts 0x080 _ rfl (by decide) (by have := d.isLt; have := a.isLt; have := b.isLt; have := m.isLt; have := Bool.toNat_lt z; have := Bool.toNat_lt w; have := rm_code_lt rm; simp only [enc_vadd]; omega)
theorem vsub (d : VReg) (a : VReg) (b : VReg) (m : MReg) (z : Bool) (w : Bool) (rm : Rm) : Statement (.vsub d a b m z w rm) :=
  of_parts 0x081 _ rfl (by decide) (by have := d.isLt; have := a.isLt; have := b.isLt; have := m.isLt; have := Bool.toNat_lt z; have := Bool.toNat_lt w; have := rm_code_lt rm; simp only [enc_vsub]; omega)
theorem vmul (d : VReg) (a : VReg) (b : VReg) (m : MReg) (z : Bool) (w : Bool) (rm : Rm) : Statement (.vmul d a b m z w rm) :=
  of_parts 0x082 _ rfl (by decide) (by have := d.isLt; have := a.isLt; have := b.isLt; have := m.isLt; have := Bool.toNat_lt z; have := Bool.toNat_lt w; have := rm_code_lt rm; simp only [enc_vmul]; omega)
theorem vfma (d : VReg) (a : VReg) (b : VReg) (m : MReg) (z : Bool) (rm : Rm) : Statement (.vfma d a b m z rm) :=
  of_parts 0x083 _ rfl (by decide) (by have := d.isLt; have := a.isLt; have := b.isLt; have := m.isLt; have := Bool.toNat_lt z; have := rm_code_lt rm; simp only [enc_vfma]; omega)
theorem vfms (d : VReg) (a : VReg) (b : VReg) (m : MReg) (z : Bool) (rm : Rm) : Statement (.vfms d a b m z rm) :=
  of_parts 0x084 _ rfl (by decide) (by have := d.isLt; have := a.isLt; have := b.isLt; have := m.isLt; have := Bool.toNat_lt z; have := rm_code_lt rm; simp only [enc_vfms]; omega)
theorem vneg (d : VReg) (a : VReg) (m : MReg) (z : Bool) (w : Bool) : Statement (.vneg d a m z w) :=
  of_parts 0x085 _ rfl (by decide) (by have := d.isLt; have := a.isLt; have := m.isLt; have := Bool.toNat_lt z; have := Bool.toNat_lt w; simp only [enc_vneg]; omega)
theorem vabs (d : VReg) (a : VReg) (m : MReg) (z : Bool) (w : Bool) : Statement (.vabs d a m z w) :=
  of_parts 0x086 _ rfl (by decide) (by have := d.isLt; have := a.isLt; have := m.isLt; have := Bool.toNat_lt z; have := Bool.toNat_lt w; simp only [enc_vabs]; omega)
theorem vmin (d : VReg) (a : VReg) (b : VReg) (m : MReg) (z : Bool) : Statement (.vmin d a b m z) :=
  of_parts 0x087 _ rfl (by decide) (by have := d.isLt; have := a.isLt; have := b.isLt; have := m.isLt; have := Bool.toNat_lt z; simp only [enc_vmin]; omega)
theorem vmax (d : VReg) (a : VReg) (b : VReg) (m : MReg) (z : Bool) : Statement (.vmax d a b m z) :=
  of_parts 0x088 _ rfl (by decide) (by have := d.isLt; have := a.isLt; have := b.isLt; have := m.isLt; have := Bool.toNat_lt z; simp only [enc_vmax]; omega)
theorem vand (d : VReg) (a : VReg) (b : VReg) (m : MReg) (z : Bool) : Statement (.vand d a b m z) :=
  of_parts 0x089 _ rfl (by decide) (by have := d.isLt; have := a.isLt; have := b.isLt; have := m.isLt; have := Bool.toNat_lt z; simp only [enc_vand]; omega)
theorem vor (d : VReg) (a : VReg) (b : VReg) (m : MReg) (z : Bool) : Statement (.vor d a b m z) :=
  of_parts 0x08A _ rfl (by decide) (by have := d.isLt; have := a.isLt; have := b.isLt; have := m.isLt; have := Bool.toNat_lt z; simp only [enc_vor]; omega)
theorem vxor (d : VReg) (a : VReg) (b : VReg) (m : MReg) (z : Bool) : Statement (.vxor d a b m z) :=
  of_parts 0x08B _ rfl (by decide) (by have := d.isLt; have := a.isLt; have := b.isLt; have := m.isLt; have := Bool.toNat_lt z; simp only [enc_vxor]; omega)
theorem vshl (d : VReg) (a : VReg) (b : VReg) (m : MReg) (z : Bool) : Statement (.vshl d a b m z) :=
  of_parts 0x08C _ rfl (by decide) (by have := d.isLt; have := a.isLt; have := b.isLt; have := m.isLt; have := Bool.toNat_lt z; simp only [enc_vshl]; omega)
theorem vshr (d : VReg) (a : VReg) (b : VReg) (m : MReg) (z : Bool) : Statement (.vshr d a b m z) :=
  of_parts 0x08D _ rfl (by decide) (by have := d.isLt; have := a.isLt; have := b.isLt; have := m.isLt; have := Bool.toNat_lt z; simp only [enc_vshr]; omega)
theorem vsra (d : VReg) (a : VReg) (b : VReg) (m : MReg) (z : Bool) : Statement (.vsra d a b m z) :=
  of_parts 0x08E _ rfl (by decide) (by have := d.isLt; have := a.isLt; have := b.isLt; have := m.isLt; have := Bool.toNat_lt z; simp only [enc_vsra]; omega)
theorem vclamp (d : VReg) (a : VReg) (b : VReg) (m : MReg) (z : Bool) : Statement (.vclamp d a b m z) :=
  of_parts 0x08F _ rfl (by decide) (by have := d.isLt; have := a.isLt; have := b.isLt; have := m.isLt; have := Bool.toNat_lt z; simp only [enc_vclamp]; omega)
theorem vsplat (t : Tag) (d : VReg) (b : SReg) (m : MReg) (z : Bool) : Statement (.vsplat t d b m z) :=
  of_parts 0x090 _ rfl (by decide) (by have := tag_code_lt t; have := d.isLt; have := b.isLt; have := m.isLt; have := Bool.toNat_lt z; simp only [enc_vsplat]; omega)
theorem vmovs (b : SReg) (a : VReg) (j : Fin 1024) : Statement (.vmovs b a j) :=
  of_parts 0x091 _ rfl (by decide) (by have := b.isLt; have := a.isLt; have := j.isLt; simp only [enc_vmovs]; omega)
theorem vins (d : VReg) (a : VReg) (b : SReg) (j : Fin 1024) : Statement (.vins d a b j) :=
  of_parts 0x092 _ rfl (by decide) (by have := d.isLt; have := a.isLt; have := b.isLt; have := j.isLt; simp only [enc_vins]; omega)
theorem vmov (d : VReg) (a : VReg) (m : MReg) (z : Bool) : Statement (.vmov d a m z) :=
  of_parts 0x093 _ rfl (by decide) (by have := d.isLt; have := a.isLt; have := m.isLt; have := Bool.toNat_lt z; simp only [enc_vmov]; omega)
theorem vsel (d : VReg) (a : VReg) (b : VReg) (m : MReg) : Statement (.vsel d a b m) :=
  of_parts 0x094 _ rfl (by decide) (by have := d.isLt; have := a.isLt; have := b.isLt; have := m.isLt; simp only [enc_vsel]; omega)
theorem vcmp (c : Cond) (d : MReg) (a : VReg) (b : VReg) (m : MReg) : Statement (.vcmp c d a b m) :=
  of_parts 0x095 _ rfl (by decide) (by have := cond_code_lt c; have := d.isLt; have := a.isLt; have := b.isLt; have := m.isLt; simp only [enc_vcmp]; omega)
theorem vcvt (d : VReg) (a : VReg) (m : MReg) (t : Tag) (h : Fin 4) (w : Bool) (rm : Rm) : Statement (.vcvt d a m t h w rm) :=
  of_parts 0x096 _ rfl (by decide) (by have := d.isLt; have := a.isLt; have := m.isLt; have := tag_code_lt t; have := h.isLt; have := Bool.toNat_lt w; have := rm_code_lt rm; simp only [enc_vcvt]; omega)
theorem vmaskN (d : MReg) (a : SReg) : Statement (.vmaskN d a) :=
  of_parts 0x0A0 _ rfl (by decide) (by have := d.isLt; have := a.isLt; simp only [enc_vmaskN]; omega)
theorem vmaskNz (d : MReg) (a : VReg) : Statement (.vmaskNz d a) :=
  of_parts 0x0A0 _ rfl (by decide) (by have := d.isLt; have := a.isLt; simp only [enc_vmaskNz]; omega)
theorem vmaskQ (d : MReg) (a : SReg) (q : PReg) : Statement (.vmaskQ d a q) :=
  of_parts 0x0A0 _ rfl (by decide) (by have := d.isLt; have := a.isLt; have := q.isLt; simp only [enc_vmaskQ]; omega)
theorem mand (d : MReg) (a : MReg) (b : MReg) : Statement (.mand d a b) :=
  of_parts 0x0A1 _ rfl (by decide) (by have := d.isLt; have := a.isLt; have := b.isLt; simp only [enc_mand]; omega)
theorem mor (d : MReg) (a : MReg) (b : MReg) : Statement (.mor d a b) :=
  of_parts 0x0A2 _ rfl (by decide) (by have := d.isLt; have := a.isLt; have := b.isLt; simp only [enc_mor]; omega)
theorem mxor (d : MReg) (a : MReg) (b : MReg) : Statement (.mxor d a b) :=
  of_parts 0x0A3 _ rfl (by decide) (by have := d.isLt; have := a.isLt; have := b.isLt; simp only [enc_mxor]; omega)
theorem mnot (d : MReg) (a : MReg) : Statement (.mnot d a) :=
  of_parts 0x0A4 _ rfl (by decide) (by have := d.isLt; have := a.isLt; simp only [enc_mnot]; omega)
theorem mcnt (d : SReg) (a : MReg) : Statement (.mcnt d a) :=
  of_parts 0x0A5 _ rfl (by decide) (by have := d.isLt; have := a.isLt; simp only [enc_mcnt]; omega)
theorem mfirst (d : SReg) (a : MReg) : Statement (.mfirst d a) :=
  of_parts 0x0A6 _ rfl (by decide) (by have := d.isLt; have := a.isLt; simp only [enc_mfirst]; omega)
theorem vrcp (d : VReg) (a : VReg) (m : MReg) (z : Bool) (rm : Rm) : Statement (.vrcp d a m z rm) :=
  of_parts 0x0C0 _ rfl (by decide) (by have := d.isLt; have := a.isLt; have := m.isLt; have := Bool.toNat_lt z; have := rm_code_lt rm; simp only [enc_vrcp]; omega)
theorem vrsqrt (d : VReg) (a : VReg) (m : MReg) (z : Bool) (rm : Rm) : Statement (.vrsqrt d a m z rm) :=
  of_parts 0x0C1 _ rfl (by decide) (by have := d.isLt; have := a.isLt; have := m.isLt; have := Bool.toNat_lt z; have := rm_code_lt rm; simp only [enc_vrsqrt]; omega)
theorem vsqrt (d : VReg) (a : VReg) (m : MReg) (z : Bool) (rm : Rm) : Statement (.vsqrt d a m z rm) :=
  of_parts 0x0C2 _ rfl (by decide) (by have := d.isLt; have := a.isLt; have := m.isLt; have := Bool.toNat_lt z; have := rm_code_lt rm; simp only [enc_vsqrt]; omega)
theorem vexp2 (d : VReg) (a : VReg) (m : MReg) (z : Bool) (rm : Rm) : Statement (.vexp2 d a m z rm) :=
  of_parts 0x0C3 _ rfl (by decide) (by have := d.isLt; have := a.isLt; have := m.isLt; have := Bool.toNat_lt z; have := rm_code_lt rm; simp only [enc_vexp2]; omega)
theorem vlog2 (d : VReg) (a : VReg) (m : MReg) (z : Bool) (rm : Rm) : Statement (.vlog2 d a m z rm) :=
  of_parts 0x0C4 _ rfl (by decide) (by have := d.isLt; have := a.isLt; have := m.isLt; have := Bool.toNat_lt z; have := rm_code_lt rm; simp only [enc_vlog2]; omega)
theorem vgetl (d : VReg) (a : VReg) (m : MReg) (b : VReg) (g : Bool) (z : Bool) : Statement (.vgetl d a m b g z) :=
  of_parts 0x0C8 _ rfl (by decide) (by have := d.isLt; have := a.isLt; have := m.isLt; have := b.isLt; have := Bool.toNat_lt g; have := Bool.toNat_lt z; simp only [enc_vgetl]; omega)
theorem vputl (d : VReg) (a : VReg) (b : VReg) (m : MReg) (g : Bool) : Statement (.vputl d a b m g) :=
  of_parts 0x0C9 _ rfl (by decide) (by have := d.isLt; have := a.isLt; have := b.isLt; have := m.isLt; have := Bool.toNat_lt g; simp only [enc_vputl]; omega)
theorem vmovx (d : VReg) (a : VReg) (b : SReg) : Statement (.vmovx d a b) :=
  of_parts 0x0CA _ rfl (by decide) (by have := d.isLt; have := a.isLt; have := b.isLt; simp only [enc_vmovx]; omega)
theorem vstx (d : VReg) (a : VReg) (b : SReg) : Statement (.vstx d a b) :=
  of_parts 0x0CB _ rfl (by decide) (by have := d.isLt; have := a.isLt; have := b.isLt; simp only [enc_vstx]; omega)
theorem vperm (d : VReg) (a : VReg) (b : VReg) (m : MReg) (z : Bool) : Statement (.vperm d a b m z) :=
  of_parts 0x0D0 _ rfl (by decide) (by have := d.isLt; have := a.isLt; have := b.isLt; have := m.isLt; have := Bool.toNat_lt z; simp only [enc_vperm]; omega)
theorem vrot (d : VReg) (a : VReg) (b : SReg) (n : Fin 1024) (m : MReg) (z : Bool) : Statement (.vrot d a b n m z) :=
  of_parts 0x0D1 _ rfl (by decide) (by have := d.isLt; have := a.isLt; have := b.isLt; have := n.isLt; have := m.isLt; have := Bool.toNat_lt z; simp only [enc_vrot]; omega)
theorem vshuf (d : VReg) (a : VReg) (b : VReg) (m : MReg) (pat : Ix8) (g : Ix8) (z : Bool) : Statement (.vshuf d a b m pat g z) :=
  of_parts 0x0D2 _ rfl (by decide) (by have := d.isLt; have := a.isLt; have := b.isLt; have := m.isLt; have := pat.isLt; have := g.isLt; have := Bool.toNat_lt z; simp only [enc_vshuf]; omega)
theorem vbcast (d : VReg) (a : VReg) (b : SReg) (n : Fin 1024) (m : MReg) (z : Bool) : Statement (.vbcast d a b n m z) :=
  of_parts 0x0D3 _ rfl (by decide) (by have := d.isLt; have := a.isLt; have := b.isLt; have := n.isLt; have := m.isLt; have := Bool.toNat_lt z; simp only [enc_vbcast]; omega)
theorem vcomp (d : VReg) (a : VReg) (m : MReg) : Statement (.vcomp d a m) :=
  of_parts 0x0D4 _ rfl (by decide) (by have := d.isLt; have := a.isLt; have := m.isLt; simp only [enc_vcomp]; omega)
theorem vexpd (d : VReg) (a : VReg) (m : MReg) (z : Bool) : Statement (.vexpd d a m z) :=
  of_parts 0x0D5 _ rfl (by decide) (by have := d.isLt; have := a.isLt; have := m.isLt; have := Bool.toNat_lt z; simp only [enc_vexpd]; omega)
theorem vredadd (d : VReg) (a : VReg) (m : MReg) (rm : Rm) : Statement (.vredadd d a m rm) :=
  of_parts 0x0D8 _ rfl (by decide) (by have := d.isLt; have := a.isLt; have := m.isLt; have := rm_code_lt rm; simp only [enc_vredadd]; omega)
theorem vredmax (d : VReg) (a : VReg) (m : MReg) : Statement (.vredmax d a m) :=
  of_parts 0x0D9 _ rfl (by decide) (by have := d.isLt; have := a.isLt; have := m.isLt; simp only [enc_vredmax]; omega)
theorem vredmin (d : VReg) (a : VReg) (m : MReg) : Statement (.vredmin d a m) :=
  of_parts 0x0DA _ rfl (by decide) (by have := d.isLt; have := a.isLt; have := m.isLt; simp only [enc_vredmin]; omega)
theorem vargmax (d : VReg) (a : VReg) (m : MReg) : Statement (.vargmax d a m) :=
  of_parts 0x0DB _ rfl (by decide) (by have := d.isLt; have := a.isLt; have := m.isLt; simp only [enc_vargmax]; omega)
theorem vscan (d : VReg) (a : VReg) (m : MReg) (op : Fin 4) (rm : Rm) : Statement (.vscan d a m op rm) :=
  of_parts 0x0DC _ rfl (by decide) (by have := d.isLt; have := a.isLt; have := m.isLt; have := op.isLt; have := rm_code_lt rm; simp only [enc_vscan]; omega)
theorem vpack (d : VReg) (a : VReg) (b : VReg) (m : MReg) (z : Bool) (w : Bool) (rm : Rm) : Statement (.vpack d a b m z w rm) :=
  of_parts 0x0E0 _ rfl (by decide) (by have := d.isLt; have := a.isLt; have := b.isLt; have := m.isLt; have := Bool.toNat_lt z; have := Bool.toNat_lt w; have := rm_code_lt rm; simp only [enc_vpack]; omega)
theorem vunpk (d : VReg) (a : VReg) (m : MReg) (h : Bool) (z : Bool) : Statement (.vunpk d a m h z) :=
  of_parts 0x0E1 _ rfl (by decide) (by have := d.isLt; have := a.isLt; have := m.isLt; have := Bool.toNat_lt h; have := Bool.toNat_lt z; simp only [enc_vunpk]; omega)
theorem vblk (d : VReg) (a : VReg) (sv : Option VReg) (m : MReg) (n : PReg) (x : Bool) (rm : Rm) : Statement (.vblk d a sv m n x rm) :=
  of_parts 0x0E2 _ rfl (by decide) (by have := d.isLt; have := a.isLt; have := m.isLt; have := n.isLt; have := Bool.toNat_lt x; have := rm_code_lt rm; simp only [enc_vblk]; have := ffO_le sv 14 4; omega)
theorem vunblk (d : VReg) (a : VReg) (m : MReg) (n : Ix8) (fp32 : Bool) (z : Bool) (rm : Rm) : Statement (.vunblk d a m n fp32 z rm) :=
  of_parts 0x0E3 _ rfl (by decide) (by have := d.isLt; have := a.isLt; have := m.isLt; have := n.isLt; have := Bool.toNat_lt fp32; have := Bool.toNat_lt z; have := rm_code_lt rm; simp only [enc_vunblk]; omega)
theorem vwgin (d : VReg) (a : VReg) (m : MReg) (z : Bool) : Statement (.vwgin d a m z) :=
  of_parts 0x0E8 _ rfl (by decide) (by have := d.isLt; have := a.isLt; have := m.isLt; have := Bool.toNat_lt z; simp only [enc_vwgin]; omega)
theorem vwgout (d : VReg) (a : VReg) (m : MReg) (z : Bool) : Statement (.vwgout d a m z) :=
  of_parts 0x0E9 _ rfl (by decide) (by have := d.isLt; have := a.isLt; have := m.isLt; have := Bool.toNat_lt z; simp only [enc_vwgout]; omega)
theorem vwgfil (d : VReg) (a : VReg) (m : MReg) (z : Bool) : Statement (.vwgfil d a m z) :=
  of_parts 0x0EA _ rfl (by decide) (by have := d.isLt; have := a.isLt; have := m.isLt; have := Bool.toNat_lt z; simp only [enc_vwgfil]; omega)
theorem lds (d : SReg) (a : SReg) (i : BitVec 18) (sp : Space) (sz : Size) (u : Bool) : Statement (.lds d a i sp sz u) :=
  of_parts 0x140 _ rfl (by decide) (by have := d.isLt; have := a.isLt; have := i.isLt; have := space_code_lt sp; have := size_code_lt sz; have := Bool.toNat_lt u; simp only [enc_lds]; omega)
theorem sts (d : SReg) (a : SReg) (i : BitVec 18) (sp : Space) (sz : Size) : Statement (.sts d a i sp sz) :=
  of_parts 0x141 _ rfl (by decide) (by have := d.isLt; have := a.isLt; have := i.isLt; have := space_code_lt sp; have := size_code_lt sz; simp only [enc_sts]; omega)
theorem ldv (d : VReg) (a : SReg) (i : BitVec 18) (sp : Space) (t : Tag) : Statement (.ldv d a i sp t) :=
  of_parts 0x142 _ rfl (by decide) (by have := d.isLt; have := a.isLt; have := i.isLt; have := space_code_lt sp; have := tag_code_lt t; simp only [enc_ldv]; omega)
theorem stv (d : VReg) (a : SReg) (i : BitVec 18) (sp : Space) (t : Tag) : Statement (.stv d a i sp t) :=
  of_parts 0x143 _ rfl (by decide) (by have := d.isLt; have := a.isLt; have := i.isLt; have := space_code_lt sp; have := tag_code_lt t; simp only [enc_stv]; omega)
theorem ldvs (d : VReg) (a : SReg) (b : SReg) (m : MReg) (sp : Space) (t : Tag) (z : Bool) : Statement (.ldvs d a b m sp t z) :=
  of_parts 0x144 _ rfl (by decide) (by have := d.isLt; have := a.isLt; have := b.isLt; have := m.isLt; have := space_code_lt sp; have := tag_code_lt t; have := Bool.toNat_lt z; simp only [enc_ldvs]; omega)
theorem stvs (d : VReg) (a : SReg) (b : SReg) (m : MReg) (sp : Space) (t : Tag) : Statement (.stvs d a b m sp t) :=
  of_parts 0x145 _ rfl (by decide) (by have := d.isLt; have := a.isLt; have := b.isLt; have := m.isLt; have := space_code_lt sp; have := tag_code_lt t; simp only [enc_stvs]; omega)
theorem ldvx (d : VReg) (a : SReg) (x : VReg) (m : MReg) (sp : Space) (t : Tag) (sc : Fin 4) (u : Bool) (z : Bool) : Statement (.ldvx d a x m sp t sc u z) :=
  of_parts 0x146 _ rfl (by decide) (by have := d.isLt; have := a.isLt; have := x.isLt; have := m.isLt; have := space_code_lt sp; have := tag_code_lt t; have := sc.isLt; have := Bool.toNat_lt u; have := Bool.toNat_lt z; simp only [enc_ldvx]; omega)
theorem stvx (d : VReg) (a : SReg) (x : VReg) (m : MReg) (sp : Space) (t : Tag) (sc : Fin 4) (u : Bool) : Statement (.stvx d a x m sp t sc u) :=
  of_parts 0x147 _ rfl (by decide) (by have := d.isLt; have := a.isLt; have := x.isLt; have := m.isLt; have := space_code_lt sp; have := tag_code_lt t; have := sc.isLt; have := Bool.toNat_lt u; simp only [enc_stvx]; omega)
theorem pfh (a : SReg) (i : BitVec 18) (n : Ix8) : Statement (.pfh a i n) :=
  of_parts 0x148 _ rfl (by decide) (by have := a.isLt; have := i.isLt; have := n.isLt; simp only [enc_pfh]; omega)
theorem stc (d : VReg) (a : SReg) (n : BitVec 8) (t : Tag) : Statement (.stc d a n t) :=
  of_parts 0x150 _ rfl (by decide) (by have := d.isLt; have := a.isLt; have := n.isLt; have := tag_code_lt t; simp only [enc_stc]; omega)
theorem ldc (d : SReg) (a : SReg) (i : BitVec 18) (sp : Space) (sz : Size) (u : Bool) : Statement (.ldc d a i sp sz u) :=
  of_parts 0x151 _ rfl (by decide) (by have := d.isLt; have := a.isLt; have := i.isLt; have := space_code_lt sp; have := size_code_lt sz; have := Bool.toNat_lt u; simp only [enc_ldc]; omega)
theorem ldvc (d : VReg) (a : SReg) (i : BitVec 18) (sp : Space) (t : Tag) : Statement (.ldvc d a i sp t) :=
  of_parts 0x152 _ rfl (by decide) (by have := d.isLt; have := a.isLt; have := i.isLt; have := space_code_lt sp; have := tag_code_lt t; simp only [enc_ldvc]; omega)
theorem rcq (d : SReg) (a : SReg) (i : BitVec 18) (sp : Space) : Statement (.rcq d a i sp) :=
  of_parts 0x153 _ rfl (by decide) (by have := d.isLt; have := a.isLt; have := i.isLt; have := space_code_lt sp; simp only [enc_rcq]; omega)
theorem aadd (d : SReg) (a : SReg) (b : SReg) (sp : Space) (q : Bool) : Statement (.aadd d a b sp q) :=
  of_parts 0x154 _ rfl (by decide) (by have := d.isLt; have := a.isLt; have := b.isLt; have := space_code_lt sp; have := Bool.toNat_lt q; simp only [enc_aadd]; omega)
theorem amin (d : SReg) (a : SReg) (b : SReg) (sp : Space) (q : Bool) (u : Bool) : Statement (.amin d a b sp q u) :=
  of_parts 0x155 _ rfl (by decide) (by have := d.isLt; have := a.isLt; have := b.isLt; have := space_code_lt sp; have := Bool.toNat_lt q; have := Bool.toNat_lt u; simp only [enc_amin]; omega)
theorem amax (d : SReg) (a : SReg) (b : SReg) (sp : Space) (q : Bool) (u : Bool) : Statement (.amax d a b sp q u) :=
  of_parts 0x156 _ rfl (by decide) (by have := d.isLt; have := a.isLt; have := b.isLt; have := space_code_lt sp; have := Bool.toNat_lt q; have := Bool.toNat_lt u; simp only [enc_amax]; omega)
theorem aand (d : SReg) (a : SReg) (b : SReg) (sp : Space) (q : Bool) : Statement (.aand d a b sp q) :=
  of_parts 0x157 _ rfl (by decide) (by have := d.isLt; have := a.isLt; have := b.isLt; have := space_code_lt sp; have := Bool.toNat_lt q; simp only [enc_aand]; omega)
theorem aor (d : SReg) (a : SReg) (b : SReg) (sp : Space) (q : Bool) : Statement (.aor d a b sp q) :=
  of_parts 0x158 _ rfl (by decide) (by have := d.isLt; have := a.isLt; have := b.isLt; have := space_code_lt sp; have := Bool.toNat_lt q; simp only [enc_aor]; omega)
theorem axor (d : SReg) (a : SReg) (b : SReg) (sp : Space) (q : Bool) : Statement (.axor d a b sp q) :=
  of_parts 0x159 _ rfl (by decide) (by have := d.isLt; have := a.isLt; have := b.isLt; have := space_code_lt sp; have := Bool.toNat_lt q; simp only [enc_axor]; omega)
theorem aswp (d : SReg) (a : SReg) (b : SReg) (sp : Space) (q : Bool) : Statement (.aswp d a b sp q) :=
  of_parts 0x15A _ rfl (by decide) (by have := d.isLt; have := a.isLt; have := b.isLt; have := space_code_lt sp; have := Bool.toNat_lt q; simp only [enc_aswp]; omega)
theorem acas (d : SReg) (a : SReg) (b : SReg) (c : SReg) (sp : Space) (q : Bool) : Statement (.acas d a b c sp q) :=
  of_parts 0x15B _ rfl (by decide) (by have := d.isLt; have := a.isLt; have := b.isLt; have := c.isLt; have := space_code_lt sp; have := Bool.toNat_lt q; simp only [enc_acas]; omega)
theorem brel (a : SReg) (b : SReg) : Statement (.brel a b) :=
  of_parts 0x15C _ rfl (by decide) (by have := a.isLt; have := b.isLt; simp only [enc_brel]; omega)
theorem brelP (a : SReg) (b : SReg) : Statement (.brelP a b) :=
  of_parts 0x15C _ rfl (by decide) (by have := a.isLt; have := b.isLt; simp only [enc_brelP]; omega)
theorem bwait (a : SReg) (b : SReg) : Statement (.bwait a b) :=
  of_parts 0x15D _ rfl (by decide) (by have := a.isLt; have := b.isLt; simp only [enc_bwait]; omega)
theorem pdef (n : Ix8) (a : SReg) : Statement (.pdef n a) :=
  of_parts 0x15E _ rfl (by decide) (by have := n.isLt; have := a.isLt; simp only [enc_pdef]; omega)
theorem pdefRel (n : Ix8) : Statement (.pdefRel n) :=
  of_parts 0x15E _ rfl (by decide) (by have := n.isLt; simp only [enc_pdefRel]; omega)
theorem wset (a : SReg) (b : SReg) : Statement (.wset a b) :=
  of_parts 0x160 _ rfl (by decide) (by have := a.isLt; have := b.isLt; simp only [enc_wset]; omega)
theorem wsetInv (a : SReg) : Statement (.wsetInv a) :=
  of_parts 0x160 _ rfl (by decide) (by have := a.isLt; simp only [enc_wsetInv]; omega)
theorem ldw (d : SReg) (h : BitVec 16) (a : SReg) (sz : Size) : Statement (.ldw d h a sz) :=
  of_parts 0x161 _ rfl (by decide) (by have := d.isLt; have := h.isLt; have := a.isLt; have := size_code_lt sz; simp only [enc_ldw]; omega)
theorem ldwVec (d : VReg) (h : BitVec 16) (a : SReg) (t : Tag) : Statement (.ldwVec d h a t) :=
  of_parts 0x161 _ rfl (by decide) (by have := d.isLt; have := h.isLt; have := a.isLt; have := tag_code_lt t; simp only [enc_ldwVec]; omega)
theorem stw (d : SReg) (h : BitVec 16) (a : SReg) (sz : Size) : Statement (.stw d h a sz) :=
  of_parts 0x162 _ rfl (by decide) (by have := d.isLt; have := h.isLt; have := a.isLt; have := size_code_lt sz; simp only [enc_stw]; omega)
theorem stwVec (d : VReg) (h : BitVec 16) (a : SReg) (t : Tag) : Statement (.stwVec d h a t) :=
  of_parts 0x162 _ rfl (by decide) (by have := d.isLt; have := h.isLt; have := a.isLt; have := tag_code_lt t; simp only [enc_stwVec]; omega)
theorem fencex : Statement (.fencex) := of_parts 0x163 (0) rfl (by decide) (by decide)
theorem tcfg (t : Ix8) (a : SReg) : Statement (.tcfg t a) :=
  of_parts 0x180 _ rfl (by decide) (by have := t.isLt; have := a.isLt; simp only [enc_tcfg]; omega)
theorem tcfgqVer (b : SReg) (t : Ix8) : Statement (.tcfgqVer b t) :=
  of_parts 0x181 _ rfl (by decide) (by have := b.isLt; have := t.isLt; simp only [enc_tcfgqVer]; omega)
theorem tcfgqSt (b : SReg) (t : Ix8) : Statement (.tcfgqSt b t) :=
  of_parts 0x181 _ rfl (by decide) (by have := b.isLt; have := t.isLt; simp only [enc_tcfgqSt]; omega)
theorem tcfgqTag (b : SReg) : Statement (.tcfgqTag b) :=
  of_parts 0x181 _ rfl (by decide) (by have := b.isLt; simp only [enc_tcfgqTag]; omega)
theorem tcfgqSep (b : SReg) : Statement (.tcfgqSep b) :=
  of_parts 0x181 _ rfl (by decide) (by have := b.isLt; simp only [enc_tcfgqSep]; omega)
theorem tzero (t : Ix8) : Statement (.tzero t) :=
  of_parts 0x182 _ rfl (by decide) (by have := t.isLt; simp only [enc_tzero]; omega)
theorem mset (mp : Ix8) (a : SReg) : Statement (.mset mp a) :=
  of_parts 0x183 _ rfl (by decide) (by have := mp.isLt; have := a.isLt; simp only [enc_mset]; omega)
theorem mord (mp : Ix8) (a : SReg) (b : SReg) : Statement (.mord mp a b) :=
  of_parts 0x184 _ rfl (by decide) (by have := mp.isLt; have := a.isLt; have := b.isLt; simp only [enc_mord]; omega)
theorem tld (t : Ix8) (mp : Ix8) (a : SReg) (b : SReg) (c : Bool) (k : Option KReg) : Statement (.tld t mp a b c k) :=
  of_parts 0x185 _ rfl (by decide) (by have := t.isLt; have := mp.isLt; have := a.isLt; have := b.isLt; have := Bool.toNat_lt c; simp only [enc_tld]; have := ffO_le k 31 1; omega)
theorem tst (t : Ix8) (mp : Ix8) (a : SReg) (b : SReg) (n : BitVec 8) (k : Option KReg) : Statement (.tst t mp a b n k) :=
  of_parts 0x186 _ rfl (by decide) (by have := t.isLt; have := mp.isLt; have := a.isLt; have := b.isLt; have := n.isLt; simp only [enc_tst]; have := ffO_le k 31 8; omega)
theorem tldv (t : Ix8) (v : VReg) (a : SReg) (n : BitVec 7) : Statement (.tldv t v a n) :=
  of_parts 0x187 _ rfl (by decide) (by have := t.isLt; have := v.isLt; have := a.isLt; have := n.isLt; simp only [enc_tldv]; omega)
theorem tstv (t : Ix8) (v : VReg) (a : SReg) (n : BitVec 7) : Statement (.tstv t v a n) :=
  of_parts 0x188 _ rfl (by decide) (by have := t.isLt; have := v.isLt; have := a.isLt; have := n.isLt; simp only [enc_tstv]; omega)
theorem tmc (mp : Ix8) (a : SReg) (b : SReg) (m : MReg) (u : Ix8) (c : Bool) (k : Option KReg) : Statement (.tmc mp a b m u c k) :=
  of_parts 0x189 _ rfl (by decide) (by have := mp.isLt; have := a.isLt; have := b.isLt; have := m.isLt; have := u.isLt; have := Bool.toNat_lt c; simp only [enc_tmc]; have := ffO_le k 31 5; omega)
theorem trecv (t : Ix8) (k : KReg) (n : Ix8) : Statement (.trecv t k n) :=
  of_parts 0x18A _ rfl (by decide) (by have := t.isLt; have := k.isLt; have := n.isLt; simp only [enc_trecv]; omega)
theorem trecvRel (n : Ix8) : Statement (.trecvRel n) :=
  of_parts 0x18A _ rfl (by decide) (by have := n.isLt; simp only [enc_trecvRel]; omega)
theorem tcons (t : Ix8) (n : BitVec 8) : Statement (.tcons t n) :=
  of_parts 0x18B _ rfl (by decide) (by have := t.isLt; have := n.isLt; simp only [enc_tcons]; omega)
theorem dtab (n : Fin 4) (a : SReg) : Statement (.dtab n a) :=
  of_parts 0x18C _ rfl (by decide) (by have := n.isLt; have := a.isLt; simp only [enc_dtab]; omega)
theorem tldz (t : Ix8) (a : SReg) (b : SReg) (g : Tag) (k : Option KReg) : Statement (.tldz t a b g k) :=
  of_parts 0x18D _ rfl (by decide) (by have := t.isLt; have := a.isLt; have := b.isLt; have := tag_code_lt g; simp only [enc_tldz]; have := ffO_le k 31 4; omega)
theorem wait (l : PReg) (s : PReg) (c : PReg) (t : PReg) : Statement (.wait l s c t) :=
  of_parts 0x18E _ rfl (by decide) (by have := l.isLt; have := s.isLt; have := c.isLt; have := t.isLt; simp only [enc_wait]; omega)
theorem mma (n : Bool) (t : Ix8) (u : Ix8) (a : SReg) (z : Bool) (w : Bool) (ca : Bool) (cb : Bool) (ua : Bool) (ub : Bool) : Statement (.mma n t u a z w ca cb ua ub) :=
  of_parts 0x190 _ rfl (by decide) (by have := Bool.toNat_lt n; have := t.isLt; have := u.isLt; have := a.isLt; have := Bool.toNat_lt z; have := Bool.toNat_lt w; have := Bool.toNat_lt ca; have := Bool.toNat_lt cb; have := Bool.toNat_lt ua; have := Bool.toNat_lt ub; simp only [enc_mma]; omega)
theorem mmzI32 (n : Bool) : Statement (.mmzI32 n) :=
  of_parts 0x191 _ rfl (by decide) (by have := Bool.toNat_lt n; simp only [enc_mmzI32]; omega)
theorem mmzFp32 (n : Bool) : Statement (.mmzFp32 n) :=
  of_parts 0x191 _ rfl (by decide) (by have := Bool.toNat_lt n; simp only [enc_mmzFp32]; omega)
theorem mmdr (t : Ix8) (n : Bool) (a : SReg) (bv : Option VReg) (x : Option Ix8) (act : Bool) (q : Bool) (z : Bool) : Statement (.mmdr t n a bv x act q z) :=
  of_parts 0x192 _ rfl (by decide) (by have := t.isLt; have := Bool.toNat_lt n; have := a.isLt; have := Bool.toNat_lt act; have := Bool.toNat_lt q; have := Bool.toNat_lt z; simp only [enc_mmdr]; have := ffO_le bv 9 1; have := ffO_le x 35 4; omega)
theorem qld (n : Bool) (qb : Bool) (st : Bool) (a : SReg) : Statement (.qld n qb st a) :=
  of_parts 0x193 _ rfl (by decide) (by have := Bool.toNat_lt n; have := Bool.toNat_lt qb; have := Bool.toNat_lt st; have := a.isLt; simp only [enc_qld]; omega)
theorem qldBind (n : Bool) (qb : Bool) (st : Bool) (a : SReg) (t : Ix8) : Statement (.qldBind n qb st a t) :=
  of_parts 0x193 _ rfl (by decide) (by have := Bool.toNat_lt n; have := Bool.toNat_lt qb; have := Bool.toNat_lt st; have := a.isLt; have := t.isLt; simp only [enc_qldBind]; omega)
theorem qst (n : Bool) (qb : Bool) (st : Bool) (a : SReg) : Statement (.qst n qb st a) :=
  of_parts 0x194 _ rfl (by decide) (by have := Bool.toNat_lt n; have := Bool.toNat_lt qb; have := Bool.toNat_lt st; have := a.isLt; simp only [enc_qst]; omega)
theorem esetRng (a : SReg) : Statement (.esetRng a) :=
  of_parts 0x195 _ rfl (by decide) (by have := a.isLt; simp only [enc_esetRng]; omega)
theorem esetQ (a : SReg) : Statement (.esetQ a) :=
  of_parts 0x195 _ rfl (by decide) (by have := a.isLt; simp only [enc_esetQ]; omega)
theorem etab (a : SReg) : Statement (.etab a) :=
  of_parts 0x196 _ rfl (by decide) (by have := a.isLt; simp only [enc_etab]; omega)
theorem lset (n : Ix8) (a : SReg) : Statement (.lset n a) :=
  of_parts 0x1A0 _ rfl (by decide) (by have := n.isLt; have := a.isLt; simp only [enc_lset]; omega)
theorem lcoord (b : SReg) (n : Ix8) (q : Ix8) : Statement (.lcoord b n q) :=
  of_parts 0x1A1 _ rfl (by decide) (by have := b.isLt; have := n.isLt; have := q.isLt; simp only [enc_lcoord]; omega)
theorem lnbr (b : SReg) (n : Ix8) (ax : Fin 4) (dir : Bool) : Statement (.lnbr b n ax dir) :=
  of_parts 0x1A2 _ rfl (by decide) (by have := b.isLt; have := n.isLt; have := ax.isLt; have := Bool.toNat_lt dir; simp only [enc_lnbr]; omega)
theorem hsend (n : Ix8) (ax : Fin 4) (dir : Bool) (k : Option KReg) : Statement (.hsend n ax dir k) :=
  of_parts 0x1A3 _ rfl (by decide) (by have := n.isLt; have := ax.isLt; have := Bool.toNat_lt dir; simp only [enc_hsend]; have := ffO_le k 31 6; omega)
theorem hrecv (n : Ix8) (k : KReg) : Statement (.hrecv n k) :=
  of_parts 0x1A4 _ rfl (by decide) (by have := n.isLt; have := k.isLt; simp only [enc_hrecv]; omega)
theorem hrecvRel (n : Ix8) : Statement (.hrecvRel n) :=
  of_parts 0x1A4 _ rfl (by decide) (by have := n.isLt; simp only [enc_hrecvRel]; omega)
theorem reshard (d : Ix8) (n : Ix8) (k : Option KReg) : Statement (.reshard d n k) :=
  of_parts 0x1A5 _ rfl (by decide) (by have := d.isLt; have := n.isLt; simp only [enc_reshard]; have := ffO_le k 31 6; omega)
theorem cred (a : SReg) (b : SReg) (k : Option KReg) : Statement (.cred a b k) :=
  of_parts 0x1A6 _ rfl (by decide) (by have := a.isLt; have := b.isLt; simp only [enc_cred]; have := ffO_le k 31 0; omega)
theorem credCh (a : SReg) (b : SReg) (c : Fin 64) (k : Option KReg) : Statement (.credCh a b c k) :=
  of_parts 0x1A6 _ rfl (by decide) (by have := a.isLt; have := b.isLt; have := c.isLt; simp only [enc_credCh]; have := ffO_le k 31 0; omega)
theorem chset (c : Fin 64) (a : SReg) : Statement (.chset c a) :=
  of_parts 0x1A7 _ rfl (by decide) (by have := c.isLt; have := a.isLt; simp only [enc_chset]; omega)
theorem chsetRel (c : Fin 64) : Statement (.chsetRel c) :=
  of_parts 0x1A7 _ rfl (by decide) (by have := c.isLt; simp only [enc_chsetRel]; omega)
theorem chsend (c : Fin 64) (v : VReg) : Statement (.chsend c v) :=
  of_parts 0x1A8 _ rfl (by decide) (by have := c.isLt; have := v.isLt; simp only [enc_chsend]; omega)
theorem chrecv (v : VReg) (c : Fin 64) : Statement (.chrecv v c) :=
  of_parts 0x1A9 _ rfl (by decide) (by have := v.isLt; have := c.isLt; simp only [enc_chrecv]; omega)
theorem tid (d : SReg) : Statement (.tid d) :=
  of_parts 0x1C0 _ rfl (by decide) (by have := d.isLt; simp only [enc_tid]; omega)
theorem tcount (d : SReg) : Statement (.tcount d) :=
  of_parts 0x1C1 _ rfl (by decide) (by have := d.isLt; simp only [enc_tcount]; omega)
theorem join (d : SReg) (a : SReg) (b : SReg) : Statement (.join d a b) :=
  of_parts 0x1C2 _ rfl (by decide) (by have := d.isLt; have := a.isLt; have := b.isLt; simp only [enc_join]; omega)
theorem leave (a : SReg) : Statement (.leave a) :=
  of_parts 0x1C3 _ rfl (by decide) (by have := a.isLt; simp only [enc_leave]; omega)
theorem grank (d : SReg) (a : SReg) : Statement (.grank d a) :=
  of_parts 0x1C4 _ rfl (by decide) (by have := d.isLt; have := a.isLt; simp only [enc_grank]; omega)
theorem gsize (d : SReg) (a : SReg) : Statement (.gsize d a) :=
  of_parts 0x1C5 _ rfl (by decide) (by have := d.isLt; have := a.isLt; simp only [enc_gsize]; omega)
theorem gsizeJ (d : SReg) (a : SReg) : Statement (.gsizeJ d a) :=
  of_parts 0x1C5 _ rfl (by decide) (by have := d.isLt; have := a.isLt; simp only [enc_gsizeJ]; omega)
theorem exit : Statement (.exit) := of_parts 0x1C6 (0) rfl (by decide) (by decide)
theorem yield : Statement (.yield) := of_parts 0x1C7 (0) rfl (by decide) (by decide)
theorem trig : Statement (.trig) := of_parts 0x1C8 (0) rfl (by decide) (by decide)
theorem launch (d : SReg) (a : SReg) (b : SReg) : Statement (.launch d a b) :=
  of_parts 0x1C9 _ rfl (by decide) (by have := d.isLt; have := a.isLt; have := b.isLt; simp only [enc_launch]; omega)
theorem prio (d : SReg) (a : SReg) (n : PReg) (r : Bool) : Statement (.prio d a n r) :=
  of_parts 0x1CA _ rfl (by decide) (by have := d.isLt; have := a.isLt; have := n.isLt; have := Bool.toNat_lt r; simp only [enc_prio]; omega)
theorem prioAll (d : SReg) (a : SReg) (n : PReg) (r : Bool) : Statement (.prioAll d a n r) :=
  of_parts 0x1CA _ rfl (by decide) (by have := d.isLt; have := a.isLt; have := n.isLt; have := Bool.toNat_lt r; simp only [enc_prioAll]; omega)
theorem kset (k : KReg) (a : SReg) : Statement (.kset k a) :=
  of_parts 0x1D0 _ rfl (by decide) (by have := k.isLt; have := a.isLt; simp only [enc_kset]; omega)
theorem ksetClr (k : KReg) : Statement (.ksetClr k) :=
  of_parts 0x1D0 _ rfl (by decide) (by have := k.isLt; simp only [enc_ksetClr]; omega)
theorem kmodeOn (k : KReg) : Statement (.kmodeOn k) :=
  of_parts 0x1D1 _ rfl (by decide) (by have := k.isLt; simp only [enc_kmodeOn]; omega)
theorem kmodeOff (k : KReg) : Statement (.kmodeOff k) :=
  of_parts 0x1D1 _ rfl (by decide) (by have := k.isLt; simp only [enc_kmodeOff]; omega)
theorem kadd (k : KReg) (a : SReg) (i : BitVec 28) : Statement (.kadd k a i) :=
  of_parts 0x1D2 _ rfl (by decide) (by have := k.isLt; have := a.isLt; have := i.isLt; simp only [enc_kadd]; omega)
theorem kaddr (k : KReg) (d : SReg) (a : SReg) (i : BitVec 16) : Statement (.kaddr k d a i) :=
  of_parts 0x1D3 _ rfl (by decide) (by have := k.isLt; have := d.isLt; have := a.isLt; have := i.isLt; simp only [enc_kaddr]; omega)
theorem kwait (k : KReg) (a : SReg) (i : BitVec 16) : Statement (.kwait k a i) :=
  of_parts 0x1D4 _ rfl (by decide) (by have := k.isLt; have := a.isLt; have := i.isLt; simp only [enc_kwait]; omega)
theorem kread (k : KReg) (d : SReg) : Statement (.kread k d) :=
  of_parts 0x1D5 _ rfl (by decide) (by have := k.isLt; have := d.isLt; simp only [enc_kread]; omega)
theorem bar (a : SReg) : Statement (.bar a) :=
  of_parts 0x1D6 _ rfl (by decide) (by have := a.isLt; simp only [enc_bar]; omega)
theorem barA (d : SReg) (a : SReg) : Statement (.barA d a) :=
  of_parts 0x1D6 _ rfl (by decide) (by have := d.isLt; have := a.isLt; simp only [enc_barA]; omega)
theorem barW (a : SReg) (b : SReg) : Statement (.barW a b) :=
  of_parts 0x1D6 _ rfl (by decide) (by have := a.isLt; have := b.isLt; simp only [enc_barW]; omega)
theorem wfown (k : KReg) (d : SReg) : Statement (.wfown k d) :=
  of_parts 0x1D7 _ rfl (by decide) (by have := k.isLt; have := d.isLt; simp only [enc_wfown]; omega)
theorem wfownT (k : KReg) (d : SReg) (a : SReg) : Statement (.wfownT k d a) :=
  of_parts 0x1D7 _ rfl (by decide) (by have := k.isLt; have := d.isLt; have := a.isLt; simp only [enc_wfownT]; omega)
theorem wfownG (k : KReg) (d : SReg) (a : SReg) : Statement (.wfownG k d a) :=
  of_parts 0x1D7 _ rfl (by decide) (by have := k.isLt; have := d.isLt; have := a.isLt; simp only [enc_wfownG]; omega)
theorem wfownE (k : KReg) (d : SReg) (a : SReg) : Statement (.wfownE k d a) :=
  of_parts 0x1D7 _ rfl (by decide) (by have := k.isLt; have := d.isLt; have := a.isLt; simp only [enc_wfownE]; omega)
theorem wfownR (k : KReg) (d : SReg) (a : SReg) : Statement (.wfownR k d a) :=
  of_parts 0x1D7 _ rfl (by decide) (by have := k.isLt; have := d.isLt; have := a.isLt; simp only [enc_wfownR]; omega)
theorem wfdrop (k : KReg) : Statement (.wfdrop k) :=
  of_parts 0x1D8 _ rfl (by decide) (by have := k.isLt; simp only [enc_wfdrop]; omega)
theorem wfdropAll (k : KReg) : Statement (.wfdropAll k) :=
  of_parts 0x1D8 _ rfl (by decide) (by have := k.isLt; simp only [enc_wfdropAll]; omega)
theorem wfqW (k : KReg) (d : SReg) : Statement (.wfqW k d) :=
  of_parts 0x1D9 _ rfl (by decide) (by have := k.isLt; have := d.isLt; simp only [enc_wfqW]; omega)
theorem wfqO (k : KReg) (d : SReg) : Statement (.wfqO k d) :=
  of_parts 0x1D9 _ rfl (by decide) (by have := k.isLt; have := d.isLt; simp only [enc_wfqO]; omega)
theorem wfqF (d : SReg) : Statement (.wfqF d) :=
  of_parts 0x1D9 _ rfl (by decide) (by have := d.isLt; simp only [enc_wfqF]; omega)
theorem kaddw (a : SReg) (i : BitVec 28) : Statement (.kaddw a i) :=
  of_parts 0x1DA _ rfl (by decide) (by have := a.isLt; have := i.isLt; simp only [enc_kaddw]; omega)
theorem trap (i : BitVec 26) : Statement (.trap i) :=
  of_parts 0x1E0 _ rfl (by decide) (by have := i.isLt; simp only [enc_trap]; omega)
theorem xret : Statement (.xret) := of_parts 0x1E1 (0) rfl (by decide) (by decide)
theorem tlbi (a : SReg) : Statement (.tlbi a) :=
  of_parts 0x1E2 _ rfl (by decide) (by have := a.isLt; simp only [enc_tlbi]; omega)
theorem tlbiAll : Statement (.tlbiAll) := of_parts 0x1E2 (1 * 2 ^ 0) rfl (by decide) (by decide)
theorem ctxsv (a : SReg) : Statement (.ctxsv a) :=
  of_parts 0x1F0 _ rfl (by decide) (by have := a.isLt; simp only [enc_ctxsv]; omega)
theorem ctxld (a : SReg) (b : SReg) : Statement (.ctxld a b) :=
  of_parts 0x1F1 _ rfl (by decide) (by have := a.isLt; have := b.isLt; simp only [enc_ctxld]; omega)
theorem dload (a : SReg) (b : SReg) : Statement (.dload a b) :=
  of_parts 0x1F2 _ rfl (by decide) (by have := a.isLt; have := b.isLt; simp only [enc_dload]; omega)
theorem fixedResultLands (c : Nat) : Statement (.fixedResultLands c) := of_none rfl
theorem pendingResultArrives (c : Nat) (op : Nat) (ok : Bool) : Statement (.pendingResultArrives c op ok) := of_none rfl
theorem storePerformed (c : Nat) (op : Nat) (ok : Bool) : Statement (.storePerformed c op ok) := of_none rfl
theorem arriveAdd (c : Nat) (addr : Nat) : Statement (.arriveAdd c addr) := of_none rfl
theorem wakeToken (c : Nat) (entry : Nat) (order : Nat) : Statement (.wakeToken c entry order) := of_none rfl
theorem unregisteredWaitPoll (c : Nat) : Statement (.unregisteredWaitPoll c) := of_none rfl
theorem dispatchDeadlockCheck (die : Nat) : Statement (.dispatchDeadlockCheck die) := of_none rfl
theorem trapEntry (c : Nat) (f : FaultInfo) : Statement (.trapEntry c f) := of_none rfl
theorem trigRetire (c : Nat) : Statement (.trigRetire c) := of_none rfl
theorem threadRetire (c : Nat) : Statement (.threadRetire c) := of_none rfl
theorem dispatchSelect (die : Nat) (core : Nat) (hctx : Nat) (fb : Nat) (tb : Nat) : Statement (.dispatchSelect die core hctx fb tb) := of_none rfl
theorem bind (die : Nat) (entry : Nat) : Statement (.bind die entry) := of_none rfl
theorem sliceExpiry (c : Nat) : Statement (.sliceExpiry c) := of_none rfl
theorem preemptSave (c : Nat) : Statement (.preemptSave c) := of_none rfl
theorem watchdogT1 (lnch : Nat) (tid : Nat) : Statement (.watchdogT1 lnch tid) := of_none rfl
theorem watchdogT2 (lnch : Nat) (tid : Nat) : Statement (.watchdogT2 lnch tid) := of_none rfl
theorem watchdogT3 (c : Nat) : Statement (.watchdogT3 c) := of_none rfl
theorem killDrainComplete (c : Nat) : Statement (.killDrainComplete c) := of_none rfl
theorem engineCommandExecute (c : Nat) (tag : Nat) : Statement (.engineCommandExecute c tag) := of_none rfl
theorem engineCommandComplete (c : Nat) (tag : Nat) : Statement (.engineCommandComplete c tag) := of_none rfl
theorem multicastReservation (c : Nat) (tag : Nat) : Statement (.multicastReservation c tag) := of_none rfl
theorem multicastArrival (c : Nat) (tag : Nat) : Statement (.multicastArrival c tag) := of_none rfl
theorem ladleArrival (c : Nat) (tag : Nat) : Statement (.ladleArrival c tag) := of_none rfl
theorem reshardArrival (c : Nat) (tag : Nat) : Statement (.reshardArrival c tag) := of_none rfl
theorem creameryReduction (lnch : Nat) (key : Nat) (j : Nat) : Statement (.creameryReduction lnch key j) := of_none rfl
theorem reductionDelivery (lnch : Nat) (key : Nat) (j : Nat) : Statement (.reductionDelivery lnch key j) := of_none rfl
theorem channelItemWrite (lnch : Nat) (ch : Nat) : Statement (.channelItemWrite lnch ch) := of_none rfl
theorem channelItemRead (lnch : Nat) (ch : Nat) : Statement (.channelItemRead lnch ch) := of_none rfl
theorem pailCounterAdd (die : Nat) (entry : Nat) : Statement (.pailCounterAdd die entry) := of_none rfl
theorem remoteRequestArrives (q : Incoming) : Statement (.remoteRequestArrives q) := of_none rfl
theorem acknowledgementArrives (op : Nat) (data : List Byte) : Statement (.acknowledgementArrives op data) := of_none rfl
theorem receiverNotReady (op : Nat) : Statement (.receiverNotReady op) := of_none rfl
theorem retryBackoffExpiry (op : Nat) : Statement (.retryBackoffExpiry op) := of_none rfl
theorem errorAnswer (op : Nat) (cause : Nat) (e : ErrorInfo) : Statement (.errorAnswer op cause e) := of_none rfl
theorem relayForward (q : RemoteReq) : Statement (.relayForward q) := of_none rfl
theorem drainMarker (m : Marker) : Statement (.drainMarker m) := of_none rfl
theorem peerUnreachable (m : Nat) : Statement (.peerUnreachable m) := of_none rfl
theorem rotorSlotStart (port : Nat) : Statement (.rotorSlotStart port) := of_none rfl
theorem portLocked (port : Nat) : Statement (.portLocked port) := of_none rfl
theorem portLockTimeout (port : Nat) (tx : Nat) (rx : Nat) : Statement (.portLockTimeout port tx rx) := of_none rfl
theorem quiesceDone (port : Nat) : Statement (.quiesceDone port) := of_none rfl
theorem wavelengthFailure (port : Nat) (tx : Nat) (rx : Nat) : Statement (.wavelengthFailure port tx rx) := of_none rfl
theorem opcfgWrite (port : Nat) (x : Word) : Statement (.opcfgWrite port x) := of_none rfl
theorem dmcfgWrite (die : Nat) (x : Word) : Statement (.dmcfgWrite die x) := of_none rfl
theorem vatwWrite (die : Nat) (x : Word) : Statement (.vatwWrite die x) := of_none rfl
theorem qmapMap (die : Nat) (q : Nat) (x : Word) : Statement (.qmapMap die q x) := of_none rfl
theorem qmapUnmap (die : Nat) (q : Nat) : Statement (.qmapUnmap die q) := of_none rfl
theorem managementRegisterWrite (addr : Nat) (x : Word) : Statement (.managementRegisterWrite addr x) := of_none rfl
theorem mread (port : Nat) (pa : Nat) (n : Nat) : Statement (.mread port pa n) := of_none rfl
theorem mwrite (port : Nat) (pa : Nat) (data : List Byte) : Statement (.mwrite port pa data) := of_none rfl
theorem append (port : Nat) (hdr : Word) (rec : Word) : Statement (.append port hdr rec) := of_none rfl
theorem notify (die : Nat) (q : Nat) (x : Word) : Statement (.notify die q x) := of_none rfl
theorem cread (port : Nat) (addr : Nat) : Statement (.cread port addr) := of_none rfl
theorem cwrite (port : Nat) (addr : Nat) (x : Word) : Statement (.cwrite port addr x) := of_none rfl
theorem measure (port : Nat) (nonce : List Byte) : Statement (.measure port nonce) := of_none rfl
theorem records (port : Nat) : Statement (.records port) := of_none rfl
theorem recordsLostReport (src : Nat) : Statement (.recordsLostReport src) := of_none rfl
theorem moduleReset : Statement (.moduleReset) := of_none rfl
theorem securityAlarm : Statement (.securityAlarm) := of_none rfl
theorem thermalThrottle (die : Nat) : Statement (.thermalThrottle die) := of_none rfl
theorem thermalTrip (die : Nat) : Statement (.thermalTrip die) := of_none rfl
theorem i2cResetRequest (x : Byte) : Statement (.i2cResetRequest x) := of_none rfl
theorem fencedCoreRestore (die : Nat) (core : Nat) : Statement (.fencedCoreRestore die core) := of_none rfl

end Sys2Proof.Laws.Encoding
end

