-- ==== Sys2Proof/Laws/Vector.lean ====
section
/-! SUPPORT. Lanes of vector registers: packing, merging under a mask, and what a masked or whole-register result does. -/

namespace Sys2Proof.Machine

theorem laneW_pos (t : Tag) : 0 < laneW t := by cases t <;> decide
theorem laneW_dvd (t : Tag) : laneW t * lanes t = 8192 := by cases t <;> decide

theorem testBit_foldr (w : Nat) (hw : 0 < w) (xs : List Nat) (j : Nat) :
    (xs.foldr (fun x a => a * 2 ^ w + x % 2 ^ w) 0).testBit j = (xs.getD (j / w) 0).testBit (j % w) := by
  induction xs generalizing j with
  | nil => simp
  | cons x xs ih =>
    simp only [List.foldr_cons]
    rw [Nat.mul_comm _ (2 ^ w), Nat.testBit_two_pow_mul_add _ (Nat.mod_lt _ (Nat.two_pow_pos w))]
    split_ifs with h
    · rw [Nat.div_eq_of_lt h, Nat.mod_eq_of_lt h, Nat.testBit_mod_two_pow]; simp [h]
    · rw [ih]
      obtain ⟨k, rfl⟩ := Nat.exists_eq_add_of_le (Nat.le_of_not_lt h)
      rw [Nat.add_sub_cancel_left, Nat.add_div_left _ hw, Nat.add_mod_left]
      rfl

theorem testBit_laneBits (x : BitVec 8192) (w i j : Nat) : (laneBits x w i).testBit j = (decide (j < w) && x.getLsbD (w * i + j)) := by
  simp only [laneBits, fld, Nat.testBit_mod_two_pow, Nat.testBit_div_two_pow, BitVec.getLsbD]
  rw [Nat.add_comm]

theorem getLsbD_packLanes (w : Nat) (hw : 0 < w) (xs : List Nat) (j : Nat) (hj : j < 8192) :
    (packLanes w xs).getLsbD j = (xs.getD (j / w) 0).testBit (j % w) := by
  rw [packLanes, BitVec.getLsbD_ofNat, testBit_foldr w hw]; simp [hj]

theorem laneBits_packLanes (w : Nat) (xs : List Nat) (i : Nat) (hw : 0 < w) (hi : w * (i + 1) ≤ 8192) :
    laneBits (packLanes w xs) w i = xs.getD i 0 % 2 ^ w := by
  apply Nat.eq_of_testBit_eq
  intro j
  rw [testBit_laneBits, Nat.testBit_mod_two_pow]
  by_cases h : j < w
  · have : w * i + j < 8192 := by rw [Nat.mul_add] at hi; omega
    rw [getLsbD_packLanes w hw xs _ this, Nat.mul_add_div hw, Nat.div_eq_of_lt h, Nat.mul_add_mod, Nat.mod_eq_of_lt h]
    simp
  · simp [h]

/-- A merge under a mask, lane by lane. -/
theorem laneBits_merge (o data mask : BitVec 8192) (w i : Nat) (b : Bool) (h : ∀ j < w, mask.getLsbD (w * i + j) = b)
    (hi : w * (i + 1) ≤ 8192) : laneBits ((o &&& ~~~mask) ||| (data &&& mask)) w i = if b then laneBits data w i else laneBits o w i := by
  apply Nat.eq_of_testBit_eq
  intro j
  by_cases hj : j < w
  · have hlt : w * i + j < 8192 := by rw [Nat.mul_add] at hi; omega
    have hm := h j hj
    rw [testBit_laneBits]
    cases b <;> simp only [BitVec.getLsbD_or, BitVec.getLsbD_and, BitVec.getLsbD_not, hm, hlt, hj] <;> simp [testBit_laneBits, hj]
  · cases b <;> simp [testBit_laneBits, hj]

theorem getLsbD_laneMask (w n : Nat) (en : Nat → Bool) (i j : Nat) (hw : 0 < w) (hj : j < w) (hi : w * (i + 1) ≤ 8192) (hn : i < n) :
    (laneMask w n en).getLsbD (w * i + j) = en i := by
  have hlt : w * i + j < 8192 := by rw [Nat.mul_add] at hi; omega
  rw [laneMask, getLsbD_packLanes w hw _ _ hlt, Nat.mul_add_div hw, Nat.div_eq_of_lt hj, Nat.mul_add_mod, Nat.mod_eq_of_lt hj]
  simp only [Nat.add_zero, List.getD_eq_getElem?_getD, List.getElem?_map]
  rw [List.getElem?_range hn]
  cases he : en i <;> simp [he, Nat.testBit_two_pow_sub_one, hj]

theorem lane_room {t : Tag} {i : Nat} (hi : i < lanes t) : laneW t * (i + 1) ≤ 8192 := by
  rw [← laneW_dvd t]; exact Nat.mul_le_mul_left _ hi

/-- What a masked vector result does (R108): its lanes after it lands, and the flags of the lanes computed. -/
theorem putMasked_writes (lat : Nat) (d : VReg) (t : Tag) (m : BitVec 1024) (z : Bool) (f : Nat → LaneR) (s : State) :
    WritesV lat d t (laneFlags ((List.range (lanes t)).map fun i => if m.getLsbD i then f i else quiet 0))
      (masked m z fun i => (f i).1 % 2 ^ laneW t) s (.next (putMasked lat d t m z f s)) := by
  refine ⟨_, _, rfl, fun g => ⟨?_, fun r hr => ?_, fun i hi => ?_⟩⟩
  · simp [applyReg]
  · have : d.val ≠ r.val := fun h => hr (Fin.ext h.symm)
    simp [applyReg, Vector.getElem_set_ne, this]
  · simp only [applyReg, Fin.getElem_fin, Vector.getElem_set_self]
    have hroom := lane_room hi
    cases z with
    | true =>
      rw [laneBits_merge _ _ _ _ _ true (fun j hj => ?_) hroom]
      · simp only [if_true, masked]
        rw [laneBits_packLanes _ _ _ (laneW_pos t) hroom]
        simp only [List.map_map, List.getD_eq_getElem?_getD, List.getElem?_map]
        rw [List.getElem?_range hi]
        cases hm : m.getLsbD i <;> simp [hm, quiet]
      · have : laneW t * i + j < 8192 := by rw [Nat.mul_add] at hroom; omega
        rw [if_pos rfl, BitVec.getLsbD_allOnes]; exact decide_eq_true this
    | false =>
      rw [laneBits_merge _ _ _ _ _ (m.getLsbD i) (fun j hj => ?_) hroom]
      · rw [laneBits_packLanes _ _ _ (laneW_pos t) hroom]
        simp only [List.map_map, List.getD_eq_getElem?_getD, List.getElem?_map]
        rw [List.getElem?_range hi]
        cases hm : m.getLsbD i <;> simp [hm, masked]
      · exact getLsbD_laneMask _ _ _ _ _ (laneW_pos t) hj hroom hi

/-- What a whole-register result does. -/
theorem putAll_writes (lat : Nat) (d : VReg) (t : Tag) (data : BitVec 8192) (fl : Flags) (s : State) :
    WritesV lat d t fl (fun i _ => laneBits data (laneW t) i) s (.next (putAll lat d t data fl s)) := by
  refine ⟨_, _, rfl, fun g => ⟨?_, fun r hr => ?_, fun i hi => ?_⟩⟩
  · simp [applyReg]
  · have : d.val ≠ r.val := fun h => hr (Fin.ext h.symm)
    simp [applyReg, Vector.getElem_set_ne, this]
  · simp only [applyReg, Fin.getElem_fin, Vector.getElem_set_self]
    have hroom := lane_room hi
    rw [laneBits_merge _ _ _ _ _ true (fun j hj => ?_) hroom]
    · simp
    · have : laneW t * i + j < 8192 := by rw [Nat.mul_add] at hroom; omega
      rw [BitVec.getLsbD_allOnes]; exact decide_eq_true this

theorem laneBits_ofLanes (t : Tag) (f : Nat → Nat) (i : Nat) (hi : i < lanes t) : laneBits (ofLanes t f) (laneW t) i = f i % 2 ^ laneW t := by
  rw [ofLanes, laneBits_packLanes _ _ _ (laneW_pos t) (lane_room hi)]
  simp only [List.getD_eq_getElem?_getD, List.getElem?_map]
  rw [List.getElem?_range hi]; simp

/-! ### Lane-wise instructions -/

/-- The two ways of fitting an exact integer to a lane agree. -/
theorem fit_eq (t : Tag) (wr : Bool) (y : Int) : fitLane t wr y = fit (laneW t) wr y := by
  have : (0:Int) < 2 ^ (laneW t - 1) := by positivity
  unfold fitLane fit satS
  cases wr with
  | true => simp
  | false =>
    simp only [Bool.false_eq_true, if_false]
    by_cases h1 : y < -2 ^ (laneW t - 1)
    · have e : max (-2 ^ (laneW t - 1)) (min (2 ^ (laneW t - 1) - 1) y) = -2 ^ (laneW t - 1) := by omega
      rw [e]; simp [h1]; try omega
    · by_cases h2 : y > 2 ^ (laneW t - 1) - 1
      · have e : max (-2 ^ (laneW t - 1)) (min (2 ^ (laneW t - 1) - 1) y) = 2 ^ (laneW t - 1) - 1 := by omega
        rw [e]; simp [h1, h2]; try omega
      · have e : max (-2 ^ (laneW t - 1)) (min (2 ^ (laneW t - 1) - 1) y) = y := by omega
        rw [e]; simp [h1, h2]; try omega

/-- Sources of one accepted tag pass the checks of sources. -/
theorem srcsCheck_ok (s : State) (acc : Tag → Bool) (hn : acc .none = false) (hp : acc .poison = false) (t : Tag) (rs : List VReg)
   (h : ∀ r ∈ rs, (rdV s r).tag = t) (ha : acc t = true) : srcsCheck s acc rs = none := by
  have hs : ∀ r, (rdV s r).tag = t → sourceCheck s r = none := by
    intro r hr; unfold sourceCheck; rw [hr]; cases t <;> simp_all
  cases rs with
  | nil => rfl
  | cons a rest =>
    have h0 : (rdV s a).tag = t := h a (by simp)
    simp only [srcsCheck, srcCheck, hs a h0, h0, ha, failIf, Option.orElse_none]
    simp only [Bool.not_true, Bool.false_eq_true, if_false]
    show List.findSome? _ _ = none
    rw [List.findSome?_eq_none_iff]
    intro r hr
    have := h r (by simp [hr])
    simp [srcCheck, hs r this, this, failIf]

/-- What a lane-wise instruction does once its sources have passed the checks. -/
theorem lanewise_writes (lat : Nat) (accept : Tag → Bool) (srcs : List VReg) (d : VReg) (m : Sys2Proof.MReg) (z : Bool) (rm : Rm)
    (f : Tag → Rm → Nat → Nat → Nat → LaneR) (s : State) (t : Tag) (hn : accept .none = false) (hp : accept .poison = false) (h0 : srcs ≠ [])
    (h : ∀ r ∈ srcs, (rdV s r).tag = t) (ha : accept t = true) :
    lanewise lat accept srcs d m z rm f s = putMasked lat d t (rdM s m) z (fun i => f t (rmOf s rm)
      (match srcs[0]? with | some r => lane t (rdV s r) i | none => 0)
      (match srcs[1]? with | some r => lane t (rdV s r) i | none => 0) (match srcs[2]? with | some r => lane t (rdV s r) i | none => 0)) s := by
  unfold lanewise
  rw [srcsCheck_ok s accept hn hp t srcs h ha]
  have ht : ((srcs.map (rdV s)).headD { bits := 0, tag := .none }).tag = t := by
    cases srcs with
    | nil => exact absurd rfl h0
    | cons a r => exact h a (by simp)
  simp only [checked, ht, List.getElem?_map]
  congr 1; funext i
  congr 1
  · cases srcs[0]? <;> rfl
  · cases srcs[1]? <;> rfl
  · cases srcs[2]? <;> rfl

theorem laneFlags_masked (t : Tag) (m : BitVec 1024) (f : Nat → LaneR) : laneFlags ((List.range (lanes t)).map fun i => if m.getLsbD i then f i else quiet 0)
   = unionFlags (lanes t) (fun i => m.getLsbD i) fun i => (f i).2 := by
  unfold laneFlags unionFlags; rw [List.map_map]; congr 2; funext i; simp only [Function.comp]; split <;> rfl

theorem WritesV.congr {lat d t fl fl' val val' s o} (h : WritesV lat d t fl val s o) (hf : fl = fl') (hv : ∀ i o, val i o = val' i o) : WritesV lat d t fl' val' s o := by
  have : val = val' := by funext i o; exact hv i o
  subst hf this; exact h

/-- A lane-wise instruction writes what its `LaneForm` describes, once the rule of its lanes agrees with the form's. -/
theorem lanewise_form (lat : Nat) (accept : Tag → Bool) (srcs : List VReg) (d : VReg) (m : Sys2Proof.MReg) (z : Bool) (rm : Rm)
    (f : Tag → Rm → Nat → Nat → Nat → LaneR) (g : State → Tag → Nat → Nat → Nat → LaneR) (s : State) (t : Tag) (hn : accept .none = false) (hp : accept .poison = false) (h0 : srcs ≠ [])
    (h : ∀ r ∈ srcs, (rdV s r).tag = t) (ha : accept t = true)
    (hf : ∀ x y c, (f t (rmOf s rm) x y c).2 = (g s t x y c).2 ∧ (f t (rmOf s rm) x y c).1 % 2 ^ laneW t = (g s t x y c).1 % 2^ laneW t) :
   let F : LaneForm := ⟨lat, accept, srcs, d, m, z, g⟩
   WritesV F.lat F.d t (unionFlags (lanes t) (fun j => (rdM s F.m).getLsbD j) fun j => (F.val s t j).2)
    (masked (rdM s F.m) F.z fun j => (F.val s t j).1 % 2 ^ laneW t) s (.next (lanewise lat accept srcs d m z rm f s)) := by
  intro F
  rw [lanewise_writes lat accept srcs d m z rm f s t hn hp h0 h ha]
  refine WritesV.congr (putMasked_writes _ _ _ _ _ _ _) ?_ ?_
  · rw [laneFlags_masked]; congr 1; funext i; exact (hf _ _ _).1
  · intro i o; simp only [masked]; split
    · exact (hf _ _ _).2
    · rfl

end Sys2Proof.Machine
end

