-- ==== Sys2Proof/Tests/Slice0.lean ====
section
/-! SUPPORT. Tests: words written out from the spec's encodings, ill-formed terms, single steps, and a witness of the hypotheses of
every statement that has some. -/

namespace Sys2Proof.Tests

open Sys2Proof Sys2Proof.Machine

set_option maxRecDepth 100000
set_option Elab.async false

/-- A word with an opcode and fields, each a value and its lowest bit (R36, R40). -/
def word (op : Nat) (fields : List (Nat × Nat)) : Nat := fields.foldl (fun w f => w + f.1 * 2 ^ f.2) (op * 2 ^ 49)

/-! ### Small states -/

/-- A launch of four threads. -/
def launch1 : Launch :=
  { num := 1, recVa := 0x4000, world := false, service := false, conf := BitVec.ofNat 64 (4 + 2 ^ 36 + 3 * 2 ^ 44), entry := 0x1000, dict := 0, slice := 0
    wd := [10, 20, 30], xvec := 0x2000, xrec := 0x3000, xstk := 0x5000, sp := 0x6000, gp := 0x7000, lays := [], grants := [], taken := []
    args := [], state := .triggered, err := 0, einfo := 0, kill := false, trigd := 0, exitd := 0, bound := [0], ended := [], pri := 3
    win := none, preds := [], place := some (false, 0x8000, 0) }

/-- Its thread 0 runs on core 0 of die 0, owns the banks of vat 0 there, and has the VAs below 2^16 mapped to the same physical addresses. -/
def base : State :=
  { State.reset with
    me := { Ctx.reset with status := .running, lnch := 1, nthr := 4, foot := 640, tiles := 8, churnOn := true, bpri := 3, epri := 3 }
    launches := [launch1], nextLaunch := 2, banks := (List.range 16).map fun b => (b, 1), tlb := [placePage 0 0 false 0, { placePage 0 0 false 0 with core := none }] }

def withS (r : SReg) (x : Word) (s : State) : State := modRegs (fun g => { g with s := g.s.set r x }) s
def withV (r : VReg) (t : Tag) (x : BitVec 8192) (s : State) : State := modRegs (fun g => { g with v := g.v.set r { bits := x, tag := t } }) s
def withSeq (f : Seq → Seq) (s : State) : State := { s with me := { s.me with sq := f s.me.sq } }
def withCtl (f : Ctl → Ctl) (s : State) : State := { s with me := { s.me with ctl := f s.me.ctl } }
def withDie (f : Die → Die) (s : State) : State := modDie 0 f s
def isOk {α β : Type} (x : Except α β) : Bool := match x with | .ok _ => true | .error _ => false

/-- The state whose next group is one slot with its stop bit set. -/
def atSlot (w : Nat) : State := base.withFetchWord 64 (w + 2 ^ 63)

/-! ### Witnesses: states and operands that meet the hypotheses of each statement together -/

theorem witness_DecodeEncode :
    (Instr.shli 63 62 63).wf = true ∧ encode (.shli 63 62 63) = some (word 0x013 [(63, 38), (62, 32), (63, 0)]) ∧
    Instr.nop.wf = true ∧ encode .nop = some 0 := ⟨rfl, rfl, rfl, rfl⟩

theorem witness_EncodeDecode :
    word 0x013 [(63, 38), (62, 32), (63, 0), (1, 63), (15, 58), (1, 48), (15, 44)] < 2 ^ 64 ∧
    decodeSlot (word 0x013 [(63, 38), (62, 32), (63, 0), (1, 63), (15, 58), (1, 48), (15, 44)]) = some (.shli 63 62 63) ∧
    decodeSlot (2 ^ 63 + 2 ^ 62) = some .nop := ⟨by decide, rfl, rfl⟩

theorem witness_StepRunsInstructions_queue :
    let w := word 0x001 [(1, 38), (2, 32), (3, 26)]
    let s := withSeq (fun q => { q with queue := [⟨0, 5, w⟩] }) base
    amidGroup s = none ∧ s.me.sq.rest = none ∧ s.me.sq.queue = [⟨0, 5, w⟩] ∧ deadSlot (issueSlot ⟨0, 5, w⟩ [] s) ⟨0, 5, w⟩ = none ∧ slotOff w = false ∧ decodeSlot w = some (.add 1 2 3) ∧
      guardHolds (issueSlot ⟨0, 5, w⟩ [] s) (slotHdr w) = true ∧ slotFault (issueSlot ⟨0, 5, w⟩ [] s) ⟨0, 5, w⟩ (.add 1 2 3) = none := by
  decide +kernel

/-- `add s1, s2, s3` stands alone at the place of the next group. -/
def adding : State := atSlot (word 0x001 [(1, 38), (2, 32), (3, 26)])

theorem witness_StepRunsInstructions_fetch :
    let r : SlotRef := ⟨0, 0, word 0x001 [(1, 38), (2, 32), (3, 26)] + 2 ^ 63⟩
    let g : CodeGroup := { slots := [r], next := ⟨0, 1⟩, last := ⟨0, 0⟩ }
    lookGroup g adding = (adding, .free) ∧ noteDelay adding = adding ∧
    deadSlot (issueSlot r [] (startGroup adding.me.sq.next g adding)) r = none ∧
    (adding.me.sq.queue = [] ∧ adding.me.sq.rest = none ∧ adding.agenda = [] ∧ halted adding = false ∧ adding.me.status = .running ∧ adding.me.sq.owed = [] ∧
      dueFault adding = none ∧ (adding.me.preReq && preemptPoint adding) = false ∧ adding.me.sq.passed = true ∧ adding.me.wt.on = none) ∧
    (match fetchGroup adding adding.me.sq.next with | .ok x => decide (x = g) | .error _ => false) = true ∧
    slotOff r.word = false ∧ decodeSlot r.word = some (.add 1 2 3) ∧
    guardHolds (issueSlot r [] (startGroup adding.me.sq.next g adding)) (slotHdr r.word) = true ∧
    slotFault (issueSlot r [] (startGroup adding.me.sq.next g adding)) r (.add 1 2 3) = none :=
  ⟨rfl, rfl, by decide +kernel⟩

theorem witness_GuardsDecide :
    amidGroup base = none ∧ base.me.sq.rest = none ∧ deadSlot base ⟨0, 0, 15 * 2 ^ 58 + 0x163 * 2 ^ 49⟩ = none ∧
    (slotHdr 0).gi = false ∧ (slotHdr 0).gp = 0 ∧ (slotHdr (2 ^ 62)).gi = true ∧ (slotHdr (2 ^ 62)).gp = 0 ∧
    (slotHdr (2 ^ 58)).gi = false ∧ (slotHdr (2 ^ 58)).gp ≠ 0 ∧ (slotHdr (2 ^ 62 + 15 * 2 ^ 58)).gi = true ∧
    (slotHdr (2 ^ 62 + 15 * 2 ^ 58)).gp ≠ 0 ∧ slotOff (2 ^ 62) = true ∧
    decodeSlot (15 * 2 ^ 58 + 0x163 * 2 ^ 49) = some .fencex ∧
    guardHolds (issueSlot ⟨0, 0, 15 * 2 ^ 58 + 0x163 * 2 ^ 49⟩ [] (withSeq (fun q => { q with queue := [⟨0, 0, 15 * 2 ^ 58 + 0x163 * 2 ^ 49⟩] }) base))
      (slotHdr (15 * 2 ^ 58 + 0x163 * 2 ^ 49)) = false := by
  decide +kernel

theorem witness_NothingStops :
    base.QueueLegal ∧ (withSeq (fun q => { q with queue := [⟨0, 0, 2 ^ 63⟩, ⟨0, 1, 2 ^ 62⟩] }) base).QueueLegal := by
  unfold State.QueueLegal LegalSlot
  decide +kernel

theorem witness_StepKeepsTidy : base.Tidy ∧ ({ base with hbm := [(0, 1), (2 ^ 39 - 1, 255)] } : State).Tidy := by
  unfold State.Tidy
  decide +kernel

theorem witness_RegisterFiles : (63 : SReg) ≠ 0 ∧ (15 : PReg) ≠ 0 ∧ (15 : Sys2Proof.MReg) ≠ 0 := by decide

/-- A load of VA 64 that has not landed, and an operation of class S. -/
def waiting (id : Nat) (r : SReg) (ready : Bool) : Pend :=
  { id, upd := .s r 9, ready, cls := true, flags := 0, arrive := none, fault := none, addr := some 64, src := .own }
def storing (id : Nat) (kind : StoreKind) : StoreOut := { id, ready := true, arrive := none, fault := none, grp := 6, kind }

/-- Results in flight: one not due, two due for one register and one for another. -/
def flying : Ctx :=
  { base.me with sq := { base.me.sq with
      group := 7
      flights := [⟨1, 9, .s 1 5, 0, none, none⟩, ⟨2, 7, .s 2 6, 1, none, none⟩, ⟨3, 6, .s 2 8, 2, none, none⟩, ⟨4, 7, .s 3 1, 0, none, none⟩]
      pends := [waiting 3 4 true, waiting 4 2 true, waiting 5 6 false]
      stores := [storing 6 .mem, { storing 7 .plain with ready := false }, storing 8 (.tlbi false (some 0x4000)), storing 10 (.tlbi false none)] } }

def isS (r : SReg) (u : Upd) : Bool := match u with | .s q _ => decide (q = r) | _ => false

theorem witness_ResultsLand :
    let s : State := { base with me := flying }
    let p := fun i => flying.sq.pends.find? fun p => p.id = i
    let o := fun i => flying.sq.stores.find? fun o => o.id = i
    let due := fun (fs : List Flight) => fs.any fun f => decide (f.due ≤ 7) && isS 2 f.upd
    findCtx flying.uid s = some flying ∧
    (flying.sq.flights = flying.sq.flights.take 2 ++ ⟨3, 6, .s 2 8, 2, none, none⟩ :: [⟨4, 7, .s 3 1, 0, none, none⟩] ∧ (6 ≤ 7 ∧ (2 : SReg) ≠ 0) ∧
      due (flying.sq.flights.drop 3) = false) ∧
    (∀ f ∈ flying.sq.flights, 5 < f.due) ∧ (∀ f ∈ flying.sq.flights, isS 9 f.upd = false) ∧ flying.sq.queue = [] ∧
    (p 3 = some (waiting 3 4 true) ∧ behindFixed flying (waiting 3 4 true) = false) ∧
    (p 4 = some (waiting 4 2 true) ∧ behindFixed flying (waiting 4 2 true) = true) ∧ p 5 = some (waiting 5 6 false) ∧ (∀ q ∈ flying.sq.pends, q.id ≠ 9) ∧
    o 6 = some (storing 6 .mem) ∧ o 7 = some { storing 7 .plain with ready := false } ∧ o 8 = some (storing 8 (.tlbi false (some 0x4000))) ∧
    o 10 = some (storing 10 (.tlbi false none)) ∧ (∀ o ∈ flying.sq.stores, o.id ≠ 9) :=
  ⟨rfl, by decide +kernel⟩

/-- The `tlbi` of `flying` is not free to retire while its own earlier loads are out; without them it is. -/
theorem witness_ResultsLand_tlbi :
    let free := fun (x : Ctx) => (x.sq.pends.all fun p => !(decide (p.id < 8) && p.addr.isSome)) &&
      x.sq.stores.all fun y => !(decide (y.id < 8) && decide (y.kind = .mem))
    free flying = false ∧ free { flying with sq := { flying.sq with pends := [], stores := flying.sq.stores.drop 2 } } = true := by
  decide +kernel

theorem witness_ScalarEffects : (63 : BitVec 26).toNat < 64 ∧ 0 < (64 : BitVec 26).toNat ∧ (64 : BitVec 26).toNat ≤ 64 ∧ (0 : Word) = 0 ∧
    (1 : Word) ≠ 0 := by decide

theorem witness_ConstantsComparesPredicates : (32 : Fin 64).val ≤ 32 ∧ (0 : Fin 64).val ≤ 32 := by decide

/-- The group at 0 is one `call`, and the code behind it is three groups of nops. -/
def calling : State :=
  { withSeq (fun q => { q with queue := [], at_ := ⟨0, 0⟩, start := ⟨0, 0⟩ }) (withS 5 0x101 (withS 4 0x100 base)) with
    hbm := writeN (writeN (writeN (writeN [] 0 (literalBytes [0, 0, 0, 0, 0, 2 ^ 63])) 50 (literalBytes [0, 0, 0, 0, 0, 2 ^ 63])) 100
      (literalBytes [0, 0, 0, 0, 0, 2 ^ 63])) 150 (literalBytes [0, 0, 0, 0, 0, 2 ^ 63]) }

/-- A slot that the agenda cut goes on; the words at 0 of `calling` are a literal bundle that is legal, `adding` starts a group there. -/
theorem witness_StepRunsInstructions_parts :
    (let s := withSeq (fun q => { q with rest := some (.release false [1, 2]) }) base
     amidGroup s = none ∧ s.me.sq.rest = some (.release false [1, 2])) ∧
    (match translate adding adding.me.site adding.me.world .fetch 0 with | .ok pa => decide (pa = 0) | .error _ => false) = true ∧
    (match translate adding adding.me.site adding.me.world .fetch 0x20000 with | .ok _ => true | .error _ => false) = false ∧
    ((getByte adding.hbm 0).toNat + 256 * (getByte adding.hbm 1).toNat = 0xFFFF ∧ (List.range 24).all (fun k =>
      match translate adding adding.me.site adding.me.world .fetch (0 + BitVec.ofNat 64 (2 + 2 * k)) with | .ok pa => decide (pa = 2 + 2 * k) | .error _ => false) = true) ∧
    (let s := withCtl (fun c => { c with dictb := 0x5002 }) (modCore 0 0 (fun c => { c with dicts := [⟨0x5002, [2 ^ 63, 5]⟩] }) base)
     bits s.me.ctl.dictb 0 12 = 2 ∧ 1 < bits s.me.ctl.dictb 0 12 ∧ (dictOf s)[1]? = some 5 ∧ bits s.me.ctl.dictb 0 12 ≤ 2) ∧
    (match fetchBundle adding 0 with | .ok b => (b.slots.getD 0 0).testBit 63 | .error _ => false) = true ∧
    (match fetchBundle calling 0, fetchBundle calling 50 with | .ok b, .ok c => decide (b.next = c.pc) && !(b.slots.getD 0 0).testBit 63 | _, _ => false) = true ∧
    bundleCheck [0, 0, 0, 0, 0, 2 ^ 63] = none ∧ (bundleCheck [0, 0, 0, 0, 0, 0x1FF * 2 ^ 49]).isSome = true := by
  decide +kernel

theorem witness_TransfersRedirect :
    (rdS calling 4).getLsbD 0 = false ∧ (rdS calling 5).getLsbD 0 = true ∧ (∃ link, linkOf calling = .ok link ∧ calling.me.sq.rstack.length < 16) ∧
    (let s := withSeq (fun q => { q with rstack := List.replicate 16 8 }) (withCtl (fun c => { c with xstk := 0x5000 }) calling)
     isOk (linkOf s) = true ∧ s.me.sq.rstack = 8 :: List.replicate 15 8 ∧ isOk (spillSegs s .write s.me.ctl.xstk) = true) ∧
    (let s := withSeq (fun q => { q with rstack := List.replicate 16 8 }) (withCtl (fun c => { c with xstk := 0x50000 }) calling)
     isOk (linkOf s) = true ∧ 16 ≤ s.me.sq.rstack.length ∧ isOk (spillSegs s .write s.me.ctl.xstk) = false) ∧
    calling.me.sq.rstack = [] ∧ isOk (spillSegs (withCtl (fun c => { c with xstk := 0x5000 }) calling) .read (0x5000 - 8)) = true ∧
    isOk (spillSegs calling .read (calling.me.ctl.xstk - 8)) = false :=
  ⟨rfl, rfl, ⟨_, rfl, by decide⟩, ⟨rfl, rfl, rfl⟩, ⟨rfl, by decide, rfl⟩, rfl, rfl, rfl⟩

theorem witness_Loops :
    let q := fun (c : Word) => (loopCheck calling c, isOk (loopBody calling 3))
    q 0 = (none, true) ∧ q 10 = (none, true) ∧ calling.me.sq.loops = [] ∧
    (let l : LoopLevel := ⟨0, 2, ⟨50, 0⟩, ⟨50, 5⟩⟩
     let z : Seq := { base.me.sq with loops := [l], at_ := ⟨50, 5⟩ }
     z.loops = l :: [] ∧ l.last = z.at_ ∧ l.idx.toNat + 1 < l.cnt.toNat) ∧
    (let l : LoopLevel := ⟨1, 2, ⟨50, 0⟩, ⟨50, 5⟩⟩
     l.last = ⟨50, 5⟩ ∧ l.cnt.toNat ≤ l.idx.toNat + 1 ∧ l.last ≠ ⟨0, 5⟩) := by
  decide +kernel

theorem witness_CsrMoves :
    (base.me.ctl.handler = false ∧ (csrRead base 9 ^^^ csrNew .write 9 (csrRead base 9) 5) &&& csrHandler 9 = 0 ∧ csrTile 9 = none) ∧
    (∃ n w, (csrRead base n ^^^ csrNew .write n (csrRead base n) w) &&& csrHandler n ≠ 0) ∧
    (csrTile 0x27 = some 7 ∧ csrHandler 0x27 = 0 ∧ cfgOk (csrNew .write 0x27 (csrRead base 0x27) (-1)) = false) ∧
    tileWaits base.me 7 = false ∧ cfgOk (csrNew .write 0x27 (csrRead base 0x27) (rdS base 0)) = cfgOk 0 :=
  ⟨⟨rfl, rfl, rfl⟩, ⟨2, 0x100, by decide⟩, ⟨rfl, rfl, rfl⟩, rfl, rfl⟩

/-- A trap can be taken: a vector, and a mapped place for the record. -/
def trapping : State := withCtl (fun c => { c with xvec := 0x2000, xrec := 0x3000 }) base

theorem witness_TrapsAreTaken :
    (trapping.me.ctl.handler = false ∧ trapping.me.ctl.xvec ≠ 0 ∧ isOk (recordSegs trapping) = true) ∧
    (withCtl (fun c => { c with handler := true }) base).me.ctl.handler = true ∧ base.me.ctl.xvec = 0 ∧
    isOk (recordSegs (withCtl (fun c => { c with xrec := 0x20000 }) trapping)) = false ∧
    (let f : FaultInfo := { cause := 0x0D, addr := 64 }
     let g : FaultInfo := { cause := 0x0E, addr := 64 }
     let s := withSeq (fun q => { q with faults := [f] }) base
     s.me.status = .running ∧ s.me.sq.queue = [] ∧ s.me.ctl.handler = false ∧ s.me.sq.faults.head? = some f ∧ f ≠ g) ∧
    (let s := withSeq (fun q => { q with next := ⟨0x20000, 0⟩ }) base
     s.me.sq.faults = [] ∧ (fetchFault s).isSome = true ∧ fetchFault calling = none) := by
  decide +kernel

theorem witness_TrapAndReturn :
    (let s := withSeq (fun q => { q with queue := [⟨0, 5, 2 ^ 63⟩] }) base
     s.me.sq.queue = ⟨0, 5, 2 ^ 63⟩ :: [] ∧ (retireNow s).me.sq.queue = ⟨0, 5, 2 ^ 63⟩ :: []) ∧
    (retireNow base).me.sq.queue = [] ∧ base.me.ctl.handler = false ∧ (withCtl (fun c => { c with handler := true }) base).me.ctl.handler = true ∧
    (let c : Ctx := { base.me with sq := { base.me.sq with group := 5, flights := [⟨1, 5, .s 1 5, 0, none, none⟩], redirs := [⟨8, ⟨64, 0⟩⟩] } }
     c.ctl.handler = false ∧ (∀ x ∈ c.sq.flights, c.sq.group ≤ x.due ∧ (match x.upd with | .outs _ => false | _ => true) = true) ∧ (∀ x ∈ c.sq.redirs, c.sq.group ≤ x.at_) ∧ (5 : Nat) < 6 ∧ c.sq.exiting = none) := by
  decide +kernel

/-- `v1`, `v2`, `v3` carry one tag, `v4` is POISON, `v5` NONE, `v6` RAW, `v7` E2M1X, `v8` E8M0, `v9` I16, `v10` I32. -/
def tagged (t : Tag) : State :=
  withV 1 t 1 (withV 2 t 2 (withV 3 t 3 (withV 4 .poison 0 (withV 6 .raw 0 (withV 7 .e2m1x 0 (withV 8 .e8m0 0 (withV 9 .i16 0 (withV 10 .i32 0 base))))))))

theorem witness_LanewiseEffects : ∀ x ∈ [(Instr.vadd 1 2 3 0 true true .rne, Tag.i8), (.vclamp 1 2 3 0 false, .bf16), (.vfma 1 2 3 15 false .rup, .fp32),
    (.vand 1 2 3 0 false, .raw)],
    (match laneForm x.1 with | some F => F.srcs.all (fun r => (rdV (tagged x.2) r).tag = x.2) && F.accept x.2 | none => false) = true := by
  decide +kernel

theorem witness_VectorSourceFaults :
    let s := tagged .i32
    (∃ F, laneForm (.vadd 1 5 3 0 false false .rne) = some F ∧ F.srcs = [] ++ 5 :: [3] ∧ (rdV s 5).tag = .none) ∧
    (∃ F, laneForm (.vadd 1 2 4 0 false false .rne) = some F ∧ F.srcs = [2] ++ 4 :: [] ∧ (∀ q ∈ [(2 : VReg)], (rdV s q).tag = .i32) ∧
      F.accept .i32 = true ∧ (rdV s 4).tag = .poison) ∧
    (∃ F, laneForm (.vadd 1 2 6 0 false false .rne) = some F ∧ F.srcs = [2] ++ 6 :: [] ∧ F.accept .i32 = true ∧ (rdV s 6).tag ≠ .none ∧
      (rdV s 6).tag ≠ .poison ∧ (rdV s 6).tag ≠ .i32) ∧
    (∃ F, laneForm (.vadd 1 6 2 0 false false .rne) = some F ∧ F.srcs = [] ++ 6 :: [2] ∧ F.accept (rdV s 6).tag = false) ∧
    (∃ acc, vecSource (.vunblk 1 6 0 0 true false .rne) = some (6, acc) ∧ acc (rdV s 6).tag = false) ∧
    (∃ acc, vecSource (.vredadd 1 5 0 .rne) = some (5, acc)) ∧ (∃ acc, vecSource (.vperm 1 4 2 0 false) = some (4, acc)) :=
  ⟨⟨_, rfl, rfl, rfl⟩, ⟨_, rfl, rfl, by decide +kernel, rfl, rfl⟩, ⟨_, rfl, rfl, rfl, by decide +kernel, by decide +kernel, by decide +kernel⟩,
    ⟨_, rfl, rfl, rfl⟩, ⟨_, rfl, rfl⟩, ⟨_, rfl⟩, ⟨_, rfl⟩⟩

theorem witness_RoundingIsExact :
    isFloat .bf16 = true ∧ isFloat .fp32 = true ∧ 0xFFFF < 2 ^ laneW .bf16 ∧ 0xFFFFFFFF < 2 ^ laneW .fp32 ∧
    (decodeReal .bf16 0xFFFF).isNaN = true ∧ (decodeReal .bf16 0x8000).isNaN = false := by decide +kernel

theorem witness_VectorMovesAndConversions :
    let s := tagged .i32
    isLaned (rdV s 2).tag = true ∧ (rdV s 3).tag = (rdV s 2).tag ∧ (rdV s 7).tag = .e2m1x ∧ (0 : Sys2Proof.MReg) = 0 ∧
    sourceCheck s 2 = none ∧ (rdV s 6).tag = .raw ∧ (∀ k < 48, specialOk (laneBits (rdV s 6).bits 8 (816 + k)) = true) ∧
    (rdV s 2).tag ≠ .raw ∧ isLaned .i8 = true ∧ (3 : Fin 4).val < max (lanes .i32) (lanes .i8) / min (lanes .i32) (lanes .i8) ∧
    max (lanes .i32) (lanes .fp32) / min (lanes .i32) (lanes .fp32) ≤ (1 : Fin 4).val ∧ isInt .i8 = true ∧ isInt (rdV s 2).tag = true ∧
    (rdV (tagged .i16) 2).tag = .i16 ∧ (rdV (tagged .fp32) 2).tag = .fp32 ∧ (rdV (tagged .e4m3) 2).tag = .e4m3 := by decide +kernel

theorem witness_ComparesAndMasks :
    (rdV (tagged .i32) 1).tag = .i32 ∧ (rdV (tagged .i32) 2).tag = .i32 ∧ cmpAccepts .gel .i32 = true ∧ cmpAccepts .ne .raw = true ∧
    cmpAccepts .lt .fp32 = true ∧ isFloat .i32 = false ∧ isLaned (rdV (tagged .i32) 1).tag = true := by decide +kernel

theorem witness_PermuteEffects :
    (rdV (tagged .i32) 1).tag = .i32 ∧ isLaned .i32 = true ∧ permIndexTag (laneW .i32) (rdV (tagged .i32) 10).tag = true ∧
    (rdV (tagged .i8) 1).tag = .i8 ∧ permIndexTag (laneW .i8) (rdV (tagged .i8) 6).tag = true ∧ (rdV (tagged .i32) 2).tag = .i32 ∧
    (5 : Ix8).val < 6 := by decide +kernel

/-- `m1` has bit 0; `v9` holds index 0. -/
def gathering : State := modRegs (fun g => { g with m := g.m.set 1 1 }) (tagged .i32)

theorem witness_RegisterIndirection :
    let s := gathering
    (rdV s 9).tag = .i16 ∧ granRegs s 2 9 1 false = [(0, 2)] ∧ (2 < s.me.foot ∧ s.me.foot ≤ 640) ∧
    isLaned (rdV s (regNo 2)).tag = true ∧ isLaned (rdV s 3).tag = true ∧ (rdV s (regNo 2)).tag = (rdV s 3).tag ∧
    granRegs s 5 9 1 false = [(0, 5)] ∧ (rdV s (regNo 5)).tag = .none ∧
    (2 : VReg).val + (rdS s 0).toNat < s.me.foot ∧ sourceCheck s (regNo 2) = none ∧
    s.me.foot ≤ (639 : VReg).val + (rdS (withS 1 1 s) 1).toNat := by decide +kernel

theorem witness_ReductionEffects :
    (rdV (tagged .i16) 1).tag = .i16 ∧ isInt .i16 = true ∧ (rdV (tagged .fp32) 1).tag = .fp32 ∧ isFloat .fp32 = true ∧ isComp .fp32 = true ∧
    isComp .i16 = true ∧ (rdM base 0).getLsbD 0 = true ∧ (rdM base 1).getLsbD 0 = false := by decide +kernel

theorem witness_BlockEffects :
    (isFloat (rdV (tagged .fp32) 1).tag = true ∧ (rdV (tagged .fp32) 8).tag = .e8m0 ∧ (5 : PReg).val ≤ 5 ∧ (5 : Nat) < (6 : PReg).val) ∧
    (isFloat (rdV (tagged .bf16) 1).tag = true ∧ (2 : PReg).val ≤ 2 ∧ (2 : Nat) < (3 : PReg).val) ∧
    (rdV (tagged .fp32) 7).tag = .e2m1x ∧ (rdV (tagged .fp32) 1).tag = .fp32 := by decide +kernel

/-! Memory: `s4` holds 64, `s5` holds 65, `s6` an unmapped VA. Line 1 of the store is COUNTED, line 2 EMPTY, line 3 armed. -/
def memory : State :=
  { withS 4 64 (withS 5 65 (withS 6 0x20000 (withS 7 128 (tagged .i32)))) with
    lines := [(1, .counted 1), (2, .empty), (3, .counter)] }

theorem witness_LoadsReadMemory :
    (∀ k ∈ [LineAcc.plain, .consume], ∀ st ∈ [true, false],
      isOk (accessSegs memory (agentOf memory.me) st k 64 8) = true ∧ isOk (accessSegs base (agentOf base.me) st k 64 1024) = true ∧
      isOk (accessSegs base (agentOf base.me) st k 64 864) = true) ∧
    (rdS memory 4 + (0 : BitVec 18).signExtend 64).toNat % 64 = 0 ∧ (64 : Word).toNat % 8 = 0 ∧
    badLine base [⟨true, 64, 1024, 64⟩] = none ∧ badLine { base with badStore := [1] } [⟨true, 64, 1024, 64⟩] ≠ none ∧ specialOk 0 = true := by
  decide +kernel

theorem witness_FailingAccessesRaise :
    (rdS memory 5).toNat % 8 ≠ 0 ∧ (rdS memory 5).toNat % 64 ≠ 0 ∧ (rdS memory 6).toNat % 64 = 0 ∧
    ((rdV memory 2).tag ≠ .none ∧ (rdV memory 2).tag ≠ .poison ∧ (rdV memory 2).tag = .i32) ∧
    (∀ k ∈ [LineAcc.plain, .consume, .store], isOk (accessSegs memory (agentOf memory.me) false k 0x20000 8) = false ∧
      isOk (accessSegs memory (agentOf memory.me) false k 0x20000 1024) = false ∧ isOk (accessSegs memory (agentOf memory.me) true k 0x400000 1024) = false) := by
  decide +kernel

theorem witness_StoresWriteTheirBytes :
    base.Tidy ∧ ((rdV (tagged .i32) 2).tag ≠ .none ∧ (rdV (tagged .i32) 2).tag ≠ .poison) ∧
    isOk (accessSegs base (agentOf base.me) true .store 8 8) = true ∧ isOk (accessSegs base (agentOf base.me) false .store 0xFC00 1024) = true ∧
    isOk (accessSegs base (agentOf base.me) true .store 0xFC00 864) = true ∧
    isOk (accessSegs base (agentOf base.me) true (.counted 254) 0 1024) = true ∧
    (LineAcc.store.writes = true ∧ linesCheck base .store 64 64 = none) := by
  unfold State.Tidy
  decide +kernel

theorem witness_LaneAccesses :
    let s := gathering
    let on := (List.range (lanes .i32)).filter fun i => (rdM s 1).getLsbD i
    on = [0] ∧ isOk (laneSegs s true .plain 4 (fun _ => 64) on) = true ∧ isOk (laneSegs s false .store 4 (fun _ => 64) on) = true ∧
    badLine s [⟨true, 64, 4, 64⟩] = none ∧ (rdV s 10).tag = .i32 ∧ (rdV s 9).tag = .i16 ∧ (rdV s 2).tag ≠ .none ∧ (rdV s 2).tag ≠ .poison := by
  decide +kernel

theorem witness_LinesAndQueries :
    memory.Tidy ∧ lineAt memory 0 = .uncounted ∧ lineAt memory 64 = .counted 1 ∧ lineAt memory 128 = .empty ∧ lineAt memory 192 = .counter ∧
    isOk (translate memory memory.me.site false .read 64) = true ∧ getAt .absent memory.home 1 = .absent ∧
    isOk (accessSegs memory (agentOf memory.me) true .query 64 1) = true ∧ isOk (accessSegs memory (agentOf memory.me) false .query 64 1) = true ∧
    isOk (accessSegs memory (agentOf memory.me) false .query 0x20000 1) = false := by
  unfold State.Tidy
  decide +kernel

theorem witness_AtomicsUpdateMemory :
    atomForm memory (.acas 0 4 5 6 .st true) = some (.cas, 0, 4, rdS memory 5, rdS memory 6, .st, true) ∧
    atomForm memory (.amin 1 5 4 .va false true) = some (.min true, 1, 5, rdS memory 4, 0, .va, false) ∧
    atomForm memory (.aswp 1 6 4 .w false) = some (.swp, 1, 6, rdS memory 4, 0, .w, false) ∧ (memory.Tidy ∧
    (rdS memory 5).toNat % 4 ≠ 0 ∧ isOk (accessSegs memory (agentOf memory.me) false .atomic (rdS memory 6) 4) = false ∧
    isOk (accessSegs memory (agentOf memory.me) true .atomic 8 8) = true ∧ isOk (accessSegs memory (agentOf memory.me) true .atomic 64 8) = false ∧
    badLine memory [⟨true, 8, 8, 8⟩] = none ∧ badLine { memory with badStore := [0] } [⟨true, 8, 8, 8⟩] ≠ none) :=
  ⟨rfl, rfl, rfl, by unfold State.Tidy; decide +kernel⟩

/-- A window table of one entry at VA 0x1000: RD, WR and A, a store address of this module, LIMIT 4096. -/
def windowed : State :=
  { memory with
    hbm := writeN [] 0x1000 (leBytes 32 (4096 * 2 ^ 80 + 2 ^ 4 + 2 ^ 3 + 7))
    launches := [{ launch1 with win := some (0x1000, 1) }] }

/-- An operation of thread 0 of launch 1 through window 0 that is outstanding. -/
def outOp (id : Nat) (use : RemoteFor) : RemoteOut :=
  { id, cid := base.me.uid, lnch := 1, tid := 0
    req := { src := 0, target := 5, flow := 1, seq := 0, key := 7, store := true, addr := 8, world := false, port := 0, op := .load 8 }
    st := .queued, retries := 0, waits := false, win := 8, via := none, use }

theorem witness_WindowAccesses :
    ((rdV memory 2).tag ≠ .none ∧ (rdV memory 2).tag ≠ .poison) ∧ base.fab.outs = [] ∧
    (∃ o ∈ [outOp 3 (.store 2)], o.cid = base.me.uid ∧ ∀ t x, o.use ≠ .engine t x) ∧ isOk (winCheckAll windowed (agentOf windowed.me) 0 8 8 .read 8 false) = true ∧
    isOk (winCheckAll windowed (agentOf windowed.me) 1 8 8 .read 8 false) = false ∧
    (rdS memory 5).toNat % 32 ≠ 0 ∧ (rdS memory 4).toNat % 32 = 0 ∧ (65537 : Word).toNat > 65536 ∧ 0 < (65536 : Word).toNat ∧ (65536 : Word).toNat ≤ 65536 :=
  ⟨by decide +kernel, rfl, ⟨_, List.mem_singleton.2 rfl, rfl, fun _ _ => by simp [outOp]⟩, by decide +kernel, by decide +kernel, by decide +kernel,
    by decide +kernel, by decide, by decide, by decide⟩

/-- A pail of one slot line and depth 2 at 0x1000, its counters in line 3. -/
def pailRaw : BitVec 256 := BitVec.ofNat 256 (192 * 2 ^ 224 + 200 * 2 ^ 192 + 0x1000 * 2 ^ 160 + 2 ^ 144 + 2 * 2 ^ 136)
def pailed : State := { withS 4 0x100 memory with hbm := writeN [] 0x100 (leBytes 32 pailRaw.toNat) }
def pailMade : State :=
  modRegs (fun g => { g with pl := g.pl.set 1 (pailReg pailRaw 0 0 0) }) (makePail 1 (pailDesc pailRaw) 0 pailed)
def pailOwing : PailDef :=
  { entry := 0, gen := 0, lnch := 1, fillc := 192, freec := 200, base := 0x1000, lines := 1, depth := 2, filled := [true, false]
    nextF := 0, nextE := 0, owedF := [(0, ⟨1, none, none⟩)], owedE := [] }

theorem witness_BanksAndPails :
    base.Tidy ∧ (brelCheck base 0x400000 1).isSome = true ∧ brelCheck base 0 0xFFFF = none ∧ brelHeld base = false ∧
    brelHeld (withSeq (fun q => { q with group := 5, stores := [{ storing 6 .mem with grp := 4 }] }) base) = true ∧
    (bwaitCheck base 0 1).isSome = true ∧
    bwaitCheck { base with launches := [{ launch1 with grants := [⟨true, 0, 0, 1⟩] }] } 0 1 = none ∧
    pailed.Tidy ∧ (match readDesc pailed 0x100 32 32 with | .ok (_, bs) => pailFieldsOk (BitVec.ofNat 256 (leNat bs)) | .error _ => false) = true ∧
    (match readDesc pailed 0 32 32 with | .ok (_, bs) => pailFieldsOk (BitVec.ofNat 256 (leNat bs)) | .error _ => true) = false ∧
    (match pailPlan pailed 1 (pailDesc pailRaw) 0x100 with | .ok (.make 0) => true | _ => false) = true ∧
    (match pailPlan pailMade 1 (pailDesc pailRaw) 0x100 with | .ok (.same 0 0) => true | _ => false) = true ∧
    isOk (pailPlan base 1 (pailDesc pailRaw) 0x100) = false ∧
    pailOf pailMade pailMade.me.regs.pl[1] ≠ none ∧ pailOf base base.me.regs.pl[1] = none ∧
    (pailOwing.owedF.find? (fun x => x.1 = pailOwing.nextF % pailOwing.depth) = some (0, ⟨1, none, none⟩) ∧ addCheck memory false 1 192 = none) ∧
    (({ pailOwing with owedF := [], owedE := [(0, ⟨1, none, none⟩)] } : PailDef).owedE.find? (fun x => x.1 = pailOwing.nextE % pailOwing.depth) = some (0, ⟨1, none, none⟩) ∧
      addCheck memory false 1 200 = none) := by
  unfold State.Tidy
  decide +kernel

/-- `k1` names an armed counter, `k2` one of an uncounted line, `k3` nothing, `k4` one of a bank not owned, `k5` one of a COUNTED line. -/
def counters : State :=
  modRegs (fun g => { g with k := ((((g.k.set 1 (BitVec.ofNat 64 (2 ^ 63 + 192))).set 2 (BitVec.ofNat 64 (2 ^ 63 + 8))).set 4
    (BitVec.ofNat 64 (2 ^ 63 + 0x400000))).set 5 (BitVec.ofNat 64 (2 ^ 63 + 64))) }) memory
def edge (on : WaitOn) : WftEntry := { entry := 0, lnch := 1, tid := 0, stamp := 0, kind := .edge on, owners := [] }
def waitedOn : State := withDie (fun d => { d with wft := [edge (.counter 192 5)] }) counters

theorem witness_CounterInstructions :
    counters.Tidy ∧ (ksetCheck counters 4).isSome = true ∧ ksetCheck counters 192 = none ∧ (ownedCheck counters 3).isSome = true ∧
    (ownedCheck counters 4).isSome = true ∧ ownedCheck counters 1 = none ∧ ownedCheck counters 5 = none ∧ lineAt counters (counterOf counters 1) = .counter ∧
    ownedCheck counters 2 = none ∧ lineAt counters (counterOf counters 2) = .uncounted ∧ lineAt counters (counterOf counters 5) = .counted 1 ∧
    (∃ e ∈ waitedOn.dies.toList, ∃ w ∈ e.wft, waitsOnLine (counterOf waitedOn 1) w = true) ∧
    (∀ e ∈ counters.dies.toList, ∀ w ∈ e.wft, waitsOnLine (counterOf counters 1) w = false) ∧ armedCheck counters 1 = none := by
  unfold State.Tidy
  decide +kernel

/-- A group of size `n` whose members are threads 0 and up, the first with its bit set or not. -/
def groupOf (n k : Nat) (bit : Bool) : Group :=
  { entry := 0, lnch := 1, key := 5, size := n, members := (List.range k).map fun t => ⟨t, t, true, t = 0 && bit⟩, b := 0 }
def grouped (g : Group) : State := withS 4 (groupHandle g.size 0 0 0 0) (withDie (fun d => { d with groups := [g] }) counters)
def lone : State := grouped (groupOf 1 1 false)
def pair : State := grouped (groupOf 2 2 false)
/-- Thread 0 waits and is itself the only one who could end the wait. -/
def selfOwned : State :=
  withDie (fun d => { d with wft := [{ entry := 1, lnch := 1, tid := 0, stamp := 0, kind := .owner 192 0 0 0, owners := [] }] }) counters

theorem witness_WaitsAndBarriers :
    ((armedCheck counters 3).isSome = true ∧ armedCheck counters 1 = none ∧ counters.me.wt.dead = none ∧ counterAt counters 192 = 0 ∧
      (registerWait (.counter 192 1) [] counters).me.wt.dead = none ∧ (registerWait (.counter 192 1) [] selfOwned).me.wt.dead ≠ none) ∧
    isOk (memberCheck counters (rdS counters 4)) = false ∧
    (match memberCheck lone (rdS lone 4) with
      | .ok (g, m) => !m.bit && decide (lone.me.wt.phases = []) &&
        (match memberCheck (barArrive lone.me.sq.at_ (rdS lone 4) g lone) (rdS lone 4) with | .ok (g', _) => decide (g.b + 1 ≤ g'.b) | .error _ => false)
      | .error _ => false) = true ∧
    (match memberCheck pair (rdS pair 4) with
      | .ok (g, m) => !m.bit && decide (pair.me.wt.phases = []) && decide ((barHeld (rdS pair 4) 1 pair).me.wt.dead = none) &&
        (match memberCheck (barArrive pair.me.sq.at_ (rdS pair 4) g pair) (rdS pair 4) with | .ok (g', _) => decide (g'.b < g.b + 1) | .error _ => false) &&
        decide ((barHeld (rdS pair 4) (g.b + 1) (barArrive pair.me.sq.at_ (rdS pair 4) g pair)).me.wt.dead = none)
      | .error _ => false) = true ∧
    (match memberCheck (grouped (groupOf 2 2 true)) (rdS (grouped (groupOf 2 2 true)) 4) with
      | .ok (_, m) => m.bit
      | .error _ => false) = true ∧
    (groupOf 1 1 true).phaseEnds = true ∧ (groupOf 1 1 false).phaseEnds = false := by
  decide +kernel

/-- Thread 0 has an arrive add to make, a wait registered, and a token on its way. -/
def registered : State :=
  { counters with
    me := { counters.me with sq := { counters.me.sq with owed := [192] }
                             wt := { counters.me.wt with entry := some 0, stamp := 5, unregistered := true } }
    tokens := [(counters.me.uid, 0, 5)] }

theorem witness_OwnersAndWaitHardware :
    findCtx registered.me.uid registered = some registered.me ∧
    (ownedCheck selfOwned 1 = none ∧ (∃ e ∈ (dieOf selfOwned 0).wft, sameOwner 1 0 192 0 0 e = true) ∧
      (∀ e ∈ (dieOf counters 0).wft, sameOwner 1 0 192 0 0 e = false) ∧ freeWft (dieOf counters 0) = some 0 ∧
      freeWft { dieOf counters 0 with wft := List.replicate 8192 (edge (.counter 192 5)) } = none) ∧
    (3 : Word).toNat % 2 ^ 24 < base.me.nthr ∧ (BitVec.ofNat 64 (2 ^ 63)).getLsbD 63 = true ∧ (ownedCheck counters 4).isSome = true ∧
    (let s := registered
     192 ∈ s.me.sq.owed ∧ addCheck s s.me.world s.me.lnch 192 = none ∧ (s.me.uid, 0, 5) ∈ s.tokens ∧ s.me.wt.entry = some 0 ∧ s.me.wt.stamp = 5 ∧
       s.me.wt.tokens.length < 8 ∧ s.me.wt.unregistered = true ∧ (dieOf s 7).walks = []) :=
  ⟨rfl, by decide +kernel⟩

/-- A queue header at VA 0x8000: a ring of `2 ^ 3` entries at 0x9000, of the secure world or not, with `n` appended and none read. -/
def queued (n : Nat) (w : Bool) : State :=
  { base with hbm := writeN [] 0x8000 (leBytes 8 n ++ leBytes 8 0 ++ leBytes 8 (0x9000 + 3 + 32 * w.toNat) ++ List.replicate 40 0) }
def appendOf (s : State) : Option (Nat × Bool) :=
  match appendCheck s (agentOf s.me) 0x8000 0x4000 with
  | .ok (_, h, _) => some ((h.notify + 2 ^ 64 - h.read) % 2 ^ 64, h.w)
  | .error _ => none

/-- A `trig` waits for its launch count: of a context with nothing out, and of one with results out. -/
def trigging (c : Ctx) (ids : Nat) : State := { base with me := { c with trigs := [(none, ids, 0)] } }

theorem witness_ThreadInstructions :
    (findCtx (trigging base.me 0).me.uid (trigging base.me 0) = some (trigging base.me 0).me ∧
      findCtx (trigging flying 7).me.uid (trigging flying 7) = some (trigging flying 7).me) ∧
    (match launchOf base base.me.lnch with | some l => bits l.conf 44 4 | none => base.me.bpri) = 3 ∧
    doneBefore (trigging base.me 0) (trigging base.me 0).me 0 0 = true ∧ doneBefore (trigging flying 7) (trigging flying 7).me 7 0 = false ∧
    base.me.sq.late = [] ∧ (withSeq (fun q => { q with late := [.prio true 2] }) base).me.sq.late = [.prio true 2] ∧
    appendOf (queued 8 false) = some (2 ^ 3, false) ∧ appendOf (queued 7 true) = some (7, true) ∧ appendOf (queued 0 false) = some (0, false) ∧
    (queued 0 true).me.world = false ∧ isOk (appendCheck base (agentOf base.me) 0x8001 0x4000) = false :=
  ⟨⟨rfl, rfl⟩, by decide +kernel⟩

theorem witness_ThreadGroups :
    (0 : Word).toNat = 0 ∧ (4096 : Word).toNat ≤ 4096 ∧ 4096 < (4097 : Word).toNat ∧ dieSet base 1 = [0] ∧
    (dieOf base 0).groups = [] ∧ freeGroup (dieOf base 0) = some 0 ∧
    freeGroup { dieOf base 0 with groups := (List.range 256).map fun e => { groupOf 1 1 false with entry := e } } = none ∧
    ((dieOf pair 0).groups.find? fun g => g.lnch = 1 && g.key = 5) = some (groupOf 2 2 false) ∧ ((groupOf 2 2 false).present 0).isSome = true ∧
    (groupOf 3 2 false).present 2 = none ∧ (groupOf 3 2 false).members.length < 3 ∧ (groupOf 2 2 false).size ≤ (groupOf 2 2 false).members.length ∧
    isOk (memberCheck pair (rdS pair 4)) = true ∧ isOk (memberCheck base 0) = false ∧ (rdS pair 4).getLsbD 63 = true ∧ (rdS pair 0).getLsbD 63 = false ∧
    (handleGroup pair (rdS pair 4)).isSome = true ∧ handleGroup pair 0 = none := by
  decide +kernel

/-- A configuration: tag, rows, bytes of a row (R27). -/
def cfg (t : Tag) (rows rb : Nat) : Word := BitVec.ofNat 64 (rb * 2 ^ 12 + rows * 2 ^ 4 + t.code)
/-- A map over 16 bytes of the store at 0x400, one row of 16 (R263). -/
def mapRaw : BitVec 512 := BitVec.ofNat 512 (2 ^ 112 + 15 * 2 ^ 96 + 15 * 2 ^ 80 + 2 ^ 71 + Tag.i8.code * 2 ^ 66 + 2 ^ 64 + 0x400)
def plc16 : Word := BitVec.ofNat 64 (16 * 2 ^ 48)
def someTile (t : Tag) : Tile := { Tile.reset with cfg := cfg t 4 16, icfg := cfg t 4 16 }

/-- Tiles 0 and 1 are configured, `mp0` holds the map, `s4` 0x2000 (the map in memory), `s5` a placement, `s6` 1, `s7` 65. -/
def tiling : State :=
  let s := withS 4 0x2000 (withS 5 plc16 (withS 6 1 (withS 7 65 (tagged .i8))))
  { modRegs (fun g => { g with t := (g.t.set 0 (someTile .i8)).set 1 (someTile .i8), mp := g.mp.set 0 { bits := mapRaw, raster := [] } }) s with
    hbm := writeN [] 0x2000 (leBytes 64 mapRaw.toNat), lines := [(3, .counter)] }

theorem witness_TileCommandsIssue :
    let s := tiling
    cfgOk (rdS s 6) = false ∧ cfgOk (cfg .fp32 128 512) = true ∧ cfgOk (cfg .fp32 129 512) = false ∧
    firstFault [kcCheck s none, mapTileCheck s 0 s.me.regs.mp[0] (rdS s 5)] = none ∧
    (firstFault [kcCheck s (some 1), mapTileCheck s 0 s.me.regs.mp[0] (rdS s 5)]).isSome = true ∧
    tstTagCheck 0 (tileOf s.me 0).icfg (mapTag s.me.regs.mp[0].bits) = none ∧
    firstFault [sourceCheck s 2, rowsCheck (tileOf s.me 0).icfg (rdS s 0) 4 (rdV s 2).tag] = none ∧
    firstFault [tileTagCheck 0 (tileOf s.me 0).icfg, rowsCheck (tileOf s.me 0).icfg (rdS s 0) 4 (cfgTag (tileOf s.me 0).icfg)] = none ∧
    (rowsCheck (tileOf s.me 0).icfg (rdS s 6) 4 .i8).isSome = true ∧
    (match readDesc s (rdS s 4) 64 64 with | .ok (_, bs) => mapOk (BitVec.ofNat 512 (leNat bs)) | .error _ => false) = true ∧
    isOk (readDesc s (rdS s 6) 64 64) = false ∧ 64 < (rdS s 7).toNat ∧ (64 : Word).toNat ≤ 64 ∧ 0 < (rdS s 6).toNat ∧
    s.me.regs.mp[0].bits.getLsbD 71 = true ∧ isOk (readDesc s (rdS s 4) 4 (4 * 64)) = true ∧ (rdS s 0).toNat = 0 := by
  decide +kernel

def portHere (t : Nat) : State := modPorts 0 0 (fun _ => [⟨7, 0, 1, t, 0, 192⟩]) counters

theorem witness_TileQueriesAndPorts :
    (tiling.me.sq.cmds = [] ∧ tiling.me.sq.pends = []) ∧ (handleCheck counters 3).isSome = true ∧ handleCheck counters 1 = none ∧
    portOf counters 0 0 7 = none ∧ (∃ p, portOf (portHere 0) 0 0 7 = some p ∧ p.lnch = base.me.lnch ∧ p.tid = base.me.tid) ∧
    (∃ p, portOf (portHere 1) 0 0 7 = some p ∧ p.tid ≠ base.me.tid) ∧ counters.me.wt.dead = none ∧
    (outL flying ≤ (3 : PReg).val ∧ outS flying ≤ (7 : PReg).val ∧ outC flying ≤ (0 : PReg).val ∧ outT flying ≤ (0 : PReg).val) ∧
    (flying.sq.passed = false ∧ (2 : PReg).val < outL flying) ∧
    (∃ c : Ctx, ∃ f, c = { base.me with wt := { base.me.wt with dead := some { cause := 0x1A } } } ∧ c.wt.dead = some f) :=
  ⟨⟨rfl, rfl⟩, by decide +kernel, by decide +kernel, by decide +kernel, ⟨_, rfl, rfl, rfl⟩, ⟨_, rfl, by decide⟩, rfl, by decide +kernel,
    by decide +kernel, ⟨_, _, rfl, rfl⟩⟩

/-- A command of the thread: `tag` 0 of an engine, in some state of its execution. -/
def cmdOf (op : CmdOp) : Cmd :=
  newCmd 0 op none 0 none 0
def ordered (x : Cmd) (s : State) : State := withSeq (fun q => { q with cmds := [x] }) s

theorem witness_TileCommandsAct :
    (let s := ordered (cmdOf (.tzero 0)) tiling
     findCmd s.me.uid 0 s = some (cmdOf (.tzero 0)) ∧ mayAct s s.me (cmdOf (.tzero 0)) = true ∧ mayComplete (cmdOf (.tzero 0)) = false ∧
       (tileOf s.me 0).cnt = 255) ∧
    (let x : Cmd := { cmdOf (.tcons 0 3) with begun := true }
     let s := ordered x tiling
     findCmd s.me.uid 0 s = some x ∧ mayAct s s.me x = false ∧ mayComplete x = true ∧ (tileOf s.me 0).cnt = 255) ∧
    ((rdV tiling 2).tag ≠ .e2m1x ∧ cfgTag (someTile .i8).cfg = (rdV tiling 2).tag ∧ 64 * cfgRB (someTile .i8).cfg ≤ 1024) ∧
    (15 < mapCount mapRaw ∧ (position ⟨mapRaw, []⟩ 0 0 15).1 = false ∧ (position ⟨mapRaw, []⟩ 1 0 15).1 = true) := by
  decide +kernel

/-- An accumulator set `n` under a tag, tiles 0 and 1 with operands. -/
def churning (t it : Tag) : State :=
  modRegs (fun g => { g with churn := modAcc false (fun a => { a with atag := it, itag := it }) g.churn
                             t := (g.t.set 0 (someTile t)).set 1 (someTile t) }) tiling

theorem witness_ChurnCommandsIssue :
    mmaCheck (churning .i8 .i32) false 0 1 0 false false false = none ∧ mmaCheck (churning .e4m3 .none) true 0 1 0 true true true = none ∧
    (mmaCheck (churning .fp32 .fp32) false 0 1 0 false false false).isSome = true ∧ mmdrCheck (churning .i32 .i32) 0 false 0 none none = none ∧
    (mmdrCheck (churning .i32 .none) 0 false 0 none none).isSome = true ∧
    (finite32 0x3F800000 && finite32 0x40000000 && decide (Real.cmp (decodeFmt fmtFP32 0x3F800000) (decodeFmt fmtFP32 0x40000000) < 0)) = true ∧
    finite32 0x7F800000 = false ∧ finite32 0x7F7FFFFF = true := by
  decide +kernel

theorem witness_ChurnAccumulatesProducts :
    ([-128, 127] : List Int).length = ([-128, -128] : List Int).length ∧ (∀ x ∈ ([-128, 127, -128, -128] : List Int), -128 ≤ x ∧ x ≤ 127) ∧
    (List.replicate 512 (-128 : Int)).length ≤ 512 ∧ (∀ x ∈ ([-32768, 32768] : List Int), -32768 ≤ x ∧ x ≤ 32768) ∧ Tag.bf16 ≠ .i8 ∧
    (let c : Corr := { desc := corrDesc 9 512 .i8 7 128, entries := [(127, 5)] }
     bits c.desc 8 6 = 0 ∧ bit c.desc 14 = true ∧ bits c.desc 0 8 = 128 ∧
       (match Tag.ofCode (bits c.desc 18 4) with | some t => mmaTag t | none => false) = true) := by
  decide +kernel

/-- A layout of KIND `k` over grid extents `e` with blocks `b`, elements I8, KEY 5 (R338). -/
def layRaw (k halo : Nat) (g b e : List Nat) : Lay :=
  BitVec.ofNat 512 ((g.zipIdx.map fun x => (x.1 - 1) * 2 ^ (488 - 24 * x.2)).sum + (b.zipIdx.map fun x => (x.1 - 1) * 2 ^ (392 - 24 * x.2)).sum
    + 0x1000 * 2 ^ 288 + 5 * 2 ^ 272 + (e.zipIdx.map fun x => (x.1 - 1) * 2 ^ (248 - 6 * x.2)).sum + halo * 2 ^ 233 + Tag.i8.code * 2 ^ 229
    + k * 2 ^ 226 + 2 ^ 225)
/-- Two dies along axis 0, an array of 4 by 8, halo 1. -/
def layTwo : Lay := layRaw 1 1 [4, 8, 1, 1] [4, 4, 1, 1] [2, 1, 1]
/-- One die, not this one. -/
def layFar : Lay := layRaw 4 0 [4, 1, 1, 1] [4, 1, 1, 1] [1, 1, 1] ||| BitVec.ofNat 512 (2 ^ 266)
def laid : State :=
  { modRegs (fun g => { g with lay := ((g.lay.set 1 layTwo).set 2 layFar).set 3 (layRaw 2 0 [4, 1, 8, 1] [4, 1, 4, 1] [2, 1, 1]) }) tiling with
    hbm := writeN (writeN [] 0x2000 (leBytes 64 layTwo.toNat)) 0x2040 (leBytes 64 (layRaw 2 1 [4, 1, 8, 1] [4, 1, 4, 1] [2, 1, 1]).toNat) }

theorem witness_Layouts :
    (match readDesc laid 0x2000 64 64 with | .ok (_, bs) => layOk laid (BitVec.ofNat 512 (leNat bs)) | .error _ => false) = true ∧
    (match readDesc laid 0x2040 64 64 with | .ok (_, bs) => layOk laid (BitVec.ofNat 512 (leNat bs)) | .error _ => true) = false ∧
    isOk (readDesc laid 0x2001 64 64) = false ∧ layV laid.me.regs.lay[0] = false ∧
    (layV laid.me.regs.lay[2] = true ∧ gridOf laid.me.regs.lay[2] (torusOf laid 0) = none) ∧
    (layV laid.me.regs.lay[1] = true ∧ gridOf laid.me.regs.lay[1] (torusOf laid 0) = some [0, 0, 0] ∧ layOk laid laid.me.regs.lay[1] = true) ∧
    (layOk laid laid.me.regs.lay[3] = true ∧ layKind laid.me.regs.lay[3] ≠ 4 ∧ (∀ k < 4, [3, 0, 7, 0].getD k 0 < layG laid.me.regs.lay[3] k)) := by
  decide +kernel

/-- A receive binding of the world and KEY of `layTwo` on a die, for a launch. -/
def bindingTo (die l : Nat) (s : State) : State := modDie die (fun d => { d with recvs := [⟨false, 5, l, die * 2 ^ 28 + 192⟩] }) s
def handled (s : State) : State := modRegs (fun g => { g with k := g.k.set 1 (BitVec.ofNat 64 (2 ^ 63 + 192)) }) { s with lines := [(3, .counter)] }
/-- Dies 0 and 1 add 16 elements of KEY 9; the result goes to die 0. -/
def credA : Word := BitVec.ofNat 64 (0x800 * 2 ^ 32 + 0x400)
def credB : Word := BitVec.ofNat 64 (9 * 2 ^ 48 + 2 ^ 40 + 3 * 2 ^ 32 + 16)

theorem witness_DieCommandsIssue :
    (handleCheck laid 1).isSome = true ∧ handleCheck (handled laid) 1 = none ∧ isOk (layCheck laid 0) = false ∧ isOk (layCheck laid 2) = false ∧
    isOk (layCheck laid 1) = true ∧ laid.me.die < 8 ∧
    hrecvCheck laid 5 192 = none ∧ (hrecvCheck (bindingTo 0 2 laid) 5 192).isSome = true ∧ (hrecvCheck laid 5 (2 ^ 28 + 192)).isSome = true ∧
    (hrecvCheck (withDie (fun d => { d with recvs := (List.range 32).map fun k => ⟨true, k, 1, 192⟩ }) laid) 5 192).isSome = true ∧
    ((bindingOf (bindingTo 0 2 laid) 0 false 5).any fun b => b.lnch ≠ laid.me.lnch) = true ∧
    ((bindingOf (bindingTo 0 1 laid) 0 false 5).any fun b => b.lnch = laid.me.lnch) = true ∧ bindingOf laid 0 false 5 = none ∧
    (layKind layTwo = 1 ∧ layHalo layTwo ≠ 0 ∧ layKind laid.me.regs.lay[3] ≠ 1) ∧ crwCheck laid 1 = none ∧
    (crwCheck { laid with fab := { laid.fab with crw := 2 } } 1).isSome = true ∧ layTag laid.me.regs.lay[3] = layTag layTwo ∧
    (∃ i < 4, layG laid.me.regs.lay[3] i ≠ layG layTwo i) ∧ credCheck laid credA credB false = none ∧
    (credCheck laid credA credB true).isSome = true ∧ (credCheck laid (credA + 1) credB false).isSome = true := by
  decide +kernel

/-- A face of two bytes for die 1, the next piece of an `hsend`. -/
def facePiece (m : Option Nat) : Piece := { mod := m, die := 1, key := 5, cells := [(2 ^ 28 + 64, 1), (2 ^ 28 + 65, 2)], owes := none }
def faceCmd (m : Option Nat) : Cmd := { cmdOf (.hsend layTwo 0 true none) with begun := true, stage := 2, todo := [0], pieces := [facePiece m] }
/-- Die 1's vat 0 belongs to launch 1, and its counter at line 3 is armed. -/
def facing (m : Option Nat) : State :=
  { bindingTo 1 1 (ordered (faceCmd m) tiling) with
    banks := (List.range 16).map (fun b => (b, 1)) ++ (List.range 16).map fun b => (1024 + b, 1), lines := [(3, .counter), (2 ^ 22 + 3, .counter)] }
/-- A multicast of the map to core 0, whose port 7 this thread holds. -/
def tmcCmd (held : List Nat) : Cmd :=
  { cmdOf (.tmc ⟨mapRaw, []⟩ 0 plc16 1 7 false none) with begun := true, stage := 2, todo := [0], reserved := held, elems := [], landings := held.map fun k => ⟨k, base.me.uid, 0, 192⟩ }
def casting (held : List Nat) : State := modPorts 0 0 (fun _ => [⟨7, 0, 1, 0, 0, 192⟩]) (ordered (tmcCmd held) tiling)
def castArriving : State :=
  withSeq (fun q => { q with cmds := [tmcCmd [0], { cmdOf (.arrival 0 tiling.me.uid 0) with tag := 0 }] }) (casting [0])

theorem witness_Arrivals_pieces :
    (facing none).Tidy ∧ findCmd base.me.uid 0 (facing none) = some (faceCmd none) ∧ (faceCmd none).pieces = facePiece none :: [] ∧
    bufferFree (facing none) 0 1 = true ∧ bufferFree (modDie 1 (fun d => { d with landing := 8 }) (facing none)) 0 1 = false ∧
    bindingOf (facing none) 1 false 5 = some ⟨false, 5, 1, 2 ^ 28 + 192⟩ ∧ lineAt (facing none) (2 ^ 28 + 192) = .counter ∧
    (match arriveBytes base.me.uid ⟨false, 5, 1, 2 ^ 28 + 192⟩ 1 (facePiece none).cells (facing none) with
      | .ok t => decide (addCheck t false 1 (2 ^ 28 + 192) = none)
      | .error _ => false) = true ∧
    (facePiece (some 5)).mod = some 5 ∧ findCmd base.me.uid 0 (facing (some 5)) = some (faceCmd (some 5)) ∧
    bindingOf (ordered (faceCmd none) tiling) 1 false 5 = none := by
  unfold State.Tidy
  decide +kernel

theorem witness_Arrivals_multicast :
    (casting []).Tidy ∧ findCmd base.me.uid 0 (casting []) = some (tmcCmd []) ∧
    (tmcCmd []).todo.find? (fun k => !(tmcCmd []).reserved.contains k) = some 0 ∧ (coreOf (casting []) 0 0).branch < 4 ∧
    isOk (destCheck (casting []) 0 0 7 ⟨mapRaw, []⟩ plc16) = true ∧ isOk (destCheck (ordered (tmcCmd []) tiling) 0 0 7 ⟨mapRaw, []⟩ plc16) = false ∧
    4 ≤ (coreOf (modCore 0 0 (fun c => { c with branch := 4 }) (casting [])) 0 0).branch ∧ castArriving.Tidy ∧
    findCmd base.me.uid 0 castArriving = some (tmcCmd [0]) ∧ (portOf castArriving 0 0 7).isSome = true ∧
    mayBegin castArriving.me (isArrival base.me.uid 0) = true ∧ (∀ i ∈ (tmcCmd [0]).todo, i ∈ (tmcCmd [0]).reserved) ∧
    (tmcCmd [0]).landings.find? (fun l => l.core = 0) = some ⟨0, base.me.uid, 0, 192⟩ ∧ (mapWin (tileOf castArriving.me 0).cfg ⟨mapRaw, []⟩ plc16).isSome = true ∧
    (mapWin (tileOf base.me 0).cfg ⟨mapRaw, []⟩ plc16).isNone = true ∧ addCheck castArriving false 1 192 = none ∧
    mayBegin (casting [0]).me (isArrival base.me.uid 0) = false := by
  unfold State.Tidy
  decide +kernel

/-- A `cred` of die 0 alone, joined as reduction 0 of KEY 9. -/
def credCmd : Cmd := cmdOf (.cred 0x400 0x800 16 1 1 9 none 0 none)
def contrib (m : Nat) : Contrib := { die := 0, cid := base.me.uid, tag := 0, src := 0x400, dst := 0x800, n := 16, m, r := 1, ch := none }
def redOf (ins : List Contrib) : Reduction := { lnch := 1, key := 9, j := 0, ins, result := none, toBuf := [], held := [], written := [], fault := none }
def reducing (r : Reduction) : State := { ordered credCmd tiling with reductions := [r] }
def formed (b h : List Nat) : Reduction := { redOf [contrib 1] with result := some (List.replicate 16 0x3F800000), toBuf := b, held := h }

theorem witness_Reductions :
    findRed (reducing (redOf [contrib 1])) 1 9 0 = some (redOf [contrib 1]) ∧ redComplete (redOf [contrib 3]) = false ∧
    redComplete (redOf [contrib 1]) = true ∧ (redOf [contrib 1]).ins.head? = some (contrib 1) ∧ (∃ y ∈ (redOf [contrib 1, contrib 3]).ins, y.m ≠ (contrib 1).m) ∧
    redFault (redOf [contrib 1]) (redReads (redOf [contrib 1]) (reducing (redOf [contrib 1]))) = none ∧
    (redFault (redOf [contrib 1]) (redReads (redOf [contrib 1]) { reducing (redOf [contrib 1]) with banks := [] })).isSome = true ∧
    (formed [0] []).toBuf = 0 :: [] ∧ (dieOf (reducing (formed [0] [])) 0).landing < 8 ∧
    8 ≤ (dieOf (withDie (fun d => { d with landing := 8 }) (reducing (formed [0] []))) 0).landing ∧
    ((formed [] [0]).held = [0] ∧ (formed [] [0]).fault = none ∧ isOk (redWrite (formed [] [0]) 0 (List.replicate 16 0x3F800000) (reducing (formed [] [0]))) = true) ∧
    (formed [] [0, 1]).held = 0 :: 1 :: [] := by
  decide +kernel

/-- A channel's descriptor: 16 lanes of I8, depth 2; the receive end with a pail at 0x1000 and counters in line 3 (R355). -/
def chanRaw (rcv : Bool) : BitVec 256 :=
  BitVec.ofNat 256 (15 * 2 ^ 118 + 2 ^ 112 + Tag.i8.code * 2 ^ 108 + (if rcv then 2 ^ 106 + 0x1000 * 2 ^ 224 + 192 * 2 ^ 192 + 200 * 2 ^ 160 else 0))
def endOf (rcv : Bool) (q : List ChanOp) : ChanEnd := { chanEnd (chanRaw rcv) 0 base.me.uid with queue := q }
def chanWith (snd rcv : Option ChanEnd) : Chan := { lnch := 1, ch := 63, snd, rcv, sndGone := false, rcvGone := false, written := 0 }
def item (op : Nat) : ChanOp := { cid := base.me.uid, lnch := 1, tid := 0, op, item := List.replicate 16 1, n := 0 }
def piped (c : Option Chan) : State :=
  { ordered (cmdOf (.chsend 63 (item 0).item)) tiling with
    hbm := writeN (writeN [] 0x2000 (leBytes 32 (chanRaw false).toNat)) 0x2020 (leBytes 32 (chanRaw true).toNat), chans := c.toList
    lines := [(3, .counter), (64, .empty), (65, .empty)] }
def sending : Chan := chanWith (some (endOf false [item 0])) (some (endOf true []))

theorem witness_Channels_issue :
    crwCheck (piped none) 2 = none ∧ (crwCheck { piped none with fab := { (piped none).fab with crw := 4 } } 2).isSome = true ∧
    (match readDesc (piped none) 0x2000 32 32 with
      | .ok (_, bs) => chanFieldsOk (BitVec.ofNat 256 (leNat bs)) && !chanIsRcv (BitVec.ofNat 256 (leNat bs)) | .error _ => false) = true ∧
    (match readDesc (piped none) 0x2020 32 32 with
      | .ok (_, bs) => chanFieldsOk (BitVec.ofNat 256 (leNat bs)) && chanIsRcv (BitVec.ofNat 256 (leNat bs)) | .error _ => false) = true ∧
    isOk (readDesc (piped none) 0x2001 32 32) = false ∧ chanFieldsOk (BitVec.ofNat 256 (2 ^ 128)) = false ∧
    isOk (pailPlan (piped none) 1 (chanPail (endOf true [])) 0x2020) = true ∧ isOk (pailPlan base 1 (chanPail (endOf true [])) 0x2020) = false ∧
    chsetCheck (piped none) 63 true (endOf true []) = none ∧
    (chsetCheck (piped (some (chanWith (some { endOf false [] with tid := 1 }) none))) 63 false (endOf false [])).isSome = true ∧
    holdsEnd (piped none) 63 false = none ∧ holdsEnd (piped none) 63 true = none ∧
    holdsEnd (piped (some sending)) 63 false = some (sending, endOf false [item 0]) ∧ holdsEnd (piped (some sending)) 63 true = some (sending, endOf true []) ∧
    chanBusy (piped (some sending)) 63 = true ∧ chanBusy (withSeq (fun q => { q with cmds := [] }) (piped (some sending))) 63 = true ∧
    chanBusy (withSeq (fun q => { q with cmds := [] }) (piped (some (chanWith none (some (endOf true [])))))) 63 = false ∧
    srcCheck (piped (some sending)) (fun t => t = (endOf false []).tag) 2 = none ∧
    (srcCheck (piped (some sending)) (fun t => t = (endOf false []).tag) 10).isSome = true := by
  decide +kernel

theorem witness_Channels_items :
    chanOf (piped (some sending)) 1 63 = some sending ∧ (endOf false []).rem = false ∧ sendOver (piped (some sending)) (item 0) = (none, false) ∧
    (endOf false []).count < (endOf false []).base + (endOf false []).depth ∧ (endOf false []).base ≤ (endOf false []).count ∧
    (let e := { endOf false [] with count := 2 }
     e.base + e.depth ≤ e.count) ∧
    isOk (itemWrite base.me.uid 1 (endOf false [item 0]) (endOf true []) false (item 0).item (piped (some sending))) = true ∧
    isOk (itemWrite base.me.uid 1 (endOf false [item 0]) (endOf true []) false (item 0).item tiling) = false ∧
    counterAt (piped (some sending)) (endOf true []).fillc < (endOf true []).base + (item 0).n + 1 ∧
    (let s := { piped (some sending) with lines := [(3, .counter), (64, .counted 1)], store := writeN [] 192 (leBytes 8 1) }
     (endOf true []).base + (item 0).n + 1 ≤ counterAt s (endOf true []).fillc ∧
       (match accessSegs s { world := false, lnch := 1, die := 0 } true .consume 0x1000 64 with | .ok gs => decide (badLine s gs = none) | .error _ => false) = true) := by
  decide +kernel

/-- A request of module 5 to this one, over port 24, and an export entry that admits a load or store at 0x1000 of the store. -/
def reqOf (seq : Nat) (op : RemoteOp) (addr : Word) : RemoteReq :=
  { src := 5, target := 0, flow := 1, seq, key := 7, store := true, addr, world := false, port := 24, op }
def exportRaw : BitVec 256 := BitVec.ofNat 256 (7 * 2 ^ 192 + 4096 * 2 ^ 80 + 2 ^ 48 + 2 ^ 7 + 2 ^ 5 + 2 ^ 4 + 2 ^ 3 + 2 ^ 2)
def exporting : State := { counters with fab := { counters.fab with exports := [(0, exportRaw)] } }

theorem witness_RemoteRequestsAtTarget :
    isMine exporting (reqOf 0 (.load 8) 8) = true ∧ isMine exporting { reqOf 0 (.load 8) 8 with target := 1 } = false ∧
    expected exporting (reqOf 0 (.load 8) 8) < 1 ∧ (reqOf 0 (.load 8) 8).seq = expected exporting (reqOf 0 (.load 8) 8) ∧
    (reqOf 0 (.load 8) 8).seq < expected { exporting with fab := { exporting.fab with expect := [(5, 1, 4)] } } (reqOf 0 (.load 8) 8) ∧
    (perform (reqOf 0 (.load 8) 8) exporting).2 ≠ .rnr ∧ (perform (reqOf 0 (.load 8) 8) counters).2 = .rnr ∧
    (∀ e ∈ counters.fab.exports, exportAdmits (reqOf 0 (.load 8) 8) e.2 = false) ∧
    (256 ≤ ((List.range 256).filter fun _ => (reqOf 1 (.load 8) 8).port = 24).length ∧ reqOf 1 (.load 8) 8 ∉ exporting.fab.early) ∧
    ((0x1000000 : Word).getLsbD 24 = true ∧ 24 < 64) ∧
    admittedFor exporting (reqOf 0 (.load 8) 8) = some 1 ∧ exporting.fab.portw.getLsbD 24 = false ∧
    (match targetSegs exporting (reqOf 0 (.load 8) 8) 1 .plain 8 with | .ok _ => true | .error _ => false) = true ∧
    (match targetSegs exporting (reqOf 0 (.store [1, 2]) 8) 1 .store 2 with | .ok _ => true | .error _ => false) = true ∧
    (match targetSegs exporting (reqOf 0 (.load 8) 8) 1 .atomic 8 with | .ok _ => true | .error _ => false) = true ∧
    storeCheck exporting { world := false, lnch := 1, die := 0 } true 192 8 = none ∧ lineAt exporting 192 = .counter ∧ lineAt exporting 8 ≠ .counter := by
  decide +kernel

theorem witness_RemoteRequestsAtTarget_tidy : exporting.Tidy := by
  unfold State.Tidy
  decide +kernel

/-- An operation outstanding to module 5, in some state of its journey; module 5 answers to port 24, which is held. -/
def issuing (o : RemoteOut) (relay : List RemoteReq) : State :=
  { base with fab := { base.fab with
      outs := [o], relay := relay.map fun q => { id := 40 + q.seq, req := q, st := .queued, retries := 0, via := none }, mroute := [(5, BitVec.ofNat 32 (2 ^ 30))]
      ports := base.fab.ports.set 24 { Port.reset with st := .held, cfg := BitVec.ofNat 64 (2 ^ 63 + 5 * 2 ^ 20) } } }
def forward (n : Nat) : RemoteReq := { reqOf n (.store [1]) 8 with target := 5 }

/-- A port's configuration: peer 5, 16 wavelengths each way, period 20, guard 2. -/
def portCfg : Word := BitVec.ofNat 64 (2 ^ 63 + 2 ^ 62 + 20 * 2 ^ 48 + 2 * 2 ^ 44 + 16 * 2 ^ 38 + 16 * 2 ^ 32 + 5 * 2 ^ 20)
/-- A forward to module 5 stands in the relay buffer; the only port to it is a rotor in a slot of that entry. -/
def relaying (slot : Nat) (st : RemoteSt) : State :=
  modPort 31 (fun p => { p with st := .rotor, cfg := portCfg, slot := 0, slots := [(0, BitVec.ofNat 64 slot)], left := 4096 })
    { base with fab := { base.fab with mroute := [(5, BitVec.ofNat 32 (2 ^ 30))], relay := [{ id := 40, req := forward 0, st, retries := 0, via := none }] } }

theorem witness_AnswersAndRelays :
    (∀ use ∈ [RemoteFor.load 4 (.scalar true), .store 6, .engine 0 0], let o := { outOp 3 use with st := .sent }
      outOf (issuing o []) 3 = some o ∧ answerable o = true ∧ o.use = use) ∧
    (let o := { outOp 3 (.store 6) with st := .backoff }
     outOf (issuing o []) 3 = some o ∧ answerable o = false) ∧
    (bits base.fab.fabcfg 24 4 = 8 ∧ (outOp 3 (.store 6)).retries < 8 ∧ (8 : Nat) ≤ { outOp 3 (.store 6) with retries := 8 }.retries) ∧
    0x16 ∈ [0x0D, 0x0E, 0x0F, 0x16] ∧ 0x18 ∉ [0x0D, 0x0E, 0x0F, 0x16] ∧
    (let s := issuing (outOp 3 (.store 6)) [forward 0]
     (s.fab.relay.find? fun f => f.req = forward 0) = some { id := 40, req := forward 0, st := .queued, retries := 0, via := none } ∧
       relayPath s (forward 0).target = some 24 ∧ (portAt s 24).st = .held ∧ (s.fab.relay.find? fun f => f.req = forward 1) = none ∧
       isMine s (forward 1) = false ∧ isMine s (reqOf 1 (.load 8) 8) = true ∧ s.fab.crw.getLsbD 3 = false ∧
       ¬ (16 * 2 ^ 20 < (s.fab.relay.map fun f => payload f.req).sum + payload (forward 1))) ∧
    (let s := relaying (5 * 2 ^ 22 + 2 ^ 21 + 2 ^ 20 + 1) .queued
     relayPath s 5 = some 31 ∧ (portAt s 31).st = .rotor ∧ payload (forward 0) ≤ (portAt s 31).left) ∧
    (let s := relaying (2 ^ 20) .queued
     relayPath s 5 = none) ∧
    (let s := relaying 0 .sent
     outOf s 40 = none ∧ fwdOf s 40 = some { id := 40, req := forward 0, st := .sent, retries := 0, via := none }) := by
  decide +kernel

/-- A port in a state. -/
def withPort (st : PortSt) (c : Word) : State := modPort 31 (fun p => { p with st, cfg := c, txok := 128, rxok := 128 }) base
/-- A rotor whose slot 0 permits messages of one line to module 5; its last slot is 0. -/
def rotoring : State :=
  modPort 31 (fun p => { p with st := .rotor, cfg := portCfg, slots := [(0, BitVec.ofNat 64 (5 * 2 ^ 22 + 2 ^ 21 + 2 ^ 20 + 1))] })
    (issuing (outOp 3 (.store 6)) [])

theorem witness_PortsAndRotors :
    opcfgOk 0 = false ∧ opcfgOk portCfg = true ∧ asksChange portCfg (portCfg + 2 ^ 56) = true ∧ (opcfgValue 31 portCfg).getLsbD 63 = true ∧ (opcfgValue 31 (portCfg &&& 0x7FFFFFFFFFFFFFFF)).getLsbD 63 = false ∧
    (∀ st ∈ [PortSt.down, .locking, .held, .rotor, .quiesce, .dark], (portAt (withPort st portCfg) 31).st = st) ∧
    bit (portAt (withPort .down 0) 31).cfg 63 = false ∧ asksChange portCfg portCfg = false ∧ asksChange portCfg (portCfg + 2 ^ 20) = true ∧
    (portAt (withPort .quiesce portCfg) 31).markers = 0 ∧ (1 : Nat) < (portAt (withPort .held portCfg) 31).txok ∧
    (portAt (withPort .held portCfg) 31).txok ≤ 128 ∧ (8 * bits portCfg 38 6 = 128) ∧
    (portAt rotoring 31).st = .rotor ∧ (portAt base 31).st ≠ .rotor ∧ bits portCfg 56 6 ≤ (portAt rotoring 31).slot ∧
    (let e := getAt 0 (portAt rotoring 31).slots 0
     bit e 21 = true ∧ nextHop rotoring 5 = some (bits e 22 12) ∧ SMap.canon 0 (portAt rotoring 31).allow = true ∧
       ((slotReplies rotoring 31 e ++ slotOuts rotoring 31 e).map fun x => x.1).Nodup) := by
  decide +kernel

/-- Slot 31 of die 7 as it may stand. -/
def slotted (m e : Bool) : State := modSlot 7 31 (fun x => { x with mapped := m, ever := e, hdr := 0x8000, reg := 5 }) (queued 8 false)
def hallow : State := { base with sys := { base.sys with alarm := true } }

theorem witness_QueueSlotsAndRegisters :
    (slotAt (slotted false true) 7 31).mapped = false ∧ (slotAt (slotted false true) 7 31).ever = true ∧ (slotAt (slotted true true) 7 31).mapped = true ∧
    (slotAt (queued 8 false) 7 31).ever = false ∧ isOk (readHdr (queued 8 false) 0 0x8000) = true ∧ isOk (readHdr (queued 8 false) 0 0x20000) = false ∧
    halted hallow = true ∧ halted base = false ∧
    bit (dieOf (withDie (fun d => { d with dmcfg := 0x80 }) base) 0).dmcfg 7 = true ∧ bit (dieOf base 0).dmcfg 7 = false ∧ grantHeld base 0 = true ∧
    dirtyHeld { base with home := [(1, .dirty)] } 0 = true ∧ grantHeld base 1 = false ∧ dirtyHeld base 1 = false ∧
    bits (dmcfgValue 0x25) 0 5 ≠ bits (dieOf base 0).dmcfg 0 5 ∧
    (∃ b ∈ base.banks, b.1 / 1024 = 0 ∧ b.2 ≠ 0 ∧ bit ((1 : Word) ^^^ (dieOf base 0).vatw) (b.1 / 16 % 64) = true) ∧
    (∀ b ∈ base.banks, ¬ (b.1 / 1024 = 0 ∧ b.2 ≠ 0 ∧ bit ((2 : Word) ^^^ (dieOf base 0).vatw) (b.1 / 16 % 64) = true)) ∧
    regAt 1 = none ∧ regAt 0 = some .mpos ∧ bit base.fab.mpos 63 = false ∧ bit (2 ^ 63 : Word) 63 = true := by
  decide +kernel

/-- Region 0 is secure and covers the second 2 MiB. -/
def regioned : State := { queued 7 false with fab := { base.fab with regions := [(0, BitVec.ofNat 64 (2 ^ 63 + 2 ^ 62 + 2 ^ 18 + 1))] } }

theorem witness_TzCommands :
    halted hallow = true ∧ halted regioned = false ∧
    (let form := fun (pa n : Nat) => n % 8 = 0 ∧ 8 ≤ n ∧ n ≤ 4096 ∧ pa % 8 = 0 ∧ pa % 4096 + n ≤ 4096
     ¬ form 8 4096 ∧ form (2 ^ 39) 8 ∧ form (2 ^ 21) 4096 ∧ form 4088 8) ∧
    (2 ^ 21 < 2 ^ 39 ∧ regionSecure regioned (2 ^ 21) = true ∧ regionSecure regioned 4088 = false ∧ regionSecure regioned (2 ^ 22) = false ∧
      (lineStarts 4088 8).all (fun a => !homeSecure regioned a) = true) ∧
    (badLine { regioned with badHbm := [63] } (paSegs 4088 8)).isSome = true ∧ badLine regioned (paSegs 4088 8) = none ∧
    (match appendCheck regioned (queueAgent 0 false) 0x8001 0x4000 with | .error f => decide (f.cause = 0x0B) | .ok _ => false) = true ∧
    (match appendCheck regioned (queueAgent 0 false) 0x20000 0x4000 with | .error f => decide (f.cause = 0x0A) | .ok _ => false) = true ∧
    (match appendCheck regioned (queueAgent 0 false) 0x8000 0x4000 with
      | .ok (gs, _, rs) => decide (badLine regioned (gs ++ rs) = none) && decide (badLine { regioned with badHbm := [0x9000 / 64] } (gs ++ rs) ≠ none)
      | .error _ => false) = true ∧
    regAt 1 = none ∧ regAt 0x18 = some .portw ∧ cwriteRefused .portw 0 = true ∧ cwriteRefused .mpos 0 = false ∧
    (regioned.sys.booted = false ∧ { regioned.sys with booted := true }.booted = true ∧ regioned.sys.wrapKey = true ∧ regioned.sys.keysHeld = false) := by
  decide +kernel

/-- What the boot finds and whether `ALMH` is set are free values of the configuration: no witness fixes them. -/
theorem witness_ModuleEvents :
    let s := withDie (fun d => { d with errLost := 3 }) base
    0 < (dieOf s 0).errLost ∧ (dieOf s 0).errs.length < 256 ∧ (dieOf base 0).errLost = 0 ∧
    256 ≤ (dieOf (withDie (fun d => { d with errs := List.replicate 256 ⟨0, 0, 0, 9, 0, []⟩ }) s) 0).errs.length ∧
    0 < { base.sys with crLost := 1 }.crLost ∧ base.sys.crErrs.length < 256 ∧ (0xA4 : Byte) ≠ 0xA5 := by decide +kernel

/-- A thread of equal priority stands saved; its image lies at 0x6000. -/
def savedOne : Saved :=
  { va := 0x6000, count := 1, salt := 0, woken := false
    ctx := { base.me with tid := 1, foot := 0, tiles := 0, churnOn := false, sq := { Seq.reset with group := 4 } } }
def crowded : State := { base with saved := [savedOne] }
def asked : State := { calling with me := { calling.me with preReq := true } }

theorem witness_SlicesAndSaves_slice :
    findCtx base.me.uid crowded = some base.me ∧ base.me.status = .running ∧ wanted crowded base.me = true ∧ wanted base base.me = false ∧
    gangAsked base 1 = false ∧ keepsSlot base base.me = false ∧ (launchOf crowded 1).map Launch.gang = some false := by
  exact ⟨rfl, by decide +kernel⟩

theorem witness_SlicesAndSaves_save :
    asked.me.status = .running ∧ asked.me.preReq = true ∧ preemptPoint asked = true ∧ engineIdle asked.me = true ∧ asked.others = [] ∧
    base.me.preReq = false ∧ preemptPoint { asked with me := { asked.me with fresh := true } } = false ∧ State.reset.me.status = .free := by
  decide +kernel

/-- Handler mode of a service launch; `s4` names entry 255 of die 0, `s5` a bind record for it at 0x3000, `s6` a dictionary of 2 entries. -/
def bindRaw : BitVec 256 := BitVec.ofNat 256 (0x4000 * 2 ^ 128 + 64 * 2 ^ 62 + 63 * 2 ^ 56 + 3 * 2 ^ 54 + 2 * 2 ^ 29 + 1)
def firmware : State :=
  let s := withCtl (fun c => { c with handler := true }) (withS 4 0xFF (withS 5 0x3000 (withS 6 0x5002 base)))
  { s with launches := [{ launch1 with service := true }], hbm := writeN [] 0x3000 (leBytes 32 bindRaw.toNat) }

theorem witness_FirmwareInstructions_entries :
    firmware.me.ctl.handler = true ∧ (launchOf firmware 1).map Launch.service = some true ∧ base.me.ctl.handler = false ∧
    entryFree firmware 0 255 = true ∧ entryFree firmware 0 0 = false ∧ (ctxAt firmware 0 0).isSome = true ∧
    (let s := withDie (fun d => { d with binds := [⟨255, 0, 0, 0, 0, 0, 0, 0, 0, 0, 0, 2, 1, false, false, false⟩] }) firmware
     entryFree s 0 255 = false ∧ (ctxAt s 0 255).isNone = true ∧ entryBinding s 0 255 = true) ∧
    (match ctxldRead firmware (rdS firmware 5) with
      | .ok (_, raw) => (ctxldRoom firmware 0 255 raw).isSome && raw.getLsbD 0
      | .error _ => false) = true ∧
    isOk (ctxldRead firmware 1) = false ∧ (ctxldRoom firmware 0 255 0).isSome = true ∧ firmware.me.sq.loading = none := by
  decide +kernel

theorem witness_FirmwareInstructions_dictionaries :
    2048 < bits (2049 : Word) 0 12 ∧ bits (2048 : Word) 0 12 ≤ 2048 ∧ resident firmware 0 0 (rdS firmware 6) = false ∧
    resident (modCore 0 0 (fun c => { c with dicts := [⟨rdS firmware 6, [0, 0]⟩] }) firmware) 0 0 (rdS firmware 6) = true ∧
    ((keepDicts firmware 0 0 2).map fun y => y.entries.length).sum + 2 ≤ 4096 ∧
    isOk (loadDict 0 0 (rdS firmware 6) false firmware) = true ∧ isOk (loadDict 0 0 0x50002 false firmware) = false := by
  decide +kernel

/-- The record of a first bind of thread 2, and of the restore of thread 1. -/
def recOf (img : Word) (tid : Nat) : BindRec := ⟨255, img, 0x4000, 0, 0, 0, 3, 0, 64, 63, 3, tid, 1, false, false, false⟩
def bindable (img : Word) (tid : Nat) : State := { withDie (fun d => { d with binds := [recOf img tid] }) base with saved := [savedOne] }

/-- Every core of die 0 is fenced. -/
def fenced (s : State) : State := (List.range 64).foldl (fun s k => modCore 0 k (fun c => { c with fenced := true }) s) s

theorem witness_DispatchAndBind_select :
    8 ≤ 8 ∧ halted base = false ∧ candidates base 0 = [] ∧ (candidates crowded 0).length = 1 ∧
    (match candidates crowded 0 with | c :: _ => (serve 0 ⟨63, 3, 64, 0⟩ c.2 crowded).isSome | [] => false) = true ∧
    (match candidates crowded 0 with | c :: _ => (serve 0 ⟨63, 3, 64, 0⟩ c.2 (fenced crowded)).isSome | [] => true) = false ∧
    (victim base 0 4).isSome = true ∧ victim base 0 3 = none := by
  decide +kernel

theorem witness_DispatchAndBind_bind :
    (dieOf base 0).binds = [] ∧ (dieOf (bindable 0 2) 0).binds = [recOf 0 2] ∧ (launchOf (bindable 0 2) 1).map Launch.live = some true ∧
    { launch1 with state := .failed }.live = false ∧ isOk (loadDict 0 63 launch1.dict launch1.world (bindable 0 2)) = true ∧
    isOk (loadDict 0 63 0x50002 false (bindable 0 2)) = false := by
  decide +kernel

/-- An image of zeros at 0x6000 with the integrity tags of thread 1's first save. -/
def zeroImage : List Byte := List.replicate 8192 0 ++ integrityArea base.sys.imageKey 0x6000 1 (List.replicate 8192 0)
/-- Bytes at 0x6000 of the HBM. -/
def restoring (bs : List Byte) : State := { bindable 0x6000 1 with hbm := writeN [] 0x6000 bs }
def restorable : State := restoring zeroImage

theorem restorable_segs : vaSegs restorable (agentOf savedOne.ctx).site (agentOf savedOne.ctx).world .read 0x6000 8256 =
    .ok [⟨false, 0x6000, 8256, 0x6000⟩] := by
  decide +kernel

theorem restoring_read (bs : List Byte) (h : bs.length = 8256) : readSegs (restoring bs) [⟨false, 0x6000, 8256, 0x6000⟩] = bs := by
  have hm : (restoring bs).hbm = writeN [] 0x6000 bs := rfl
  simp only [readSegs, List.flatMap_cons, List.flatMap_nil, List.append_nil, Bool.false_eq_true, if_false, hm]
  rw [← h]
  exact readN_writeN _ _ wf_nil

/-- It is as it was written: it lies in one page, and each block's tag stands in the integrity area. -/
theorem zeroImage_ok : imageOk restorable savedOne 0x6000 = true := by
  have ht : ∀ b bs, (blockTag base.sys.imageKey 0x6000 1 b bs).length = 16 := fun b bs => blockTag_length _ _ _ _ _
  have hz : zeroImage = List.replicate 8192 0 ++ (blockTag base.sys.imageKey 0x6000 1 0 (List.replicate 4096 0) ++
      (blockTag base.sys.imageKey 0x6000 1 1 (List.replicate 4096 0) ++ List.replicate 32 0)) := by
    simp [-List.reduceReplicate, zeroImage, integrityArea, blocksOf, imageBlock, List.range_succ]
  have hn : zeroImage.length = 8256 := by simp only [hz, List.length_append, List.length_replicate, ht]
  have hb : badLine restorable [⟨false, 0x6000, 8256, 0x6000⟩] = none := by decide +kernel
  have hc : coveredSize savedOne.ctx = 8192 := by decide +kernel
  have hi : imageSize savedOne.ctx = 8256 := by decide +kernel
  have hk : restorable.sys.imageKey = base.sys.imageKey := rfl
  have ha : (restoring zeroImage).sys.alarm = false := rfl
  have hp : savedOne.va = 0x6000 := rfl
  have hv : savedOne.count = 1 := rfl
  have hd : List.drop 8208 zeroImage = blockTag base.sys.imageKey 0x6000 1 1 (List.replicate 4096 0) ++ List.replicate 32 0 := by
    rw [hz, ← List.append_assoc]
    exact List.drop_left' (by simp only [List.length_append, List.length_replicate, ht])
  have h0 : List.take 16 (List.drop 8192 zeroImage) = blockTag base.sys.imageKey 0x6000 1 0 (List.replicate 4096 0) := by
    rw [hz, List.drop_left' List.length_replicate]
    exact List.take_left' (ht _ _)
  have h1 : List.take 16 (List.drop 8208 zeroImage) = blockTag base.sys.imageKey 0x6000 1 1 (List.replicate 4096 0) := by
    rw [hd]
    exact List.take_left' (ht _ _)
  have hg : List.take 8192 zeroImage = List.replicate 8192 0 := by
    rw [hz]
    exact List.take_left' List.length_replicate
  simp only [imageOk, hp, hi, restorable_segs]
  simp only [restorable, ha, restoring_read _ hn]
  rw [show badLine (restoring zeroImage) _ = none from hb, show (restoring zeroImage).sys.imageKey = base.sys.imageKey from hk]
  simp [-List.reduceReplicate, hc, hv, blocksOf, List.range_succ, h0, h1, hg]

theorem witness_DispatchAndBind_restore :
    (restorable.saved.find? fun v => v.ctx.uid = 2 ^ 24 * 1 + 1) = some savedOne ∧ imageOk restorable savedOne 0x6000 = true ∧
    imageOk restorable savedOne 0x7000 = false :=
  ⟨rfl, zeroImage_ok, by decide +kernel⟩

def ending (st : CtxStatus) : State := { base with me := { base.me with status := st } }

theorem witness_ThreadsEnd_retire :
    findCtx base.me.uid (ending .retiring) = some (ending .retiring).me ∧ outL (ending .retiring).me = 0 ∧ outS (ending .retiring).me = 0 ∧
    outC (ending .retiring).me = 0 ∧ outT (ending .retiring).me = 0 ∧ (ending .retiring).me.trigs = [] ∧ (ending .retiring).fab.outs = [] ∧ outL flying ≠ 0 :=
  ⟨if_pos (by decide +kernel), by decide +kernel⟩

theorem witness_ThreadsEnd_kill :
    boundCtx (ending .killing) base.me.uid = some (ending .killing).me ∧ launchOf base 1 = some launch1 ∧
    ((coreOf (ending .killing) 0 0).fenced = false ∧
      (ending .killing).me.sq.cmds = [] ∧ (ending .killing).me.sq.stores = [] ∧ launch1.limit 2 ≠ 0 ∧
      (coreOf (modCore 0 0 (fun c => { c with fenced := true }) base) 0 0).fenced = true ∧ launch1.limit 0 ≠ 0 ∧
      base.me.wds = 0 ∧ { base.me with wds := 1 }.wds ≠ 0 ∧ launch1.limit 1 ≠ 0 ∧ 3 < launch1.n ∧ 3 ∉ launch1.ended ∧ launch1.n ≤ 4 ∧
      base.me.uid = 2 ^ 24 * 1 + 0 ∧ base.me.status ≠ .free) :=
  ⟨rfl, rfl, by decide +kernel⟩

/-- A bind record of thread 2 stands for entry 255 of die 0 (BINDING), or does so killed (KILLING). -/
theorem witness_ThreadsEnd_binding :
    let u := 2 ^ 24 * 1 + 2
    let killed := withDie (fun d => { d with binds := [{ recOf 0 2 with killed := true }] }) base
    (boundCtx (bindable 0 2) u).isNone = true ∧ bindsOf (bindable 0 2) u = [(0, recOf 0 2)] ∧ (recOf 0 2).killed = false ∧
    (boundCtx killed u).isNone = true ∧ bindsOf killed u = [(0, { recOf 0 2 with killed := true })] ∧
    (coreOf killed 0 63).fenced = false ∧ (coreOf (fenced killed) 0 63).fenced = true ∧
    (boundCtx base u).isNone = true ∧ bindsOf base u = [] := by
  decide +kernel

/-! ### Witnesses of single clauses, at the ends of their ranges -/

/-- Results of every kind of register, due at group 7. -/
def landing : Ctx :=
  { base.me with sq := { base.me.sq with
      group := 7
      flights := [⟨1, 7, .p 15 true, 0, none, none⟩, ⟨2, 7, .m 15 1, 0, none, none⟩, ⟨3, 7, .k 0 9, 0, none, none⟩, ⟨4, 7, .v 639 1 1 (some .i8), 0, none, none⟩,
        ⟨5, 8, .v 638 1 1 (some .i8), 0, none, none⟩] } }

theorem witness_ResultsLand_kinds :
    let fs := landing.sq.flights
    let due := fun (l : List Flight) (is : Upd → Bool) => l.any fun f => decide (f.due ≤ 7) && is f.upd
    let isV := fun (r : VReg) (u : Upd) => match u with | .v q .. => decide (q = r) | .blk q .. => decide (q = r) | _ => false
    let isK := fun (r : KReg) (u : Upd) => match u with | .k q _ => decide (q = r) | _ => false
    fs = fs.take 3 ++ ⟨4, 7, .v 639 1 1 (some .i8), 0, none, none⟩ :: fs.drop 4 ∧ due (fs.drop 4) (isV 639) = false ∧ due (fs.take 3) (isV 639) = false ∧
    fs = fs.take 2 ++ ⟨3, 7, .k 0 9, 0, none, none⟩ :: fs.drop 3 ∧ due (fs.drop 3) (isK 0) = false ∧ due fs (isV 638) = false ∧ due fs (isK 1) = false := by
  decide +kernel

/-- The last 4 KiB of the VA space are mapped, vat 1 of die 0 is secure, die 1 has no bank owned. -/
def edges : State :=
  { withDie (fun d => { d with vatw := 2 }) memory with
    tlb := memory.tlb ++ [{ placePage 0 0 false 0 with va := 2 ^ 57 - 2 ^ 16 }] }

theorem witness_FailingAccessesRaise_bytes :
    let ag := agentOf edges.me
    let first := fun (st : Bool) (k : LineAcc) (A : Word) (m : Nat) => match accessSegs edges ag st k A m with | .error f => some (f.cause, f.sub, f.addr) | .ok _ => none
    isOk (translate edges edges.me.site false .read 0xFE40) = true ∧ isOk (translate edges edges.me.site false .read 0x10000) = false ∧ 0x10000 < 0xFE40 + 1024 ∧
    (first false .plain 0xFE40 1024).map (fun x => x.2.2) = some 0x10000 ∧ isOk (translate edges edges.me.site false .read 0xFFFFFFFFFFFFFE40) = true ∧ first false .plain 0xFFFFFFFFFFFFFE40 1024 = some (0x0A, 1, 0) ∧
    first true .plain 0x80000000 8 = some (0x0A, 3, 0x80000000) ∧ first true .plain 0x300000 8 = some (0x0A, 3, 0x300000) ∧
    first true .plain 0x2FFFC0 1024 = some (0x0A, 3, 0x300000) ∧ first true .plain 0x400000 8 = some (0x0C, 0, 0x400000) ∧
    first true .plain 0x800000 8 = some (0x19, 0, 0x800000) ∧ first true .store 0 1024 = some (0x0E, 0, 64) ∧ first true .plain 64 128 = some (0x0D, 0, 128) ∧
    first true .plain 0 128 = none := by
  decide +kernel

/-- `s4` is 0x1000 and `s5` 8 bytes a lane; window 0 of the launch names a table at VA 0x1000; `m1` enables lane 0, `m2` lanes 0 and 1. -/
def strided : State :=
  { modRegs (fun g => { g with m := (g.m.set 1 1).set 2 3 }) (withS 4 8 (withS 5 8 windowed)) with lines := [(0, .counted 1)] }

theorem witness_LaneAccesses_faults :
    let s := strided
    let ag := agentOf s.me
    (rdM s 2).toNat = 3 ∧ isOk (accessSegs s ag true .store 72 4) = true ∧ isOk (accessSegs s ag true .store 8 4) = false ∧ (9 : Word).toNat % 4 ≠ 0 ∧
    isOk (winCheckAll s ag 0 8 4 .read 4 false) = true ∧ isOk (winCheckAll s ag 0 16 4 .write 4 false) = true ∧ isOk (winCheckAll s ag 0 9 4 .read 4 false) = false ∧
    isOk (winCheckAll s ag 1 8 4 .write 4 false) = false ∧ (rdM s 3).toNat = 0 ∧
    (rdV s 5).tag = .none ∧ (rdV s 4).tag = .poison ∧ (rdV s 2).tag = .i32 ∧ (rdV s 9).tag ≠ .i32 ∧ (rdV s 10).tag = .i32 ∧
    badLine { s with badStore := [1] } [⟨true, 72, 4, 72⟩] ≠ none := by
  decide +kernel

theorem witness_LinesAndQueries_prefetch :
    let s := { memory with home := [(2, HomeSt.dropped), (3, .dirty)] }
    getAt .absent s.home 2 = .dropped ∧ getAt .absent s.home 1 = .absent ∧ getAt .absent s.home 3 = .dirty ∧
    (match translate s s.me.site false .read 128 with | .ok pa => decide (pa / 64 = 2) | .error _ => false) = true ∧
    ¬(0xFFFFFFFFFFFFFFC0 + 64 < 2 ^ 64) := by
  decide +kernel

/-- `v9` holds granule numbers, `m1` and `m2` as above; `v2` and `v3` are I32, `v7` E2M1X, `v4` POISON, `v5` NONE. -/
def granules (m : BitVec 1024) : State := modRegs (fun g => { g with m := g.m.set 1 m }) (withV 9 .i16 0x0000000000050001 (tagged .i32))

theorem witness_RegisterIndirection_granules :
    granRegs (granules 1) 2 9 1 false = [(0, 3)] ∧ granRegs (granules 3) 2 9 1 false = [(0, 3), (1, 7)] ∧ granRegs (granules 1) 634 9 1 false = [(0, 635)] ∧
    granRegs (granules 3) 635 9 1 false = [(0, 636), (1, 640)] ∧ granRegs (granules 0) 2 9 1 true = [] ∧
    (rdV (granules 3) 3).tag = .i32 ∧ (rdV (granules 3) 7).tag = .e2m1x ∧ (rdV (granules 3) 5).tag = .none ∧ (granules 3).me.foot = 640 ∧
    (rdV (granules 3) 2).tag = .i32 := by
  decide +kernel

/-- A pail's descriptor with its first line COUNTED, with a counter not armed, and outside its vat's first 3 MiB. -/
theorem witness_BanksAndPails_checks :
    let p := pailDesc pailRaw
    let refused := fun (s : State) => match pailPlan s 1 p 0x100 with | .error f => some (f.cause, f.sub, f.addr) | .ok _ => none
    refused { pailed with lines := [(3, .counter), (64, .counted 1)] } = some (0x0E, 0, 0x1000) ∧ refused { pailed with lines := [] } = some (0x0F, 2, 192) ∧
    refused { pailed with banks := [] } = some (0x19, 0, 0x1000) ∧
    refused (withDie (fun d => { d with pails := [{ pailOwing with fillc := 0 }] }) pailed) = some (0x0C, 2, 0x100) ∧
    refused (withDie (fun d => { d with pails := (List.range 128).map fun e => { pailOwing with entry := e, base := 0x10000 + 1024 * e } }) pailed) = some (0x0C, 1, 0x100) := by
  decide +kernel

theorem witness_BanksAndPails_release :
    let s := withS 5 0x8001 base
    let banks := fun (x : State) => (List.range 16).filter fun n => ((rdS x 5).toNat % 2 ^ 16).testBit n
    s.Tidy ∧ banks s = [0, 15] ∧ (∀ n ∈ banks s, bankOwner s n = s.me.lnch) ∧ brelHeld s = false ∧ s.agenda = [] ∧
    (rdS base 5).toNat % 2 ^ 16 = 0 ∧ (2 ≤ (banks { s with agenda := [.cut 2] }).length) := by
  unfold State.Tidy
  decide +kernel

theorem witness_ThreadInstructions_launch :
    let s := queued 7 false
    (match appendCheck s (agentOf s.me) 0x8000 0x4000 with
      | .ok (g :: _, h, _) => decide (g.addr = 0x8000) && decide (h.notify = 7) && !h.w
      | _ => false) = true ∧
    (headerPa (slotted true true) 0 { (slotAt (slotted true true) 7 31) with hdr := 0x8000 }) = some 0x8000 ∧ (slotAt (slotted true true) 7 31).reg = 5 := by
  decide +kernel

theorem witness_RemoteRequestsAtTarget_parts :
    let gather := reqOf 0 (.gather [⟨7, true, 8, 8⟩, ⟨7, true, 16, 8⟩] false) 8
    let scatter := reqOf 0 (.scatter [(⟨7, true, 8, 8⟩, [1, 2, 3, 4, 5, 6, 7, 8])] 0) 8
    (match targetParts exporting gather .plain 2 [⟨7, true, 8, 8⟩, ⟨7, true, 16, 8⟩] with | .ok l => decide (l.length = 2) | .error _ => false) = true ∧
    (match targetParts exporting gather .plain 2 [⟨7, true, 8, 8⟩, ⟨7, true, 8192, 8⟩] with | .ok _ => false | .error _ => true) = true ∧
    (match targetParts exporting scatter .store 3 [⟨7, true, 8, 8⟩] with | .ok l => decide (l.length = 1) | .error _ => false) = true ∧
    { reqOf 0 (.add 1) 8 with store := false }.store = false ∧ lineAt exporting 192 = .counter ∧ counterAt exporting 192 + 1 < 2 ^ 64 := by
  decide +kernel

theorem witness_AnswersAndRelays_slot :
    let e := 5 * 2 ^ 22 + 2 ^ 21 + 2 ^ 20 + 1
    let s := modPort 31 (fun p => { p with left := 8, allow := [(40, 4)] }) (relaying e .queued)
    relayPath s 5 = some 31 ∧ (portAt s 31).left = 8 ∧ getAt 0 (portAt s 31).allow 40 = 4 ∧ 8 < payload (forward 0) - 4 ∧
    bit (slotEntry (portAt (relaying (5 * 2 ^ 22 + 2 ^ 21) .queued) 31)) 20 = false := by
  decide +kernel

/-- What the forms of `EveryFormCompletes` ask of the state, where no other witness has it: a barrier this thread ends, a group it leaves,
firmware that has loaded its context, a query with nothing before it, a receive end and a send end of a channel. -/
theorem witness_EveryFormCompletes :
    (∃ x y, memberCheck lone (rdS lone 4) = .ok (x, y) ∧ y.bit = false ∧ lone.me.wt.dead = none ∧
      (lone.me.wt.phases.find? fun z => z.1 = lone.me.sq.at_ && z.2.1 = rdS lone 4) = none ∧
      ({ x with members := x.members.map fun (z : Member) => if z.tid = lone.me.tid && z.present then { z with bit := true } else z } : Group).phaseEnds = true) ∧
    (firmware.me.ctl.handler = true ∧ (launchOf firmware 1).map Launch.service = some true ∧ (∀ r ∈ (dieOf firmware 0).binds, r.entry ≠ 255) ∧
      (withSeq (fun q => { q with loading := some 255 }) firmware).me.sq.loading = some (256 * 0 + 255)) ∧
    (tiling.me.sq.cmds = [] ∧ tiling.me.sq.pends = [] ∧ cfgTag (tileOf tiling.me 0).icfg = .i8 ∧ mapTag tiling.me.regs.mp[0].bits = .i8) ∧
    (isOk (layCheck laid 1) = true ∧ (∀ r, bindingOf laid 0 false (layKey layTwo) = some r → r.lnch = laid.me.lnch) ∧ (dieOf laid 0).recvs.length < 32 ∧
      counterOf (handled laid) 1 / 2 ^ 28 % 8 = laid.me.die) ∧
    (chanOf (piped none) 1 63 = none ∧ (piped none).chans.length < 1024 ∧
      holdsEnd (piped (some sending)) 63 false = some (sending, endOf false [item 0]) ∧ sending.rcvGone = false ∧ sending.sndGone = false ∧
      (rdV (piped (some sending)) 2).tag = .i8 ∧ (endOf false []).tag = .i8) := by
  refine ⟨⟨groupOf 1 1 false, ⟨0, 0, true, false⟩, rfl, by decide +kernel⟩, by decide +kernel, by decide +kernel, ⟨by decide +kernel, fun r h => ?_, by decide +kernel⟩,
    by decide +kernel⟩
  have : bindingOf laid 0 false (layKey layTwo) = none := by decide +kernel
  rw [this] at h
  cases h

/-! ### Witnesses of clauses about one operation at a time, worlds, other modules, and binds that are called off -/

theorem witness_LaneAccesses_cut :
    (let s : State := { gathering with agenda := [.cut 1] }
     s.agenda = .cut 1 :: [] ∧ 1 ≤ ((List.range (lanes .i32)).filter fun i => (rdM s 1).getLsbD i).length ∧ gathering.agenda = []) ∧
    badLine { gathering with badStore := [1] } [⟨true, 64, 4, 64⟩] ≠ none := by
  decide +kernel

/-- `k1` names a counter of a secure vat; the same counter for a secure thread; the same armed counter when the agenda cuts its slot. -/
theorem witness_CounterInstructions_worlds :
    (let s := withDie (fun d => { d with vatw := 1 }) counters
     (rdK s 1).getLsbD 63 = true ∧ bit (dieOf s 0).vatw 0 = true ∧ s.me.world = false ∧ ksetCheck s 8 = none ∧
       ownedCheck { s with me := { s.me with world := true } } 1 = none ∧ (pailPlan (withDie (fun d => { d with vatw := 1 }) pailed) 1 (pailDesc pailRaw) 0x100).toOption = none) ∧
    (armedCheck { counters with agenda := [.cut 0] } 1 = none ∧ counters.agenda = []) := by
  decide +kernel

/-- The result of engine command 5 and a level of a loop, with `p1` to `p15`, on their way to thread 0; the counter at 192 is armed. -/
def owing : State :=
  withSeq (fun q => { q with
    group := 7, pends := [{ waiting 3 4 true with src := .engine 5, arrive := some 192, addr := none }]
    flights := [⟨1, 7, .ps 0xFFFF, 0, none, none⟩, ⟨2, 7, .loop ⟨0, 2, ⟨50, 0⟩, ⟨50, 5⟩⟩, 0, none, none⟩] }) counters

theorem witness_ResultsLand_kinds_late :
    let p : Pend := { waiting 3 4 true with src := .engine 5, arrive := some 192, addr := none }
    owing.Tidy ∧ findCtx owing.me.uid owing = some owing.me ∧ owing.me.sq.pends.find? (fun p => p.id = 3) = some p ∧ behindFixed owing.me p = false ∧
    owing.me.sq.queue = [] ∧ owing.me.sq.rest = none ∧ addCheck owing false 1 192 = none ∧
    owing.me.sq.flights = [] ++ ⟨1, 7, .ps 0xFFFF, 0, none, none⟩ :: [⟨2, 7, .loop ⟨0, 2, ⟨50, 0⟩, ⟨50, 5⟩⟩, 0, none, none⟩] ∧
    owing.me.sq.flights = [⟨1, 7, .ps 0xFFFF, 0, none, none⟩] ++ ⟨2, 7, .loop ⟨0, 2, ⟨50, 0⟩, ⟨50, 5⟩⟩, 0, none, none⟩ :: [] := by
  unfold State.Tidy
  exact ⟨by decide +kernel, rfl, by decide +kernel⟩

/-- The receive end of channel 63 faces module 0 by window 0; one export entry admits requests for launch 1. -/
def remoteEnd (rcv : Bool) (q : List ChanOp) : ChanEnd := { endOf rcv q with rem := true, pch := 7 }
def portal (c : Option Chan) : State :=
  { piped c with
    hbm := writeN [] 0x1000 (leBytes 32 (4096 * 2 ^ 80 + 2 ^ 4 + 2 ^ 3 + 7)), launches := [{ launch1 with win := some (0x1000, 1) }]
    fab := { base.fab with exports := [(0, exportRaw)] } }
def itemReq (op : RemoteOp) : RemoteReq := { reqOf 0 op 0 with src := 0 }

theorem witness_RemoteRequestsAtTarget_items :
    (∀ op ∈ [RemoteOp.item 63 7 .i8 16 2 (item 0).item, .credit 63, .endGone 63], admittedFor (portal none) (itemReq op) = some 1) ∧
    (portal none).fab.portw.getLsbD 24 = false ∧ 24 < 32 ∧ isMine (portal none) { itemReq (.credit 63) with port := 40 } = true ∧
    chanOf (portal none) 1 63 = none ∧ (chanOf (portal (some (chanWith none none))) 1 63).map (fun c => decide (c.rcv = none)) = some true ∧
    (let r := remoteEnd true []
     let s := portal (some (chanWith none (some r)))
     (chanOf s 1 63).bind (fun c => c.rcv) = some r ∧ r.rem = true ∧ winEntryNo s 1 r.win = some (itemReq (.credit 63)).src ∧ r.pch = 7 ∧ r.tag = .i8 ∧
       r.lanes = 16 ∧ r.depth = 2 ∧ r.pch ≠ 8 ∧
       isOk (itemWrite 0 1 { r with count := 0 } r false (item 0).item s) = true ∧ isOk (itemWrite 0 1 { r with count := 0 } r false (item 0).item { s with lines := [] }) = false ∧
       badLine s [⟨true, r.pail, 64 * slotLines r, BitVec.ofNat 64 r.pail⟩] = none ∧ badLine { s with badStore := [64] } [⟨true, r.pail, 64 * slotLines r, BitVec.ofNat 64 r.pail⟩] ≠ none) ∧
    (let s := portal (some (chanWith (some (remoteEnd false [])) none))
     (chanOf s 1 63).bind (fun c => c.snd) = some (remoteEnd false []) ∧ (remoteEnd false []).rem = true) := by
  decide +kernel

/-- A face for die 1 under the binding of KEY 5 there, whose counter is armed, not armed, or with its landing buffers full. -/
theorem witness_RemoteRequestsAtTarget_faces :
    let s := facing none
    let b : RecvBind := ⟨false, 5, 1, 2 ^ 28 + 192⟩
    bindingOf s 1 false 5 = some b ∧ bindingOf s 1 true 5 = none ∧ addCheck s b.world b.lnch b.addr = none ∧ addCheck { s with lines := [] } b.world b.lnch b.addr ≠ none ∧
    (dieOf s 1).landing < 8 ∧ 8 ≤ (dieOf (modDie 1 (fun d => { d with landing := 8 }) s) 1).landing ∧
    (match arriveSegs s b 1 (facePiece none).cells with
      | .ok r => let gs := r.flatMap (fun z => z.1) ++ [⟨true, b.addr, 8, BitVec.ofNat 64 b.addr⟩]
                 decide (badLine s gs = none) && decide (badLine { s with badStore := [2 ^ 22 + 3] } gs ≠ none)
      | .error _ => false) = true ∧
    isOk (arriveSegs { s with banks := [] } b 1 (facePiece none).cells) = false := by
  decide +kernel

/-- An operation to module 5 and one to module 6, each with an identity and a flow of its own; nothing routes to module 5. -/
theorem witness_AnswersAndRelays_lost :
    let o := outOp 3 (.store 6)
    let e := { outOp 5 (.engine 0 0) with req := { (outOp 5 (.engine 0 0)).req with seq := 1 } }
    let q := { outOp 4 (.store 7) with req := { (outOp 4 (.store 7)).req with target := 6, flow := 2 } }
    let s : State := { ordered (cmdOf (.tzero 0)) base with fab := { base.fab with outs := [o, e, q], relay := [{ id := 40, req := forward 0, st := .queued, retries := 0, via := none }] } }
    (s.fab.outs.map fun x => x.id).Nodup ∧ o.req.target = 5 ∧ outReach s o = false ∧ q.req.target ≠ 5 ∧ o.req.flow ≠ q.req.flow ∧
    e.cid = o.cid ∧ e.req.flow = o.req.flow ∧ o.req.seq ≤ e.req.seq ∧ (findCtx o.cid s).isSome = true ∧ (findCmd e.cid 0 s).map (fun x => x.fault) = some none ∧
    (forward 0).target = 5 ∧ reachable s 5 = false ∧ (forward 0).target ≠ 6 := by
  decide +kernel

/-- A request that waits while the first group after a restore, or a loop's iteration, is not over; a `yield` to obey. -/
theorem witness_SlicesAndSaves_delays :
    (let s : State := { asked with me := { asked.me with fresh := true } }
     s.me.preReq = true ∧ s.me.delayed = false ∧ s.me.status = .running ∧ s.me.fresh = true) ∧
    (let s : State := withSeq (fun q => { q with loops := [⟨0, 2, ⟨50, 0⟩, ⟨50, 5⟩⟩] }) { asked with me := { asked.me with freshIt := true } }
     s.me.freshIt = true ∧ s.me.sq.loops ≠ [] ∧ s.me.ctl.handler = false ∧ heldAtWait s = false) ∧
    base.me.preReq = false ∧ (withSeq (fun q => { q with late := [.yield] }) base).me.sq.late = [.yield] := by
  decide +kernel

/-- A gang of which thread 2 is to be bound on a core that is fenced; a dictionary that cannot be read; the saved thread to restore. -/
theorem witness_DispatchAndBind_calledOff :
    (let s := fenced { bindable 0 2 with launches := [{ launch1 with conf := BitVec.ofNat 64 (4 + 2 ^ 36 + 3 * 2 ^ 44 + 2 ^ 26) }] }
     (coreOf s 0 (recOf 0 2).core).fenced = true ∧ (launchOf s 1).map Launch.live = some true ∧ (launchOf s 1).map Launch.gang = some true) ∧
    (let s : State := { bindable 0x6000 1 with launches := [{ launch1 with dict := 0x50002 }] }
     isOk (loadDict 0 63 0x50002 false s) = false ∧ (recOf 0x6000 1).img ≠ 0 ∧
       (s.saved.find? fun v => v.ctx.uid = 2 ^ 24 * (recOf 0x6000 1).lnch + (recOf 0x6000 1).tid).isSome = true) ∧
    (recOf 0 2).img = 0 := by
  decide +kernel

/-- A context that is FENCED, and one that is KILLING on a fenced core; a BINDING thread that T1 finds; one killed and FENCED. -/
theorem witness_ThreadsEnd_fenced :
    (ending .fenced).me.status ≠ .killing ∧
    (let s := modCore 0 0 (fun c => { c with fenced := true }) (ending .killing)
     s.me.status = .killing ∧ (coreOf s 0 0).fenced = true ∧ s.me.sq.cmds = [] ∧ s.me.sq.stores = []) ∧
    ((recOf 0 2).wds = 0 ∧ launch1.limit 0 ≠ 0 ∧ (boundCtx (bindable 0 2) (2 ^ 24 * 1 + 2)).isNone = true) ∧
    (let r := { recOf 0 2 with killed := true, fenced := true }
     r.killed = true ∧ r.fenced = true ∧ launch1.limit 2 ≠ 0) ∧
    (base.saved.find? fun v => v.ctx.uid = 2 ^ 24 * launch1.num + 3).isNone = true := by
  decide +kernel

/-! ### Witnesses of slots that wait for another context's, of adds as operations of their own, and of what commands do -/

/-- Thread 1's slot has its add to 192 still to do; this thread's next slot would release that bank. -/
def crossing : State :=
  { withS 5 8 (withSeq (fun q => { q with queue := [⟨0, 5, word 0x15C [(4, 25), (5, 19)]⟩] }) (withS 4 0 counters)) with
    others := [{ base.me with tid := 1, sq := { Seq.reset with rest := some (.add 192 1 none) } }] }

theorem witness_StepRunsInstructions_givesWay :
    amidGroup crossing = none ∧ crossing.me.sq.rest = none ∧ crossing.agenda = [] ∧
    (match runSlot ⟨0, 5, word 0x15C [(4, 25), (5, 19)]⟩ [] crossing with
      | .next t => (crossing.others.find? (undoes t)).any fun c => c.uid ≠ crossing.me.uid
      | _ => false) = true := by
  decide +kernel

theorem witness_BanksAndPails_more :
    (let s := withDie (fun d => { d with vatw := 1 }) base
     bit (dieOf s 0).vatw 0 = true ∧ s.me.world = false) ∧
    (let s : State := { memory with launches := [{ launch1 with num := 2, world := true, grants := [⟨true, 0, 0, 3⟩] }] }
     (nextOwner s 1).map (·.num) = some 2 ∧ true ≠ getAt false s.bankWorld 1 ∧ isCounted (lineAt s 64) = true ∧ bankNo 64 = 1) ∧
    (let s := withDie (fun d => { d with pails := [pailOwing] }) memory
     ((dieOf s 0).pails.find? fun x => x.entry = 0) = some pailOwing ∧ ((dieOf s 0).pails.find? fun x => x.entry = 127) = none ∧
       addCheck { s with lines := [] } (launchWorld s 1) 1 192 ≠ none) := by
  decide +kernel

/-- The code at 0x20000 cannot be read: neither a link nor a loop's body is found. -/
theorem witness_Loops_lost :
    let s := withSeq (fun q => { q with start := ⟨0x20000, 0⟩ }) calling
    isOk (linkOf s) = false ∧ isOk (loopBody s 3) = false ∧ (loopCheck s 1).isSome = true ∧ isOk (gather s s.me.sq.start) = false ∧
    (loopCheck calling (BitVec.ofNat 64 (2 ^ 32))).isSome = true := by
  decide +kernel

/-- A line homed in a secure vat, for a thread of the other world. -/
theorem witness_FailingAccessesRaise_home :
    let s := withDie (fun d => { d with vatw := BitVec.allOnes 64 }) base
    homeSecure s 64 = true ∧ s.me.world = false ∧ isOk (translate s s.me.site false .read 64) = false := by
  decide +kernel

/-- A command that has executed, its adds to do; the fill and drain counters are armed or not. -/
def finishing (kc arr : Option Nat) (f : Option FaultInfo) : Cmd := { cmdOf (.tcfg 0 (cfg .i8 4 16)) with begun := true, kc, arrive := arr, amount := 16, fault := f }

theorem witness_TileCommandsAct_completes :
    let s := fun x => ordered x tiling
    (∀ x ∈ [finishing (some 192) (some 200) none, finishing none (some 200) none, finishing none none none, finishing none none (some { cause := 0x0E })],
      findCmd (s x).me.uid 0 (s x) = some x ∧ mayComplete x = true) ∧
    addCheck tiling false 1 192 = none ∧ addCheck tiling false 1 200 = none ∧ addCheck { tiling with lines := [] } false 1 192 ≠ none ∧
    (cmdOf (.tcons 0 3)).fault = none ∧ (tileOf tiling.me 0).cnt = 255 ∧ (cmdOf (.tcons 0 3)).arrive = none := by
  decide +kernel

/-- Tile 0 is EMPTY, COUNTED or POISON; `v5` awaits rows of it. -/
def tileIs (n : Nat) (t : Tag) : State :=
  withSeq (fun q => { q with pends := [{ id := 77, upd := .v 5 0 0 none, ready := false, cls := true, flags := 0, arrive := none, fault := none, addr := none
                                         src := .engine 0 }] })
    (modRegs (fun g => { g with t := g.t.set 0 { someTile .i8 with cnt := n, cfg := cfg t 4 16 } }) tiling)
/-- A stream of one stored block of 16 bytes at 0x3000, under a code table that is valid. -/
def streamed : State :=
  let bs := List.replicate 16 (7 : Byte)
  { modRegs (fun g => { g with sep := g.sep.set 0 (some [1, 1]) }) tiling with
    hbm := writeN [] 0x3000 (leBytes 2 0x5EB4 ++ [0, BitVec.ofNat 8 Tag.i8.code] ++ leBytes 4 16 ++ leBytes 4 16 ++ leBytes 4 (crc32c bs) ++ [3] ++
      List.replicate 15 0 ++ bs) }

theorem witness_TileCommandsAct_moves :
    let mp : MapReg := ⟨mapRaw, []⟩
    let runs := fun (op : CmdOp) (s : State) => let s := ordered (cmdOf op) s
      findCmd s.me.uid 0 s = some (cmdOf op) ∧ (cmdOf op).begun = false ∧ mayAct s s.me (cmdOf op) = true
    let live := (List.range (mapCount mapRaw)).filter fun k => !(position mp 0 plc16 k).1
    tiling.Tidy ∧ mapSp mapRaw ≠ 2 ∧ (mapWin (tileOf tiling.me 0).cfg mp plc16).isSome = true ∧ (tileOf tiling.me 0).cnt = 255 ∧ live = List.range 16 ∧
    runs (.tld 0 mp 0 plc16 false none) tiling ∧ runs (.tst 0 mp 0 plc16 1 none) tiling ∧ runs (.tldv 0 (rdV tiling 2) 1 2) tiling ∧
    runs (.tld 0 mp 0 plc16 true none) (tileIs 2 .i8) ∧ runs (.tst 0 mp 0 plc16 0 none) (tileIs 0 .i8) ∧ runs (.tst 0 mp 0 plc16 0 none) (tileIs 255 .poison) ∧
    runs (.tldz 0 .i8 0x3000 (plc16 + 1) none) streamed ∧ (tldzWin (tileOf streamed.me 0).cfg (plc16 + 1) .i8).isSome = true ∧ (0x3000 : Word).toNat % 64 = 0 ∧
    (live.all fun k => isOk (loadElem tiling (agentOf tiling.me) (mapSp mapRaw) (mapTag mapRaw) false (position mp 0 plc16 k).2) &&
      isOk (engSegs tiling (agentOf tiling.me) (mapSp mapRaw) (.counted 1) (position mp 0 plc16 k).2 1 1)) = true ∧
    (let s : State := { tiling with banks := [] }
     runs (.tld 0 mp 0 plc16 false none) s ∧ isOk (loadElem s (agentOf s.me) (mapSp mapRaw) (mapTag mapRaw) false (position mp 0 plc16 0).2) = false ∧
       isOk (engSegs s (agentOf s.me) (mapSp mapRaw) .store (position mp 0 plc16 0).2 1 1) = false) ∧
    (match sepStream streamed (agentOf streamed.me) streamed.me.regs.sep .i8 16 17 0x3000 [] with | .ok (_, out) => decide (out.length = 16) | .error _ => false) = true ∧
    isOk (sepStream tiling (agentOf tiling.me) tiling.me.regs.sep .i8 16 17 0x3000 []) = false := by
  unfold State.Tidy
  decide +kernel

theorem witness_TileCommandsAct_rows :
    (∀ x ∈ [(0, Tag.i8), (2, .poison), (255, .i8), (255, .e2m1x)], let s := ordered (cmdOf (.tstv 5 0 1 2 77)) (tileIs x.1 x.2)
      findCmd s.me.uid 0 s = some (cmdOf (.tstv 5 0 1 2 77)) ∧ mayAct s s.me (cmdOf (.tstv 5 0 1 2 77)) = true ∧
        (∃ p ∈ s.me.sq.pends, p.id = 77 ∧ p.upd = .v 5 0 0 none) ∧ (tileOf s.me 0).cnt = x.1 ∧ cfgTag (tileOf s.me 0).cfg = x.2) := by
  decide +kernel

/-- The correction of one row of `a` in use, in memory at 0x4000. -/
def corrected : State :=
  { churning .i8 .i32 with hbm := writeN (leBytes 8 (corrDesc 0 16 .i8 0 4).toNat |> writeN [] 0x4000) 0x4040 (leBytes 8 5) }

theorem witness_ChurnAccumulatesProducts_commands :
    let runs := fun (op : CmdOp) (s : State) => let s := ordered (cmdOf op) s
      findCmd s.me.uid 0 s = some (cmdOf op) ∧ (cmdOf op).begun = false ∧ mayAct s s.me (cmdOf op) = true
    let s := churning .i8 .i32
    s.Tidy ∧ (∀ op ∈ [CmdOp.mmz true false, .eset false 1, .eset true 1, .etab 0x4000, .qld false true false 0x4000 none, .qld false false true 0x4000 (some 1),
      .qst false false true 0x400, .mma false 0 1 0 false true true false false false .i8, .mmdr 2 false 0 none none false false true .i32], runs op s) ∧
    isOk (engRead s (agentOf s.me) false 0x4000 2048) = true ∧ isOk (engRead s (agentOf s.me) false 0x4001 2048) = false ∧
    (match engRead corrected (agentOf corrected.me) false 0x4000 1088 with | .ok (_, bs) => (corrParse bs).isSome | .error _ => false) = true ∧
    (let s := { corrected with hbm := writeN corrected.hbm 0x4008 [1] }
     match engRead s (agentOf s.me) false 0x4000 1088 with | .ok (_, bs) => (corrParse bs).isNone | .error _ => false) = true ∧
    isOk (engSegs s (agentOf s.me) 1 .store 0x400 1088 64) = true ∧ isOk (engSegs s (agentOf s.me) 1 .store 0x401 1088 64) = false ∧
    mmaReadCheck s.me false 0 1 false false false .i8 = none ∧ (mmaReadCheck s.me false 0 1 false true false .i8).isSome = true ∧
    (0 + cfgRows (tileOf s.me 0).cfg ≤ 128 ∧ drainTag .i32 = true ∧ (accOf s.me.regs.churn false).atag = .i32 ∧ (tileOf s.me 2).cnt = 255 ∧
      (accOf (churning .i8 .poison).me.regs.churn false).atag = .poison ∧ cfgTag (tileOf (tileIs 255 .poison).me 0).cfg = .poison ∧ (tileOf (tileIs 0 .i8).me 0).cnt = 0) := by
  unfold State.Tidy
  decide +kernel

/-- The piece that is written, its add owed; a reduction whose commands differ; a pail that a receive end takes over. -/
theorem witness_Arrivals_owed :
    (let p := { facePiece none with owes := some (1, 2 ^ 28 + 192) }
     p.mod = none ∧ p.owes = some (1, 2 ^ 28 + 192) ∧ addCheck (facing none) false 1 (2 ^ 28 + 192) = none ∧ addCheck tiling false 1 (2 ^ 28 + 192) = some 0x19) ∧
    (let x := tmcCmd [0]
     (arrivalWrite x ⟨0, base.me.uid, 0, 192⟩ false 1 ⟨mapRaw, []⟩ plc16 castArriving).2 = (none, true) ∧
       (arrivalWrite x ⟨0, base.me.uid, 0, 192⟩ false 1 ⟨mapRaw, []⟩ plc16 { castArriving with lines := [] }).2.2 = false ∧
       (arrivalWrite x ⟨0, base.me.uid, 0, 192⟩ false 1 ⟨mapRaw, []⟩ plc16
         { castArriving with store := writeN [] 192 (List.replicate 8 255) }).2.1.isSome = true) ∧
    (∃ k, contribCmd (reducing (redOf [contrib 1])) (contrib 1) = some k) ∧
    (let s := withDie (fun d => { d with pails := [pailOwing] }) (piped none)
     (dieOf s 0).pails.Pairwise (fun p q => p.entry ≠ q.entry) ∧ ∃ p ∈ (dieOf s 0).pails, p.owedF ≠ []) := by
  refine ⟨by decide +kernel, by decide +kernel, ⟨credCmd, rfl⟩, by decide +kernel⟩

/-- A face that is written and waits for its add; an item for a secure channel function; an export of launch 0. -/
theorem witness_RemoteRequestsAtTarget_halves :
    (let q := { reqOf 0 (.face 1 5 (facePiece none).cells) 0 with target := 4096 }
     let s : State := { facing none with fab := { (facing none).fab with half := [(q, true)] } }
     (∃ x ∈ s.fab.half, x.1 = q) ∧ bindingOf s 1 q.world 5 = some ⟨false, 5, 1, 2 ^ 28 + 192⟩ ∧ addCheck s false 1 (2 ^ 28 + 192) = none ∧ s.fab.portw.getLsbD q.port = false) ∧
    ({ base.fab with crw := 4 }.crw.getLsbD 2 = true ∧ (itemReq (.credit 63)).world = false) ∧
    (let s : State := { base with fab := { base.fab with exports := [(0, exportRaw - BitVec.ofNat 256 (2 ^ 48))] } }
     admittedFor s (reqOf 0 (.load 8) 8) = some 0 ∧ (reqOf 0 (.load 8) 8).store = true) := by
  decide +kernel

/-- A waiter on a counter that a thread not bound yet owns keeps its slot; threads that retire in their three events; a gang that waits. -/
theorem witness_ThreadsEnd_events :
    (let s : State := { withDie (fun d => { d with wft := [edge (.counter 192 5), { edge (.counter 192 5) with entry := 1, kind := .owner 192 0 0 0, tid := 2 }] }) counters with
       launches := [{ launch1 with num := 1 }] }
     keepsSlot s s.me = true) ∧
    (ending .retiring).me.triggered = false ∧ { (ending .retiring).me with triggered := true }.exited = false ∧ (ending .retiring).me.sq.owed = [] := by
  decide +kernel

/-! ### Ill-formed terms: one for each check, at the first value outside its range where there is one (R23, R41, R52, R88, R134) -/

theorem smoke_wellFormed_scalar : ([
    .shli 1 2 64, .shri 1 2 64, .srai 1 2 64, .sext 1 2 0, .sext 1 2 65, .zext 1 2 0, .zext 1 2 65, .lih 1 2 33, .cmp .eq 1 2 3, .cmp .eq 0 2 3,
    .cmpi .eq 3 2 3, .cmpi .eq 0 2 3, .loop 0 1, .loopReg 0 1, .lidx 1 6, .lidxN 1 6, .csrr 1 7, .csrr 1 0xA, .csrr 1 0x18, .csrr 1 0x28, .csrw 7 1,
    .csrwSet 0x18 1, .csrwClr 0x28 1] : List Instr).all (fun i => !i.wf) = true := rfl

theorem smoke_wellFormed_vector : ([
    .vsplat .none 1 2 0 false, .vsplat .e2m1x 1 2 0 false, .vsplat .poison 1 2 0 false, .vcmp .eq 1 2 3 0, .vcmp .eq 0 2 3 0, .vcvt 1 2 0 .none 0 false .rne,
    .vcvt 1 2 0 .poison 0 false .rne, .vshuf 1 2 3 0 6 0 false, .vshuf 1 2 3 0 0 6 false, .vscan 1 2 0 3 .rne, .vunblk 1 2 0 6 true false .rne,
    .vunblk 1 2 0 3 false false .rne] : List Instr).all (fun i => !i.wf) = true := rfl

theorem smoke_wellFormed_memory : ([
    .ldv 1 2 0 .va .none, .ldv 1 2 0 .va .poison, .stv 1 2 0 .va .none, .stv 1 2 0 .va .poison, .ldvs 1 2 3 0 .va .e2m1x false, .ldvs 1 2 3 0 .va .none false,
    .stvs 1 2 3 0 .va .e2m1x, .stvs 1 2 3 0 .va .poison, .ldvx 1 2 3 0 .va .i32 3 false false, .ldvx 1 2 3 0 .va .e2m1x 0 false false,
    .stvx 1 2 3 0 .va .i32 3 false, .stvx 1 2 3 0 .va .none 0 false, .stc 1 2 0 .i8, .stc 1 2 255 .i8, .stc 1 2 1 .e2m1x, .ldc 1 2 0 .w .q false,
    .ldvc 1 2 0 .w .i8, .ldvc 1 2 0 .va .none, .rcq 1 2 0 .w, .ldwVec 1 0 2 .none, .stwVec 1 0 2 .poison] : List Instr).all (fun i => !i.wf) = true := rfl

theorem smoke_wellFormed_engines : ([
    .tst 0 1 2 3 255 none, .tcons 0 0, .tldz 0 1 2 .none none, .tldz 0 1 2 .poison none, .lcoord 1 0 6, .lnbr 1 0 3 true, .hsend 0 3 true none,
    .prio 1 2 3 true, .prio 1 2 3 false, .prioAll 1 2 3 true, .prioAll 1 2 3 false] : List Instr).all (fun i => !i.wf) = true := rfl

/-- Words that stand for nothing: no opcode, a reserved field set, an operand out of range (R35, R38, R40, R53). -/
theorem test_decode_refuses : ([
    word 0x001 [(1, 38), (2, 32), (3, 26), (1, 0)], word 0x000 [(1, 0)], word 0x013 [(1, 38), (2, 32), (64, 0)], word 0x1FF [],
    word 0x007 [(1, 38), (2, 32), (3, 26), (2, 0)]] : List Nat).map decodeSlot = [none, none, none, none, none] := rfl

/-! ### Words written out from the encoding tables (R36, R40, R53 and each chapter), one for every form -/

theorem test_decode_scalar_1 : [
    decodeSlot (word 0x001 [(63, 38), (2, 32), (33, 26)]),
    decodeSlot (word 0x002 [(63, 38), (2, 32), (33, 26)]),
    decodeSlot (word 0x004 [(63, 38), (2, 32), (33, 26)]),
    decodeSlot (word 0x005 [(63, 38), (2, 32), (33, 26)]),
    decodeSlot (word 0x006 [(63, 38), (2, 32), (33, 26)]),
    decodeSlot (word 0x009 [(63, 38), (2, 32), (33, 26)]),
    decodeSlot (word 0x00A [(63, 38), (2, 32), (33, 26)]),
    decodeSlot (word 0x00B [(63, 38), (2, 32), (33, 26)]),
    decodeSlot (word 0x00C [(63, 38), (2, 32), (33, 26)]),
    decodeSlot (word 0x010 [(63, 38), (2, 32), (33, 26)]),
    decodeSlot (word 0x011 [(63, 38), (2, 32), (33, 26)]),
    decodeSlot (word 0x012 [(63, 38), (2, 32), (33, 26)]),
    decodeSlot (word 0x016 [(63, 38), (2, 32), (33, 26)]),
    decodeSlot (word 0x017 [(63, 38), (2, 32), (33, 26)]),
    decodeSlot (word 0x018 [(63, 38), (2, 32), (33, 26)]),
    decodeSlot (word 0x019 [(63, 38), (2, 32), (33, 26)]),
    decodeSlot (word 0x01A [(63, 38), (2, 32), (33, 26)]),
    decodeSlot (word 0x007 [(1, 38), (2, 32), (3, 26), (1, 0)]),
    decodeSlot (word 0x008 [(1, 38), (2, 32), (3, 26)]),
    decodeSlot (word 0x003 [(1, 38), (62, 32), (0x3FFFFFE, 0)])] =
  [some (.add 63 2 33),
    some (.sub 63 2 33),
    some (.mul 63 2 33),
    some (.mulh 63 2 33),
    some (.mulhl 63 2 33),
    some (.and 63 2 33),
    some (.or 63 2 33),
    some (.xor 63 2 33),
    some (.andn 63 2 33),
    some (.shl 63 2 33),
    some (.shr 63 2 33),
    some (.sra 63 2 33),
    some (.rotl 63 2 33),
    some (.min 63 2 33),
    some (.max 63 2 33),
    some (.minl 63 2 33),
    some (.maxl 63 2 33),
    some (.divq 1 2 3 true),
    some (.remq 1 2 3 false),
    some (.addi 1 62 (-2))] := rfl

theorem test_decode_scalar_2 : [
    decodeSlot (word 0x00D [(1, 38), (62, 32), (0x3FFFFFE, 0)]),
    decodeSlot (word 0x00E [(1, 38), (62, 32), (0x3FFFFFE, 0)]),
    decodeSlot (word 0x00F [(1, 38), (62, 32), (0x3FFFFFE, 0)]),
    decodeSlot (word 0x013 [(9, 38), (8, 32), (63, 0)]),
    decodeSlot (word 0x014 [(9, 38), (8, 32), (63, 0)]),
    decodeSlot (word 0x015 [(9, 38), (8, 32), (63, 0)]),
    decodeSlot (word 0x01F [(9, 38), (8, 32), (63, 0)]),
    decodeSlot (word 0x020 [(9, 38), (8, 32), (63, 0)]),
    decodeSlot (word 0x01B [(4, 38), (5, 32)]),
    decodeSlot (word 0x01C [(4, 38), (5, 32)]),
    decodeSlot (word 0x01D [(4, 38), (5, 32)]),
    decodeSlot (word 0x01E [(4, 38), (5, 32)]),
    decodeSlot (word 0x023 [(4, 38), (5, 32)]),
    decodeSlot (word 0x021 [(3, 38), (0x80000001, 6), (63, 0)]),
    decodeSlot (word 0x022 [(3, 38), (7, 6), (32, 0)]),
    decodeSlot (word 0x024 [(1, 38), (2, 32), (3, 26), (21, 0)]),
    decodeSlot (word 0x025 [(23, 38), (22, 32), (21, 26), (7, 0)])] =
  [some (.andi 1 62 (-2)),
    some (.ori 1 62 (-2)),
    some (.xori 1 62 (-2)),
    some (.shli 9 8 63),
    some (.shri 9 8 63),
    some (.srai 9 8 63),
    some (.sext 9 8 63),
    some (.zext 9 8 63),
    some (.clz 4 5),
    some (.ctz 4 5),
    some (.popc 4 5),
    some (.bswap 4 5),
    some (.mov 4 5),
    some (.li 3 0x80000001 63),
    some (.lih 3 7 32),
    some (.sel 1 2 3 5 true),
    some (.addp 23 22 21 7)] := rfl

theorem test_decode_predicates : [
    decodeSlot (word 0x026 [(2, 40), (9, 36), (1, 30), (63, 24)]),
    decodeSlot (word 0x027 [(14, 40), (2, 36), (1, 30), (0x3FFFFFFF, 0)]),
    decodeSlot (word 0x060 [(1, 40), (2, 36), (15, 32)]),
    decodeSlot (word 0x061 [(1, 40), (2, 36), (15, 32)]),
    decodeSlot (word 0x062 [(1, 40), (2, 36), (15, 32)]),
    decodeSlot (word 0x063 [(1, 40), (2, 36)]),
    decodeSlot (word 0x064 [(1, 40), (2, 36)]),
    decodeSlot (word 0x065 [(3, 40), (4, 20), (63, 0)]),
    decodeSlot (word 0x065 [(4, 20), (64, 0)]),
    decodeSlot (word 0x066 [(9, 26)])] =
  [some (.cmp .gel 2 1 63),
    some (.cmpi .lt 14 1 (-1)),
    some (.pand 1 2 15),
    some (.por 1 2 15),
    some (.pxor 1 2 15),
    some (.pnot 1 2),
    some (.pmov 1 2),
    some (.pset 3 4 63),
    some (.psetAll 4),
    some (.pget 9)] := rfl

theorem test_decode_control : [
    decodeSlot (word 0x000 []),
    decodeSlot (word 0x067 [(0x3FFFFFFF, 14)]),
    decodeSlot (word 0x068 [(7, 32)]),
    decodeSlot (word 0x069 [(2, 14)]),
    decodeSlot (word 0x06A [(7, 32)]),
    decodeSlot (word 0x06B []),
    decodeSlot (word 0x06C [(4095, 32), (1, 31), (10, 0)]),
    decodeSlot (word 0x06C [(2, 32), (9, 25)]),
    decodeSlot (word 0x06D []),
    decodeSlot (word 0x06E [(1, 38), (5, 0)]),
    decodeSlot (word 0x06E [(1, 38), (12, 0)]),
    decodeSlot (word 0x06F [(5, 38), (9, 20)]),
    decodeSlot (word 0x070 [(5, 32), (0x27, 20)]),
    decodeSlot (word 0x070 [(5, 32), (9, 20), (1, 0)]),
    decodeSlot (word 0x070 [(5, 32), (9, 20), (2, 0)]),
    decodeSlot (word 0x1E0 [(0x3FFFFFF, 0)]),
    decodeSlot (word 0x1E1 []),
    decodeSlot (word 0x1E2 [(7, 32)]),
    decodeSlot (word 0x1E2 [(1, 0)])] =
  [some (.nop),
    some (.br (-1)),
    some (.jmp 7),
    some (.call 2),
    some (.callr 7),
    some (.ret),
    some (.loop 4095 10),
    some (.loopReg 2 9),
    some (.lbrk),
    some (.lidx 1 5),
    some (.lidxN 1 4),
    some (.csrr 5 9),
    some (.csrw 0x27 5),
    some (.csrwSet 9 5),
    some (.csrwClr 9 5),
    some (.trap 0x3FFFFFF),
    some (.xret),
    some (.tlbi 7),
    some (.tlbiAll)] := rfl

theorem test_decode_lanes_1 : [
    decodeSlot (word 0x080 [(639, 34), (1, 24), (2, 14), (3, 10), (525, 0)]),
    decodeSlot (word 0x081 [(639, 34), (1, 24), (2, 14), (3, 10), (525, 0)]),
    decodeSlot (word 0x082 [(639, 34), (1, 24), (2, 14), (3, 10), (525, 0)]),
    decodeSlot (word 0x083 [(4, 34), (5, 24), (6, 14), (15, 10), (6, 0)]),
    decodeSlot (word 0x084 [(4, 34), (5, 24), (6, 14), (15, 10), (6, 0)]),
    decodeSlot (word 0x085 [(4, 34), (5, 24), (1, 10), (8, 0)]),
    decodeSlot (word 0x086 [(4, 34), (5, 24), (1, 10), (8, 0)]),
    decodeSlot (word 0x087 [(7, 34), (8, 24), (9, 14), (2, 10), (512, 0)]),
    decodeSlot (word 0x088 [(7, 34), (8, 24), (9, 14), (2, 10), (512, 0)]),
    decodeSlot (word 0x089 [(7, 34), (8, 24), (9, 14), (2, 10), (512, 0)]),
    decodeSlot (word 0x08A [(7, 34), (8, 24), (9, 14), (2, 10), (512, 0)]),
    decodeSlot (word 0x08B [(7, 34), (8, 24), (9, 14), (2, 10), (512, 0)]),
    decodeSlot (word 0x08C [(7, 34), (8, 24), (9, 14), (2, 10), (512, 0)]),
    decodeSlot (word 0x08D [(7, 34), (8, 24), (9, 14), (2, 10), (512, 0)]),
    decodeSlot (word 0x08E [(7, 34), (8, 24), (9, 14), (2, 10), (512, 0)]),
    decodeSlot (word 0x08F [(7, 34), (8, 24), (9, 14), (2, 10), (512, 0)]),
    decodeSlot (word 0x0C0 [(1, 34), (2, 24), (3, 10), (7, 0)]),
    decodeSlot (word 0x0C1 [(1, 34), (2, 24), (3, 10), (7, 0)]),
    decodeSlot (word 0x0C2 [(1, 34), (2, 24), (3, 10), (7, 0)]),
    decodeSlot (word 0x0C3 [(1, 34), (2, 24), (3, 10), (7, 0)])] =
  [some (.vadd 639 1 2 3 true true .rtz),
    some (.vsub 639 1 2 3 true true .rtz),
    some (.vmul 639 1 2 3 true true .rtz),
    some (.vfma 4 5 6 15 false .rdn),
    some (.vfms 4 5 6 15 false .rdn),
    some (.vneg 4 5 1 false true),
    some (.vabs 4 5 1 false true),
    some (.vmin 7 8 9 2 true),
    some (.vmax 7 8 9 2 true),
    some (.vand 7 8 9 2 true),
    some (.vor 7 8 9 2 true),
    some (.vxor 7 8 9 2 true),
    some (.vshl 7 8 9 2 true),
    some (.vshr 7 8 9 2 true),
    some (.vsra 7 8 9 2 true),
    some (.vclamp 7 8 9 2 true),
    some (.vrcp 1 2 3 false .rup),
    some (.vrsqrt 1 2 3 false .rup),
    some (.vsqrt 1 2 3 false .rup),
    some (.vexp2 1 2 3 false .rup)] := rfl

theorem test_decode_lanes_2 : [
    decodeSlot (word 0x0C4 [(1, 34), (2, 24), (3, 10), (7, 0)])] =
  [some (.vlog2 1 2 3 false .rup)] := rfl

theorem test_decode_moves : [
    decodeSlot (word 0x090 [(1, 34), (2, 18), (3, 14), (8198, 0)]),
    decodeSlot (word 0x091 [(5, 24), (6, 18), (1023, 0)]),
    decodeSlot (word 0x092 [(4, 34), (5, 24), (6, 18), (7, 0)]),
    decodeSlot (word 0x093 [(1, 34), (2, 24), (3, 10), (512, 0)]),
    decodeSlot (word 0x094 [(1, 34), (2, 24), (3, 14), (4, 10)]),
    decodeSlot (word 0x095 [(14, 40), (6, 36), (3, 26), (638, 16), (5, 12)]),
    decodeSlot (word 0x096 [(9, 34), (8, 24), (1, 10), (341, 0)]),
    decodeSlot (word 0x0A0 [(1, 40), (2, 26)]),
    decodeSlot (word 0x0A0 [(1, 40), (639, 16), (1, 0)]),
    decodeSlot (word 0x0A0 [(1, 40), (2, 26), (62, 0)]),
    decodeSlot (word 0x0A1 [(1, 40), (2, 36), (3, 32)]),
    decodeSlot (word 0x0A2 [(1, 40), (2, 36), (3, 32)]),
    decodeSlot (word 0x0A3 [(1, 40), (2, 36), (3, 32)]),
    decodeSlot (word 0x0A4 [(1, 40), (2, 36)]),
    decodeSlot (word 0x0A5 [(2, 36), (60, 26)]),
    decodeSlot (word 0x0A6 [(2, 36), (60, 26)])] =
  [some (.vsplat .fp32 1 2 3 true),
    some (.vmovs 6 5 1023),
    some (.vins 4 5 6 7),
    some (.vmov 1 2 3 true),
    some (.vsel 1 2 3 4),
    some (.vcmp .ltl 14 3 638 5),
    some (.vcvt 9 8 1 .bf16 1 false .rtz),
    some (.vmaskN 1 2),
    some (.vmaskNz 1 639),
    some (.vmaskQ 1 2 15),
    some (.mand 1 2 3),
    some (.mor 1 2 3),
    some (.mxor 1 2 3),
    some (.mnot 1 2),
    some (.mcnt 60 2),
    some (.mfirst 60 2)] := rfl

theorem test_decode_permute_1 : [
    decodeSlot (word 0x0C8 [(1, 34), (2, 24), (3, 14), (4, 10), (1, 0)]),
    decodeSlot (word 0x0C9 [(1, 34), (2, 24), (3, 14), (4, 10), (1, 0)]),
    decodeSlot (word 0x0CA [(1, 34), (2, 24), (3, 18)]),
    decodeSlot (word 0x0CB [(1, 34), (2, 24), (3, 18)]),
    decodeSlot (word 0x0D0 [(1, 34), (2, 24), (3, 14), (4, 10), (512, 0)]),
    decodeSlot (word 0x0D1 [(1, 34), (2, 24), (3, 18), (4, 14), (9215, 0)]),
    decodeSlot (word 0x0D2 [(1, 34), (2, 24), (3, 14), (4, 10), (556, 0)]),
    decodeSlot (word 0x0D3 [(1, 34), (2, 24), (3, 18), (4, 14), (9, 0)]),
    decodeSlot (word 0x0D4 [(1, 34), (2, 24), (4, 10)]),
    decodeSlot (word 0x0D5 [(1, 34), (2, 24), (4, 10), (512, 0)]),
    decodeSlot (word 0x0D8 [(1, 34), (2, 24), (4, 10), (5, 0)]),
    decodeSlot (word 0x0D9 [(1, 34), (2, 24), (4, 10)]),
    decodeSlot (word 0x0DA [(1, 34), (2, 24), (4, 10)]),
    decodeSlot (word 0x0DB [(1, 34), (2, 24), (4, 10)]),
    decodeSlot (word 0x0DC [(1, 34), (2, 24), (4, 10), (38, 0)]),
    decodeSlot (word 0x0E0 [(1, 34), (2, 24), (3, 14), (4, 10), (524, 0)]),
    decodeSlot (word 0x0E1 [(1, 34), (2, 24), (4, 10), (256, 0)]),
    decodeSlot (word 0x0E2 [(1, 34), (2, 24), (3, 14), (4, 10), (372, 0)]),
    decodeSlot (word 0x0E2 [(1, 34), (2, 24), (4, 10)]),
    decodeSlot (word 0x0E3 [(1, 34), (2, 24), (4, 10), (871, 0)])] =
  [some (.vgetl 1 2 4 3 true false),
    some (.vputl 1 2 3 4 true),
    some (.vmovx 1 2 3),
    some (.vstx 1 2 3),
    some (.vperm 1 2 3 4 true),
    some (.vrot 1 2 3 1023 4 true),
    some (.vshuf 1 2 3 4 4 5 true),
    some (.vbcast 1 2 3 9 4 false),
    some (.vcomp 1 2 4),
    some (.vexpd 1 2 4 true),
    some (.vredadd 1 2 4 .rtz),
    some (.vredmax 1 2 4),
    some (.vredmin 1 2 4),
    some (.vargmax 1 2 4),
    some (.vscan 1 2 4 2 .rdn),
    some (.vpack 1 2 3 4 true true .rne),
    some (.vunpk 1 2 4 true false),
    some (.vblk 1 2 (some 3) 4 5 true .rne),
    some (.vblk 1 2 none 4 0 false .vmode),
    some (.vunblk 1 2 4 5 true true .rup)] := rfl

theorem test_decode_permute_2 : [
    decodeSlot (word 0x0E8 [(1, 34), (2, 24), (4, 10), (512, 0)]),
    decodeSlot (word 0x0E9 [(1, 34), (2, 24), (4, 10), (512, 0)]),
    decodeSlot (word 0x0EA [(1, 34), (2, 24), (4, 10), (512, 0)])] =
  [some (.vwgin 1 2 4 true),
    some (.vwgout 1 2 4 true),
    some (.vwgfil 1 2 4 true)] := rfl

theorem test_decode_memory_1 : [
    decodeSlot (word 0x140 [(63, 34), (6, 28), (0x3FFFF, 10), (1, 7), (6, 0)]),
    decodeSlot (word 0x141 [(5, 34), (6, 28), (8, 10), (3, 0)]),
    decodeSlot (word 0x142 [(639, 34), (6, 28), (64, 10), (2, 7), (6, 3)]),
    decodeSlot (word 0x143 [(1, 34), (11, 28), (2, 7), (4, 3)]),
    decodeSlot (word 0x144 [(1, 34), (2, 28), (3, 22), (4, 18), (1, 15), (5, 11), (1, 0)]),
    decodeSlot (word 0x145 [(2, 34), (17, 28), (16, 22), (4, 18), (1, 15), (5, 11)]),
    decodeSlot (word 0x146 [(1, 34), (2, 28), (639, 18), (4, 14), (0, 11), (2, 7), (13, 0)]),
    decodeSlot (word 0x147 [(1, 34), (2, 28), (3, 18), (4, 14), (1, 11), (9, 7), (2, 0)]),
    decodeSlot (word 0x148 [(2, 28), (64, 10), (7, 0)]),
    decodeSlot (word 0x150 [(4, 34), (6, 28), (254, 10), (1, 7), (4, 3)]),
    decodeSlot (word 0x151 [(4, 34), (6, 28), (8, 10), (1, 7), (3, 0)]),
    decodeSlot (word 0x152 [(5, 34), (6, 28), (1, 7), (4, 3)]),
    decodeSlot (word 0x153 [(5, 34), (6, 28), (1, 10)]),
    decodeSlot (word 0x154 [(1, 38), (2, 32), (3, 26), (1, 17), (3, 0)]),
    decodeSlot (word 0x157 [(1, 38), (2, 32), (3, 26), (1, 17), (3, 0)]),
    decodeSlot (word 0x158 [(1, 38), (2, 32), (3, 26), (1, 17), (3, 0)]),
    decodeSlot (word 0x159 [(1, 38), (2, 32), (3, 26), (1, 17), (3, 0)]),
    decodeSlot (word 0x15A [(1, 38), (2, 32), (3, 26), (1, 17), (3, 0)]),
    decodeSlot (word 0x155 [(1, 38), (2, 32), (3, 26), (2, 17), (6, 0)]),
    decodeSlot (word 0x156 [(1, 38), (2, 32), (3, 26), (2, 17), (6, 0)])] =
  [some (.lds 63 6 (-1) .st .wd true),
    some (.sts 5 6 8 .va .q),
    some (.ldv 639 6 64 .w .fp32),
    some (.stv 1 11 0 .w .i32),
    some (.ldvs 1 2 3 4 .st .bf16 true),
    some (.stvs 2 17 16 4 .st .bf16),
    some (.ldvx 1 2 639 4 .va .i8 2 true true),
    some (.stvx 1 2 3 4 .st .e8m0 1 false),
    some (.pfh 2 64 7),
    some (.stc 4 6 254 .i32),
    some (.ldc 4 6 8 .st .q false),
    some (.ldvc 5 6 0 .st .i32),
    some (.rcq 5 6 1 .va),
    some (.aadd 1 2 3 .st true),
    some (.aand 1 2 3 .st true),
    some (.aor 1 2 3 .st true),
    some (.axor 1 2 3 .st true),
    some (.aswp 1 2 3 .st true),
    some (.amin 1 2 3 .w false true),
    some (.amax 1 2 3 .w false true)] := rfl

theorem test_decode_memory_2 : [
    decodeSlot (word 0x15B [(1, 38), (2, 32), (3, 26), (4, 20), (2, 0)]),
    decodeSlot (word 0x15C [(6, 25), (7, 19)]),
    decodeSlot (word 0x15C [(6, 25), (7, 19), (1, 0)]),
    decodeSlot (word 0x15D [(6, 25), (7, 19)]),
    decodeSlot (word 0x15E [(6, 25), (5, 0)]),
    decodeSlot (word 0x15E [(13, 0)]),
    decodeSlot (word 0x160 [(4, 25), (5, 19)]),
    decodeSlot (word 0x160 [(4, 25), (1, 0)]),
    decodeSlot (word 0x161 [(6, 34), (7, 28), (3, 10), (2, 7), (3, 0)]),
    decodeSlot (word 0x161 [(600, 34), (7, 28), (0xFFFF, 10), (2, 7), (3, 3), (4, 0)]),
    decodeSlot (word 0x162 [(6, 34), (7, 28), (3, 10), (2, 7), (0, 0)]),
    decodeSlot (word 0x162 [(600, 34), (7, 28), (1, 10), (2, 7), (3, 3), (4, 0)]),
    decodeSlot (word 0x163 [])] =
  [some (.acas 1 2 3 4 .va false),
    some (.brel 6 7),
    some (.brelP 6 7),
    some (.bwait 6 7),
    some (.pdef 5 6),
    some (.pdefRel 5),
    some (.wset 4 5),
    some (.wsetInv 4),
    some (.ldw 6 3 7 .q),
    some (.ldwVec 600 0xFFFF 7 .i16),
    some (.stw 6 3 7 .b),
    some (.stwVec 600 1 7 .i16),
    some (.fencex)] := rfl

theorem test_decode_engine_1 : [
    decodeSlot (word 0x180 [(1, 38), (2, 25)]),
    decodeSlot (word 0x181 [(1, 38), (3, 19)]),
    decodeSlot (word 0x181 [(1, 38), (3, 19), (1, 0)]),
    decodeSlot (word 0x181 [(3, 19), (2, 0)]),
    decodeSlot (word 0x181 [(3, 19), (3, 0)]),
    decodeSlot (word 0x182 [(7, 38)]),
    decodeSlot (word 0x183 [(7, 41), (2, 25)]),
    decodeSlot (word 0x184 [(7, 41), (2, 25), (3, 19)]),
    decodeSlot (word 0x185 [(1, 41), (2, 38), (3, 31), (21, 25), (20, 19), (3, 0)]),
    decodeSlot (word 0x185 [(1, 41), (0, 38), (21, 25), (20, 19)]),
    decodeSlot (word 0x186 [(1, 41), (2, 38), (3, 31), (4, 25), (5, 19), (510, 0)]),
    decodeSlot (word 0x187 [(1, 38), (2, 25), (639, 9), (127, 0)]),
    decodeSlot (word 0x188 [(1, 38), (2, 25), (3, 9), (0, 0)]),
    decodeSlot (word 0x189 [(1, 41), (5, 35), (33, 25), (34, 19), (20, 0)]),
    decodeSlot (word 0x18A [(1, 38), (15, 31), (6, 0)]),
    decodeSlot (word 0x18A [(14, 0)]),
    decodeSlot (word 0x18B [(1, 38), (255, 0)]),
    decodeSlot (word 0x18C [(5, 25), (1, 0)]),
    decodeSlot (word 0x18D [(1, 38), (2, 31), (6, 25), (8, 19), (24, 0)]),
    decodeSlot (word 0x18E [(1, 40), (2, 36), (3, 32), (15, 28)])] =
  [some (.tcfg 1 2),
    some (.tcfgqVer 3 1),
    some (.tcfgqSt 3 1),
    some (.tcfgqTag 3),
    some (.tcfgqSep 3),
    some (.tzero 7),
    some (.mset 7 2),
    some (.mord 7 2 3),
    some (.tld 2 1 21 20 true (some 3)),
    some (.tld 0 1 21 20 false none),
    some (.tst 2 1 4 5 254 (some 3)),
    some (.tldv 1 639 2 127),
    some (.tstv 1 3 2 0),
    some (.tmc 1 33 34 4 5 true none),
    some (.trecv 1 15 6),
    some (.trecvRel 6),
    some (.tcons 1 255),
    some (.dtab 1 5),
    some (.tldz 1 6 8 .e2m1x (some 2)),
    some (.wait 1 2 3 15)] := rfl

theorem test_decode_engine_2 : [
    decodeSlot (word 0x190 [(1, 38), (2, 35), (3, 25), (127, 0)]),
    decodeSlot (word 0x190 [(1, 35), (2, 0)]),
    decodeSlot (word 0x191 [(1, 0)]),
    decodeSlot (word 0x191 [(2, 0)]),
    decodeSlot (word 0x192 [(2, 38), (30, 9), (14, 0)]),
    decodeSlot (word 0x192 [(2, 38), (5, 35), (4, 25), (49, 0)]),
    decodeSlot (word 0x193 [(1, 25), (7, 0)]),
    decodeSlot (word 0x193 [(1, 25), (6, 38), (8, 0)]),
    decodeSlot (word 0x194 [(1, 25), (2, 0)]),
    decodeSlot (word 0x195 [(1, 25)]),
    decodeSlot (word 0x195 [(1, 25), (1, 0)]),
    decodeSlot (word 0x196 [(1, 25)])] =
  [some (.mma true 1 2 3 true true true true true true),
    some (.mma false 0 1 0 true false false false false false),
    some (.mmzI32 true),
    some (.mmzFp32 false),
    some (.mmdr 2 false 0 (some 30) none true true false),
    some (.mmdr 2 true 4 none (some 5) false false true),
    some (.qld true true true 1),
    some (.qldBind false false false 1 6),
    some (.qst false true false 1),
    some (.esetRng 1),
    some (.esetQ 1),
    some (.etab 1)] := rfl

theorem test_decode_dies : [
    decodeSlot (word 0x1A0 [(4, 25), (2, 0)]),
    decodeSlot (word 0x1A1 [(9, 19), (42, 0)]),
    decodeSlot (word 0x1A2 [(9, 19), (0x30, 0)]),
    decodeSlot (word 0x1A3 [(2, 31), (0x70, 0)]),
    decodeSlot (word 0x1A4 [(1, 31), (3, 0)]),
    decodeSlot (word 0x1A4 [(11, 0)]),
    decodeSlot (word 0x1A5 [(5, 31), (90, 0)]),
    decodeSlot (word 0x1A6 [(5, 31), (10, 25), (11, 19), (1, 0)]),
    decodeSlot (word 0x1A6 [(10, 25), (11, 19), (254, 0)]),
    decodeSlot (word 0x1A7 [(4, 25), (63, 0)]),
    decodeSlot (word 0x1A7 [(71, 0)]),
    decodeSlot (word 0x1A8 [(7, 9), (3, 0)]),
    decodeSlot (word 0x1A9 [(7, 9), (3, 0)])] =
  [some (.lset 2 4),
    some (.lcoord 9 2 5),
    some (.lnbr 9 0 2 true),
    some (.hsend 0 2 true (some 2)),
    some (.hrecv 3 1),
    some (.hrecvRel 3),
    some (.reshard 2 3 (some 5)),
    some (.cred 10 11 (some 5)),
    some (.credCh 10 11 63 none),
    some (.chset 63 4),
    some (.chsetRel 7),
    some (.chsend 3 7),
    some (.chrecv 7 3)] := rfl

theorem test_decode_threads : [
    decodeSlot (word 0x1C0 [(1, 38)]),
    decodeSlot (word 0x1C1 [(1, 38)]),
    decodeSlot (word 0x1C2 [(1, 38), (2, 32), (3, 26)]),
    decodeSlot (word 0x1C3 [(2, 32)]),
    decodeSlot (word 0x1C4 [(1, 38), (2, 32)]),
    decodeSlot (word 0x1C5 [(1, 38), (2, 32)]),
    decodeSlot (word 0x1C5 [(1, 38), (2, 32), (1, 0)]),
    decodeSlot (word 0x1C6 []),
    decodeSlot (word 0x1C7 []),
    decodeSlot (word 0x1C8 []),
    decodeSlot (word 0x1C9 [(1, 38), (2, 32), (3, 26)]),
    decodeSlot (word 0x1CA [(1, 38), (15, 0)]),
    decodeSlot (word 0x1CA [(1, 38), (2, 32), (48, 0)]),
    decodeSlot (word 0x1F0 [(2, 25)]),
    decodeSlot (word 0x1F1 [(2, 25), (3, 19)]),
    decodeSlot (word 0x1F2 [(2, 25), (3, 19)])] =
  [some (.tid 1),
    some (.tcount 1),
    some (.join 1 2 3),
    some (.leave 2),
    some (.grank 1 2),
    some (.gsize 1 2),
    some (.gsizeJ 1 2),
    some (.exit),
    some (.yield),
    some (.trig),
    some (.launch 1 2 3),
    some (.prio 1 0 15 false),
    some (.prioAll 1 2 0 true),
    some (.ctxsv 2),
    some (.ctxld 2 3),
    some (.dload 2 3)] := rfl

theorem test_decode_counters_1 : [
    decodeSlot (word 0x1D0 [(1, 40), (2, 28)]),
    decodeSlot (word 0x1D0 [(1, 40), (1, 0)]),
    decodeSlot (word 0x1D1 [(1, 40)]),
    decodeSlot (word 0x1D1 [(1, 40), (1, 0)]),
    decodeSlot (word 0x1D2 [(15, 40), (2, 28), (0xFFFFFFF, 0)]),
    decodeSlot (word 0x1D3 [(4, 40), (7, 34), (3, 28), (1, 0)]),
    decodeSlot (word 0x1D4 [(5, 40), (7, 28), (0xFFFF, 0)]),
    decodeSlot (word 0x1D5 [(5, 40), (7, 34)]),
    decodeSlot (word 0x1D6 [(7, 28)]),
    decodeSlot (word 0x1D6 [(6, 34), (7, 28), (1, 0)]),
    decodeSlot (word 0x1D6 [(7, 28), (8, 22), (2, 0)]),
    decodeSlot (word 0x1D7 [(1, 40), (2, 34)]),
    decodeSlot (word 0x1D7 [(1, 40), (2, 34), (3, 28), (1, 0)]),
    decodeSlot (word 0x1D7 [(1, 40), (2, 34), (3, 28), (2, 0)]),
    decodeSlot (word 0x1D7 [(1, 40), (2, 34), (3, 28), (3, 0)]),
    decodeSlot (word 0x1D7 [(1, 40), (2, 34), (3, 28), (4, 0)]),
    decodeSlot (word 0x1D8 [(1, 40)]),
    decodeSlot (word 0x1D8 [(1, 40), (1, 0)]),
    decodeSlot (word 0x1D9 [(1, 40), (2, 34)]),
    decodeSlot (word 0x1D9 [(1, 40), (2, 34), (1, 0)])] =
  [some (.kset 1 2),
    some (.ksetClr 1),
    some (.kmodeOn 1),
    some (.kmodeOff 1),
    some (.kadd 15 2 0xFFFFFFF),
    some (.kaddr 4 7 3 1),
    some (.kwait 5 7 0xFFFF),
    some (.kread 5 7),
    some (.bar 7),
    some (.barA 6 7),
    some (.barW 7 8),
    some (.wfown 1 2),
    some (.wfownT 1 2 3),
    some (.wfownG 1 2 3),
    some (.wfownE 1 2 3),
    some (.wfownR 1 2 3),
    some (.wfdrop 1),
    some (.wfdropAll 1),
    some (.wfqW 1 2),
    some (.wfqO 1 2)] := rfl

theorem test_decode_counters_2 : [
    decodeSlot (word 0x1D9 [(2, 34), (2, 0)]),
    decodeSlot (word 0x1DA [(9, 28), (1, 0)])] =
  [some (.wfqF 2),
    some (.kaddw 9 1)] := rfl

/-! ### The spec's worked examples, and single steps -/

/-- What the last fixed-latency result of an answer is, and the group boundary it lands at. -/
def lastFlight (o : Out) : Option (Upd × Nat) := match o with | .next t => (t.me.sq.flights.getLast?).map fun f => (f.upd, f.due) | _ => none

/-- R60's example: `vfma.rne v40, v41, v42, m3` with its stop bit. -/
theorem test_decode_vfma : decodeSlot 0x810600A0290A8C04 = some (.vfma 40 41 42 3 false .rne) ∧ (slotHdr 0x810600A0290A8C04).stop = true := ⟨rfl, rfl⟩

/-- R89: the sum wraps. -/
theorem test_add_wraps : lastFlight (exec (.add 1 2 3) (withS 2 (-1) (withS 3 2 base))) = some (.s 1 1, 1) := by decide +kernel

/-- R89: the high half of a signed product. -/
theorem test_mulh_signed : lastFlight (exec (.mulh 1 2 3) (withS 2 (-1) (withS 3 2 base))) = some (.s 1 (-1), 3) := by decide +kernel

/-- R48: a step runs the instruction where it is fetched, first after reset: `addi s1, s0, -1`, whose result lands before the next group. -/
theorem test_step_addi :
    (match Sys2Proof.Machine.step (State.reset.withFetchWord 64 (word 0x003 [(1, 38), (0, 32), (0x3FFFFFF, 0)] + 2 ^ 63)) with
      | .next t => decide (t.me.regs.s[1] = -1 ∧ t.me.sq.group = 1)
      | _ => false) = true := by decide +kernel

/-- R89: arithmetic shifts keep the sign; a field of one bit sign-extends to all of them. -/
theorem test_sra_sext : lastFlight (exec (.srai 1 2 63) (withS 2 0x8000000000000000 base)) = some (.s 1 (-1), 1) ∧
    lastFlight (exec (.sext 1 2 1) (withS 2 1 base)) = some (.s 1 (-1), 1) := by decide +kernel

/-- R78's example: an FP32 `vredadd` of 2^24, 1, 1, 1, -2^24, 1, 1, 1 under the mask of lanes 0 to 7 is 6. -/
theorem test_vredadd_tree :
    reduceVal .add .rne { bits := packLanes 32 [0x4B800000, 0x3F800000, 0x3F800000, 0x3F800000, 0xCB800000, 0x3F800000, 0x3F800000, 0x3F800000], tag := .fp32 }
      255 = (0x40C00000, 0) := by decide +kernel

/-- R353's example: the contributions of the eight dies give 5.0. -/
theorem test_reduction :
    sum8 (fun d => [0x4B800000, 0x3F800000, 0x3F800000, 0x3F800000, 0xCB800000, 0x3F800000, 0x3F800000, 0x3F800000].getD d 0) = 0x40A00000 := by
  decide +kernel

/-- R242: what the agenda marks so happens between two slots of a group, whose rest then issues. -/
theorem test_amid :
    let s := withSeq (fun q => { q with queue := [⟨0, 5, word 0x001 [(1, 38), (2, 32), (3, 26)]⟩] }) { base with agenda := [.amid (.eccHbm 3)] }
    (match Sys2Proof.Machine.step s with
      | .next t => decide (t.badHbm = [3] ∧ t.agenda = [] ∧ t.me.sq.queue = s.me.sq.queue)
      | _ => false) = true := by decide +kernel

/-- R84's table, h = 7: 3.25, 3.4 (as FP32), 5.5 down, 7, -0.2 (as FP32). -/
theorem test_qE2M1 :
    (qE2M1 7 .rne (decodeFmt fmtFP32 0x40500000)).1 = 5 ∧ (qE2M1 7 .rne (decodeFmt fmtFP32 0x4059999A)).1 = 8 ∧
    (qE2M1 7 .rdn (decodeFmt fmtFP32 0x40B00000)).1 = 6 ∧ qE2M1 7 .rtz (decodeFmt fmtFP32 0x40E00000) = (7, fOF ||| fNX) ∧
    qE2M1 7 .rne (decodeFmt fmtFP32 0xBE4CCCCD) = (0, fNX) := by decide +kernel

/-- The worked values at the edges of the formats (R72, R82, R83). -/
theorem test_conversions :
    (decodeFmt fmtFP32 0x3F808000).round fmtBF16 .rne = (0x3F80, fNX) ∧ (decodeFmt fmtFP32 0x3F808000).round fmtBF16 .rup = (0x3F81, fNX) ∧
    (decodeFmt fmtFP32 0x3F818000).round fmtBF16 .rne = (0x3F82, fNX) ∧ (decodeFmt fmtFP32 0x7F7F8000).round fmtBF16 .rne = (0x7F80, fOF ||| fNX) ∧
    (decodeFmt fmtFP32 0x7F7F8000).round fmtBF16 .rtz = (0x7F7F, fNX) ∧ (decodeFmt fmtFP32 1).round fmtBF16 .rne = (0, fUF ||| fNX) ∧
    (Real.ofInt 464).round fmtE4M3 .rne = (0x7E, fNX) ∧ (Real.ofInt 480).round fmtE4M3 .rne = (0x7E, fOF ||| fNX) ∧
    (Real.ofInt 480).round fmtE4M3 .rtz = (0x7E, fOF ||| fNX) ∧ (Real.fin false 1 (-10)).round fmtE4M3 .rne = (0, fUF ||| fNX) ∧
    (Real.fin false 1 (-10)).round fmtE4M3 .rup = (1, fUF ||| fNX) ∧ (Real.inf true).round fmtE4M3 .rne = (0xFE, fOF ||| fNX) := by decide +kernel

/-- The same table, to integers and E8M0. -/
theorem test_conversions_int :
    cvtInt 32 .rne (.fin false 5 (-1)) = (2, fNX) ∧ cvtInt 32 .rup (.fin false 5 (-1)) = (3, fNX) ∧ cvtInt 32 .rne (.fin true 5 (-1)) = (-2, fNX) ∧
    cvtInt 32 .rdn (.fin true 5 (-1)) = (-3, fNX) ∧ cvtInt 32 .rtz (Real.ofInt 3000000000) = (0x7FFFFFFF, fNV ||| fSAT) ∧ satS 8 200 = (127, fSAT) ∧
    wrapS 8 200 = -56 ∧ toE8M0 .rne (.fin false 3 (-2)) = (0x7E, fNX) := by decide +kernel

/-- A tile of one row of E4M3 codes. -/
def e4Tile (xs : List Byte) : Tile := xs.zipIdx.foldl (fun t (b, i) => setData i b t) { Tile.reset with cfg := 0x10017, icfg := 0x10017 }

/-- R289: the aligned operands, their sums of squares, the partial 400 and the accumulator 6.25. -/
theorem test_mma_e4m3 :
    let a := edgeBlock (e4Tile [0x54, 0x30, 0xBA, 0x19, 0x18]) .e4m3 0 0
    let b := edgeBlock (e4Tile [0x30, 0x40, 0x38, 0x48, 0x50]) .e4m3 0 0
    a.ints.take 5 = [96, 4, -10, 1, 0] ∧ b.ints.take 5 = [4, 16, 8, 32, 64] ∧ sumSq a.ints = 9333 ∧ sumSq b.ints = 5456 ∧
    blockPartial a.ints b.ints 9333 5456 = 400 ∧ accumulate .e4m3 false false 0 400 (a.e + b.e) = 0x40C80000 := by decide +kernel

/-- R289: the integer mode clamps, or wraps under W. -/
theorem test_mma_i8 : accumulate .i8 false false 2147483000 1000 0 = 2147483647 ∧
    accumulate .i8 true false 2147483000 1000 0 = BitVec.ofNat 48 (2 ^ 32 - 2147483296) := by decide +kernel

/-- The worked drain after R299: bias 0.75, the segment table, QS 0.5 and ZP 3 make 7; -20 makes 3. -/
theorem test_drain :
    let h : Churn := { Churn.reset with lo := 0xC1000000, hi := 0x41000000, qs := 0x3F000000, zp := 3
                                        etab := List.replicate 128 (0, 0) ++ List.replicate 128 (0x3F800000, 0) }
    drainOut h .i8 true (activate h (addBias (.flt 0x40C80000) 0x3F400000)) = 7 ∧ drainOut h .i8 true (activate h (.flt 0xC1A00000)) = 3 := by
  decide +kernel

/-- The map of the example of R270: dimensions w and h of a 6 by 6 image of BF16 at 0x400, window 8 by 4. -/
def imageMap : MapReg :=
  { bits := BitVec.ofNat 512 (0x400 + 2 ^ 64 + Tag.bf16.code * 2 ^ 66 + 2 ^ 71 + 7 * 2 ^ 80 + 5 * 2 ^ 96 + 2 * 2 ^ 112 + 2 ^ 148
      + 3 * 2 ^ 152 + 5 * 2 ^ 168 + 12 * 2 ^ 184 + 2 ^ 220)
    raster := [] }

/-- R268, R270: with O1 = 2, position (i0, i1) reads X(i1 + 1, i0 - 1) at 12 h + 2 w, and is padded when i0 is 0 or 7. -/
theorem test_map_positions :
    (List.range 32).all (fun k => decide (position imageMap 0x20000 0 k = (decide (k % 8 = 0 ∨ k % 8 = 7),
      BitVec.ofInt 64 (0x400 + 12 * (k / 8 + 1) + 2 * ((k % 8 : Nat) - 1 : Int))))) = true ∧
    mapTotal imageMap.bits = 64 ∧ mapWin 0x10045 imageMap 0 = some ⟨0, 0, 16⟩ ∧ (position imageMap 0x40000 0 25).1 = true := by decide +kernel

/-- R277's example: lengths 1, 2 and 2 decode 0x34 to 0, 0, 1, 2, 0, and 0x74 to 0, 0, 1, 2, 1. -/
theorem test_separator :
    let t := [1, 2, 2] ++ List.replicate 253 0
    tableOk t = true ∧ sepDecode t 5 (bitsOf [0x34]) = some [0, 0, 1, 2, 0] ∧ sepDecode t 5 (bitsOf [0x74]) = some [0, 0, 1, 2, 1] := by decide +kernel

/-- R307, R314: `trap` in user mode enters the handler at `XVEC`. -/
theorem test_trap_enters :
    (match exec (.trap 5) (withSeq (fun q => { q with at_ := ⟨0x100, 2⟩, start := ⟨0x100, 1⟩ }) trapping) with
      | .next t => decide (t.me.ctl.handler = true ∧ t.me.sq.next.pc = 0x2000)
      | _ => false) = true := by decide +kernel

/-- R245, R134: the byte stored is the byte read, and its neighbour is not touched. -/
theorem test_store_byte :
    (match exec (.sts 2 0 9 .st .b) (withS 2 0x1FF base) with
      | .next t => decide (getByte t.store 9 = 0xFF ∧ getByte t.store 10 = 0)
      | _ => false) = true := by decide +kernel

/-- R190: `kadd` adds to an armed counter. -/
theorem test_kadd : (match exec (.kadd 1 0 7) counters with
      | .next t => decide (counterAt t 192 = 7)
      | _ => false) = true := by decide +kernel

/-! ### The hash of R327: the examples of its standards -/

/-- SHA-256 of "abc" (FIPS 180-4, its example). -/
theorem test_sha256_abc : sha256 [0x61, 0x62, 0x63] =
    [0xBA, 0x78, 0x16, 0xBF, 0x8F, 0x01, 0xCF, 0xEA, 0x41, 0x41, 0x40, 0xDE, 0x5D, 0xAE, 0x22, 0x23] ++
    [0xB0, 0x03, 0x61, 0xA3, 0x96, 0x17, 0x7A, 0x9C, 0xB4, 0x10, 0xFF, 0x61, 0xF2, 0x00, 0x15, 0xAD] := by decide +kernel

/-- HMAC-SHA-256 of "what do ya want for nothing?" under "Jefe" (RFC 4231, case 2). -/
theorem test_hmac_jefe : hmacBytes [0x4A, 0x65, 0x66, 0x65] ([0x77, 0x68, 0x61, 0x74, 0x20, 0x64, 0x6F, 0x20, 0x79, 0x61, 0x20, 0x77, 0x61, 0x6E] ++
      [0x74, 0x20, 0x66, 0x6F, 0x72, 0x20, 0x6E, 0x6F, 0x74, 0x68, 0x69, 0x6E, 0x67, 0x3F]) =
    [0x5B, 0xDC, 0xC1, 0x46, 0xBF, 0x60, 0x75, 0x4E, 0x6A, 0x04, 0x24, 0x26, 0x08, 0x95, 0x75, 0xC7] ++
    [0x5A, 0x00, 0x3F, 0x08, 0x9D, 0x27, 0x39, 0x83, 0x9D, 0xEC, 0x58, 0xB9, 0x64, 0xEC, 0x38, 0x43] := by decide +kernel

end Sys2Proof.Tests
end

section
/-! PROOF. The commands of the control port (R388, R389, R395, R397, R400): what a TZ port answers, and the merged stream of
error records. -/

namespace Sys2Proof.Machine

/-! ### Accesses to HBM: home slices leave both memories alone -/

theorem stepHome_hbm (k : LineAcc) (u : Option Nat) (va : Word) (pa : Nat) (s : State) : (stepHome k u va pa s).hbm = s.hbm := by
  unfold stepHome
  rcases homeNext k (homeAt s pa) with ⟨h, _ | c⟩
  · rfl
  · exact congrArg (·.1) (sameMemory_homeEvent c u va pa _)

theorem stepHome_store (k : LineAcc) (u : Option Nat) (va : Word) (pa : Nat) (s : State) : (stepHome k u va pa s).store = s.store := by
  unfold stepHome
  rcases homeNext k (homeAt s pa) with ⟨h, _ | c⟩
  · rfl
  · exact congrArg (·.2.1) (sameMemory_homeEvent c u va pa _)

/-- What no step of a fold changes, the fold does not change. -/
theorem foldl_field_eq {α β : Type} (p : State → β) (f : State → α → State) (hf : ∀ s a, p (f s a) = p s) (xs : List α) (s : State) :
    p (xs.foldl f s) = p s := by
  induction xs generalizing s with
  | nil => rfl
  | cons x xs ih => rw [List.foldl_cons, ih, hf]

/-- A physical access is one piece of HBM, which meets the home slices of its lines and nothing else. -/
theorem stepSegs_paSegs (k : LineAcc) (u : Option Nat) (pa n : Nat) (s : State) : stepSegs k u (paSegs pa n) s =
    (lineStarts pa n).foldl (fun s x => stepHome k u (BitVec.ofNat 64 pa + BitVec.ofNat 64 (x - pa)) x s) s := rfl

theorem stepSegs_paSegs_hbm (k : LineAcc) (u : Option Nat) (pa n : Nat) (s : State) : (stepSegs k u (paSegs pa n) s).hbm = s.hbm := by
  rw [stepSegs_paSegs]
  exact foldl_field_eq State.hbm _ (fun _ _ => stepHome_hbm _ _ _ _ _) _ s

theorem stepSegs_paSegs_store (k : LineAcc) (u : Option Nat) (pa n : Nat) (s : State) :
    (stepSegs k u (paSegs pa n) s).store = s.store := by
  rw [stepSegs_paSegs]
  exact foldl_field_eq State.store _ (fun _ _ => stepHome_store _ _ _ _ _) _ s

theorem readSegs_paSegs (s : State) (pa n : Nat) : readSegs s (paSegs pa n) = readN s.hbm pa n := by
  simp [readSegs, paSegs]

theorem writeSegs_paSegs (s : State) (pa : Nat) (data : List Byte) :
    writeSegs s (paSegs pa data.length) data = { s with hbm := writeN s.hbm pa data } := by
  simp [writeSegs, paSegs]

theorem sameMemory_reportBad (die : Nat) (gs : List Seg) (s : State) : SameMemory s (reportBad die gs s) := by
  unfold reportBad
  split
  · exact sameMemory_errRecord _ _ _ _ _
  · exact .refl s

/-! ### Which commands a port takes -/

theorem tzTakes_of_lt {s : State} {port : Nat} (hp : port < 2) (hh : halted s = false) : tzTakes s port = true := by
  simp [tzTakes, hp, hh]

theorem tzTakes_of_halted {s : State} (port : Nat) (hh : halted s = true) : tzTakes s port = false := by
  simp [tzTakes, hh]

theorem tzTakes_of_ge {port : Nat} (s : State) (hp : 2 ≤ port) : tzTakes s port = false := by
  simp [tzTakes, not_lt.2 hp]

/-- A port that takes no commands answers none and changes nothing. -/
theorem exec_of_not_tzTakes {s : State} {port : Nat} (h : tzTakes s port = false) (pa n a : Nat) (hdr rcd x : Word) (data nonce : List Byte) :
    ∀ i ∈ [Instr.mread port pa n, .mwrite port pa data, .append port hdr rcd, .cread port a, .cwrite port a x, .measure port nonce],
      exec i s = .next s := by
  simp [exec_mread, exec_mwrite, exec_append, exec_cread, exec_cwrite, exec_measure, execMread, execMwrite, execAppend, execCread,
    execCwrite, execMeasure, h]

/-! ### The status of a physical access (R389, R400) -/

/-- The form of a physical access: whole words, at most a page of them, within one page. -/
def PaForm (pa n : Nat) : Prop := n % 8 = 0 ∧ 8 ≤ n ∧ n ≤ 4096 ∧ pa % 8 = 0 ∧ pa % 4096 + n ≤ 4096

/-- It meets a secure region or a line whose home is a secure vat. -/
def PaShut (s : State) (pa n : Nat) : Prop := regionSecure s pa = true ∨ ∃ a ∈ lineStarts pa n, homeSecure s a = true

/-- The four statuses, in their order. -/
theorem paStatus_eq (s : State) (pa n : Nat) [Decidable (PaForm pa n)] [Decidable (PaShut s pa n)] :
    paStatus s pa n = if ¬PaForm pa n then 1 else if 2 ^ 39 ≤ pa then 2 else if PaShut s pa n then 3 else 0 := by
  have hform : (decide (n % 8 ≠ 0) || decide (n < 8) || decide (n > 4096) || decide (pa % 8 ≠ 0) ||
      decide (pa % 4096 + n > 4096)) = true ↔ ¬PaForm pa n := by
    simp only [Bool.or_eq_true, decide_eq_true_eq, PaForm]
    omega
  have hshut : (regionSecure s pa || (lineStarts pa n).any (homeSecure s)) = true ↔ PaShut s pa n := by
    simp only [Bool.or_eq_true, List.any_eq_true, PaShut]
  simp only [paStatus, hform, hshut, ge_iff_le]

theorem paStatus_of_not_form {s : State} {pa n : Nat} (h : ¬PaForm pa n) : paStatus s pa n = 1 := by
  classical rw [paStatus_eq, if_pos h]

theorem paStatus_of_ge {s : State} {pa n : Nat} (hf : PaForm pa n) (h : 2 ^ 39 ≤ pa) : paStatus s pa n = 2 := by
  classical rw [paStatus_eq, if_neg (not_not_intro hf), if_pos h]

theorem paStatus_of_shut {s : State} {pa n : Nat} (hf : PaForm pa n) (hp : pa < 2 ^ 39) (h : PaShut s pa n) : paStatus s pa n = 3 := by
  classical rw [paStatus_eq, if_neg (not_not_intro hf), if_neg (not_le.2 hp), if_pos h]

theorem paStatus_of_open {s : State} {pa n : Nat} (hf : PaForm pa n) (hp : pa < 2 ^ 39) (h : ¬PaShut s pa n) : paStatus s pa n = 0 := by
  classical rw [paStatus_eq, if_neg (not_not_intro hf), if_neg (not_le.2 hp), if_neg h]

/-! ### MREAD and MWRITE -/

section
variable {s : State} {port : Nat} (ht : tzTakes s port = true)
include ht

/-- A status other than 0 is the whole answer. -/
theorem exec_mread_refused {pa n st : Nat} (h : paStatus s pa n = st) (h0 : st ≠ 0) :
    exec (.mread port pa n) s = .next (tzAnswer port st [] s) := by
  simp [exec_mread, execMread, ht, h, h0]

theorem exec_mread_badLine {pa n : Nat} {b : Word} (h : paStatus s pa n = 0) (hb : badLine s (paSegs pa n) = some b) :
    exec (.mread port pa n) s = .next (tzAnswer port 4 [] s) := by
  simp [exec_mread, execMread, ht, h, hb]

theorem exec_mread_data {pa n : Nat} (h : paStatus s pa n = 0) (hb : badLine s (paSegs pa n) = none) :
    exec (.mread port pa n) s = .next (tzAnswer port 0 (readN s.hbm pa n) (stepSegs .plain none (paSegs pa n) s)) := by
  simp [exec_mread, execMread, ht, h, hb, readSegs_paSegs]

theorem exec_mwrite_refused {pa st : Nat} {data : List Byte} (h : paStatus s pa data.length = st) (h0 : st ≠ 0) :
    exec (.mwrite port pa data) s = .next (tzAnswer port st [] s) := by
  simp [exec_mwrite, execMwrite, ht, h, h0]

/-- An MWRITE that is taken reports uncorrectable lines, meets the home slices and puts its bytes into HBM. -/
theorem exec_mwrite_data {pa : Nat} {data : List Byte} (h : paStatus s pa data.length = 0) : ∃ t : State,
    exec (.mwrite port pa data) s = .next (tzAnswer port 0 [] t) ∧ t.store = s.store ∧ t.hbm = writeN s.hbm pa data := by
  have hsame := sameMemory_reportBad (pa / 2 ^ 36 % 8) (paSegs pa data.length) s
  have hhbm := (stepSegs_paSegs_hbm .store none pa data.length _).trans (congrArg (·.1) hsame)
  refine ⟨writeSegs (stepSegs .store none (paSegs pa data.length) (reportBad (pa / 2 ^ 36 % 8) (paSegs pa data.length) s))
    (paSegs pa data.length) data, by simp [exec_mwrite, execMwrite, ht, h], ?_⟩
  rw [writeSegs_paSegs]
  exact ⟨(stepSegs_paSegs_store .store none pa data.length _).trans (congrArg (·.2.1) hsame), congrArg (writeN · pa data) hhbm⟩

/-! ### APPEND, CREAD, CWRITE and MEASURE -/

theorem exec_append_refused {hdr rcd : Word} {f : FaultInfo} (h : appendCheck s (queueAgent 0 false) hdr rcd = .error f) :
    exec (.append port hdr rcd) s = .next (tzAnswer port (appendStatus f) [] s) := by
  simp [exec_append, execAppend, ht, h]

theorem exec_append_badLine {hdr rcd b : Word} {gs rs : List Seg} {h : QueueHdr}
    (hc : appendCheck s (queueAgent 0 false) hdr rcd = .ok (gs, h, rs)) (hb : badLine s (gs ++ rs) = some b) :
    exec (.append port hdr rcd) s = .next (tzAnswer port 4 [] s) := by
  simp [exec_append, execAppend, ht, hc, hb]

/-- The pair that `appendDo` gives is named before it is taken apart: else the kernel unfolds its sums modulo `2 ^ 64`. -/
theorem exec_append_done {hdr rcd : Word} {gs rs : List Seg} {h : QueueHdr}
    (hc : appendCheck s (queueAgent 0 false) hdr rcd = .ok (gs, h, rs)) (hb : badLine s (gs ++ rs) = none) :
    exec (.append port hdr rcd) s = .next (tzAnswer port 0 (leBytes 8 (appendDo none gs h rs false rcd s).2.toNat)
      (appendDo none gs h rs false rcd s).1) := by
  obtain ⟨⟨t, x⟩, hd⟩ : ∃ r, appendDo none gs h rs false rcd s = r := ⟨_, rfl⟩
  rw [exec_append, execAppend, if_neg (by simp [ht]), hc]
  refine congrArg Host.Outcome.next ((if_neg (by simp [hb])).trans ?_)
  rw [hd]

theorem exec_cread_none {a : Nat} (h : regAt a = none) : exec (.cread port a) s = .next (tzAnswer port 2 [] s) := by
  simp [exec_cread, execCread, ht, h]

theorem exec_cread_some {a : Nat} {r : MReg} (h : regAt a = some r) :
    exec (.cread port a) s = .next (tzAnswer port 0 (leBytes 8 (regRead s r).toNat) s) := by
  simp [exec_cread, execCread, ht, h]

theorem exec_cwrite_none {a : Nat} (x : Word) (h : regAt a = none) : exec (.cwrite port a x) s = .next (tzAnswer port 2 [] s) := by
  simp [exec_cwrite, execCwrite, ht, h]

theorem exec_cwrite_refused {a : Nat} {x : Word} {r : MReg} (h : regAt a = some r) (hr : cwriteRefused r x = true) :
    exec (.cwrite port a x) s = .next (tzAnswer port 5 [] (refusedWrite (regSource r) (BitVec.ofNat 64 a) x s)) := by
  simp [exec_cwrite, execCwrite, ht, h, hr]

theorem exec_cwrite_written {a : Nat} {x : Word} {r : MReg} (h : regAt a = some r) (hr : cwriteRefused r x = false) :
    exec (.cwrite port a x) s = .next (tzAnswer port (if (regWrite r x s).2 then 0 else 5) [] (regWrite r x s).1) := by
  simp [exec_cwrite, execCwrite, ht, h, hr]

theorem exec_measure_booted (nonce : List Byte) (hb : s.sys.booted = true) :
    exec (.measure port nonce) s = .next (sendReport port nonce s) := by
  simp [exec_measure, execMeasure, ht, hb]

/-- MEASURE during boot waits for its end. -/
theorem exec_measure_booting (nonce : List Byte) (hb : s.sys.booted = false) : exec (.measure port nonce) s =
    .next { s with sys := { s.sys with measures := s.sys.measures ++ [(port, nonce)] } } := by
  simp [exec_measure, execMeasure, ht, hb]

end

theorem sendReport_signed {s : State} (port : Nat) (nonce : List Byte) (hk : s.sys.wrapKey = true) (hh : s.sys.keysHeld = false) :
    sendReport port nonce s = tzAnswer port 0 (measureReport s.sys nonce) s := by
  simp [sendReport, hk, hh]

theorem sendReport_keyless {s : State} (port : Nat) (nonce : List Byte) (h : s.sys.wrapKey = false ∨ s.sys.keysHeld = true) :
    sendReport port nonce s = s := by
  rcases h with h | h <;> simp [sendReport, h]

/-! ### The merged stream of error records (R396, R397) -/

/-- The order of the stream: by time, then source, then sequence number. -/
def StreamOrder (r z : ErrRec) : Prop :=
  r.time.ult z.time = true ∨ (r.time = z.time ∧ (r.src < z.src ∨ (r.src = z.src ∧ z.seq.ult r.seq = false)))

theorem recBefore_iff (r z : ErrRec) : recBefore r z = true ↔ r.time.toNat < z.time.toNat ∨
    (r.time.toNat = z.time.toNat ∧ (r.src < z.src ∨ (r.src = z.src ∧ r.seq.toNat < z.seq.toNat))) := by
  simp [recBefore, BitVec.ult, BitVec.toNat_inj]

theorem streamOrder_iff (r z : ErrRec) : StreamOrder r z ↔ r.time.toNat < z.time.toNat ∨
    (r.time.toNat = z.time.toNat ∧ (r.src < z.src ∨ (r.src = z.src ∧ r.seq.toNat ≤ z.seq.toNat))) := by
  simp [StreamOrder, BitVec.ult, BitVec.toNat_inj]

theorem StreamOrder.of_recBefore {r z : ErrRec} (h : recBefore r z = true) : StreamOrder r z := by
  rw [recBefore_iff] at h
  rw [streamOrder_iff]
  omega

theorem StreamOrder.of_not_recBefore {r z : ErrRec} (h : ¬recBefore r z = true) : StreamOrder z r := by
  rw [recBefore_iff] at h
  rw [streamOrder_iff]
  omega

theorem StreamOrder.trans {r y z : ErrRec} (h : StreamOrder r y) (k : StreamOrder y z) : StreamOrder r z := by
  rw [streamOrder_iff] at h k ⊢
  omega

theorem insRec_perm (r : ErrRec) (l : List ErrRec) : (insRec r l).Perm (r :: l) := by
  induction l with
  | nil => exact .refl _
  | cons x xs ih =>
    unfold insRec
    split
    · exact .refl _
    · exact (ih.cons x).trans (.swap r x xs)

theorem insRec_pairwise (r : ErrRec) {l : List ErrRec} (h : l.Pairwise StreamOrder) : (insRec r l).Pairwise StreamOrder := by
  induction l with
  | nil => exact List.pairwise_singleton _ _
  | cons x xs ih =>
    obtain ⟨hx, hxs⟩ := List.pairwise_cons.1 h
    unfold insRec
    split
    case isTrue hr =>
      have hrx := StreamOrder.of_recBefore hr
      exact List.pairwise_cons.2 ⟨List.forall_mem_cons.2 ⟨hrx, fun y hy => hrx.trans (hx y hy)⟩, h⟩
    case isFalse hr =>
      refine List.pairwise_cons.2 ⟨fun y hy => ?_, ih hxs⟩
      rcases List.mem_cons.1 ((insRec_perm r xs).mem_iff.1 hy) with rfl | hy
      · exact .of_not_recBefore hr
      · exact hx y hy

theorem foldl_insRec_perm (rs l : List ErrRec) : (rs.foldl (fun l r => insRec r l) l).Perm (rs ++ l) := by
  induction rs generalizing l with
  | nil => exact .refl l
  | cons r rs ih => exact (ih (insRec r l)).trans (((insRec_perm r l).append_left rs).trans List.perm_middle)

theorem foldl_insRec_pairwise (rs : List ErrRec) {l : List ErrRec} (h : l.Pairwise StreamOrder) :
    (rs.foldl (fun l r => insRec r l) l).Pairwise StreamOrder := by
  induction rs generalizing l with
  | nil => exact h
  | cons r rs ih => exact ih (insRec_pairwise r h)

theorem mergedRecords_perm (s : State) : (mergedRecords s).Perm ((s.dies.toList.flatMap fun d => d.errs) ++ s.sys.crErrs) :=
  (foldl_insRec_perm _ []).trans (.of_eq (List.append_nil _))

theorem mergedRecords_pairwise (s : State) : (mergedRecords s).Pairwise StreamOrder :=
  foldl_insRec_pairwise _ .nil

theorem recordBytes_length (r : ErrRec) : (recordBytes r).length = 64 := by
  simp [recordBytes, List.length_flatMap]

/-! ### RECORDS -/

theorem vget_vmod_same {α : Type} {n : Nat} (d : α) (v : Vector α n) {i : Nat} (f : α → α) (hi : i < n) :
    vget d (vmod v i f) i = f (vget d v i) := by
  simp [vget, vmod, hi]

theorem vget_vmod_other {α : Type} {n : Nat} (d : α) (v : Vector α n) {i j : Nat} (f : α → α) (h : i ≠ j) :
    vget d (vmod v i f) j = vget d v j := by
  unfold vmod
  split
  · simp [vget, h]
  · rfl

/-- A change of every listed element, each listed once. -/
theorem vget_foldl_vmod {α : Type} {n : Nat} (d : α) (f : α → α) {ps : List Nat} (hn : ps.Nodup) {p : Nat} (hp : p < n) (v : Vector α n) :
    vget d (ps.foldl (fun v q => vmod v q f) v) p = if p ∈ ps then f (vget d v p) else vget d v p := by
  induction ps generalizing v with
  | nil => rfl
  | cons q ps ih =>
    obtain ⟨hq, hps⟩ := List.nodup_cons.1 hn
    rw [List.foldl_cons, ih hps]
    by_cases h : p = q
    · subst h
      rw [if_neg hq, if_pos List.mem_cons_self, vget_vmod_same d v f hp]
    · simp [h, vget_vmod_other d v f (Ne.symm h)]

/-- The ports that have asked for the stream, with one more. -/
def askedWith (port : Nat) (ps : List Nat) : List Nat := if ps.contains port then ps else ps ++ [port]

theorem mem_askedWith (port p : Nat) (ps : List Nat) : p ∈ askedWith port ps ↔ p = port ∨ p ∈ ps := by
  unfold askedWith
  split
  case isTrue h =>
    have hm : port ∈ ps := by simpa using h
    exact ⟨.inr, fun h => h.elim (fun e => e ▸ hm) id⟩
  case isFalse => simp [or_comm]

theorem nodup_askedWith (port : Nat) {ps : List Nat} (h : ps.Nodup) : (askedWith port ps).Nodup := by
  unfold askedWith
  split
  case isTrue => exact h
  case isFalse hm => exact List.concat_eq_append ▸ h.concat (by simpa using hm)

/-- What is sent to some port empties every buffer. -/
theorem sendRecords_of_asked {s : State} (h : s.sys.asked ≠ []) : sendRecords s = { s with
    dies := s.dies.map fun d => { d with errs := [] }
    sys := { s.sys with
      crErrs := []
      streams := s.sys.asked.foldl (fun v p => vmod v p fun x => x ++ (mergedRecords s).flatMap recordBytes) s.sys.streams } } := by
  simp [sendRecords, h]

theorem exec_records_of_ge {port : Nat} (s : State) (hp : 2 ≤ port) : exec (.records port) s = .next s := by
  simp [exec_records, execRecords, hp]

theorem exec_records_of_lt {port : Nat} (s : State) (hp : port < 2) : exec (.records port) s =
    .next (sendRecords { s with sys := { s.sys with asked := askedWith port s.sys.asked } }) := by
  simp [exec_records, execRecords, askedWith, hp]

/-- What RECORDS leaves on a port of the module. -/
theorem exec_records_stream {port : Nat} (s : State) (hp : port < 2) : ∃ (t : State) (rs : List ErrRec),
    exec (.records port) s = .next t ∧ (∀ p, p ∈ t.sys.asked ↔ p = port ∨ p ∈ s.sys.asked) ∧ t.sys.crErrs = [] ∧
    (∀ d ∈ t.dies.toList, d.errs = []) ∧ rs.Perm ((s.dies.toList.flatMap fun d => d.errs) ++ s.sys.crErrs) ∧
    rs.Pairwise StreamOrder ∧
    (s.sys.asked.Nodup → ∀ p < 2, vget [] t.sys.streams p = vget [] s.sys.streams p ++ if p ∈ t.sys.asked then rs.flatMap recordBytes else []) ∧
    (∀ r, (recordBytes r).length = 64) ∧ t.me = s.me ∧ t.hbm = s.hbm ∧ t.store = s.store := by
  have hmem := fun p => mem_askedWith port p s.sys.asked
  have hne : askedWith port s.sys.asked ≠ [] := List.ne_nil_of_mem ((hmem port).2 (.inl rfl))
  rw [exec_records_of_lt s hp, sendRecords_of_asked hne]
  refine ⟨_, mergedRecords s, rfl, hmem, rfl, by simp, mergedRecords_perm s, mergedRecords_pairwise s, fun hn p hp2 => ?_,
    recordBytes_length, rfl, rfl, rfl⟩
  refine (vget_foldl_vmod [] _ (nodup_askedWith port hn) hp2 s.sys.streams).trans ?_
  show _ = _ ++ if p ∈ askedWith port s.sys.asked then _ else _
  split
  · rfl
  · rw [List.append_nil]

/-- Settles O54, command by command: the statuses of a physical access in their order, then each answer. -/
theorem tzCommands : Obligations.TzCommands := by
  intro s port pa n a hdr rcd x data nonce ans commands shut form
  refine ⟨fun hh => exec_of_not_tzTakes (tzTakes_of_halted port hh) pa n a hdr rcd x data nonce,
    fun hp => ⟨exec_records_of_ge s hp, exec_of_not_tzTakes (tzTakes_of_ge s hp) pa n a hdr rcd x data nonce⟩,
    fun hp hh => ?_, exec_records_stream s⟩
  have ht := tzTakes_of_lt hp hh
  refine ⟨fun hf => exec_mread_refused ht (paStatus_of_not_form hf) (by decide),
    fun hf => exec_mwrite_refused ht (paStatus_of_not_form hf) (by decide),
    fun hf hpa => exec_mread_refused ht (paStatus_of_ge hf hpa) (by decide),
    fun hf hpa => exec_mwrite_refused ht (paStatus_of_ge hf hpa) (by decide),
    fun hf hpa hs => exec_mread_refused ht (paStatus_of_shut hf hpa hs) (by decide),
    fun hf hpa hs => exec_mwrite_refused ht (paStatus_of_shut hf hpa hs) (by decide),
    fun hf hpa hs ⟨_, hb⟩ => exec_mread_badLine ht (paStatus_of_open hf hpa hs) hb,
    fun hf hpa hs hb => exec_mread_data ht (paStatus_of_open hf hpa hs) hb,
    fun hf hpa hs htidy => ?mwrite,
    fun _ hc => exec_append_refused ht hc,
    fun _ _ _ hc => ⟨fun _ hb => exec_append_badLine ht hc hb, fun hb => exec_append_done ht hc hb⟩,
    fun hr => ⟨exec_cread_none ht hr, exec_cwrite_none ht x hr⟩,
    fun _ hr => ⟨exec_cread_some ht hr, exec_cwrite_refused ht hr, exec_cwrite_written ht hr⟩,
    fun hb hk => ?keyless, fun hb hk hh => ?signed, exec_measure_booting ht nonce⟩
  case mwrite =>
    obtain ⟨t, he, hst, hhbm⟩ := exec_mwrite_data ht (paStatus_of_open hf hpa hs)
    exact ⟨t, he, hst, fun b => by rw [hhbm, getByte_writeN pa b data htidy.1]⟩
  case keyless => rw [exec_measure_booted ht nonce hb, sendReport_keyless port nonce hk]
  case signed => exact (exec_measure_booted ht nonce hb).trans (by rw [sendReport_signed port nonce hk hh])

end Sys2Proof.Machine
end

section
/-! PROOF. Module reset (R25, R215, R220, R316, R335, R364, R366, R391). -/

namespace Sys2Proof.Machine

@[simp] theorem vget_replicate {α : Type} {n i : Nat} (d x : α) (h : i < n) : vget d (Vector.replicate n x) i = x := by
  simp [vget, h]

theorem dieOf_reset {d : Nat} (h : d < 8) : dieOf State.reset d = Die.reset := vget_replicate _ _ h

theorem tidy_reset : State.reset.Tidy :=
  ⟨wf_nil, wf_nil, canon_nil _, canon_nil _, canon_nil _, canon_nil _⟩

/-- Settles O8, field by field: every die, every port, the module's own registers, and the empty maps. -/
theorem resetValues : Obligations.ResetValues := by
  refine ⟨⟨fun d hd => ?dies, rfl, rfl, rfl, by decide, fun p hp => ?ports, rfl, rfl, rfl⟩, tidy_reset, fun _ => ⟨rfl, rfl, rfl⟩⟩
  case dies =>
    rw [dieOf_reset hd]
    exact ⟨rfl, rfl, rfl, rfl⟩
  case ports =>
    have hport : vget Port.reset State.reset.fab.ports p = Port.reset := vget_replicate _ _ hp
    rw [hport]
    exact ⟨rfl, by decide⟩

end Sys2Proof.Machine
end

section
/-! PROOF. Register files (R14, R25, R237, R238, R264, R265, R344): what reads give after writes. -/

namespace Sys2Proof.Machine

/-- A register of a file after one of it was set. -/
theorem getElem_set_fin {α : Type} {n : Nat} (v : Vector α n) (r q : Fin n) (x : α) : (v.set r x)[q] = if q = r then x else v[q] := by
  by_cases hq : q = r
  · subst hq
    simp
  · have hv : r.val ≠ q.val := fun h => hq (Fin.ext h.symm)
    simp [hq, hv]

/-! ### A result in its register -/

section
variable (g : Regs)

theorem applyReg_s {r : SReg} (hr : r ≠ 0) (x : Word) : applyReg (.s r x) g = { g with s := g.s.set r x } :=
  if_neg fun h => hr (Fin.ext h)

theorem applyReg_m {r : Sys2Proof.MReg} (hr : r ≠ 0) (x : BitVec 1024) : applyReg (.m r x) g = { g with m := g.m.set r x } :=
  if_neg fun h => hr (Fin.ext h)

/-- One predicate is one bit of the sixteen. -/
theorem getLsbD_predBit (r q : PReg) : (BitVec.ofNat 16 (2 ^ r.val)).getLsbD q.val = decide (q = r) := by
  rw [BitVec.getLsbD_ofNat, Nat.testBit_two_pow, decide_eq_true q.isLt, Bool.true_and]
  exact decide_eq_decide.2 (eq_comm.trans Fin.ext_iff.symm)

theorem applyReg_p_getLsbD {r : PReg} (hr : r ≠ 0) (q : PReg) (b : Bool) :
    (applyReg (.p r b) g).p.getLsbD q.val = if q = r then b else g.p.getLsbD q.val := by
  have hp : (applyReg (.p r b) g).p =
      if b then g.p ||| BitVec.ofNat 16 (2 ^ r.val) else g.p &&& ~~~(BitVec.ofNat 16 (2 ^ r.val)) :=
    congrArg Regs.p (if_neg fun h => hr (Fin.ext h))
  rw [hp]
  cases b
  case false =>
    rw [if_neg Bool.false_ne_true, BitVec.getLsbD_and, BitVec.getLsbD_not, getLsbD_predBit]
    by_cases hq : q = r <;> simp [hq, -BitVec.getLsbD_eq_getElem]
  case true =>
    rw [if_pos rfl, BitVec.getLsbD_or, getLsbD_predBit]
    by_cases hq : q = r <;> simp [hq]

end

/-! ### It is what the register reads, and no other register of the class reads otherwise than before -/

section
variable (s : State)

theorem rdS_modRegs_s {r : SReg} (hr : r ≠ 0) (q : SReg) (x : Word) :
    rdS (modRegs (applyReg (.s r x)) s) q = if q = r then x else rdS s q := by
  by_cases hq : q.val = 0
  · rw [if_neg fun h : q = r => hr (h ▸ Fin.ext hq), rdS, rdS, if_pos hq, if_pos hq]
  · rw [rdS, rdS, if_neg hq, if_neg hq, modRegs_me, applyReg_s _ hr]
    exact getElem_set_fin _ _ _ _

theorem rdP_modRegs_p {r : PReg} (hr : r ≠ 0) (q : PReg) (b : Bool) :
    rdP (modRegs (applyReg (.p r b)) s) q = if q = r then b else rdP s q := by
  by_cases hq : q.val = 0
  · rw [if_neg fun h : q = r => hr (h ▸ Fin.ext hq), rdP, rdP, if_pos hq, if_pos hq]
  · rw [rdP, rdP, if_neg hq, if_neg hq]
    exact applyReg_p_getLsbD _ hr q b

theorem rdM_modRegs_m {r : Sys2Proof.MReg} (hr : r ≠ 0) (q : Sys2Proof.MReg) (x : BitVec 1024) :
    rdM (modRegs (applyReg (.m r x)) s) q = if q = r then x else rdM s q := by
  by_cases hq : q.val = 0
  · rw [if_neg fun h : q = r => hr (h ▸ Fin.ext hq), rdM, rdM, if_pos hq, if_pos hq]
  · rw [rdM, rdM, if_neg hq, if_neg hq, modRegs_me, applyReg_m _ hr]
    exact getElem_set_fin _ _ _ _

theorem rdK_modRegs_k (r q : KReg) (x : Word) : rdK (modRegs (applyReg (.k r x)) s) q = if q = r then x else rdK s q :=
  getElem_set_fin _ _ _ _

theorem rdV_modRegs_v (r q : VReg) (data mask : BitVec 8192) (t : Tag) : rdV (modRegs (applyReg (.v r data mask (some t))) s) q =
    if q = r then ⟨((rdV s r).bits &&& ~~~mask) ||| (data &&& mask), t⟩ else rdV s q :=
  getElem_set_fin _ _ _ _

end

/-- Bits merged under a mask. -/
theorem getLsbD_merge (o data mask : BitVec 8192) {j : Nat} (hj : j < 8192) :
    ((o &&& ~~~mask) ||| (data &&& mask)).getLsbD j = if mask.getLsbD j = true then data.getLsbD j else o.getLsbD j := by
  rw [BitVec.getLsbD_or, BitVec.getLsbD_and, BitVec.getLsbD_and, BitVec.getLsbD_not]
  cases mask.getLsbD j <;> simp [hj, -BitVec.getLsbD_eq_getElem]

theorem tileOf_modTile {t : Nat} (ht : t < 8) (q : Nat) (f : Tile → Tile) (c : Ctx) :
    tileOf (modTile t f c) q = if q = t then f (tileOf c q) else tileOf c q := by
  by_cases hq : q = t
  · subst hq
    rw [if_pos rfl]
    exact vget_vmod_same _ _ f ht
  · rw [if_neg hq]
    exact vget_vmod_other _ _ f (Ne.symm hq)

/-! ### Reading a descriptor changes no register -/

theorem modCtx_regs {f : Ctx → Ctx} (hf : ∀ c, (f c).regs = c.regs) (u : Nat) (s : State) : (modCtx u f s).me.regs = s.me.regs := by
  unfold modCtx
  split
  · exact hf s.me
  · rfl

theorem recordFault_regs (u : Nat) (f : FaultInfo) (s : State) : (recordFault u f s).me.regs = s.me.regs := by
  unfold recordFault
  split
  · rfl
  · exact modCtx_regs (f := fun c => { c with sq := { c.sq with faults := c.sq.faults ++ [f] } }) (fun _ => rfl) u s

theorem errRecord_me (src cls code : Nat) (d : List Word) (s : State) : (errRecord src cls code d s).me = s.me := by
  unfold errRecord
  split
  · rfl
  · dsimp only
    split <;> rfl

theorem homeEvent_regs (c : Nat) (u : Option Nat) (va : Word) (pa : Nat) (s : State) : (homeEvent c u va pa s).me.regs = s.me.regs := by
  unfold homeEvent
  extract_lets d s1 s2
  have h2 : s2.me = s.me := by
    show (ite _ _ _ : State).me = _
    split
    · exact errRecord_me _ _ _ _ _
    · rfl
  split
  · split
    · exact (recordFault_regs _ _ _).trans (congrArg Ctx.regs h2)
    · exact congrArg Ctx.regs h2
  · exact congrArg Ctx.regs h2

theorem stepHome_regs (k : LineAcc) (u : Option Nat) (va : Word) (pa : Nat) (s : State) : (stepHome k u va pa s).me.regs = s.me.regs := by
  unfold stepHome
  rcases homeNext k (homeAt s pa) with ⟨h, _ | c⟩
  · rfl
  · exact homeEvent_regs _ _ _ _ _

theorem stepLine_me (k : LineAcc) (x : Nat) (s : State) : (stepLine k x s).me = s.me := by
  unfold stepLine
  split
  · rfl
  · rw [setLine_me]
    split <;> rfl

theorem stepLines_me (k : LineAcc) (b : PailBy) (a n : Nat) (s : State) : (stepLines k b a n s).me = s.me := by
  unfold stepLines pailNotice
  rw [modDie_me]
  exact foldl_field_eq State.me _ (fun s x => stepLine_me k x s) _ s

theorem stepSegs_regs (k : LineAcc) (u : Option Nat) (gs : List Seg) (s : State) : (stepSegs k u gs s).me.regs = s.me.regs := by
  unfold stepSegs stepSegsBy
  refine foldl_field_eq (fun s => s.me.regs) _ (fun s g => ?_) gs s
  split
  · exact congrArg Ctx.regs (stepLines_me _ _ _ _ _)
  · exact foldl_field_eq (fun s => s.me.regs) _ (fun s x => stepHome_regs _ _ _ _ _) _ s

theorem touchDesc_regs (gs : List Seg) (s : State) : (touchDesc gs s).me.regs = s.me.regs := stepSegs_regs _ _ _ _

/-- The registers after a slot that changes them at issue and leaves no result in flight. -/
theorem regs_of_emit_modRegs {s t : State} (h : t.me.regs = s.me.regs) {o : Out} {f : Regs → Regs}
    (ho : o = .next (emit 1 .none 0 (modRegs f t))) : ∃ u, o = .next u ∧ u.me.regs = f s.me.regs :=
  ⟨_, ho, congrArg f h⟩

/-! ### `mset`, `lset`, `mord` (R264, R265, R344) -/

section
variable {s : State} {n : Ix8} {a : SReg} {gs : List Seg} {bs : List Byte}

theorem exec_mset_regs (hd : readDesc s (rdS s a) 64 64 = .ok (gs, bs)) (hok : mapOk (BitVec.ofNat 512 (leNat bs)) = true) :
    ∃ t, exec (.mset n a) s = .next t ∧
      t.me.regs = { s.me.regs with mp := s.me.regs.mp.set n ⟨BitVec.ofNat 512 (leNat bs), []⟩ } :=
  regs_of_emit_modRegs (f := fun r => { r with mp := r.mp.set n ⟨BitVec.ofNat 512 (leNat bs), []⟩ }) (touchDesc_regs gs s)
    (by simp [exec_mset, execMset, hd, hok, failIf])

theorem exec_lset_regs (hd : readDesc s (rdS s a) 64 64 = .ok (gs, bs)) (hok : layOk s (BitVec.ofNat 512 (leNat bs)) = true) :
    ∃ t, exec (.lset n a) s = .next t ∧
      t.me.regs = { s.me.regs with lay := s.me.regs.lay.set n (BitVec.ofNat 512 (leNat bs)) } :=
  regs_of_emit_modRegs (f := fun r => { r with lay := r.lay.set n (BitVec.ofNat 512 (leNat bs)) }) (touchDesc_regs gs s)
    (by simp [exec_lset, execLset, hd, hok, failIf])

/-- A raster table of `k` entries. -/
def rasterOf (k : Nat) (bs : List Byte) : List (BitVec 32) :=
  (List.range k).map fun i => BitVec.ofNat 32 (leNat ((bs.drop (4 * i)).take 4))

theorem exec_mord_regs {c : SReg} (h0 : (rdS s c).toNat ≠ 0) (h64 : (rdS s c).toNat ≤ 64)
    (hv : s.me.regs.mp[n].bits.getLsbD 71 = true) (hd : readDesc s (rdS s a) 4 (4 * (rdS s c).toNat) = .ok (gs, bs)) :
    ∃ t, exec (.mord n a c) s = .next t ∧ t.me.regs = { s.me.regs with
      mp := s.me.regs.mp.set n ⟨setNq s.me.regs.mp[n].bits (rdS s c).toNat, rasterOf (rdS s c).toNat bs⟩ } := by
  have hcheck : failIf (decide ((rdS s c).toNat > 64) || (decide ((rdS s c).toNat ≠ 0) && !s.me.regs.mp[n].bits.getLsbD 71))
      (fault 0x02 0 (rdS s c)) = none := by
    rw [hv, decide_eq_false (not_lt.2 h64)]
    simp [failIf]
  refine regs_of_emit_modRegs (touchDesc_regs gs s)
    (f := fun r => { r with mp := r.mp.set n ⟨setNq r.mp[n].bits (rdS s c).toNat, rasterOf (rdS s c).toNat bs⟩ }) ?_
  simp only [exec_mord, execMord, hcheck, checked_none, if_neg h0, hd, tryWith_ok, rasterOf]

end

/-- NQ is bits 72 to 78. -/
theorem getLsbD_setNq (x : BitVec 512) (k : Nat) {j : Nat} (hj : j < 512) :
    (setNq x k).getLsbD j = if 72 ≤ j ∧ j < 79 then k.testBit (j - 72) else x.getLsbD j := by
  rw [setNq, BitVec.getLsbD_or, BitVec.getLsbD_and, BitVec.getLsbD_not, BitVec.getLsbD_ofNat, BitVec.getLsbD_ofNat,
    Nat.testBit_mul_two_pow, Nat.testBit_mul_two_pow, show 127 = 2 ^ 7 - 1 from rfl, Nat.testBit_two_pow_sub_one,
    show 128 = 2 ^ 7 from rfl, Nat.testBit_mod_two_pow]
  by_cases h : 72 ≤ j ∧ j < 79
  · have h7 : j - 72 < 7 := by omega
    simp [h, h7, hj]
  · rcases not_and_or.1 h with h1 | h1
    · simp [h1, hj, -BitVec.getLsbD_eq_getElem]
    · simp [h1, show ¬j - 72 < 7 by omega, hj, -BitVec.getLsbD_eq_getElem]

theorem mapNq_setNq (x : BitVec 512) {k : Nat} (hk : k < 128) : mapNq (setNq x k) = k := by
  refine (Nat.eq_of_testBit_eq fun i => ?_ : mapNq (setNq x k) = k % 2 ^ 7).trans (Nat.mod_eq_of_lt hk)
  rw [mapNq, fld, Nat.testBit_mod_two_pow, Nat.testBit_div_two_pow, Nat.testBit_mod_two_pow, BitVec.testBit_toNat]
  by_cases h : i < 7
  · rw [getLsbD_setNq x k (by omega), if_pos (by omega), Nat.add_sub_cancel]
  · simp [h]

/-! ### `pdef` and `pdef.rel` (R237, R238) -/

/-- What `pdef` sets in a register: bit 31 and fields below it. -/
theorem pailReg_eq (x : BitVec 256) (die e gen : Nat) :
    ∃ k, 2 ^ 31 ≤ k ∧ k < 2 ^ 32 ∧ pailReg x die e gen = x ||| BitVec.ofNat 256 k :=
  ⟨_, by omega, by omega, rfl⟩

theorem pailReg_shift (x : BitVec 256) (die e gen : Nat) : pailReg x die e gen >>> 136 = x >>> 136 := by
  obtain ⟨k, -, hk, he⟩ := pailReg_eq x die e gen
  have h0 : BitVec.ofNat 256 k >>> 136 = 0#256 := by
    refine BitVec.eq_of_toNat_eq ?_
    rw [BitVec.toNat_ushiftRight, BitVec.toNat_ofNat, Nat.shiftRight_eq_div_pow]
    exact Nat.div_eq_of_lt (by omega)
  rw [he, BitVec.ushiftRight_or_distrib, h0, BitVec.or_zero]

theorem pailReg_getLsbD (x : BitVec 256) (die e gen : Nat) : (pailReg x die e gen).getLsbD 31 = true := by
  obtain ⟨k, hlo, hk, he⟩ := pailReg_eq x die e gen
  have h1 : (BitVec.ofNat 256 k).getLsbD 31 = true := by
    rw [BitVec.getLsbD_ofNat, Nat.testBit_eq_decide_div_mod_eq]
    simpa using (by omega : k / 2 ^ 31 % 2 = 1)
  rw [he, BitVec.getLsbD_or, h1, Bool.or_true]

theorem doPail_me (l : Nat) (p : PailDesc) (plan : PailPlan) (s : State) : (doPail l p plan s).1.me = s.me := by
  cases plan with
  | same e g => rfl
  | make e =>
    show (makePail l p e s).me = s.me
    unfold makePail
    exact foldl_field_eq State.me _ (fun s a => setLine_me a .empty s) _ _

theorem exec_pdef_regs {s : State} {n : Ix8} {a : SReg} {gs : List Seg} {bs : List Byte} {plan : PailPlan}
    (hd : readDesc s (rdS s a) 32 32 = .ok (gs, bs)) (hok : pailFieldsOk (BitVec.ofNat 256 (leNat bs)) = true)
    (hp : pailPlan s s.me.lnch (pailDesc (BitVec.ofNat 256 (leNat bs))) (rdS s a) = .ok plan) :
    ∃ die e gen t, exec (.pdef n a) s = .next t ∧
      t.me.regs = { s.me.regs with pl := s.me.regs.pl.set n (pailReg (BitVec.ofNat 256 (leNat bs)) die e gen) } := by
  obtain ⟨⟨u, e, gen⟩, hu⟩ : ∃ r, doPail s.me.lnch (pailDesc (BitVec.ofNat 256 (leNat bs))) plan (touchDesc gs s) = r := ⟨_, rfl⟩
  have hme : u.me = (touchDesc gs s).me := (congrArg (·.1.me) hu).symm.trans (doPail_me _ _ _ _)
  refine ⟨(pailDesc (BitVec.ofNat 256 (leNat bs))).base / 2 ^ 28, e, gen, ?_⟩
  exact regs_of_emit_modRegs ((congrArg Ctx.regs hme).trans (touchDesc_regs gs s))
    (f := fun r => { r with pl := r.pl.set n (pailReg (BitVec.ofNat 256 (leNat bs)) _ e gen) })
    (by simp [exec_pdef, execPdef, hd, hok, hp, hu, failIf])

theorem exec_pdefRel_regs {s : State} {n : Ix8} (h : (pailOf s s.me.regs.pl[n]).isSome = true) :
    ∃ t, exec (.pdefRel n) s = .next t ∧ t.me.regs = { s.me.regs with pl := s.me.regs.pl.set n 0 } := by
  obtain ⟨q, hq⟩ := Option.isSome_iff_exists.1 h
  exact regs_of_emit_modRegs (t := freePailEntry (fld s.me.regs.pl[n].toNat 23 3) q.entry s) (f := fun r => { r with pl := r.pl.set n 0 }) rfl
    (by rw [exec_pdefRel, execPdefRel, hq])

/-! ### Control registers (R25) -/

/-- A value that fits the field it is stored in reads back. -/
theorem setWidth_ofNat_toNat {w : Nat} {y : Word} (hy : y.toNat < 2 ^ w) : (BitVec.ofNat w y.toNat).setWidth 64 = y := by
  refine BitVec.eq_of_toNat_eq ?_
  rw [BitVec.toNat_setWidth, BitVec.toNat_ofNat, Nat.mod_eq_of_lt hy, Nat.mod_eq_of_lt y.isLt]

theorem toNat_and_ofNat_lt (x : Word) {m w : Nat} (hm : m < 2 ^ w) : (x &&& BitVec.ofNat 64 m).toNat < 2 ^ w := by
  rw [BitVec.toNat_and, BitVec.toNat_ofNat]
  exact (Nat.and_le_right.trans (Nat.mod_le _ _)).trans_lt hm

/-- A stored control register reads back the part of it that is stored. -/
theorem csrRead_applyUpd_csr {n : Nat} (hn : n ∈ [1, 2, 3, 4, 5, 6, 8, 9]) (s : State) (x : Word) :
    csrRead { s with me := applyUpd (.csr n (x &&& csrRW n)) s.me } n = x &&& csrRW n := by
  have hkind : n ∈ [1, 2, 3, 4, 5, 6] ∨ n = 8 ∨ n = 9 := by simpa [or_assoc] using hn
  rcases hkind with hwhole | rfl | rfl
  · simp only [List.mem_cons, List.not_mem_nil, or_false] at hwhole
    rcases hwhole with rfl | rfl | rfl | rfl | rfl | rfl <;> rfl
  · exact setWidth_ofNat_toNat (toNat_and_ofNat_lt x (by decide))
  · exact setWidth_ofNat_toNat (toNat_and_ofNat_lt x (by decide))

/-- The fields that each control register is not stored in. -/
theorem applyCsr_frame (n : Nat) (x : Word) (k : Ctl) :
    (n ≠ 0 → (applyCsr n x k).wovf = k.wovf ∧ (applyCsr n x k).slot = k.slot) ∧ (n ≠ 1 → (applyCsr n x k).xpc = k.xpc) ∧
    (n ≠ 2 → (applyCsr n x k).xcause = k.xcause) ∧ (n ≠ 3 → (applyCsr n x k).xaddr = k.xaddr) ∧
    (n ≠ 4 → (applyCsr n x k).xvec = k.xvec) ∧ (n ≠ 5 → (applyCsr n x k).xrec = k.xrec) ∧ (n ≠ 6 → (applyCsr n x k).xstk = k.xstk) ∧
    (n ≠ 8 → (applyCsr n x k).vflags = k.vflags) ∧ (n ≠ 9 → (applyCsr n x k).vmode = k.vmode) ∧
    (applyCsr n x k).handler = k.handler ∧ (applyCsr n x k).dictb = k.dictb := by
  unfold applyCsr
  split <;> simp

/-- No other control register reads otherwise than before. -/
theorem csrRead_applyUpd_csr_other {n q : Nat} (hq : q ≠ n) (s : State) (x : Word) :
    csrRead { s with me := applyUpd (.csr n x) s.me } q = csrRead s q := by
  obtain ⟨hstat, hxpc, hxcause, hxaddr, hxvec, hxrec, hxstk, hvflags, hvmode, hhandler, hdictb⟩ := applyCsr_frame n x s.me.ctl
  show csrRead (modCtl (applyCsr n x) s) q = csrRead s q
  unfold csrRead
  split
  · obtain ⟨hwovf, hslot⟩ := hstat hq.symm
    simp [xstat, hwovf, hslot, hhandler]
  · exact hxpc hq.symm
  · exact hxcause hq.symm
  · exact hxaddr hq.symm
  · exact hxvec hq.symm
  · exact hxrec hq.symm
  · exact hxstk hq.symm
  · exact congrArg (BitVec.setWidth 64) (hvflags hq.symm)
  · exact congrArg (BitVec.setWidth 64) (hvmode hq.symm)
  case h_17 => exact hdictb
  all_goals rfl

theorem bits_xstat_slot (c : Ctx) : bits (xstat c) 22 3 = c.ctl.slot.toNat := by
  have hw := Bool.toNat_le c.world
  have hh := Bool.toNat_le c.ctl.handler
  have hs := c.ctl.slot.isLt
  rw [bits, fld, xstat, BitVec.toNat_ofNat]
  omega

/-- `XSTAT` reads the SLOT written. -/
theorem bits_csrRead_xstat (s : State) (x : Word) :
    bits (csrRead { s with me := applyUpd (.csr 0 x) s.me } 0) 22 3 = bits x 22 3 := by
  refine (bits_xstat_slot _).trans ?_
  show (BitVec.ofNat 3 (bits x 22 3)).toNat = bits x 22 3
  rw [BitVec.toNat_ofNat, bits, fld, Nat.mod_mod]

/-- Settles O9, class by class. -/
theorem registerFiles : Obligations.RegisterFiles := by
  refine ⟨fun s g x b m => ⟨rdS_zero s, rdP_zero s, rdM_zero s, rfl, rfl, rfl⟩, fun s x b m => ?_⟩
  intro put
  refine ⟨fun r q hr => rdS_modRegs_s s hr q x, fun r q hr => rdP_modRegs_p s hr q b, fun r q hr => rdM_modRegs_m s hr q m,
    fun r q => rdK_modRegs_k s r q x, fun r q data mask t => ?vec, fun t q f ht => tileOf_modTile ht q f s.me,
    fun n q a c gs bs => ?descs, fun n q hn => ⟨csrRead_applyUpd_csr hn s x, fun hq => csrRead_applyUpd_csr_other hq s _⟩,
    fun q => ⟨bits_csrRead_xstat s x, fun hq => csrRead_applyUpd_csr_other hq s x⟩⟩
  case vec =>
    have hv : rdV (put (.v r data mask (some t))) q = _ := rdV_modRegs_v s r q data mask t
    rw [hv]
    by_cases hq : q = r
    · subst hq
      exact ⟨by simp, fun j hj => by simpa using getLsbD_merge (rdV s q).bits data mask hj⟩
    · simp [hq]
  case descs =>
    intro g
    refine ⟨fun hd => ⟨fun hok => ?mset, fun hok => ?lset⟩, fun k hk h0 h64 hv hd => ?mord, fun plan hd hok hp => ?pdef, fun hp => ?rel⟩
    case mset =>
      obtain ⟨t, ht, hr⟩ := exec_mset_regs (n := n) hd hok
      exact ⟨t, ht, by rw [hr], by rw [hr], by rw [hr]; exact getElem_set_fin _ _ _ _⟩
    case lset =>
      obtain ⟨t, ht, hr⟩ := exec_lset_regs (n := n) hd hok
      exact ⟨t, ht, by rw [hr], by rw [hr], by rw [hr]; exact getElem_set_fin _ _ _ _⟩
    case mord =>
      subst hk
      obtain ⟨t, ht, hr⟩ := exec_mord_regs h0 h64 hv hd
      refine ⟨t, ⟨setNq g.mp[n].bits (rdS s c).toNat, rasterOf (rdS s c).toNat bs⟩, ht, by rw [hr], by rw [hr],
        by rw [hr]; exact getElem_set_fin _ _ _ _, rfl, mapNq_setNq _ (by omega), fun j hj => ?_⟩
      by_cases hlt : j < 512
      · rw [getLsbD_setNq _ _ hlt, if_neg (by omega)]
      · rw [BitVec.getLsbD_of_ge _ _ (not_lt.1 hlt), BitVec.getLsbD_of_ge _ _ (not_lt.1 hlt)]
    case pdef =>
      obtain ⟨die, e, gen, t, ht, hr⟩ := exec_pdef_regs (n := n) hd hok hp
      exact ⟨t, _, ht, by rw [hr], by rw [hr], by rw [hr]; exact getElem_set_fin _ _ _ _,
        pailReg_shift _ die e gen, pailReg_getLsbD _ die e gen⟩
    case rel =>
      obtain ⟨t, ht, hr⟩ := exec_pdefRel_regs hp
      exact ⟨t, ht, by rw [hr], by rw [hr], by rw [hr]; exact getElem_set_fin _ _ _ _⟩

end Sys2Proof.Machine
end

section
/-! PROOF. Control registers (R24 to R27, R46, R103, R256): the value a `csrw` forms, and what `csrr` and `csrw` do. -/

namespace Sys2Proof.Machine

/-! ### Bit fields of words -/

theorem bits_eq_extractLsb' (x : Word) (lo w : Nat) : bits x lo w = (x.extractLsb' lo w).toNat := by
  simp [bits, fld, Nat.shiftRight_eq_div_pow]

/-! ### The value formed, bit by bit (R103) -/

/-- No bit has two access classes. -/
theorem csrRW_and_csrW1C (n : Nat) : csrRW n &&& csrW1C n = 0 := by
  unfold csrW1C
  split
  · decide
  · exact BitVec.and_zero

/-- A bit is RW, W1C or neither. -/
theorem csrBit_cases (n j : Nat) : (csrRW n).getLsbD j = true ∧ (csrW1C n).getLsbD j = false ∨
    (csrRW n).getLsbD j = false ∧ (csrW1C n).getLsbD j = true ∨ (csrRW n).getLsbD j = false ∧ (csrW1C n).getLsbD j = false := by
  have hand := congrArg (·.getLsbD j) (csrRW_and_csrW1C n)
  simp only [BitVec.getLsbD_and, BitVec.ofNat_eq_ofNat, BitVec.getLsbD_zero, Bool.and_eq_false_iff] at hand
  grind

section
variable (n : Nat) (old w : Word) {j : Nat} (hj : j < 64)
include hj

theorem getLsbD_csrForm_write : (csrForm .write n old w).getLsbD j =
    if (csrRW n).getLsbD j then w.getLsbD j
    else if (csrW1C n).getLsbD j && !(csrRW n).getLsbD j then old.getLsbD j && !w.getLsbD j else old.getLsbD j := by
  unfold csrForm
  rcases csrBit_cases n j with ⟨hr, hw⟩ | ⟨hr, hw⟩ | ⟨hr, hw⟩ <;>
    simp [BitVec.getLsbD_or, BitVec.getLsbD_and, BitVec.getLsbD_not, hr, hw, hj, -BitVec.getLsbD_eq_getElem]

theorem getLsbD_csrForm_set : (csrForm .set n old w).getLsbD j =
    if (csrRW n).getLsbD j then old.getLsbD j || w.getLsbD j else old.getLsbD j := by
  unfold csrForm
  rcases csrBit_cases n j with ⟨hr, hw⟩ | ⟨hr, hw⟩ | ⟨hr, hw⟩ <;>
    simp [BitVec.getLsbD_or, BitVec.getLsbD_and, BitVec.getLsbD_not, hr, hw, hj, -BitVec.getLsbD_eq_getElem]

theorem getLsbD_csrForm_clear : (csrForm .clear n old w).getLsbD j =
    if (csrRW n).getLsbD j || (csrW1C n).getLsbD j && !(csrRW n).getLsbD j then old.getLsbD j && !w.getLsbD j else old.getLsbD j := by
  unfold csrForm
  rcases csrBit_cases n j with ⟨hr, hw⟩ | ⟨hr, hw⟩ | ⟨hr, hw⟩ <;>
    simp [BitVec.getLsbD_or, BitVec.getLsbD_and, BitVec.getLsbD_not, hr, hw, hj, -BitVec.getLsbD_eq_getElem]

end

/-! ### `XSTAT.SLOT` (R25) -/

theorem csrNew_of_slot_le {op : CsrOp} {n : Nat} {old w : Word} (h : n ≠ 0 ∨ bits (csrForm op n old w) 22 3 ≤ 5) :
    csrNew op n old w = csrForm op n old w := by
  refine if_neg ?_
  simp only [gt_iff_lt, Bool.and_eq_true, decide_eq_true_eq]
  omega

/-- A SLOT of 6 or 7 is written as 5. -/
theorem slotField_of_lt {v : Word} (h : 5 < bits v 22 3) :
    slotField 0 v = (v &&& ~~~0x01C00000) ||| BitVec.ofNat 64 (5 * 2 ^ 22) := by
  simp [slotField, h]

/-- The bits of SLOT are 22 to 24, and 5 sets two of them. -/
theorem getLsbD_slotFive (v : Word) {j : Nat} (hj : j < 64) :
    ((v &&& ~~~0x01C00000) ||| BitVec.ofNat 64 (5 * 2 ^ 22)).getLsbD j =
      if j = 22 ∨ j = 24 then true else if j = 23 then false else v.getLsbD j := by
  have hmask : ∀ j < 64, (~~~0x01C00000 : Word).getLsbD j = !decide (22 ≤ j ∧ j ≤ 24) := by decide
  have hfive : ∀ j < 64, (BitVec.ofNat 64 (5 * 2 ^ 22)).getLsbD j = decide (j = 22 ∨ j = 24) := by decide
  rw [BitVec.getLsbD_or, BitVec.getLsbD_and, hmask j hj, hfive j hj]
  by_cases h : 22 ≤ j ∧ j ≤ 24
  · obtain rfl | rfl | rfl : j = 22 ∨ j = 23 ∨ j = 24 := by omega
    all_goals simp
  · rw [if_neg (by omega), if_neg (by omega)]
    simp [h, show ¬(j = 22 ∨ j = 24) by omega]

theorem bits_slotField_of_lt {v : Word} (h : 5 < bits v 22 3) : bits (slotField 0 v) 22 3 = 5 := by
  rw [slotField_of_lt h, bits_eq_extractLsb']
  refine congrArg BitVec.toNat (?_ : _ = (5 : BitVec 3))
  refine BitVec.eq_of_getLsbD_eq fun i hi => ?_
  rw [BitVec.getLsbD_extractLsb', getLsbD_slotFive v (by omega)]
  obtain rfl | rfl | rfl : i = 0 ∨ i = 1 ∨ i = 2 := by omega
  all_goals rfl

theorem getLsbD_slotField_of_lt {v : Word} (h : 5 < bits v 22 3) {j : Nat} (hj : j < 64) (hout : j < 22 ∨ 25 ≤ j) :
    (slotField 0 v).getLsbD j = v.getLsbD j := by
  rw [slotField_of_lt h, getLsbD_slotFive v hj, if_neg (by omega), if_neg (by omega)]

/-! ### The checks of a `csrw` (R24, R27) -/

/-- The instruction of each form. -/
def csrInstr (op : CsrOp) (n : BitVec 12) (a : SReg) : Instr :=
  match op with | .write => .csrw n a | .set => .csrwSet n a | .clear => .csrwClr n a

theorem exec_csrInstr (op : CsrOp) (n : BitVec 12) (a : SReg) (s : State) : exec (csrInstr op n a) s = .next (csrWrite op n a s) := by
  cases op <;> rfl

/-- A handler field would change in user mode (R24). -/
def CsrForbidden (s : State) (n : Nat) (v : Word) : Prop := s.me.ctl.handler = false ∧ (csrRead s n ^^^ v) &&& csrHandler n ≠ 0

theorem csrCheck_of_forbidden {s : State} {n : Nat} {v : Word} (h : CsrForbidden s n v) :
    csrCheck s n v = some (fault 0x0C 0 (BitVec.ofNat 64 n)) := by
  obtain ⟨hh, hx⟩ := h
  have hb : (!s.me.ctl.handler && decide ((csrRead s n ^^^ v) &&& csrHandler n ≠ 0)) = true := by simpa [hh] using hx
  unfold csrCheck
  rw [hb]
  rfl

/-- Otherwise only a tile configuration is checked (R27). -/
theorem csrCheck_of_not_forbidden {s : State} {n : Nat} {v : Word} (h : ¬CsrForbidden s n v) :
    csrCheck s n v = if (csrTile n).isSome && !cfgOk v then some (fault 0x02 0 v) else none := by
  have hb : (!s.me.ctl.handler && decide ((csrRead s n ^^^ v) &&& csrHandler n ≠ 0)) = false := by
    simpa [CsrForbidden, and_comm] using h
  unfold csrCheck
  rw [hb]
  cases (csrTile n).isSome && !cfgOk v <;> rfl

/-! ### A tile configuration at its place in the tile order (R27, R46, R256) -/

/-- A tile whose configuration is written, at its place and at issue. -/
def setCfg (v : Word) (x : Tile) : Tile := { x with cfg := v, icfg := v, ver := x.ver + 1 }

theorem modTile_modTile (t : Nat) (f g : Tile → Tile) (c : Ctx) : modTile t f (modTile t g c) = modTile t (f ∘ g) c := by
  unfold modTile vmod
  split <;> simp

theorem tileOf_modTile_icfg {f : Tile → Tile} (hf : ∀ x, (f x).icfg = x.icfg) (t : Nat) (c : Ctx) :
    (tileOf (modTile t f c) t).icfg = (tileOf c t).icfg := by
  unfold tileOf modTile
  by_cases h : t < 8
  · rw [vget_vmod_same _ _ _ h, hf]
  · simp [vmod, h]

/-- Configuring a tile at its place and setting the issued value are one change of the tile. -/
theorem setIcfg_configure (t : Nat) (v : Word) (s : State) :
    setIcfg t (fun _ => v) { s with me := modTile t (configure v) s.me } =
      { s with me := { modTile t (setCfg v) s.me with sq := { s.me.sq with
          cfgWas := if s.me.sq.cfgWas.any (fun x => x.1 = t) then s.me.sq.cfgWas else (t, (tileOf s.me t).icfg) :: s.me.sq.cfgWas
          tagLate := s.me.sq.tagLate.filter fun x => x.1 ≠ t } } } := by
  unfold setIcfg
  simp only [modTile_modTile, tileOf_modTile_icfg (f := configure v) (fun _ => rfl)]
  rfl

/-- Settles O16: the value by the classes of its bits, `csrr` as it reads, and `csrw` by the first check that fails. -/
theorem csrMoves : Obligations.CsrMoves := by
  refine ⟨fun n old w j hj => ?value, fun s d a n op => ?moves⟩
  case value =>
    refine ⟨getLsbD_csrForm_write n old w hj, getLsbD_csrForm_set n old w hj, getLsbD_csrForm_clear n old w hj,
      fun op => ⟨csrNew_of_slot_le, ?_⟩⟩
    rintro rfl h5
    exact ⟨bits_slotField_of_lt h5, getLsbD_slotField_of_lt h5 hj⟩
  case moves =>
    intro i old v user
    have hi : exec i s = .next (checked (csrCheck s n.toNat v) (csrEffect n.toNat v) s) := exec_csrInstr op n a s
    refine ⟨fun hn => ?read, fun hn => ?outs, fun c => ?word, fun hu => ?forbidden, fun hu ht hc => ?badCfg,
      fun hu ht => ?stored, fun t ht hc hu => ?tile⟩
    case read =>
      have hn' : n.toNat ≠ 0x014 := fun h => hn (BitVec.eq_of_toNat_eq h)
      rw [exec_csrr, execCsrr, if_neg hn']
      rfl
    case outs =>
      subst hn
      rfl
    case word =>
      refine congrArg (fun x => applyReg (.s d x) c.regs) (congrArg (BitVec.ofNat 64) ?_)
      omega
    case forbidden =>
      rw [hi, csrCheck_of_forbidden hu, checked_some, BitVec.ofNat_toNat]
      rfl
    case badCfg =>
      rw [hi, csrCheck_of_not_forbidden hu, ht, hc]
      rfl
    case stored =>
      rw [hi, csrCheck_of_not_forbidden hu, ht]
      simp [csrEffect, ht, Emits, emit_eq]
    case tile =>
      intro q
      rw [hi, csrCheck_of_not_forbidden hu, ht, hc]
      refine ⟨fun hw => by simp [csrEffect, ht, hw], fun hw => ?_⟩
      show Host.Outcome.next (csrEffect n.toNat v s) = _
      rw [csrEffect, ht]
      simp only [hw, Bool.false_eq_true, if_false, emit_eq, setIcfg_configure]
      rfl

end Sys2Proof.Machine
end

section
/-! PROOF. Results that land (R25, R39, R48 to R50): what one landing does to the flags of another. -/

namespace Sys2Proof.Machine

/-- A ready result of an engine command that writes 0 to `VFLAGS` and raises NX, with an arrive suffix that names the counter at 0. -/
def flagClear : Pend :=
  { id := 0, upd := .csr 0x008 0, ready := true, cls := false, flags := fNX, arrive := some 0, fault := none, addr := none, src := .engine 0 }

/-- After module reset, with that result outstanding. The line at 0 is in no counter mode, so that its arrive add is withheld. -/
def clearing : State := { State.reset with me := { Ctx.reset with sq := { Seq.reset with pends := [flagClear] } } }

/-- The withheld add lands the result a second time (R258), and the flag it ORed in at the first is written over. -/
theorem exec_clearing : ∃ t d, exec (.pendingResultArrives 0 0 true) clearing = .next t ∧ findCtx 0 t = some d ∧ d.ctl.vflags = 0 :=
  ⟨_, _, rfl, rfl, by decide⟩

/-- Refutes O10: in a state where an engine command's outstanding result is a write of `VFLAGS`, the flags that land with the result are
lost when its arrive add is withheld. No instruction makes such a result, but the statement speaks of every state. -/
theorem not_resultsLand : ¬ Obligations.ResultsLand := by
  unfold Obligations.ResultsLand
  rintro ⟨-, h⟩
  obtain ⟨t, d, ht, hd, hflags⟩ := exec_clearing
  obtain ⟨-, -, hpend, -⟩ := h clearing 0 0 true clearing.me rfl
  obtain ⟨t', d', ht', hd', -, -, -, hkept, -⟩ := (hpend flagClear rfl).2 rfl rfl rfl rfl
  obtain rfl : t = t' := Host.Outcome.next.inj (ht.symm.trans ht')
  obtain rfl : d = d' := Option.some.inj (hd.symm.trans hd')
  rw [hflags] at hkept
  exact absurd hkept (by decide)

end Sys2Proof.Machine
end

section
/-! PROOF. Rounding to a binary floating format (R63, R70 to R72): a value the format holds keeps its pattern, and every result is a
pattern of the format. -/

namespace Sys2Proof.Machine

/-! ### Formats with infinities -/

/-- A format laid out as R63 gives it: infinities above the largest of `2 ^ ebits - 2` binades. -/
structure Fmt.Ieee (f : Fmt) : Prop where
  infs : f.infs = true
  prec : 2 ≤ f.p
  expo : 2 ≤ f.ebits
  maxm : f.maxm = 2 ^ f.p - 1
  emax : f.emax = f.emin + (2 ^ f.ebits : Nat) - 3

theorem isFloat_cases {t : Tag} (ht : isFloat t = true) : t = .bf16 ∨ t = .fp32 := by
  cases t <;> simp_all [isFloat]

theorem ieee_fmtOf {t : Tag} (ht : isFloat t = true) : (fmtOf t).Ieee := by
  obtain rfl | rfl := isFloat_cases ht <;> exact ⟨rfl, by decide, by decide, by decide, by decide⟩

theorem laneW_eq_of_isFloat {t : Tag} (ht : isFloat t = true) : laneW t = (fmtOf t).ebits + (fmtOf t).p := by
  obtain rfl | rfl := isFloat_cases ht <;> rfl

theorem decodeReal_of_isFloat {t : Tag} (ht : isFloat t = true) (x : Nat) : decodeReal t x = decodeFmt (fmtOf t) x := by
  obtain rfl | rfl := isFloat_cases ht <;> rfl

section
variable {f : Fmt} (hf : f.Ieee)
include hf

theorem Fmt.Ieee.signBit_eq : f.signBit = 2 ^ f.ebits * 2 ^ (f.p - 1) := by
  have hp := hf.prec
  rw [Fmt.signBit, ← pow_add, Nat.add_sub_assoc (by omega)]

theorem Fmt.Ieee.two_signBit : 2 * f.signBit = 2 ^ (f.ebits + f.p) := by
  have hp := hf.prec
  rw [Fmt.signBit, ← pow_succ', Nat.sub_add_cancel (by omega)]

theorem Fmt.Ieee.two_pow_p : 2 ^ f.p = 2 * 2 ^ (f.p - 1) := by
  have hp := hf.prec
  rw [← pow_succ', Nat.sub_add_cancel (by omega)]

theorem Fmt.Ieee.four_le : 4 ≤ 2 ^ f.ebits := Nat.pow_le_pow_right (n := 2) (by decide) hf.expo

/-- A pattern is its sign, its exponent field and its fraction. -/
theorem Fmt.Ieee.pattern_eq {x : Nat} (hx : x < 2 ^ (f.ebits + f.p)) :
    (x / f.signBit % 2 == 1).toNat * f.signBit + x / 2 ^ (f.p - 1) % 2 ^ f.ebits * 2 ^ (f.p - 1) + x % 2 ^ (f.p - 1) = x := by
  have hs := hf.signBit_eq
  have hpos : 0 < f.signBit := Nat.two_pow_pos _
  have hlt : x / f.signBit < 2 := by
    rw [Nat.div_lt_iff_lt_mul hpos, hf.two_signBit]
    exact hx
  have hsign : (x / f.signBit % 2 == 1).toNat = x / f.signBit := by
    obtain h | h : x / f.signBit = 0 ∨ x / f.signBit = 1 := by
      generalize x / f.signBit = y at hlt
      omega
    all_goals rw [h]; rfl
  have hdiv : x / f.signBit = x / 2 ^ (f.p - 1) / 2 ^ f.ebits := by rw [hs, Nat.div_div_eq_div_mul, Nat.mul_comm]
  rw [hsign, hdiv, hs, ← Nat.mul_assoc, ← Nat.add_mul, Nat.div_add_mod', Nat.div_add_mod']

end

/-! ### Rounding a significand on its own grid -/

/-- The exponent of the last place in which a magnitude is kept. -/
def quantum (f : Fmt) (num : Nat) (exp : Int) : Int := max (exp + Nat.log2 num) f.emin - (f.p : Int) + 1

/-- The significand a magnitude is rounded to, in units of its last place. -/
def keptMag (f : Fmt) (rm : Rm) (neg : Bool) (num : Nat) (exp : Int) : Nat :=
  let sh := (quantum f num exp - exp).toNat
  if exp ≥ quantum f num exp then num * 2 ^ (exp - quantum f num exp).toNat
  else roundMag rm neg (num / 2 ^ sh) (num % 2 ^ sh) (2 ^ sh)

/-- `m * 2 ^ q` is beyond the largest finite value. -/
def Overflows (f : Fmt) (q : Int) (m : Nat) : Prop :=
  if q ≥ f.emax - (f.p : Int) + 1 then m * 2 ^ (q - (f.emax - (f.p : Int) + 1)).toNat > f.maxm
  else m > f.maxm * 2 ^ (f.emax - (f.p : Int) + 1 - q).toNat

/-- The pattern of the magnitude `m * 2 ^ q`, for `q` the least exponent or `m` of full length. -/
def sigPat (f : Fmt) (neg : Bool) (q : Int) (m : Nat) : Nat :=
  neg.toNat * f.signBit + (if m < 2 ^ (f.p - 1) then 0 else (q - f.emin + f.p).toNat) * 2 ^ (f.p - 1) +
    (if m < 2 ^ (f.p - 1) then m else m - 2 ^ (f.p - 1))

/-- Rounding overflows, or gives the pattern of the kept significand, which may have carried into the next binade. -/
theorem roundFin_cases (f : Fmt) (rm : Rm) (neg : Bool) (num : Nat) (exp : Int) :
    let q := quantum f num exp
    let m := keptMag f rm neg num exp
    (Overflows f q m ∧ roundFin f rm neg num exp = (overflowPat f rm neg, fOF ||| fNX)) ∨
    (¬Overflows f q m ∧ (roundFin f rm neg num exp).1 = (if m = 2 ^ f.p then sigPat f neg (q + 1) (m / 2) else sigPat f neg q m) ∧
      (exp ≥ q → (roundFin f rm neg num exp).2 = 0)) := by
  intro q m
  by_cases hbig : Overflows f q m
  · exact .inl ⟨hbig, if_pos hbig⟩
  · refine .inr ⟨hbig, ?_, fun hq => ?_⟩
    · refine (congrArg Prod.fst (if_neg hbig)).trans ?_
      show sigPat f neg (if m == 2 ^ f.p then q + 1 else q) (if m == 2 ^ f.p then m / 2 else m) = _
      by_cases hup : m = 2 ^ f.p <;> simp [hup]
    · refine (congrArg Prod.snd (if_neg hbig)).trans (if_pos ?_)
      exact Bool.or_eq_true_iff.2 (.inl (decide_eq_true hq))


theorem roundMag_le (rm : Rm) (neg : Bool) (q r d : Nat) : roundMag rm neg q r d ≤ q + 1 := by
  unfold roundMag
  cases rm <;> cases neg <;> grind

section
variable {f : Fmt} (hf : f.Ieee)
include hf

theorem quantum_le_of_not_overflows {q : Int} {m : Nat} (h : ¬Overflows f q m) (hm : 2 ^ (f.p - 1) ≤ m) : q ≤ f.emax - f.p + 1 := by
  by_contra hq
  have hmaxm := hf.maxm
  rw [hf.two_pow_p] at hmaxm
  rw [Overflows, if_pos (by omega), not_lt] at h
  obtain ⟨k, hk⟩ : ∃ k : Nat, (q - (f.emax - (f.p : Int) + 1)).toNat = k + 1 := ⟨_, (Nat.succ_pred_eq_of_pos (by omega)).symm⟩
  rw [hk, pow_succ'] at h
  have hle := Nat.mul_le_mul_left m (Nat.le_mul_of_pos_right 2 (Nat.two_pow_pos k))
  have hpos := Nat.two_pow_pos (f.p - 1)
  omega

/-- Of the largest binade no significand carries. -/
theorem lt_of_not_overflows_of_eq {q : Int} {m : Nat} (h : ¬Overflows f q m) (hq : q = f.emax - f.p + 1) : m < 2 ^ f.p := by
  have hmaxm := hf.maxm
  have hpos := Nat.two_pow_pos f.p
  rw [Overflows, if_pos hq.ge, hq, sub_self, Int.toNat_zero, pow_zero, mul_one] at h
  omega

theorem not_overflows {q : Int} {m : Nat} (hm : m < 2 ^ f.p) (hq : q ≤ f.emax - f.p + 1) : ¬Overflows f q m := by
  have hmax : m ≤ f.maxm := by rw [hf.maxm]; omega
  unfold Overflows
  split
  case isTrue h =>
    obtain rfl : q = f.emax - f.p + 1 := le_antisymm hq h
    simpa using hmax
  case isFalse =>
    exact not_lt.2 (hmax.trans (Nat.le_mul_of_pos_right _ (Nat.two_pow_pos _)))

/-! ### A held value keeps its pattern (R71) -/

/-- A significand of the format's length on its own grid is not rounded. -/
theorem roundFin_of_quantum (rm : Rm) (neg : Bool) {num : Nat} {exp : Int} (hq : quantum f num exp = exp)
    (hn : num < 2 ^ f.p) (he : exp ≤ f.emax - f.p + 1) : roundFin f rm neg num exp = (sigPat f neg exp num, 0) := by
  have hm : keptMag f rm neg num exp = num := by simp [keptMag, hq]
  obtain ⟨hbig, -⟩ | ⟨-, hpat, hflags⟩ := roundFin_cases f rm neg num exp
  · rw [hm, hq] at hbig
    exact absurd hbig (not_overflows hf hn he)
  · rw [hm, hq, if_neg hn.ne] at hpat
    exact Prod.ext hpat (hflags hq.le)

/-- Below the smallest normal value: the significand stands alone in the pattern. -/
theorem round_subnormal (rm : Rm) (neg : Bool) {m : Nat} (hm : m < 2 ^ (f.p - 1)) :
    (Real.fin neg m (f.emin - (f.p : Int) + 1)).round f rm = (neg.toNat * f.signBit + m, 0) := by
  have hp := hf.prec
  by_cases h0 : m = 0
  · subst h0; rfl
  have hlog : Nat.log2 m < f.p - 1 := (Nat.log2_lt h0).2 hm
  have hround := roundFin_of_quantum hf rm neg (num := m) (exp := f.emin - (f.p : Int) + 1) (by rw [quantum]; omega)
    (by rw [hf.two_pow_p]; omega) (by have := hf.emax; have := hf.four_le; omega)
  rw [sigPat, if_pos hm, if_pos hm, Nat.zero_mul, Nat.add_zero] at hround
  rw [← hround]
  cases m with
  | zero => exact absurd rfl h0
  | succ m => rfl

/-- In a binade: the exponent field and the fraction. -/
theorem round_normal (rm : Rm) (neg : Bool) {m e : Nat} (hm : m < 2 ^ (f.p - 1)) (h0 : e ≠ 0) (he : e < 2 ^ f.ebits - 1) :
    (Real.fin neg (m + 2 ^ (f.p - 1)) (f.emin - (f.p : Int) + e)).round f rm =
      (neg.toNat * f.signBit + e * 2 ^ (f.p - 1) + m, 0) := by
  have hp := hf.prec
  have hpos := Nat.two_pow_pos (f.p - 1)
  have hlog : Nat.log2 (m + 2 ^ (f.p - 1)) = f.p - 1 := by
    rw [Nat.log2_eq_iff (by omega), Nat.sub_add_cancel (by omega), hf.two_pow_p]
    omega
  have hround := roundFin_of_quantum hf rm neg (num := m + 2 ^ (f.p - 1)) (exp := f.emin - (f.p : Int) + e)
    (by rw [quantum]; omega) (by rw [hf.two_pow_p]; omega) (by have := hf.emax; omega)
  rw [sigPat, if_neg (by omega), if_neg (by omega), Nat.add_sub_cancel,
    show (f.emin - (f.p : Int) + e - f.emin + f.p).toNat = e by omega] at hround
  rw [← hround]
  obtain ⟨k, hk⟩ : ∃ k, m + 2 ^ (f.p - 1) = k + 1 := ⟨_, (Nat.succ_pred_eq_of_pos (by omega)).symm⟩
  rw [hk]
  rfl

theorem round_decodeFmt (rm : Rm) {x : Nat} (hx : x < 2 ^ (f.ebits + f.p)) :
    (decodeFmt f x).round f rm = if (decodeFmt f x).isNaN then (canonNaN f, 0) else (x, 0) := by
  have hpat := hf.pattern_eq hx
  have hm : x % 2 ^ (f.p - 1) < 2 ^ (f.p - 1) := Nat.mod_lt _ (Nat.two_pow_pos _)
  have he : x / 2 ^ (f.p - 1) % 2 ^ f.ebits < 2 ^ f.ebits := Nat.mod_lt _ (Nat.two_pow_pos _)
  unfold decodeFmt
  simp only [hf.infs, Bool.true_and, Bool.not_true, Bool.false_and, Bool.false_eq_true, if_false, beq_iff_eq]
  generalize (x / f.signBit % 2 == 1) = neg at *
  generalize x / 2 ^ (f.p - 1) % 2 ^ f.ebits = e at *
  generalize x % 2 ^ (f.p - 1) = m at *
  by_cases hinf : e = 2 ^ f.ebits - 1
  · rw [if_pos hinf]
    by_cases h0 : m = 0
    · rw [if_pos h0]
      simp only [Real.round, Real.isNaN, infPat, hf.infs, if_true, Bool.false_eq_true, if_false]
      rw [← hinf, ← hpat, h0, Nat.add_zero]
    · rw [if_neg h0]
      rfl
  rw [if_neg hinf]
  by_cases h0 : e = 0
  · rw [if_pos h0, round_subnormal hf rm neg hm, ← hpat, h0, Nat.zero_mul, Nat.add_zero]
    rfl
  · rw [if_neg h0, round_normal hf rm neg hm h0 (by omega), hpat]
    rfl

/-! ### Every result is a pattern -/

theorem signed_lt (neg : Bool) {y : Nat} (hy : y < f.signBit) : neg.toNat * f.signBit + y < 2 ^ (f.ebits + f.p) := by
  rw [← hf.two_signBit]
  cases neg <;> simp <;> omega

/-- Exponent field and fraction stay below the sign. -/
theorem field_lt {e m : Nat} (he : e < 2 ^ f.ebits) (hm : m < 2 ^ (f.p - 1)) : e * 2 ^ (f.p - 1) + m < f.signBit := by
  rw [hf.signBit_eq]
  calc e * 2 ^ (f.p - 1) + m < (e + 1) * 2 ^ (f.p - 1) := by rw [Nat.add_mul]; omega
    _ ≤ 2 ^ f.ebits * 2 ^ (f.p - 1) := Nat.mul_le_mul_right _ he

theorem canonNaN_lt : canonNaN f < 2 ^ (f.ebits + f.p) := by
  have hp := hf.prec
  have h := signed_lt hf false (field_lt hf (e := 2 ^ f.ebits - 1) (m := 2 ^ (f.p - 2)) (by have := Nat.two_pow_pos f.ebits; omega)
    (Nat.pow_lt_pow_right (by decide) (by omega)))
  simpa [canonNaN, hf.infs] using h

theorem infPat_lt (neg : Bool) : infPat f neg < 2 ^ (f.ebits + f.p) := by
  have h := signed_lt hf neg (field_lt hf (e := 2 ^ f.ebits - 1) (by have := Nat.two_pow_pos f.ebits; omega) (Nat.two_pow_pos _))
  simpa [infPat, hf.infs] using h

theorem maxPat_lt (neg : Bool) : maxPat f neg < 2 ^ (f.ebits + f.p) := by
  have h := infPat_lt hf neg
  simp only [infPat, maxPat, hf.infs, if_true] at h ⊢
  omega

theorem overflowPat_lt (rm : Rm) (neg : Bool) : overflowPat f rm neg < 2 ^ (f.ebits + f.p) := by
  obtain h | h : overflowPat f rm neg = infPat f neg ∨ overflowPat f rm neg = maxPat f neg := by
    cases rm <;> cases neg <;> simp [overflowPat]
  · exact h ▸ infPat_lt hf neg
  · exact h ▸ maxPat_lt hf neg

theorem sigPat_lt (neg : Bool) {q : Int} {m : Nat} (hm : m < 2 ^ f.p) (hq : 2 ^ (f.p - 1) ≤ m → q ≤ f.emax - f.p + 1) :
    sigPat f neg q m < 2 ^ (f.ebits + f.p) := by
  rw [hf.two_pow_p] at hm
  rw [sigPat, Nat.add_assoc]
  refine signed_lt hf neg (field_lt hf ?_ ?_) <;> split
  · exact Nat.two_pow_pos _
  · have hemax := hf.emax
    have hfour := hf.four_le
    have := hq (by omega)
    omega
  · assumption
  · omega

/-- Rounding keeps at most `p` bits, or carries to the next power of two. -/
theorem keptMag_le (rm : Rm) (neg : Bool) (num : Nat) (exp : Int) : keptMag f rm neg num exp ≤ 2 ^ f.p := by
  have hp := hf.prec
  have hlog : num < 2 ^ (num.log2 + 1) := Nat.lt_log2_self
  have hq : exp + num.log2 - f.p + 1 ≤ quantum f num exp := by unfold quantum; omega
  unfold keptMag
  generalize quantum f num exp = q at hq
  split
  case isTrue h =>
    obtain ⟨k, hk⟩ := Int.eq_ofNat_of_zero_le (sub_nonneg.2 h)
    rw [hk, Int.toNat_natCast]
    calc num * 2 ^ k ≤ 2 ^ (num.log2 + 1) * 2 ^ k := Nat.mul_le_mul_right _ hlog.le
      _ = 2 ^ (num.log2 + 1 + k) := (pow_add _ _ _).symm
      _ ≤ 2 ^ f.p := Nat.pow_le_pow_right (by decide) (by omega)
  case isFalse h =>
    have hquot : num / 2 ^ (q - exp).toNat < 2 ^ f.p := by
      rw [Nat.div_lt_iff_lt_mul (Nat.two_pow_pos _), ← pow_add]
      exact hlog.trans_le (Nat.pow_le_pow_right (by decide) (by omega))
    exact (roundMag_le rm neg _ _ _).trans hquot

theorem roundFin_lt (rm : Rm) (neg : Bool) (num : Nat) (exp : Int) : (roundFin f rm neg num exp).1 < 2 ^ (f.ebits + f.p) := by
  have hkept := keptMag_le hf rm neg num exp
  have hp := hf.two_pow_p
  have hpos := Nat.two_pow_pos (f.p - 1)
  obtain ⟨-, h⟩ | ⟨hbig, h, -⟩ := roundFin_cases f rm neg num exp <;> rw [h]
  · exact overflowPat_lt hf rm neg
  have hle := quantum_le_of_not_overflows hf hbig
  split
  case isTrue hup =>
    refine sigPat_lt hf neg (by omega) fun _ => ?_
    have hne : quantum f num exp ≠ f.emax - f.p + 1 := fun hq => (lt_of_not_overflows_of_eq hf hbig hq).ne hup
    have := hle (by omega)
    omega
  case isFalse hup => exact sigPat_lt hf neg (by omega) hle

theorem round_lt (rm : Rm) (v : Real) : (v.round f rm).1 < 2 ^ (f.ebits + f.p) := by
  unfold Real.round
  split
  · exact canonNaN_lt hf
  · exact infPat_lt hf _
  · exact signed_lt hf _ (Nat.two_pow_pos _)
  · exact roundFin_lt hf rm _ _ _

end

/-- Settles O21, by the class of the pattern: infinity, NaN, below the smallest normal value, or in a binade. -/
theorem roundingIsExact : Obligations.RoundingIsExact := by
  intro t rm x ht hx
  rw [laneW_eq_of_isFloat ht] at hx
  rw [decodeReal_of_isFloat ht]
  exact round_decodeFmt (ieee_fmtOf ht) rm hx

end Sys2Proof.Machine
end

section
/-! PROOF. Results of vector instructions (R107 to R110): the checks of their sources, their lanes and their flags. -/

namespace Sys2Proof.Machine

/-! ### Flags of lanes (R76) -/

theorem foldl_orFlags (gs : List Flags) (a : Flags) : gs.foldl (fun a g => a ||| g) a = a ||| orFlags gs := by
  unfold orFlags
  induction gs generalizing a with
  | nil => simp
  | cons g gs ih => rw [List.foldl_cons, List.foldl_cons, ih, ih (0 ||| g), BitVec.or_assoc]; simp

@[simp] theorem orFlags_nil : orFlags [] = 0 := rfl

@[simp] theorem orFlags_cons (g : Flags) (gs : List Flags) : orFlags (g :: gs) = g ||| orFlags gs := by
  rw [orFlags, List.foldl_cons, foldl_orFlags]; simp

theorem orFlags_eq_zero {gs : List Flags} (h : ∀ g ∈ gs, g = 0) : orFlags gs = 0 := by
  induction gs with
  | nil => rfl
  | cons g gs ih => rw [orFlags_cons, h g List.mem_cons_self, ih fun x hx => h x (List.mem_cons_of_mem g hx)]; rfl

theorem unionFlags_zero (n : Nat) (on : Nat → Bool) : unionFlags n on (fun _ => 0) = 0 :=
  orFlags_eq_zero (by simp)

/-- A lane that is off raises nothing. -/
theorem laneFlags_on (n : Nat) (on : Nat → Bool) (f : Nat → LaneR) :
    laneFlags ((List.range n).map fun i => if on i then f i else quiet 0) = unionFlags n on fun i => (f i).2 := by
  unfold laneFlags unionFlags
  rw [List.map_map]
  congr 2
  funext i
  exact apply_ite Prod.snd _ _ _

/-! ### Lanes of a result -/

theorem lane_lt (t : Tag) (x : VData) (i : Nat) : lane t x i < 2 ^ laneW t := Nat.mod_lt _ (Nat.two_pow_pos _)

/-- Lane `i` of lanes packed from a list of lane results. -/
theorem laneBits_packLanes_range {w n i : Nat} (y : Nat → LaneR) (hw : 0 < w) (hr : w * (i + 1) ≤ 8192) (hi : i < n) :
    laneBits (packLanes w (((List.range n).map y).map fun y => y.1)) w i = (y i).1 % 2 ^ w := by
  rw [laneBits_packLanes _ _ _ hw hr, List.map_map, List.getD_eq_getElem?_getD, List.getElem?_map, List.getElem?_range hi]
  rfl

/-- A result whose mask is all ones or all zeros over each lane. -/
theorem emit_writes (lat : Nat) (d : VReg) (t : Tag) {data mask : BitVec 8192} {en : Nat → Bool} (fl : Flags) (s : State)
    (hm : ∀ i < lanes t, ∀ j < laneW t, mask.getLsbD (laneW t * i + j) = en i) :
    WritesV lat d t fl (fun i old => if en i then laneBits data (laneW t) i else old) s
      (.next (emit lat (.v d data mask (some t)) fl s)) := by
  refine ⟨_, _, rfl, fun g => ⟨by simp [applyReg], fun r hr => ?_, fun i hi => ?_⟩⟩
  · exact (getElem_set_fin _ _ _ _).trans (if_neg hr)
  · simp only [applyReg, Fin.getElem_fin, Vector.getElem_set_self]
    exact laneBits_merge _ _ _ _ _ _ (hm i hi) (lane_room hi)

/-- Only the lanes of the register matter. -/
theorem WritesV.congr_lt {lat d t fl val val' s o} (h : WritesV lat d t fl val s o) (hv : ∀ i < lanes t, ∀ old, val i old = val' i old) :
    WritesV lat d t fl val' s o := by
  obtain ⟨data, mask, he, hg⟩ := h
  refine ⟨data, mask, he, fun g => ?_⟩
  obtain ⟨htag, hother, hlane⟩ := hg g
  exact ⟨htag, hother, fun i hi => (hlane i hi).trans (hv i hi _)⟩

/-- A masked result that raises nothing. -/
theorem putMasked_quiet (lat : Nat) (d : VReg) {t : Tag} (m : BitVec 1024) (z : Bool) {f : Nat → Nat} (hf : ∀ i, f i < 2 ^ laneW t)
    (s : State) : WritesV lat d t 0 (masked m z f) s (.next (putMasked lat d t m z (fun i => quiet (f i)) s)) := by
  have hmod : (fun i => (quiet (f i)).1 % 2 ^ laneW t) = f := funext fun i => Nat.mod_eq_of_lt (hf i)
  have hwrites := putMasked_writes lat d t m z (fun i => quiet (f i)) s
  rw [hmod] at hwrites
  exact hwrites.congr ((laneFlags_masked t m _).trans (unionFlags_zero _ _)) fun _ _ => rfl

/-- A whole-register result made of lanes. -/
theorem putAll_ofLanes (lat : Nat) (d : VReg) {t : Tag} {f : Nat → Nat} (hf : ∀ i, f i < 2 ^ laneW t) (fl : Flags) (s : State) :
    WritesV lat d t fl (fun i _ => f i) s (.next (putAll lat d t (ofLanes t f) fl s)) :=
  (putAll_writes lat d t _ fl s).congr_lt fun i hi _ => (laneBits_ofLanes t f i hi).trans (Nat.mod_eq_of_lt (hf i))

/-! ### Checks of a source (R109) -/

section
variable {s : State} {a : VReg}

theorem sourceCheck_ok (hn : (rdV s a).tag ≠ .none) (hp : (rdV s a).tag ≠ .poison) : sourceCheck s a = none := by
  unfold sourceCheck
  split <;> simp_all

theorem sourceCheck_laned (h : isLaned (rdV s a).tag = true) : sourceCheck s a = none :=
  sourceCheck_ok (fun e => by simp [e, isLaned] at h) (fun e => by simp [e, isLaned] at h)

theorem srcCheck_ok {acc : Tag → Bool} {t : Tag} (ht : (rdV s a).tag = t) (ha : acc t = true) (hn : t ≠ .none) (hp : t ≠ .poison) :
    srcCheck s acc a = none := by
  subst ht
  simp [srcCheck, sourceCheck_ok hn hp, ha, failIf]

theorem srcCheck_laned (h : isLaned (rdV s a).tag = true) : srcCheck s isLaned a = none := by
  simp [srcCheck, sourceCheck_laned h, h, failIf]

end

end Sys2Proof.Machine
end

section
/-! PROOF. Moves, select and conversions of vector registers (R69, R81, R110, R113 to R118, R128). -/

namespace Sys2Proof.Machine

/-! ### Retags (R118, R69) -/

theorem badRegBlock_eq_none {x : BitVec 8192} (h : ∀ k < 48, specialOk (laneBits x 8 (816 + k)) = true) : badRegBlock x = none := by
  rw [badRegBlock, List.find?_eq_none]
  intro k hk
  simp [h k (List.mem_range.1 hk)]

theorem badRegBlock_eq_some {x : BitVec 8192} {b : Nat} (hb : b < 48) (hbad : specialOk (laneBits x 8 (816 + b)) = false)
    (h : ∀ k < b, specialOk (laneBits x 8 (816 + k)) = true) : badRegBlock x = some b := by
  rw [badRegBlock, List.find?_range_eq_some]
  exact ⟨by simp [hbad], List.mem_range.2 hb, fun k hk => by simp [h k hk]⟩

theorem getLsbD_blockBytes (x : BitVec 8192) {j : Nat} (hj : j < 8192) : (blockBytes x).getLsbD j = (decide (j < 6912) && x.getLsbD j) := by
  rw [blockBytes, BitVec.getLsbD_ofNat, Nat.testBit_mod_two_pow, decide_eq_true hj, Bool.true_and]
  rfl

/-- The `mod` field of a `vcvt`. -/
def cvtMod (h : Fin 4) (t : Tag) (w : Bool) (rm : Rm) : Nat := h.val * 256 + t.code * 16 + w.toNat * 8 + rm.code

section
variable {s : State} {a : VReg} {m : Sys2Proof.MReg} {t : Tag} {h : Fin 4} {d : VReg} {w : Bool} {rm : Rm}

theorem cvtCheck_retag (hs : sourceCheck s a = none) (hr : (rdV s a).tag = .raw ∨ t = .raw) (k md : Nat) :
    cvtCheck s a m t k md = (failIf (m.val ≠ 0 || k ≠ 0) (fault 0x02 0 (BitVec.ofNat 64 md))).orElse fun _ =>
      if t = .e2m1x then (badRegBlock (rdV s a).bits).map fun b => fault 0x04 1 (BitVec.ofNat 64 (b * 2 ^ 16 + a.val)) else none := by
  have hb : (decide ((rdV s a).tag = .raw) || decide (t = .raw)) = true := by simpa using hr
  simp only [cvtCheck, hs, hb, if_true]
  rfl

theorem cvtCheck_convert (hu : isLaned (rdV s a).tag = true) (ht : isLaned t = true) (hru : (rdV s a).tag ≠ .raw) (hrt : t ≠ .raw)
    (k md : Nat) : cvtCheck s a m t k md = failIf (k ≥ max (lanes (rdV s a).tag) (lanes t) / min (lanes (rdV s a).tag) (lanes t))
      (fault 0x02 0 (BitVec.ofNat 64 md)) := by
  have hxu : (rdV s a).tag ≠ .e2m1x := fun e => by simp [e, isLaned] at hu
  have hxt : t ≠ .e2m1x := fun e => by simp [e, isLaned] at ht
  simp only [cvtCheck, sourceCheck_laned hu]
  simp [hru, hrt, hxu, hxt]

/-- A retag that passes its checks keeps the bits, those beyond its blocks apart. -/
theorem exec_vcvt_retag (hs : sourceCheck s a = none) (hr : (rdV s a).tag = .raw ∨ t = .raw) (hm : m = 0) (hh : h = 0)
    (hb : t = .e2m1x → badRegBlock (rdV s a).bits = none) :
    Emits 3 (.v d (if t = .e2m1x then blockBytes (rdV s a).bits else (rdV s a).bits) (BitVec.allOnes 8192) (some t)) 0 s
      (exec (.vcvt d a m t h w rm) s) := by
  have hc : ∀ md, cvtCheck s a m t h.val md = none := fun md => by
    subst hm hh
    rw [cvtCheck_retag hs hr]
    by_cases ht : t = .e2m1x
    · rw [if_pos ht, hb ht]
      rfl
    · rw [if_neg ht]
      rfl
  have hraw : (decide ((rdV s a).tag = .raw) || decide (t = .raw)) = true := by simpa using hr
  rw [exec_vcvt, execVcvt, hc, checked_none]
  exact congrArg Host.Outcome.next (if_pos hraw)

theorem exec_vcvt_retag_partial (hs : sourceCheck s a = none) (hr : (rdV s a).tag = .raw ∨ t = .raw) (hmh : m ≠ 0 ∨ h ≠ 0) :
    exec (.vcvt d a m t h w rm) s = .next (raise { cause := 0x02, addr := BitVec.ofNat 64 (cvtMod h t w rm) } s) := by
  have hb : (decide (m.val ≠ 0) || decide (h.val ≠ 0)) = true := by
    rw [Bool.or_eq_true, decide_eq_true_eq, decide_eq_true_eq]
    exact hmh.imp (fun hm e => hm (Fin.ext e)) fun hh e => hh (Fin.ext e)
  rw [exec_vcvt, execVcvt, cvtCheck_retag hs hr, hb]
  rfl

theorem exec_vcvt_badBlock (hu : (rdV s a).tag = .raw) (hm : m = 0) (hh : h = 0) {b : Nat} (hb : badRegBlock (rdV s a).bits = some b) :
    exec (.vcvt d a m .e2m1x h w rm) s =
      .next (raise { cause := 0x04, sub := 1, addr := BitVec.ofNat 64 (b * 2 ^ 16 + a.val) } s) := by
  subst hm hh
  rw [exec_vcvt, execVcvt, cvtCheck_retag (sourceCheck_ok (by simp [hu]) (by simp [hu])) (.inl hu), hb]
  rfl

/-! ### Conversions (R118) -/

/-- A conversion writes the enabled lanes of its part. -/
theorem exec_vcvt_convert (hu : isLaned (rdV s a).tag = true) (ht : isLaned t = true) (hru : (rdV s a).tag ≠ .raw) (hrt : t ≠ .raw)
    (hh : h.val < max (lanes (rdV s a).tag) (lanes t) / min (lanes (rdV s a).tag) (lanes t)) :
    let u := (rdV s a).tag
    let n := min (lanes u) (lanes t)
    let lo := if lanes t > lanes u then n * h.val else 0
    let src := fun i => lane u (rdV s a) ((if lanes t > lanes u then 0 else n * h.val) + (i - lo))
    let on := fun i => decide (lo ≤ i) && decide (i < lo + n) && (rdM s m).getLsbD i
    WritesV 3 d t (unionFlags (lanes t) on fun i => (cvtLane u t w (rmOf s rm) (src i)).2)
      (fun i old => if on i then (cvtLane u t w (rmOf s rm) (src i)).1 % 2 ^ laneW t else old) s (exec (.vcvt d a m t h w rm) s) := by
  intro u n lo src on
  have hraw : (decide ((rdV s a).tag = .raw) || decide (t = .raw)) = false := by simp [hru, hrt]
  rw [exec_vcvt, execVcvt, cvtCheck_convert hu ht hru hrt, failIf, decide_eq_false (not_le.2 hh), if_neg Bool.false_ne_true, checked_none]
  simp only [hraw, Bool.false_eq_true, if_false]
  have hwrites := emit_writes 3 d t (data := packLanes (laneW t) (((List.range (lanes t)).map fun i =>
      if on i then cvtLane u t w (rmOf s rm) (src i) else quiet 0).map fun y => y.1)) (en := on)
    (laneFlags ((List.range (lanes t)).map fun i => if on i then cvtLane u t w (rmOf s rm) (src i) else quiet 0)) s
    fun i hi j hj => getLsbD_laneMask _ _ _ _ _ (laneW_pos t) hj (lane_room hi) hi
  refine (hwrites.congr (laneFlags_on _ _ _) fun _ _ => rfl).congr_lt fun i hi old => ?_
  rw [laneBits_packLanes_range _ (laneW_pos t) (lane_room hi) hi]
  cases on i <;> rfl

theorem exec_vcvt_noPart (hu : isLaned (rdV s a).tag = true) (ht : isLaned t = true) (hru : (rdV s a).tag ≠ .raw) (hrt : t ≠ .raw)
    (hh : max (lanes (rdV s a).tag) (lanes t) / min (lanes (rdV s a).tag) (lanes t) ≤ h.val) :
    exec (.vcvt d a m t h w rm) s = .next (raise { cause := 0x02, addr := BitVec.ofNat 64 (cvtMod h t w rm) } s) := by
  rw [exec_vcvt, execVcvt, cvtCheck_convert hu ht hru hrt, failIf, decide_eq_true hh]
  rfl

end

theorem cvtLane_int {u t : Tag} (hu : isInt u = true) (ht : isInt t = true) (w : Bool) (rm : Rm) (x : Nat) :
    cvtLane u t w rm x = fitLane t w (sInt u x) := by
  rw [fit_eq, cvtLane, hu, ht]
  rfl

/-! ### Packing (R128) -/

section
variable {s : State} {a b d : VReg} {m : Sys2Proof.MReg} {u t : Tag}

theorem exec_vpack_writes (z w : Bool) (rm : Rm) (ha : (rdV s a).tag = u) (hb : (rdV s b).tag = u) (hut : packTag u = some t) :
    let f := fun i => cvtLane u t w (rmOf s rm) (lane u (rdV s (if i < lanes u then a else b)) (i % lanes u))
    WritesV 3 d t (unionFlags (lanes t) (fun i => (rdM s m).getLsbD i) fun i => (f i).2)
      (masked (rdM s m) z fun i => (f i).1 % 2 ^ laneW t) s (exec (.vpack d a b m z w rm) s) := by
  intro f
  have hc := srcsCheck_ok s (fun t => (packTag t).isSome) rfl rfl u [a, b] (by simp [ha, hb]) (by simp [hut])
  rw [exec_vpack, execVpack, hc, checked_none, ha]
  simp only [hut, Option.getD_some]
  exact (putMasked_writes 3 d t (rdM s m) z f s).congr (laneFlags_masked _ _ _) fun _ _ => rfl

theorem exec_vunpk_writes (hi z : Bool) (ha : (rdV s a).tag = u) (hut : unpackTag u = some t) :
    let f := fun i => cvtLane u t false .rne (lane u (rdV s a) (lanes t * hi.toNat + i))
    WritesV 3 d t (unionFlags (lanes t) (fun i => (rdM s m).getLsbD i) fun i => (f i).2)
      (masked (rdM s m) z fun i => (f i).1 % 2 ^ laneW t) s (exec (.vunpk d a m hi z) s) := by
  intro f
  have hc : srcCheck s (fun t => (unpackTag t).isSome) a = none :=
    srcCheck_ok ha (by simp [hut]) (fun e => by simp [e, unpackTag] at hut) (fun e => by simp [e, unpackTag] at hut)
  rw [exec_vunpk, execVunpk, hc, checked_none, ha]
  simp only [hut, Option.getD_some]
  exact (putMasked_writes 3 d t (rdM s m) z f s).congr (laneFlags_masked _ _ _) fun _ _ => rfl

end

/-! ### Moves (R114, R115) -/

section
variable {s : State} {a b d : VReg} {m : Sys2Proof.MReg}

theorem exec_vmovs_writes (x : SReg) (j : Fin 1024) (h : isLaned (rdV s a).tag = true) :
    let v := rdV s a
    WritesS 2 x (if isInt v.tag then BitVec.ofInt 64 (sInt v.tag (lane v.tag v (j.val % lanes v.tag)))
      else BitVec.ofNat 64 (lane v.tag v (j.val % lanes v.tag))) s (exec (.vmovs x a j) s) := by
  rw [exec_vmovs, execVmovs, srcCheck_laned h]
  rfl

theorem exec_vins_writes (x : SReg) (j : Fin 1024) (h : isLaned (rdV s a).tag = true) :
    let v := rdV s a
    WritesV 2 d v.tag 0 (fun i _ => if i = j.val % lanes v.tag then (rdS s x).toNat % 2 ^ laneW v.tag else lane v.tag v i) s
      (exec (.vins d a x j) s) := by
  intro v
  rw [exec_vins, execVins, srcCheck_laned h, checked_none]
  refine putAll_ofLanes 2 d (fun i => ?_) 0 s
  split
  · exact Nat.mod_lt _ (Nat.two_pow_pos _)
  · exact lane_lt _ _ _

theorem vmov_check (hs : sourceCheck s a = none) (h : (rdV s a).tag = .e2m1x → m = 0) :
    ((sourceCheck s a).orElse fun _ => failIf ((rdV s a).tag = .e2m1x && m.val ≠ 0) (tagFault a)) = none := by
  rw [hs]
  by_cases ht : (rdV s a).tag = .e2m1x
  · simp [failIf, h ht]
  · simp [failIf, ht]

theorem exec_vmov_writes (z : Bool) (h : isLaned (rdV s a).tag = true) :
    WritesV 2 d (rdV s a).tag 0 (masked (rdM s m) z (lane (rdV s a).tag (rdV s a))) s (exec (.vmov d a m z) s) := by
  have hx : (rdV s a).tag ≠ .e2m1x := fun e => by simp [e, isLaned] at h
  rw [exec_vmov, execVmov, vmov_check (sourceCheck_laned h) (absurd · hx), checked_none]
  simp only [if_neg hx]
  exact putMasked_quiet 2 d _ z (fun i => lane_lt _ _ i) s

theorem exec_vmov_blocks (z : Bool) (ht : (rdV s a).tag = .e2m1x) (hm : m = 0) :
    Emits 2 (.v d (rdV s a).bits (BitVec.allOnes 8192) (some .e2m1x)) 0 s (exec (.vmov d a m z) s) := by
  have hs : sourceCheck s a = none := sourceCheck_ok (by simp [ht]) (by simp [ht])
  rw [exec_vmov, execVmov, vmov_check hs fun _ => hm, checked_none]
  simp only [ht, if_true]
  rfl

theorem exec_vsel_writes (h : isLaned (rdV s a).tag = true) (hb : (rdV s b).tag = (rdV s a).tag) :
    WritesV 2 d (rdV s a).tag 0 (fun i _ => lane (rdV s a).tag (if (rdM s m).getLsbD i then rdV s a else rdV s b) i) s
      (exec (.vsel d a b m) s) := by
  rw [exec_vsel, execVsel, srcsCheck_ok s isLaned rfl rfl (rdV s a).tag [a, b] (by simp [hb]) h, checked_none]
  exact putAll_ofLanes 2 d (fun i => lane_lt _ _ _) 0 s

end

/-- Settles O22, move by move and conversion by conversion. -/
theorem vectorMovesAndConversions : Obligations.VectorMovesAndConversions := by
  refine ⟨fun s t d a b x m z j => ?moves, fun s d a b m t h w z hi rm => ?conversions⟩
  case moves =>
    intro v
    exact ⟨putMasked_quiet 2 d _ z (fun _ => Nat.mod_lt _ (Nat.two_pow_pos _)) s, fun hv => ⟨exec_vmovs_writes x j hv,
      exec_vins_writes x j hv, exec_vmov_writes z hv, exec_vsel_writes hv⟩, exec_vmov_blocks z⟩
  case conversions =>
    intro v u n q
    refine ⟨fun hs hr ht hm hh => ?retag, fun hu ht hm hh hok => ?blocks, fun hu ht hm hh b hb hbad hok => ?badBlock,
      fun hs hr hmh => exec_vcvt_retag_partial hs hr hmh, fun hu ht hru hrt hq => exec_vcvt_convert hu ht hru hrt hq,
      fun hu ht hru hrt hq => exec_vcvt_noPart hu ht hru hrt hq, fun o ho ha hb => ?pack, fun o ho ha => ?unpack,
      fun x hu ht => cvtLane_int hu ht w rm x⟩
    case retag =>
      have hemit := exec_vcvt_retag (d := d) (w := w) (rm := rm) hs hr hm hh fun e => absurd e ht
      rwa [if_neg ht] at hemit
    case blocks =>
      have hs : sourceCheck s a = none := sourceCheck_ok (ne_of_eq_of_ne hu (by decide)) (ne_of_eq_of_ne hu (by decide))
      have hemit := exec_vcvt_retag (t := t) (d := d) (w := w) (rm := rm) hs (.inl hu) hm hh fun _ => badRegBlock_eq_none hok
      rw [if_pos ht, ht] at hemit
      exact ⟨blockBytes v.bits, ht ▸ hemit, fun j hj => getLsbD_blockBytes v.bits hj⟩
    case badBlock =>
      rw [ht]
      exact exec_vcvt_badBlock hu hm hh (badRegBlock_eq_some hb hbad hok)
    case pack =>
      have hpack : ∀ o ∈ [(Tag.i32, Tag.i16), (.i16, .i8), (.fp32, .bf16)], packTag o.1 = some o.2 := by decide
      have hwrites := exec_vpack_writes (d := d) (m := m) z w rm ha (hb.trans ha) (hpack o ho)
      rwa [← ha] at hwrites
    case unpack =>
      have hunpack : ∀ o ∈ [(Tag.i8, Tag.i16), (.i16, .i32), (.bf16, .fp32), (.e4m3, .bf16)], unpackTag o.1 = some o.2 := by decide
      have hwrites := exec_vunpk_writes (d := d) (m := m) hi z ha (hunpack o ho)
      rwa [← ha] at hwrites

end Sys2Proof.Machine
end

section
/-! PROOF. Orders of summation (R78, R79): what a tree or a scan gives when its step keeps a property or selects one operand. -/

namespace Sys2Proof.Machine

section
variable {α : Type} {comb : α → α → α × Flags}

/-! ### Properties that the combination keeps -/

theorem exists_of_mem_zipWith {xs ys : List α} {r : α × Flags} (hr : r ∈ List.zipWith comb xs ys) :
    ∃ x ∈ xs, ∃ y ∈ ys, comb x y = r := by
  obtain ⟨i, hi, rfl⟩ := List.mem_iff_getElem.1 hr
  exact ⟨_, List.getElem_mem _, _, List.getElem_mem _, List.getElem_zipWith.symm⟩

theorem forall_zipWith {P : α → Prop} (hcomb : ∀ x y, P x → P y → P (comb x y).1) {xs ys : List α} (hx : ∀ x ∈ xs, P x)
    (hy : ∀ y ∈ ys, P y) : ∀ r ∈ List.zipWith comb xs ys, P r.1 := by
  intro r hr
  obtain ⟨x, hx', y, hy', rfl⟩ := exists_of_mem_zipWith hr
  exact hcomb x y (hx x hx') (hy y hy')

theorem forall_treeLevel {P : α → Prop} (hcomb : ∀ x y, P x → P y → P (comb x y).1) {xs : List α} (h : ∀ x ∈ xs, P x) :
    ∀ y ∈ (treeLevel comb xs).1, P y := by
  intro y hy
  obtain ⟨r, hr, rfl⟩ := List.mem_map.1 hy
  exact forall_zipWith hcomb (fun x hx => h x (List.mem_of_mem_take hx)) (fun x hx => h x (List.mem_of_mem_drop hx)) r hr

theorem tree_succ_of_one_lt (k : Nat) {xs : List α} (h : 1 < xs.length) :
    (tree comb (k + 1) xs).1 = (tree comb k (treeLevel comb xs).1).1 := by
  rw [tree, if_neg (not_le.2 h)]

theorem tree_of_le_one (k : Nat) {xs : List α} (h : xs.length ≤ 1) : (tree comb k xs).1 = xs := by
  cases k with
  | zero => rfl
  | succ k => rw [tree, if_pos h]

theorem forall_tree {P : α → Prop} (hcomb : ∀ x y, P x → P y → P (comb x y).1) (k : Nat) {xs : List α} (h : ∀ x ∈ xs, P x) :
    ∀ y ∈ (tree comb k xs).1, P y := by
  induction k generalizing xs with
  | zero => exact h
  | succ k ih =>
    by_cases hl : xs.length ≤ 1
    · rwa [tree_of_le_one _ hl]
    · rw [tree_succ_of_one_lt k (not_le.1 hl)]
      exact ih (forall_treeLevel hcomb h)

/-! ### Combinations that select an operand -/

/-- A combination selects the greater operand of a preorder. -/
def Selects (le : α → α → Prop) (comb : α → α → α × Flags) : Prop :=
  ∀ x y, ((comb x y).1 = x ∨ (comb x y).1 = y) ∧ le x (comb x y).1 ∧ le y (comb x y).1

theorem Selects.zipWith {le : α → α → Prop} (hs : Selects le comb) {xs ys : List α} (hl : xs.length = ys.length) :
    (∀ r ∈ List.zipWith comb xs ys, r.1 ∈ xs ++ ys) ∧ ∀ x ∈ xs ++ ys, ∃ r ∈ List.zipWith comb xs ys, le x r.1 := by
  refine ⟨fun r hr => ?_, fun x hx => ?_⟩
  · obtain ⟨x, hx, y, hy, rfl⟩ := exists_of_mem_zipWith hr
    rcases (hs x y).1 with h | h <;> rw [h]
    · exact List.mem_append_left ys hx
    · exact List.mem_append_right xs hy
  · have hpair : ∀ i (hx : i < xs.length) (hy : i < ys.length), comb xs[i] ys[i] ∈ List.zipWith comb xs ys := fun i hx hy =>
      List.mem_iff_getElem.2 ⟨i, by simp [hx, hy], List.getElem_zipWith⟩
    rcases List.mem_append.1 hx with hx | hx
    · obtain ⟨i, hi, rfl⟩ := List.mem_iff_getElem.1 hx
      exact ⟨_, hpair i hi (hl ▸ hi), (hs _ _).2.1⟩
    · obtain ⟨i, hi, rfl⟩ := List.mem_iff_getElem.1 hx
      exact ⟨_, hpair i (hl ▸ hi) hi, (hs _ _).2.2⟩

theorem Selects.treeLevel {le : α → α → Prop} (hs : Selects le comb) {xs : List α} {n : Nat} (hl : xs.length = 2 * n) :
    (treeLevel comb xs).1.length = n ∧ (∀ z ∈ (treeLevel comb xs).1, z ∈ xs) ∧ ∀ x ∈ xs, ∃ z ∈ (treeLevel comb xs).1, le x z := by
  have hhalf : xs.length / 2 = n := by omega
  have hzip := hs.zipWith (xs := xs.take n) (ys := xs.drop n) (by simp; omega)
  rw [List.take_append_drop] at hzip
  obtain ⟨hmem, hle⟩ := hzip
  unfold Machine.treeLevel
  rw [hhalf]
  refine ⟨by simp; omega, fun z hz => ?_, fun x hx => ?_⟩
  · obtain ⟨r, hr, rfl⟩ := List.mem_map.1 hz
    exact hmem r hr
  · obtain ⟨r, hr, hxr⟩ := hle x hx
    exact ⟨r.1, List.mem_map_of_mem hr, hxr⟩

/-- The tree of a power of two of operands gives a greatest one. -/
theorem Selects.tree {le : α → α → Prop} (hs : Selects le comb) (hrefl : ∀ x, le x x) (htrans : ∀ x y z, le x y → le y z → le x z)
    {j k : Nat} (hjk : j ≤ k) {xs : List α} (hl : xs.length = 2 ^ j) :
    ∃ z, (tree comb k xs).1 = [z] ∧ z ∈ xs ∧ ∀ x ∈ xs, le x z := by
  induction j generalizing k xs with
  | zero =>
    obtain ⟨z, rfl⟩ := List.length_eq_one_iff.1 hl
    exact ⟨z, tree_of_le_one k le_rfl, List.mem_singleton_self z, fun x hx => List.mem_singleton.1 hx ▸ hrefl z⟩
  | succ j ih =>
    obtain ⟨k, rfl⟩ : ∃ n, k = n + 1 := ⟨k - 1, by omega⟩
    have hpos := Nat.two_pow_pos j
    rw [pow_succ'] at hl
    obtain ⟨hlen, hmem, hle⟩ := hs.treeLevel hl
    obtain ⟨z, hz, hzmem, hzle⟩ := ih (k := k) (by omega) hlen
    refine ⟨z, (tree_succ_of_one_lt k (by omega)).trans hz, hmem z hzmem, fun x hx => ?_⟩
    obtain ⟨y, hy, hxy⟩ := hle x hx
    exact htrans x y z hxy (hzle y hy)

end

/-! ### Scans -/

section
variable {comb : Nat → Nat → LaneR}

theorem forall_scanStep {P : Nat → Prop} (hcomb : ∀ x y, P x → P y → P (comb x y).1) (d : Nat) {xs : List Nat} (h : ∀ x ∈ xs, P x) :
    ∀ y ∈ (scanStep comb d xs).1, P y := by
  intro y hy
  rcases List.mem_append.1 hy with hy | hy
  · exact h y (List.mem_of_mem_take hy)
  · obtain ⟨r, hr, rfl⟩ := List.mem_map.1 hy
    exact forall_zipWith hcomb h (fun x hx => h x (List.mem_of_mem_drop hx)) r hr

theorem forall_scan {P : Nat → Prop} (hcomb : ∀ x y, P x → P y → P (comb x y).1) (k d : Nat) {xs : List Nat} (h : ∀ x ∈ xs, P x) :
    ∀ y ∈ (scan comb k d xs).1, P y := by
  induction k generalizing d xs with
  | zero => exact h
  | succ k ih =>
    by_cases hd : d ≥ xs.length
    · rwa [scan, if_pos hd]
    · rw [scan, if_neg hd]
      exact ih (2 * d) (forall_scanStep hcomb d h)

end

/-! ### Exact prefixes and folds of integers (R80) -/

theorem getElem?_prefixes (f : Int → Int → Int) (acc : Int) (xs : List Int) {i : Nat} (hi : i < xs.length) :
    (prefixes f acc xs)[i]? = some ((xs.take (i + 1)).foldl f acc) := by
  induction xs generalizing acc i with
  | nil => exact absurd hi (Nat.not_lt_zero i)
  | cons x xs ih =>
    cases i with
    | zero => rfl
    | succ i => exact ih (f acc x) (Nat.lt_of_succ_lt_succ hi)

theorem length_prefixes (f : Int → Int → Int) (acc : Int) (xs : List Int) : (prefixes f acc xs).length = xs.length := by
  induction xs generalizing acc with
  | nil => rfl
  | cons x xs ih => exact congrArg (· + 1) (ih _)

/-- A fold that selects an operand by an order gives a greatest one. -/
theorem foldl_selects {comb : Int → Int → Int} {c : Int}
    (hs : ∀ x y, (comb x y = x ∨ comb x y = y) ∧ c * x ≤ c * comb x y ∧ c * y ≤ c * comb x y) (xs : List Int) (e : Int) :
    (xs.foldl comb e = e ∨ xs.foldl comb e ∈ xs) ∧ c * e ≤ c * xs.foldl comb e ∧ ∀ x ∈ xs, c * x ≤ c * xs.foldl comb e := by
  induction xs generalizing e with
  | nil => exact ⟨.inl rfl, le_rfl, fun x hx => absurd hx List.not_mem_nil⟩
  | cons x xs ih =>
    obtain ⟨hmem, hacc, hle⟩ := ih (comb e x)
    obtain ⟨hsel, he, hx⟩ := hs e x
    refine ⟨?_, he.trans hacc, List.forall_mem_cons.2 ⟨hx.trans hacc, hle⟩⟩
    rcases hmem with h | h
    · rw [List.foldl_cons, h]
      rcases hsel with h | h
      · exact .inl h
      · exact .inr (h.symm ▸ List.mem_cons_self)
    · exact .inr (List.mem_cons_of_mem x h)

theorem sum_map_ite {α : Type} (p : α → Bool) (f : α → Int) (xs : List α) :
    (xs.map fun i => if p i then f i else 0).sum = ((xs.filter p).map f).sum := by
  induction xs with
  | nil => rfl
  | cons x xs ih =>
    rw [List.map_cons, List.sum_cons, ih]
    cases h : p x <;> simp [h]

end Sys2Proof.Machine
end

section
/-! PROOF. The order of decoded values (R75): exact comparison is the order of a key, a NaN below every number. -/

namespace Sys2Proof.Machine

/-! ### Finite values as rationals -/

/-- The rational a finite value is. -/
def Real.rat : Real → ℚ
  | .fin neg num exp => (if neg then -1 else 1) * num * 2 ^ exp
  | _ => 0

/-- Over enough fraction bits the fixed-point integer is the value, scaled. -/
theorem Real.cast_fixedAt {v : Real} {k : Nat} (hk : v.frac ≤ k) : ((v.fixedAt k : Int) : ℚ) = v.rat * 2 ^ k := by
  cases v with
  | nan => simp [Real.fixedAt, Real.rat]
  | inf => simp [Real.fixedAt, Real.rat]
  | fin neg num exp =>
    have hexp : 0 ≤ exp + k := by
      have : fracBits exp ≤ k := hk
      unfold fracBits at this
      omega
    have hscaled : ((scaled num exp k : Nat) : ℚ) = num * 2 ^ exp * 2 ^ k := by
      rw [scaled, Nat.cast_mul, Nat.cast_pow, Nat.cast_ofNat, mul_assoc, ← zpow_natCast, ← zpow_natCast, Int.toNat_of_nonneg hexp,
        zpow_add₀ two_ne_zero]
    cases neg <;> simp [Real.fixedAt, Real.rat, hscaled]

theorem Real.fixedAt_lt_iff {v w : Real} {k : Nat} (hv : v.frac ≤ k) (hw : w.frac ≤ k) : v.fixedAt k < w.fixedAt k ↔ v.rat < w.rat := by
  rw [← Int.cast_lt (R := ℚ), cast_fixedAt hv, cast_fixedAt hw, mul_lt_mul_iff_left₀ (by positivity)]

theorem Real.fixedAt_eq_iff {v w : Real} {k : Nat} (hv : v.frac ≤ k) (hw : w.frac ≤ k) : v.fixedAt k = w.fixedAt k ↔ v.rat = w.rat := by
  rw [← Int.cast_inj (α := ℚ), cast_fixedAt hv, cast_fixedAt hw, mul_left_inj' (by positivity)]

theorem Real.isZero_fin_iff (neg : Bool) (num : Nat) (exp : Int) :
    (Real.fin neg num exp).isZero = true ↔ (Real.fin neg num exp).rat = 0 := by
  have hpow : (2 : ℚ) ^ exp ≠ 0 := zpow_ne_zero _ two_ne_zero
  have hsign : (if neg then (-1 : ℚ) else 1) ≠ 0 := by cases neg <;> simp
  have hzero : (Real.fin neg num exp).isZero = true ↔ num = 0 := by cases num <;> simp [Real.isZero]
  rw [hzero, Real.rat, mul_eq_zero, mul_eq_zero, or_iff_left hpow, or_iff_right hsign, Nat.cast_eq_zero]

/-! ### The key -/

/-- The key of R75: NaNs, minus infinity, the finite values with minus zero before plus zero, plus infinity. -/
def Real.key (v : Real) : ℤ ×ₗ ℚ ×ₗ ℤ :=
  toLex (match v with | .nan _ => -2 | .inf true => -1 | .fin .. => 0 | .inf false => 1,
    toLex (v.rat, if v.isZero && v.neg then -1 else 0))

/-- Of finite values: the lesser rational, or the minus zero of two zeros. -/
theorem Real.below_fin_iff_key (n : Bool) (m : Nat) (e : Int) (n' : Bool) (m' : Nat) (e' : Int) :
    (Real.fin n m e).below (.fin n' m' e') = true ↔ (Real.fin n m e).key < (Real.fin n' m' e').key := by
  have hz := isZero_fin_iff n m e
  have hz' := isZero_fin_iff n' m' e'
  have hn : (Real.fin n m e).neg = n := rfl
  have hn' : (Real.fin n' m' e').neg = n' := rfl
  have hlt := fixedAt_lt_iff (le_max_left (Real.fin n m e).frac (Real.fin n' m' e').frac) (le_max_right _ _)
  have heq := fixedAt_eq_iff (le_max_left (Real.fin n m e).frac (Real.fin n' m' e').frac) (le_max_right _ _)
  simp only [Real.below, Real.cmp, Real.key, Prod.Lex.toLex_lt_toLex, lt_self_iff_false, false_or, true_and, hlt, beq_iff_eq, heq, hn, hn']
  generalize (Real.fin n m e).rat = x at *
  generalize (Real.fin n' m' e').rat = y at *
  generalize (Real.fin n m e).isZero = z at *
  generalize (Real.fin n' m' e').isZero = z' at *
  rcases lt_trichotomy x y with h | h | h
  · simp [h]
  · subst h
    have : z = z' := by rw [Bool.eq_iff_iff, hz, hz']
    subst this
    cases z <;> cases n <;> cases n' <;> simp
  · simp [h.not_gt, h.ne']

/-- `below` is the order of the keys. -/
theorem Real.below_iff_key {v w : Real} (hv : v.isNaN = false) (hw : w.isNaN = false) : v.below w = true ↔ v.key < w.key := by
  cases v with
  | nan => exact absurd hv (by simp [Real.isNaN])
  | inf s =>
    cases w with
    | nan => exact absurd hw (by simp [Real.isNaN])
    | inf t => cases s <;> cases t <;> decide
    | fin n m e => cases s <;> simp [Real.below, Real.cmp, Real.key, Real.isZero, Prod.Lex.toLex_lt_toLex]
  | fin n m e =>
    cases w with
    | nan => exact absurd hw (by simp [Real.isNaN])
    | inf t => cases t <;> simp [Real.below, Real.cmp, Real.key, Real.isZero, Prod.Lex.toLex_lt_toLex]
    | fin n' m' e' => exact below_fin_iff_key n m e n' m' e'

/-! ### The larger of two lanes (R127) -/

/-- The key of a lane under a computational tag. -/
def argKey (t : Tag) (x : Nat) : ℤ ×ₗ ℚ ×ₗ ℤ :=
  if isInt t then toLex (0, toLex ((sInt t x : ℚ), 0)) else (decodeReal t x).key

/-- A NaN has the least key. -/
theorem Real.key_isNaN_lt {v w : Real} (hv : v.isNaN = true) : v.key < w.key ↔ w.isNaN = false := by
  cases v with
  | nan =>
    cases w with
    | nan => simp [Real.key, Real.isNaN, Real.rat, Real.isZero]
    | inf s => cases s <;> simp [Real.key, Real.isNaN, Prod.Lex.toLex_lt_toLex]
    | fin => simp [Real.key, Real.isNaN, Prod.Lex.toLex_lt_toLex]
  | inf => exact absurd hv Bool.false_ne_true
  | fin => exact absurd hv Bool.false_ne_true

theorem argLarger_iff (t : Tag) (y x : Nat) : argLarger t y x = true ↔ argKey t x < argKey t y := by
  unfold argLarger argKey
  split
  case isTrue => simp [Prod.Lex.toLex_lt_toLex, sInt]
  case isFalse =>
    dsimp only
    cases hy : (decodeReal t y).isNaN <;> cases hx : (decodeReal t x).isNaN
    · simpa using Real.below_iff_key hx hy
    · simpa using (Real.key_isNaN_lt hx).2 hy
    · have hle := (Real.key_isNaN_lt (w := decodeReal t x) hy).2 hx
      simpa using hle.le
    · simp [Real.key_isNaN_lt hx, hy]

theorem argLarger_eq_false_iff (t : Tag) (y x : Nat) : argLarger t y x = false ↔ argKey t y ≤ argKey t x := by
  rw [← Bool.not_eq_true, argLarger_iff, not_lt]

/-- What the tree of R127 selects by: an enabled lane, then the largest value, then the lowest index. -/
def argRank (t : Tag) (p : ArgPair) : Bool ×ₗ (ℤ ×ₗ ℚ ×ₗ ℤ) ×ₗ ℕᵒᵈ := toLex (p.1, toLex (argKey t p.2.1, OrderDual.toDual p.2.2))

theorem argRank_le_iff (t : Tag) (p q : ArgPair) : argRank t p ≤ argRank t q ↔
    p.1 < q.1 ∨ p.1 = q.1 ∧ (argKey t p.2.1 < argKey t q.2.1 ∨ argKey t p.2.1 = argKey t q.2.1 ∧ q.2.2 ≤ p.2.2) := by
  simp [argRank, Prod.Lex.toLex_le_toLex]

theorem selects_argNode (t : Tag) : Selects (fun p q => argRank t p ≤ argRank t q) (argNode t) := by
  rintro ⟨a, x, i⟩ ⟨b, y, j⟩
  simp only [argRank_le_iff, argNode, argLarger_iff]
  rcases lt_trichotomy (argKey t x) (argKey t y) with h | h | h
  · cases a <;> cases b <;> simp [h, h.not_gt]
  · cases a <;> cases b <;> simp [h] <;> grind
  · cases a <;> cases b <;> simp [h, h.not_gt]

end Sys2Proof.Machine
end

section
/-! PROOF. Reductions, scans and `vargmax` (R78 to R80, R126, R127). -/

namespace Sys2Proof.Machine

/-! ### Integer lanes and their fit (R80, R113) -/

theorem ofInt_lt (w : Nat) (y : Int) : ofInt w y < 2 ^ w := BitVec.isLt _

theorem fit_lt (w : Nat) (wr : Bool) (y : Int) : (fit w wr y).1 < 2 ^ w := by
  unfold fit
  split <;> exact ofInt_lt _ _

/-- The range of a lane's integer. -/
def InLane (w : Nat) (y : Int) : Prop := -(2 ^ (w - 1) : Int) ≤ y ∧ y ≤ (2 ^ (w - 1) : Int) - 1

theorem inLane_sInt (t : Tag) (x : Nat) : InLane (laneW t) (sInt t x) :=
  ⟨BitVec.le_toInt _, Int.le_sub_one_of_lt BitVec.toInt_lt⟩

theorem inLane_intIdent (op : RedOp) (w : Nat) : InLane w (intIdent op w) := by
  have hpos : (0 : Int) < 2 ^ (w - 1) := by positivity
  cases op <;> exact ⟨by simp only [intIdent]; omega, by simp only [intIdent]; omega⟩

theorem fit_of_inLane {w : Nat} {y : Int} (h : InLane w y) : fit w false y = (ofInt w y, 0) := by
  obtain ⟨hlo, hhi⟩ := h
  simp [fit, satS, not_lt.2 hlo, not_lt.2 hhi]

/-- What lane `i` enters an integer reduction as. -/
def intLane (op : RedOp) (x : VData) (m : BitVec 1024) (i : Nat) : Int :=
  if m.getLsbD i then sInt x.tag (lane x.tag x i) else intIdent op (laneW x.tag)

/-- The exact combination of the first `k` lanes. -/
def exactRed (op : RedOp) (x : VData) (m : BitVec 1024) (k : Nat) : Int :=
  ((List.range k).map (intLane op x m)).foldl (intComb op) (intIdent op (laneW x.tag))

theorem exactRed_add (x : VData) (m : BitVec 1024) (k : Nat) : exactRed .add x m k =
    (((List.range k).filter fun i => m.getLsbD i).map fun i => sInt x.tag (lane x.tag x i)).sum := by
  rw [← sum_map_ite, List.sum_eq_foldl]
  rfl

/-- The sign that turns an extreme into a maximum. -/
def RedOp.sign : RedOp → Int
  | .min => -1
  | _ => 1

theorem intComb_selects {op : RedOp} (hop : op ≠ .add) (x y : Int) : (intComb op x y = x ∨ intComb op x y = y) ∧
    op.sign * x ≤ op.sign * intComb op x y ∧ op.sign * y ≤ op.sign * intComb op x y := by
  cases op with
  | add => exact absurd rfl hop
  | max => simp only [intComb, RedOp.sign]; omega
  | min => simp only [intComb, RedOp.sign]; omega

/-- The identity of an extreme is no better than any lane. -/
theorem sign_mul_intIdent_le {op : RedOp} (hop : op ≠ .add) {w : Nat} {y : Int} (h : InLane w y) :
    op.sign * intIdent op w ≤ op.sign * y := by
  obtain ⟨hlo, hhi⟩ := h
  cases op with
  | add => exact absurd rfl hop
  | max => simp only [intIdent, RedOp.sign]; omega
  | min => simp only [intIdent, RedOp.sign]; omega

/-- An extreme of the first `k` lanes: the best enabled one, or the identity. -/
theorem exactRed_extreme {op : RedOp} (hop : op ≠ .add) (x : VData) (m : BitVec 1024) (k : Nat) :
    (∀ i < k, m.getLsbD i = true → op.sign * sInt x.tag (lane x.tag x i) ≤ op.sign * exactRed op x m k) ∧
    ((∀ i < k, m.getLsbD i = false) → exactRed op x m k = intIdent op (laneW x.tag)) ∧
    ((∃ i < k, m.getLsbD i = true) → ∃ i < k, m.getLsbD i = true ∧ exactRed op x m k = sInt x.tag (lane x.tag x i)) := by
  obtain ⟨hmem, hident, hle⟩ := foldl_selects (intComb_selects hop) ((List.range k).map (intLane op x m)) (intIdent op (laneW x.tag))
  have hlane : ∀ i < k, m.getLsbD i = true → op.sign * sInt x.tag (lane x.tag x i) ≤ op.sign * exactRed op x m k := fun i hi hm => by
    have h := hle _ (List.mem_map_of_mem (List.mem_range.2 hi))
    rwa [intLane, if_pos hm] at h
  have hcases : exactRed op x m k = intIdent op (laneW x.tag) ∨
      ∃ i < k, m.getLsbD i = true ∧ exactRed op x m k = sInt x.tag (lane x.tag x i) := by
    rcases hmem with h | h
    · exact .inl h
    · obtain ⟨i, hi, he⟩ := List.mem_map.1 h
      by_cases hm : m.getLsbD i = true
      · exact .inr ⟨i, List.mem_range.1 hi, hm, by rw [exactRed, ← he, intLane, if_pos hm]⟩
      · exact .inl (by rw [exactRed, ← he, intLane, if_neg hm])
  refine ⟨hlane, fun hoff => ?_, fun ⟨i, hi, hm⟩ => ?_⟩
  · rcases hcases with h | ⟨i, hi, hm, -⟩
    · exact h
    · exact absurd (hoff i hi) (by simp [hm])
  · rcases hcases with h | h
    · refine ⟨i, hi, hm, ?_⟩
      have h1 := hlane i hi hm
      have h2 := sign_mul_intIdent_le hop (inLane_sInt x.tag (lane x.tag x i))
      rw [h] at h1 ⊢
      cases op with
      | add => exact absurd rfl hop
      | max => simp only [RedOp.sign] at h1 h2; omega
      | min => simp only [RedOp.sign] at h1 h2; omega
    · exact h

theorem inLane_exactRed {op : RedOp} (hop : op ≠ .add) (x : VData) (m : BitVec 1024) (k : Nat) : InLane (laneW x.tag) (exactRed op x m k) := by
  obtain ⟨-, hoff, hon⟩ := exactRed_extreme hop x m k
  by_cases h : ∃ i < k, m.getLsbD i = true
  · obtain ⟨i, -, -, he⟩ := hon h
    exact he ▸ inLane_sInt _ _
  · push Not at h
    exact hoff (fun i hi => by simpa using h i hi) ▸ inLane_intIdent op _

theorem mem_filter_range {k i : Nat} {m : BitVec 1024} : i ∈ (List.range k).filter (fun i => m.getLsbD i) ↔ i < k ∧ m.getLsbD i = true := by
  simp

/-- The lanes up to `i` of those that are on. -/
theorem filter_le_filter_range {n i : Nat} (hi : i < n) (p : Nat → Bool) :
    ((List.range n).filter p).filter (fun j => decide (j ≤ i)) = (List.range (i + 1)).filter p := by
  obtain ⟨r, rfl⟩ := Nat.exists_eq_add_of_le (Nat.succ_le_of_lt hi)
  rw [List.range_add, List.filter_append, List.filter_append, List.filter_filter, List.filter_filter]
  have hlow : (List.range (i + 1)).filter (fun j => decide (j ≤ i) && p j) = (List.range (i + 1)).filter p :=
    List.filter_congr fun j hj => by simp [Nat.lt_succ_iff.1 (List.mem_range.1 hj)]
  have hhigh : ((List.range r).map (i + 1 + ·)).filter (fun j => decide (j ≤ i) && p j) = [] := by
    rw [List.filter_eq_nil_iff]
    intro j hj
    obtain ⟨k, -, rfl⟩ := List.mem_map.1 hj
    simp; omega
  rw [Nat.succ_eq_add_one, hlow, hhigh, List.append_nil]

/-! ### What a reduction writes (R126) -/

theorem isComp_of_isInt {t : Tag} (h : isInt t = true) : isComp t = true := by simp [isComp, h]

theorem isComp_of_isFloat {t : Tag} (h : isFloat t = true) : isComp t = true := by simp [isComp, h]

/-- A whole-register result with its value in lane 0. -/
theorem putAll_lane0 (lat : Nat) (d : VReg) (t : Tag) {y : Nat} (hy : y < 2 ^ laneW t) (fl : Flags) (s : State) :
    WritesV lat d t fl (fun i _ => if i = 0 then y else 0) s (.next (putAll lat d t (BitVec.ofNat 8192 y) fl s)) := by
  have hpack : BitVec.ofNat 8192 y = packLanes (laneW t) [y] := by simp [packLanes, Nat.mod_eq_of_lt hy]
  refine (putAll_writes lat d t _ fl s).congr_lt fun i hi _ => ?_
  rw [hpack, laneBits_packLanes _ _ _ (laneW_pos t) (lane_room hi)]
  cases i with
  | zero => exact Nat.mod_eq_of_lt hy
  | succ i => exact Nat.zero_mod _

theorem isComp_ne {t : Tag} (h : isComp t = true) : t ≠ .none ∧ t ≠ .poison :=
  ⟨fun e => by simp [e, isComp, isInt, isFloat] at h, fun e => by simp [e, isComp, isInt, isFloat] at h⟩

section
variable {s : State} {a : VReg} (hc : isComp (rdV s a).tag = true)
include hc

theorem srcCheck_comp : srcCheck s isComp a = none := srcCheck_ok rfl hc (isComp_ne hc).1 (isComp_ne hc).2

theorem reduce_writes (op : RedOp) (d : VReg) (m : Sys2Proof.MReg) (rm : Rm)
    (hlt : (reduceVal op (rmOf s rm) (rdV s a) (rdM s m)).1 < 2 ^ laneW (rdV s a).tag) :
    let r := reduceVal op (rmOf s rm) (rdV s a) (rdM s m)
    WritesV 6 d (rdV s a).tag r.2 (fun i _ => if i = 0 then r.1 else 0) s (.next (reduce op d a m rm s)) := by
  intro r
  rw [reduce, srcCheck_comp hc, checked_none]
  exact putAll_lane0 6 d _ hlt r.2 s

/-- The operation a `vscan` names. -/
def scanOp (o : Fin 4) : RedOp := match o.val with | 0 => .add | 1 => .max | _ => .min

theorem vscan_writes (d : VReg) (m : Sys2Proof.MReg) (o : Fin 4) (rm : Rm) :
    let r := scanVal (scanOp o) (rmOf s rm) (rdV s a) (rdM s m)
    WritesV 6 d (rdV s a).tag r.2 (fun i _ => r.1.getD i 0 % 2 ^ laneW (rdV s a).tag) s (exec (.vscan d a m o rm) s) := by
  intro r
  rw [exec_vscan, execVscan, srcCheck_comp hc, checked_none]
  refine (putAll_writes 6 d (rdV s a).tag (packLanes _ r.1) r.2 s).congr_lt fun i hi _ => ?_
  exact laneBits_packLanes _ _ _ (laneW_pos _) (lane_room hi)

end

/-! ### Integer reductions -/

theorem prefixes_map_range (f : Int → Int → Int) (e : Int) (g : Nat → Int) (n : Nat) :
    prefixes f e ((List.range n).map g) = (List.range n).map fun i => ((List.range (i + 1)).map g).foldl f e := by
  refine List.ext_getElem? fun i => ?_
  by_cases hi : i < n
  · rw [getElem?_prefixes f e _ (by simpa using hi), ← List.map_take, List.take_range, min_eq_left (Nat.succ_le_of_lt hi),
      List.getElem?_map, List.getElem?_range hi]
    rfl
  · rw [List.getElem?_eq_none (by simpa [length_prefixes] using hi), List.getElem?_eq_none (by simpa using hi)]

section
variable {x : VData} (hx : isInt x.tag = true) (op : RedOp) (rm : Rm) (m : BitVec 1024)
include hx

theorem reduceVal_int : reduceVal op rm x m = fit (laneW x.tag) false (exactRed op x m (lanes x.tag)) :=
  if_pos hx

theorem scanVal_int : scanVal op rm x m =
    ((List.range (lanes x.tag)).map fun i => (fit (laneW x.tag) false (exactRed op x m (i + 1))).1,
      unionFlags (lanes x.tag) (fun _ => true) fun i => (fit (laneW x.tag) false (exactRed op x m (i + 1))).2) := by
  have hys : (prefixes (intComb op) (intIdent op (laneW x.tag)) (redInts op x m)).map (fit (laneW x.tag) false) =
      (List.range (lanes x.tag)).map fun i => fit (laneW x.tag) false (exactRed op x m (i + 1)) := by
    have hp := prefixes_map_range (intComb op) (intIdent op (laneW x.tag)) (intLane op x m) (lanes x.tag)
    exact (congrArg (List.map _) hp).trans List.map_map
  rw [scanVal, if_pos hx, hys]
  exact Prod.ext List.map_map (laneFlags_on _ (fun _ => true) _)

end

theorem reduce_int_writes {s : State} {a : VReg} (hx : isInt (rdV s a).tag = true) (op : RedOp) (d : VReg) (m : Sys2Proof.MReg) (rm : Rm) :
    let r := fit (laneW (rdV s a).tag) false (exactRed op (rdV s a) (rdM s m) (lanes (rdV s a).tag))
    WritesV 6 d (rdV s a).tag r.2 (fun i _ => if i = 0 then r.1 else 0) s (.next (reduce op d a m rm s)) := by
  have hwrites := reduce_writes (isComp_of_isInt hx) op d m rm (by rw [reduceVal_int hx]; exact fit_lt _ _ _)
  rwa [reduceVal_int hx] at hwrites

theorem vscan_int_writes {s : State} {a : VReg} (hx : isInt (rdV s a).tag = true) (d : VReg) (m : Sys2Proof.MReg) (o : Fin 4) (rm : Rm) :
    let y := fun i => fit (laneW (rdV s a).tag) false (exactRed (scanOp o) (rdV s a) (rdM s m) (i + 1))
    WritesV 6 d (rdV s a).tag (unionFlags (lanes (rdV s a).tag) (fun _ => true) fun i => (y i).2) (fun i _ => (y i).1) s
      (exec (.vscan d a m o rm) s) := by
  intro y
  have hwrites := vscan_writes (isComp_of_isInt hx) d m o rm
  rw [scanVal_int hx] at hwrites
  refine hwrites.congr_lt fun i hi _ => ?_
  rw [List.getD_eq_getElem?_getD, List.getElem?_map, List.getElem?_range hi]
  exact Nat.mod_eq_of_lt (fit_lt _ _ _)

/-- An extreme of all enabled lanes, without a flag. -/
theorem reduce_extreme_writes {s : State} {a : VReg} (hx : isInt (rdV s a).tag = true) {op : RedOp} (hop : op ≠ .add) (d : VReg)
    (m : Sys2Proof.MReg) (rm : Rm) :
    let t := (rdV s a).tag
    let val := fun i => sInt t (lane t (rdV s a) i)
    let on := (List.range (lanes t)).filter fun i => (rdM s m).getLsbD i
    ∃ y : Int, WritesV 6 d t 0 (fun i _ => if i = 0 then ofInt (laneW t) y else 0) s (.next (reduce op d a m rm s)) ∧
      (∀ i ∈ on, op.sign * val i ≤ op.sign * y) ∧ (on = [] → y = intIdent op (laneW t)) ∧ (on ≠ [] → ∃ i ∈ on, y = val i) := by
  intro t val on
  obtain ⟨hle, hoff, hon⟩ := exactRed_extreme hop (rdV s a) (rdM s m) (lanes t)
  have hwrites := reduce_int_writes hx op d m rm
  rw [fit_of_inLane (inLane_exactRed hop _ _ _)] at hwrites
  refine ⟨_, hwrites, fun i hi => ?_, fun hnil => hoff fun i hi => ?_, fun hne => ?_⟩
  · obtain ⟨hi, hm⟩ := mem_filter_range.1 hi
    exact hle i hi hm
  · by_contra hm
    have hmem : i ∈ on := mem_filter_range.2 ⟨hi, by simpa using hm⟩
    exact List.not_mem_nil (hnil ▸ hmem)
  · obtain ⟨i, hi⟩ := List.exists_mem_of_ne_nil on hne
    obtain ⟨j, hj, hm, he⟩ := hon ⟨i, mem_filter_range.1 hi⟩
    exact ⟨j, mem_filter_range.2 ⟨hj, hm⟩, he⟩

/-- The sums up to each lane, each fitted once. -/
theorem vscan_add_writes {s : State} {a : VReg} (hx : isInt (rdV s a).tag = true) (d : VReg) (m : Sys2Proof.MReg) (rm : Rm) :
    let t := (rdV s a).tag
    let on := (List.range (lanes t)).filter fun i => (rdM s m).getLsbD i
    let y := fun i => fitLane t false ((on.filter fun j => decide (j ≤ i)).map fun j => sInt t (lane t (rdV s a) j)).sum
    WritesV 6 d t (unionFlags (lanes t) (fun _ => true) fun i => (y i).2) (fun i _ => (y i).1) s (exec (.vscan d a m 0 rm) s) := by
  intro t on y
  have hy : ∀ i < lanes t, fit (laneW t) false (exactRed .add (rdV s a) (rdM s m) (i + 1)) = y i := fun i hi => by
    rw [exactRed_add, ← fit_eq, ← filter_le_filter_range hi]
  refine ((vscan_int_writes hx d m 0 rm).congr ?_ fun _ _ => rfl).congr_lt fun i hi _ => congrArg Prod.fst (hy i hi)
  exact congrArg orFlags (List.map_congr_left fun i hi => congrArg Prod.snd (hy i (List.mem_range.1 hi)))

/-- The extremes of the prefixes, without a flag. -/
theorem vscan_extreme_writes {s : State} {a : VReg} (hx : isInt (rdV s a).tag = true) {o : Fin 4} (hop : scanOp o ≠ .add) (d : VReg)
    (m : Sys2Proof.MReg) (rm : Rm) :
    let t := (rdV s a).tag
    let val := fun i => sInt t (lane t (rdV s a) i)
    let on := (List.range (lanes t)).filter fun i => (rdM s m).getLsbD i
    ∃ y : Nat → Int, WritesV 6 d t 0 (fun i _ => ofInt (laneW t) (y i)) s (exec (.vscan d a m o rm) s) ∧
      ∀ i < lanes t, (∀ j ∈ on, j ≤ i → (scanOp o).sign * val j ≤ (scanOp o).sign * y i) ∧
        ((∀ j ∈ on, i < j) → y i = intIdent (scanOp o) (laneW t)) ∧ ((∃ j ∈ on, j ≤ i) → ∃ j ∈ on, j ≤ i ∧ y i = val j) := by
  intro t val on
  have hfit := fun i => fit_of_inLane (inLane_exactRed hop (rdV s a) (rdM s m) (i + 1))
  have hwrites := vscan_int_writes hx d m o rm
  simp only [hfit] at hwrites
  refine ⟨_, hwrites.congr (unionFlags_zero _ _) fun _ _ => rfl, fun i hi => ?_⟩
  obtain ⟨hle, hoff, hon⟩ := exactRed_extreme hop (rdV s a) (rdM s m) (i + 1)
  refine ⟨fun j hj hji => ?_, fun hlate => hoff fun j hj => ?_, fun ⟨j, hj, hji⟩ => ?_⟩
  · exact hle j (Nat.lt_succ_of_le hji) (mem_filter_range.1 hj).2
  · by_contra hm
    have hlt := hlate j (mem_filter_range.2 ⟨by omega, by simpa using hm⟩)
    omega
  · obtain ⟨k, hk, hm, he⟩ := hon ⟨j, Nat.lt_succ_of_le hji, (mem_filter_range.1 hj).2⟩
    exact ⟨k, mem_filter_range.2 ⟨by omega, hm⟩, Nat.le_of_lt_succ hk, he⟩

/-! ### Floating reductions -/

theorem headD_of_forall {P : Nat → Prop} (h0 : P 0) {xs : List Nat} (h : ∀ y ∈ xs, P y) : P (xs.headD 0) := by
  cases xs with
  | nil => exact h0
  | cons y ys => exact h y List.mem_cons_self

theorem getD_of_forall {P : Nat → Prop} (h0 : P 0) {xs : List Nat} (h : ∀ y ∈ xs, P y) (i : Nat) : P (xs.getD i 0) := by
  by_cases hi : i < xs.length
  · rw [List.getD_eq_getElem _ _ hi]
    exact h _ (List.getElem_mem hi)
  · rwa [List.getD_eq_default _ _ (not_lt.1 hi)]

section
variable {f : Fmt} (hf : f.Ieee)
include hf

theorem fMaxMin_lt (mx : Bool) {x y : Nat} (hx : x < 2 ^ (f.ebits + f.p)) (hy : y < 2 ^ (f.ebits + f.p)) :
    (fMaxMin f mx x y).1 < 2 ^ (f.ebits + f.p) := by
  have hnan := canonNaN_lt hf
  unfold fMaxMin
  grind

theorem redComb_lt (op : RedOp) (rm : Rm) (x y : Nat) (hx : x < 2 ^ (f.ebits + f.p)) (hy : y < 2 ^ (f.ebits + f.p)) :
    (redComb op f rm x y).1 < 2 ^ (f.ebits + f.p) := by
  cases op with
  | add => exact round_lt hf rm _
  | max => exact fMaxMin_lt hf true hx hy
  | min => exact fMaxMin_lt hf false hx hy

theorem redIdent_lt (op : RedOp) : redIdent op f < 2 ^ (f.ebits + f.p) := by
  cases op with
  | add => simpa [redIdent] using signed_lt hf true (Nat.two_pow_pos _ : 0 < f.signBit)
  | max => exact infPat_lt hf true
  | min => exact infPat_lt hf false

theorem canonPat_lt {x : Nat} (hx : x < 2 ^ (f.ebits + f.p)) : canonPat f x < 2 ^ (f.ebits + f.p) := by
  unfold canonPat
  split
  · exact canonNaN_lt hf
  · exact hx

/-- The pattern 0 is a number. -/
theorem canonPat_zero : canonPat f 0 = 0 := by
  have hne : 0 ≠ 2 ^ f.ebits - 1 := by have := hf.four_le; omega
  simp [canonPat, decodeFmt, hf.infs, hne, Real.isNaN]

end

section
variable {x : VData} (hx : isFloat x.tag = true) (op : RedOp) (rm : Rm) (m : BitVec 1024)
include hx

theorem isInt_of_isFloat : isInt x.tag = false := by
  obtain h | h := isFloat_cases hx <;> rw [h] <;> rfl

theorem reduceVal_float : reduceVal op rm x m =
    ((tree (redComb op (fmtOf x.tag) rm) 10 (redLanes op x m)).1.headD 0, (tree (redComb op (fmtOf x.tag) rm) 10 (redLanes op x m)).2) := by
  rw [reduceVal, if_neg (by simp [isInt_of_isFloat hx])]

theorem scanVal_float : scanVal op rm x m =
    ((scan (redComb op (fmtOf x.tag) rm) 10 1 (redLanes op x m)).1.map (canonPat (fmtOf x.tag)),
      (scan (redComb op (fmtOf x.tag) rm) 10 1 (redLanes op x m)).2) := by
  rw [scanVal, if_neg (by simp [isInt_of_isFloat hx])]

theorem redLanes_lt : ∀ y ∈ redLanes op x m, y < 2 ^ ((fmtOf x.tag).ebits + (fmtOf x.tag).p) := by
  intro y hy
  obtain ⟨i, -, rfl⟩ := List.mem_map.1 hy
  split
  · rw [← laneW_eq_of_isFloat hx]
    exact lane_lt _ _ _
  · exact redIdent_lt (ieee_fmtOf hx) op

theorem reduceVal_float_lt : (reduceVal op rm x m).1 < 2 ^ laneW x.tag := by
  rw [reduceVal_float hx, laneW_eq_of_isFloat hx]
  exact headD_of_forall (Nat.two_pow_pos _) (forall_tree (redComb_lt (ieee_fmtOf hx) op rm) 10 (redLanes_lt hx op m))

theorem getD_scanVal_float (i : Nat) : (scanVal op rm x m).1.getD i 0 % 2 ^ laneW x.tag =
    canonPat (fmtOf x.tag) ((scan (redComb op (fmtOf x.tag) rm) 10 1 (redLanes op x m)).1.getD i 0) := by
  have hf := ieee_fmtOf hx
  have hlt := forall_scan (redComb_lt hf op rm) 10 1 (redLanes_lt hx op m)
  have hget : (scanVal op rm x m).1.getD i 0 =
      canonPat (fmtOf x.tag) ((scan (redComb op (fmtOf x.tag) rm) 10 1 (redLanes op x m)).1.getD i 0) := by
    rw [scanVal_float hx, ← List.getD_map _ _ (canonPat (fmtOf x.tag)), canonPat_zero hf]
  rw [hget, laneW_eq_of_isFloat hx]
  exact Nat.mod_eq_of_lt (canonPat_lt hf (getD_of_forall (Nat.two_pow_pos _) hlt i))

end

theorem reduce_float_writes {s : State} {a : VReg} (hx : isFloat (rdV s a).tag = true) (op : RedOp) (d : VReg) (m : Sys2Proof.MReg)
    (rm : Rm) :
    let r := tree (redComb op (fmtOf (rdV s a).tag) (rmOf s rm)) 10 (redLanes op (rdV s a) (rdM s m))
    WritesV 6 d (rdV s a).tag r.2 (fun i _ => if i = 0 then r.1.headD 0 else 0) s (.next (reduce op d a m rm s)) := by
  have hwrites := reduce_writes (isComp_of_isFloat hx) op d m rm (reduceVal_float_lt hx op (rmOf s rm) _)
  rwa [reduceVal_float hx] at hwrites

theorem vscan_float_writes {s : State} {a : VReg} (hx : isFloat (rdV s a).tag = true) (d : VReg) (m : Sys2Proof.MReg) (o : Fin 4)
    (rm : Rm) :
    let f := fmtOf (rdV s a).tag
    let r := scan (redComb (scanOp o) f (rmOf s rm)) 10 1 (redLanes (scanOp o) (rdV s a) (rdM s m))
    WritesV 6 d (rdV s a).tag r.2 (fun i _ => canonPat f (r.1.getD i 0)) s (exec (.vscan d a m o rm) s) := by
  intro f r
  refine (vscan_writes (isComp_of_isFloat hx) d m o rm).congr ?_ fun i _ => getD_scanVal_float hx _ _ _ i
  rw [scanVal_float hx]

/-! ### `vargmax` (R127) -/

theorem lanes_two_pow (t : Tag) : ∃ j ≤ 10, lanes t = 2 ^ j := by
  cases t <;> decide

/-- The pair of lane `i` in the tree. -/
def argPair (x : VData) (m : BitVec 1024) (i : Nat) : ArgPair := (m.getLsbD i, lane x.tag x i, i)

/-- The pair the tree leaves. -/
def argWinner (x : VData) (m : BitVec 1024) : ArgPair :=
  (tree (argNode x.tag) 10 ((List.range (lanes x.tag)).map (argPair x m))).1.headD (false, 0, 0)

/-- The tree leaves the pair of a lane of greatest rank. -/
theorem argWinner_spec (x : VData) (m : BitVec 1024) : ∃ k < lanes x.tag, argWinner x m = argPair x m k ∧
    ∀ j < lanes x.tag, argRank x.tag (argPair x m j) ≤ argRank x.tag (argPair x m k) := by
  obtain ⟨j, hj, hl⟩ := lanes_two_pow x.tag
  obtain ⟨z, hz, hmem, hle⟩ := (selects_argNode x.tag).tree (fun _ => le_rfl) (fun _ _ _ => le_trans) hj
    (xs := (List.range (lanes x.tag)).map (argPair x m)) (by simpa using hl)
  obtain ⟨k, hk, rfl⟩ := List.mem_map.1 hmem
  exact ⟨k, List.mem_range.1 hk, by rw [argWinner, hz]; rfl, fun j hj => hle _ (List.mem_map_of_mem (List.mem_range.2 hj))⟩

theorem orFlags_map_ite {α : Type} (p : α → Bool) (g : Flags) (xs : List α) :
    orFlags (xs.map fun i => if p i then g else 0) = if xs.any p then g else 0 := by
  induction xs with
  | nil => rfl
  | cons x xs ih =>
    rw [List.map_cons, orFlags_cons, ih, List.any_cons]
    cases p x <;> cases xs.any p <;> simp

/-- What `vargmax` raises: NV for an enabled signalling NaN. -/
theorem argFlags_eq (x : VData) (m : BitVec 1024) :
    orFlags (((List.range (lanes x.tag)).map (argPair x m)).map fun p => if p.1 then sigFlag [decodeReal x.tag p.2.1] else 0) =
      if (List.range (lanes x.tag)).any fun i => (decide (i < lanes x.tag) && m.getLsbD i) && (decodeReal x.tag (lane x.tag x i)).isSig
      then fNV else 0 := by
  rw [← orFlags_map_ite, List.map_map]
  refine congrArg orFlags (List.map_congr_left fun i hi => ?_)
  have hlt : decide (i < lanes x.tag) = true := decide_eq_true (List.mem_range.1 hi)
  rw [hlt]
  cases hm : m.getLsbD i <;> cases hs : (decodeReal x.tag (lane x.tag x i)).isSig <;> simp [argPair, sigFlag, hm, hs]

theorem vargmax_writes {s : State} {a : VReg} (hc : isComp (rdV s a).tag = true) (d : VReg) (m : Sys2Proof.MReg) :
    let r := argWinner (rdV s a) (rdM s m)
    WritesV 6 d .i32 (if isFloat (rdV s a).tag then orFlags (((List.range (lanes (rdV s a).tag)).map (argPair (rdV s a) (rdM s m))).map
        fun p => if p.1 then sigFlag [decodeReal (rdV s a).tag p.2.1] else 0) else 0)
      (fun i _ => if i = 0 then (if r.1 then r.2.2 else 0xFFFFFFFF) else 0) s (exec (.vargmax d a m) s) := by
  intro r
  rw [exec_vargmax, execVargmax, srcCheck_comp hc, checked_none]
  refine putAll_lane0 6 d .i32 ?_ _ s
  show (if r.1 then r.2.2 else 0xFFFFFFFF) < 2 ^ 32
  obtain ⟨k, hk, hw, -⟩ := argWinner_spec (rdV s a) (rdM s m)
  obtain ⟨j, hj, hl⟩ := lanes_two_pow (rdV s a).tag
  have hle : 2 ^ j ≤ 2 ^ 10 := Nat.pow_le_pow_right (by decide) hj
  rw [show r = _ from hw]
  cases hm : (rdM s m).getLsbD k
  · simp [argPair, hm]
  · simp only [argPair, hm, if_true]
    omega

/-- The winner's index: −1 with no lane enabled, else the lowest index of the largest enabled value. -/
theorem argWinner_index (x : VData) (m : BitVec 1024) :
    let on := fun i => decide (i < lanes x.tag) && m.getLsbD i
    let k := if (argWinner x m).1 then (argWinner x m).2.2 else 0xFFFFFFFF
    ((∀ i, on i = false) → k = 0xFFFFFFFF) ∧
      ((∃ i, on i = true) → on k = true ∧ ∀ j, on j = true → argLarger x.tag (lane x.tag x j) (lane x.tag x k) = false ∧
        (argLarger x.tag (lane x.tag x k) (lane x.tag x j) = false → k ≤ j)) := by
  intro on k
  obtain ⟨i, hi, hwin, hle⟩ := argWinner_spec x m
  have hk : k = if m.getLsbD i then i else 0xFFFFFFFF := by simp only [k, hwin, argPair]
  have hon : ∀ j, on j = true ↔ j < lanes x.tag ∧ m.getLsbD j = true := fun j => by simp [on]
  refine ⟨fun hoff => ?_, fun ⟨j, hj⟩ => ?_⟩
  · have hm : m.getLsbD i = false := by simpa [on, hi] using hoff i
    rw [hk, hm]
    rfl
  · have hm : m.getLsbD i = true := by
      have hrank := hle j ((hon j).1 hj).1
      rw [argRank_le_iff] at hrank
      simp only [argPair, ((hon j).1 hj).2] at hrank
      cases h : m.getLsbD i
      · rw [h] at hrank
        exact absurd hrank (by simp)
      · rfl
    rw [hm, if_pos rfl] at hk
    rw [hk]
    refine ⟨(hon i).2 ⟨hi, hm⟩, fun j hj => ?_⟩
    have hrank := hle j ((hon j).1 hj).1
    rw [argRank_le_iff] at hrank
    simp only [argPair, ((hon j).1 hj).2, hm, lt_self_iff_false, false_or, true_and] at hrank
    rw [argLarger_eq_false_iff, argLarger_eq_false_iff]
    rcases hrank with h | ⟨h, hij⟩
    · exact ⟨h.le, fun hge => absurd h hge.not_gt⟩
    · exact ⟨h.le, fun _ => hij⟩

/-- Settles O25: the exact combination of integers, the tree and the scan of floating lanes, and the greatest pair of `vargmax`. -/
theorem reductionEffects : Obligations.ReductionEffects := by
  refine ⟨fun s d a m rm t ht => ?reductions, fun s d a m t ht hc => ?argmax⟩
  case reductions =>
    subst ht
    intro mk val on lane0 ins tr f
    refine ⟨fun hi => ⟨?add, ?max, ?min, vscan_add_writes hi d m rm, fun o ho => ?scanExtreme⟩,
      fun hf => ⟨reduce_float_writes hf .add d m rm, reduce_float_writes hf .max d m .rne, reduce_float_writes hf .min d m .rne,
        fun o ho => ?scanFloat⟩⟩
    case add =>
      have hwrites := reduce_int_writes hi .add d m rm
      rwa [exactRed_add, ← fit_eq] at hwrites
    case max =>
      obtain ⟨y, hy, hle, hident⟩ := reduce_extreme_writes hi (op := .max) (by decide) d m .rne
      exact ⟨y, hy, fun i hi => by simpa [RedOp.sign] using hle i hi, hident⟩
    case min =>
      obtain ⟨y, hy, hle, hident⟩ := reduce_extreme_writes hi (op := .min) (by decide) d m .rne
      exact ⟨y, hy, fun i hi => by simpa [RedOp.sign] using hle i hi, hident⟩
    case scanExtreme =>
      simp only [List.mem_cons, List.not_mem_nil, or_false] at ho
      obtain rfl | rfl := ho
      · exact vscan_extreme_writes hi (o := 1) (by decide) d m rm
      · exact vscan_extreme_writes hi (o := 2) (by decide) d m rm
    case scanFloat =>
      simp only [List.mem_cons, List.not_mem_nil, or_false] at ho
      obtain rfl | rfl | rfl := ho
      · exact vscan_float_writes hf d m 0 rm
      · exact vscan_float_writes hf d m 1 rm
      · exact vscan_float_writes hf d m 2 rm
  case argmax =>
    subst ht
    intro on at_
    obtain ⟨hnone, hsome⟩ := argWinner_index (rdV s a) (rdM s m)
    refine ⟨_, _, vargmax_writes hc d m, fun hi => if_neg ?_, fun hf => (if_pos hf).trans (argFlags_eq _ _), hnone, hsome⟩
    intro hf
    exact absurd hi (by simp [isInt_of_isFloat hf])

end Sys2Proof.Machine
end

section
/-! PROOF. The bytes of E2M1X blocks in a register (R66, R67, R129): numbers as sums of their bytes, and a merge of blocks. -/

namespace Sys2Proof.Machine

/-! ### Numbers as sums of bytes -/

/-- The number with the given bytes. -/
def byteSum (n : Nat) (f : Nat → Nat) : Nat := ∑ i ∈ Finset.range n, f i * 256 ^ i

theorem byteSum_add (n : Nat) (f g : Nat → Nat) : byteSum n f + byteSum n g = byteSum n fun i => f i + g i := by
  simp only [byteSum, ← Finset.sum_add_distrib, Nat.add_mul]

theorem byteSum_congr {n : Nat} {f g : Nat → Nat} (h : ∀ i < n, f i = g i) : byteSum n f = byteSum n g :=
  Finset.sum_congr rfl fun i hi => by rw [h i (Finset.mem_range.1 hi)]

theorem sum_byteSum (m n : Nat) (f : Nat → Nat → Nat) :
    ∑ j ∈ Finset.range m, byteSum n (f j) = byteSum n fun i => ∑ j ∈ Finset.range m, f j i := by
  simp only [byteSum, Finset.sum_mul]
  exact Finset.sum_comm

theorem byteSum_succ (n : Nat) (f : Nat → Nat) : byteSum (n + 1) f = 256 * byteSum n (fun i => f (i + 1)) + f 0 := by
  rw [byteSum, Finset.sum_range_succ', byteSum, Finset.mul_sum, pow_zero, Nat.mul_one]
  congr 1
  exact Finset.sum_congr rfl fun i _ => by rw [pow_succ]; ring

theorem byteSum_div_mod {n : Nat} {f : Nat → Nat} (h : ∀ i, f i < 256) {k : Nat} (hk : k < n) : byteSum n f / 256 ^ k % 256 = f k := by
  induction k generalizing n f with
  | zero =>
    obtain ⟨n, rfl⟩ := Nat.exists_eq_succ_of_ne_zero (Nat.ne_of_gt hk)
    rw [byteSum_succ, pow_zero, Nat.div_one, Nat.mul_add_mod, Nat.mod_eq_of_lt (h 0)]
  | succ k ih =>
    obtain ⟨n, rfl⟩ := Nat.exists_eq_succ_of_ne_zero (Nat.ne_zero_of_lt hk)
    rw [byteSum_succ, pow_succ', ← Nat.div_div_eq_div_mul, Nat.mul_add_div (by decide), Nat.div_eq_of_lt (h 0), Nat.add_zero]
    exact ih (fun i => h (i + 1)) (Nat.lt_of_succ_lt_succ hk)

/-- The byte of a register made of bytes. -/
theorem laneBits_byteSum {f : Nat → Nat} (h : ∀ i, f i < 256) {k : Nat} (hk : k < 1024) :
    laneBits (BitVec.ofNat 8192 (byteSum 1024 f)) 8 k = f k := by
  rw [← byteSum_div_mod h hk]
  apply Nat.eq_of_testBit_eq
  intro j
  rw [testBit_laneBits, BitVec.getLsbD_ofNat, show (256 : Nat) ^ k = 2 ^ (8 * k) by rw [pow_mul]; rfl, show (256 : Nat) = 2 ^ 8 from rfl,
    Nat.testBit_mod_two_pow, Nat.testBit_div_two_pow, Nat.add_comm j]
  by_cases hj : j < 8
  · rw [decide_eq_true (show 8 * k + j < 8192 by omega), Bool.true_and]
  · simp [hj]

/-- Bytes packed lane by lane, moved up by whole bytes. -/
theorem foldr_mul_eq_byteSum {bs : List Nat} {at_ : Nat} (h : at_ + bs.length ≤ 1024) :
    bs.foldr (fun x a => a * 2 ^ 8 + x % 2 ^ 8) 0 * 256 ^ at_ = byteSum 1024 fun i => if at_ ≤ i then bs.getD (i - at_) 0 % 256 else 0 := by
  induction bs generalizing at_ with
  | nil => simp [byteSum]
  | cons b bs ih =>
    rw [List.length_cons] at h
    have hone : b % 2 ^ 8 * 256 ^ at_ = byteSum 1024 fun i => if i = at_ then b % 256 else 0 := by
      rw [byteSum, Finset.sum_eq_single at_ (fun i _ hi => by rw [if_neg hi, Nat.zero_mul])
        (fun hn => absurd (Finset.mem_range.2 (by omega)) hn), if_pos rfl]
      rfl
    rw [List.foldr_cons, Nat.add_mul, Nat.mul_assoc, show 2 ^ 8 * 256 ^ at_ = 256 ^ (at_ + 1) from (pow_succ' 256 at_).symm,
      ih (at_ := at_ + 1) (by omega), hone, byteSum_add]
    refine byteSum_congr fun i _ => ?_
    rcases lt_trichotomy i at_ with hi | rfl | hi
    · rw [if_neg (by omega), if_neg (by omega), if_neg (by omega)]
    · simp
    · obtain ⟨k, rfl⟩ := Nat.exists_eq_add_of_lt hi
      rw [if_pos (by omega), if_neg (by omega), if_pos (by omega), show at_ + k + 1 - at_ = k + 1 by omega,
        show at_ + k + 1 - (at_ + 1) = k by omega, List.getD_cons_succ, Nat.add_zero]

theorem foldr_bytes_lt (bs : List Nat) : bs.foldr (fun x a => a * 2 ^ 8 + x % 2 ^ 8) 0 < 2 ^ (8 * bs.length) := by
  induction bs with
  | nil => simp
  | cons b bs ih => rw [List.foldr_cons, List.length_cons, Nat.mul_succ, pow_add]; omega

/-- Bytes put at a place of the register. -/
theorem placed_eq_byteSum {at_ : Nat} {bs : List Nat} (hroom : at_ + bs.length ≤ 1024) :
    placed at_ bs = byteSum 1024 fun i => if at_ ≤ i then bs.getD (i - at_) 0 % 256 else 0 := by
  have hlt := (foldr_bytes_lt bs).trans_le (Nat.pow_le_pow_right (by decide) (show 8 * bs.length ≤ 8192 by omega))
  rw [placed, packLanes, BitVec.toNat_ofNat, Nat.mod_eq_of_lt hlt, pow_mul]
  exact foldr_mul_eq_byteSum hroom

/-! ### The bytes of blocks (R67) -/

/-- The block that byte `i` belongs to: code bytes up to 767, then a scale and a special for each block. -/
def blockOf (i : Nat) : Nat := if i < 768 then i / 16 else if i < 816 then i - 768 else i - 816

/-- Byte `i` of a block with the given code bytes, scale and special. -/
def blockByte (cs : List Nat) (a b i : Nat) : Nat := if i < 768 then cs.getD (i % 16) 0 else if i < 816 then a else b

theorem placed_single {at_ a : Nat} (hat : at_ < 1024) (ha : a < 256) : placed at_ [a] = byteSum 1024 fun i => if i = at_ then a else 0 := by
  rw [placed_eq_byteSum (Nat.succ_le_of_lt hat)]
  refine byteSum_congr fun i _ => ?_
  rcases lt_trichotomy i at_ with hi | rfl | hi
  · rw [if_neg (by omega), if_neg (by omega)]
  · simp [Nat.mod_eq_of_lt ha]
  · rw [if_pos hi.le, if_neg (by omega), List.getD_eq_default _ _ (by simp; omega)]

theorem placed_codes {k : Nat} (hk : k < 64) {cs : List Nat} (hl : cs.length = 16) (hcs : ∀ c ∈ cs, c < 256) :
    placed (16 * k) cs = byteSum 1024 fun i => if i / 16 = k then cs.getD (i % 16) 0 else 0 := by
  have hget : ∀ j, cs.getD j 0 % 256 = cs.getD j 0 := fun j => Nat.mod_eq_of_lt (getD_of_forall (P := (· < 256)) (by decide) hcs j)
  rw [placed_eq_byteSum (by omega)]
  refine byteSum_congr fun i _ => ?_
  rw [hget]
  by_cases h : i / 16 = k
  · rw [if_pos h, if_pos (by omega), show i - 16 * k = i % 16 by omega]
  · rw [if_neg h]
    split
    · exact List.getD_eq_default _ _ (by omega)
    · rfl

/-- The three pieces of block `k`. -/
theorem placed_block {k : Nat} (hk : k < 48) {cs : List Nat} (hl : cs.length = 16) (hcs : ∀ c ∈ cs, c < 256) {a b : Nat} (ha : a < 256)
    (hb : b < 256) : placed (16 * k) cs + placed (768 + k) [a] + placed (816 + k) [b] =
      byteSum 1024 fun i => if i < 864 ∧ blockOf i = k then blockByte cs a b i else 0 := by
  rw [placed_codes (by omega) hl hcs, placed_single (by omega) ha, placed_single (by omega) hb, byteSum_add, byteSum_add]
  refine byteSum_congr fun i _ => ?_
  unfold blockOf blockByte
  generalize cs.getD (i % 16) 0 = c
  split_ifs <;> omega

/-- A byte of the blocks `k0` to `k0 + nb - 1`. -/
theorem sum_block (k0 nb i : Nat) (f : Nat → Nat → Nat) :
    (∑ j ∈ Finset.range nb, if i < 864 ∧ blockOf i = k0 + j then f j i else 0) =
      if i < 864 ∧ k0 ≤ blockOf i ∧ blockOf i < k0 + nb then f (blockOf i - k0) i else 0 := by
  split
  case isTrue h =>
    obtain ⟨hi, hlo, hhi⟩ := h
    rw [Finset.sum_eq_single (blockOf i - k0) (fun j _ hj => if_neg (by omega))
      (fun hn => absurd (Finset.mem_range.2 (by omega)) hn), if_pos (by omega)]
  case isFalse h =>
    refine Finset.sum_eq_zero fun j hj => if_neg fun ⟨hi, hb⟩ => h ?_
    have := Finset.mem_range.1 hj
    omega

/-- What a block is made of, within its fields. -/
structure BlockOk (r : Nat × Int × List Nat × Flags) : Prop where
  scale : r.1 < 256
  count : r.2.2.1.length = 32
  codes : ∀ c ∈ r.2.2.1, c < 16

theorem length_codeBytes {n : Nat} {cs : List Nat} (h : cs.length = 2 * n) : (codeBytes cs).length = n := by
  induction n generalizing cs with
  | zero => rw [List.length_eq_zero_iff.1 h]; rfl
  | succ n ih =>
    match cs, h with
    | a :: b :: cs, h => exact congrArg (· + 1) (ih (by simp at h; omega))

theorem getD_codeBytes {cs : List Nat} {n : Nat} (h : 2 * n + 1 < cs.length) :
    (codeBytes cs).getD n 0 = cs.getD (2 * n) 0 + 16 * cs.getD (2 * n + 1) 0 := by
  induction n generalizing cs with
  | zero =>
    match cs, h with
    | a :: b :: cs, _ => rfl
  | succ n ih =>
    match cs, h with
    | a :: b :: cs, h => exact ih (by simp at h; omega)

theorem codeBytes_lt : ∀ {cs : List Nat}, (∀ c ∈ cs, c < 16) → ∀ x ∈ codeBytes cs, x < 256
  | [], _ | [_], _ => fun _ hx => absurd hx List.not_mem_nil
  | a :: b :: cs, h => by
    have ha := h a (by simp)
    have hb := h b (by simp)
    exact List.forall_mem_cons.2 ⟨by omega, codeBytes_lt fun c hc => h c (by simp [hc])⟩

theorem getD_replicate_of_lt {n i : Nat} (h : i < n) (x : Nat) : (List.replicate n x).getD i 0 = x := by
  rw [List.getD_eq_getElem _ _ (h.trans_eq List.length_replicate.symm), List.getElem_replicate]

/-- Data of the blocks `k0` to `k0 + nb - 1`. -/
def blocksData (k0 nb : Nat) (q : Nat → Nat × Int × List Nat × Flags) : BitVec 8192 :=
  BitVec.ofNat 8192 (∑ j ∈ Finset.range nb, (blockUpd (k0 + j) (q j)).1)

/-- Their mask, with the bytes beyond all blocks. -/
def blocksMask (k0 nb : Nat) (q : Nat → Nat × Int × List Nat × Flags) : BitVec 8192 :=
  BitVec.ofNat 8192 (∑ j ∈ Finset.range nb, (blockUpd (k0 + j) (q j)).2 + placed 864 (List.replicate 160 0xFF))

/-- Byte `i` of a block as it is quantised. -/
def quantByte (r : Nat × Int × List Nat × Flags) (i : Nat) : Nat := blockByte (codeBytes r.2.2.1) r.1 (ofInt 6 r.2.1) i

theorem quantByte_lt {r : Nat × Int × List Nat × Flags} (hr : BlockOk r) (i : Nat) : quantByte r i < 256 := by
  obtain ⟨hscale, hcount, hcodes⟩ := hr
  have hspecial := ofInt_lt 6 r.2.1
  have hbyte := getD_of_forall (P := (· < 256)) (by decide) (codeBytes_lt hcodes) (i % 16)
  unfold quantByte blockByte
  split_ifs <;> omega

section
variable {k0 nb : Nat} (hroom : k0 + nb ≤ 48) {q : Nat → Nat × Int × List Nat × Flags} {i : Nat} (hi : i < 1024)
include hroom hi

theorem laneBits_blocksMask : laneBits (blocksMask k0 nb q) 8 i =
    if i < 864 ∧ ¬(k0 ≤ blockOf i ∧ blockOf i < k0 + nb) then 0 else 0xFF := by
  have hones : ∀ j ∈ Finset.range nb, (blockUpd (k0 + j) (q j)).2 =
      byteSum 1024 fun i => if i < 864 ∧ blockOf i = k0 + j then blockByte (List.replicate 16 0xFF) 0xFF 0xFF i else 0 := fun j hj => by
    have := Finset.mem_range.1 hj
    exact placed_block (by omega) (by simp) (by simp) (by decide) (by decide)
  have hrest : placed 864 (List.replicate 160 0xFF) = byteSum 1024 fun i => if 864 ≤ i then 0xFF else 0 := by
    rw [placed_eq_byteSum (by rw [List.length_replicate])]
    refine byteSum_congr fun i hi => ?_
    split
    · rw [getD_replicate_of_lt (by omega)]
    · rfl
  have hbyte : ∀ i, blockByte (List.replicate 16 0xFF) 0xFF 0xFF i = 0xFF := fun i => by
    rw [blockByte, getD_replicate_of_lt (by omega)]
    split_ifs <;> rfl
  rw [blocksMask, Finset.sum_congr rfl hones, sum_byteSum, hrest, byteSum_add,
    byteSum_congr (g := fun i => if i < 864 ∧ ¬(k0 ≤ blockOf i ∧ blockOf i < k0 + nb) then 0 else 0xFF) fun i _ => ?_]
  · exact laneBits_byteSum (fun i => by split <;> decide) hi
  · rw [sum_block k0 nb i fun _ => blockByte (List.replicate 16 0xFF) 0xFF 0xFF, hbyte]
    split_ifs <;> omega

/-- The mask is all ones or all zeros over each byte. -/
theorem getLsbD_blocksMask {j : Nat} (hj : j < 8) : (blocksMask k0 nb q).getLsbD (8 * i + j) =
    !decide (i < 864 ∧ ¬(k0 ≤ blockOf i ∧ blockOf i < k0 + nb)) := by
  have hbit := testBit_laneBits (blocksMask k0 nb q) 8 i j
  rw [laneBits_blocksMask hroom hi, decide_eq_true hj, Bool.true_and] at hbit
  rw [← hbit]
  split
  case isTrue h => simp [h]
  case isFalse h =>
    rw [decide_eq_false h, show (0xFF : Nat) = 2 ^ 8 - 1 from rfl, Nat.testBit_two_pow_sub_one, decide_eq_true hj]
    rfl

variable (hq : ∀ j < nb, BlockOk (q j))
include hq

theorem laneBits_blocksData : laneBits (blocksData k0 nb q) 8 i =
    if i < 864 ∧ k0 ≤ blockOf i ∧ blockOf i < k0 + nb then quantByte (q (blockOf i - k0)) i else 0 := by
  have hblock : ∀ j ∈ Finset.range nb, (blockUpd (k0 + j) (q j)).1 =
      byteSum 1024 fun i => if i < 864 ∧ blockOf i = k0 + j then quantByte (q j) i else 0 := fun j hj => by
    have hj := Finset.mem_range.1 hj
    obtain ⟨hscale, hcount, hcodes⟩ := hq j hj
    exact placed_block (by omega) (length_codeBytes hcount) (codeBytes_lt hcodes) hscale ((ofInt_lt 6 _).trans (by decide))
  rw [blocksData, Finset.sum_congr rfl hblock, sum_byteSum, byteSum_congr fun i _ => sum_block k0 nb i fun j => quantByte (q j)]
  refine laneBits_byteSum (fun i => ?_) hi
  split
  case isTrue h => exact quantByte_lt (hq _ (by omega)) i
  case isFalse => decide

/-- A register after blocks are merged into it, byte by byte. -/
theorem laneBits_mergeBlocks (o : BitVec 8192) :
    laneBits ((o &&& ~~~(blocksMask k0 nb q)) ||| (blocksData k0 nb q &&& blocksMask k0 nb q)) 8 i = if 864 ≤ i then 0 else
      if k0 ≤ blockOf i ∧ blockOf i < k0 + nb then quantByte (q (blockOf i - k0)) i else laneBits o 8 i := by
  rw [laneBits_merge o _ _ 8 i _ (fun j => getLsbD_blocksMask hroom hi) (by omega), laneBits_blocksData hroom hi hq]
  by_cases hlow : 864 ≤ i
  · simp [hlow, not_lt.2 hlow]
  · by_cases hin : k0 ≤ blockOf i ∧ blockOf i < k0 + nb <;> simp [hlow, not_le.1 hlow, hin]

end

/-- The two 4-bit codes of a byte. -/
theorem laneBits_four (x : BitVec 8192) (i : Nat) : laneBits x 4 i = laneBits x 8 (i / 2) / 16 ^ (i % 2) % 16 := by
  have hlow := Nat.mod_lt i (show 0 < 2 by decide)
  rw [show (16 : Nat) ^ (i % 2) = 2 ^ (4 * (i % 2)) by rw [pow_mul]; rfl, show (16 : Nat) = 2 ^ 4 from rfl]
  apply Nat.eq_of_testBit_eq
  intro j
  rw [testBit_laneBits, Nat.testBit_mod_two_pow, Nat.testBit_div_two_pow, testBit_laneBits]
  by_cases hj : j < 4
  · rw [decide_eq_true hj, decide_eq_true (by omega : j + 4 * (i % 2) < 8), Bool.true_and, Bool.true_and, Bool.true_and]
    congr 1
    omega
  · simp [hj]

/-- Code `e` of a block, from its code bytes. -/
theorem getD_codeBytes_four {cs : List Nat} (hcs : ∀ c ∈ cs, c < 16) {n e : Nat} (hl : cs.length = 2 * n) (he : e < 2 * n) :
    (codeBytes cs).getD (e / 2) 0 / 16 ^ (e % 2) % 16 = cs.getD e 0 := by
  have hlt := getD_of_forall (P := (· < 16)) (by decide) hcs
  rw [getD_codeBytes (by omega)]
  rcases Nat.mod_two_eq_zero_or_one e with h | h
  · have h0 := hlt (2 * (e / 2))
    have h1 := hlt (2 * (e / 2) + 1)
    rw [h, pow_zero]
    rw [show 2 * (e / 2) = e by omega] at *
    omega
  · have h0 := hlt (2 * (e / 2))
    have h1 := hlt (2 * (e / 2) + 1)
    rw [h, pow_one]
    rw [show 2 * (e / 2) + 1 = e by omega] at *
    omega

end Sys2Proof.Machine
end

section
/-! PROOF. Packing and unpacking of E2M1X blocks and the Winograd transforms (R129 to R132). -/

namespace Sys2Proof.Machine

/-! ### A quantised block is within its fields (R84, R129) -/

/-- A selection from a list has what the first choice and every element have. -/
theorem foldl_of_forall {α : Type} {P : α → Prop} {f : α → α → α} (hf : ∀ a c, P a → P c → P (f a c)) {xs : List α} (h : ∀ x ∈ xs, P x)
    {a : α} (ha : P a) : P (xs.foldl f a) := by
  induction xs generalizing a with
  | nil => exact ha
  | cons x xs ih => exact ih (fun y hy => h y (List.mem_cons_of_mem x hy)) (hf a x ha (h x List.mem_cons_self))

theorem bestBy_of_forall {P : Nat × Int → Prop} {keep : Nat × Int → Nat × Int → Nat × Int} (hk : ∀ a c, P a → P c → P (keep a c))
    {xs : List (Nat × Int)} (h : ∀ x ∈ xs, P x) {d : Nat × Int} (hd : P d) : P ((bestBy keep xs).getD d) := by
  cases xs with
  | nil => exact hd
  | cons x xs => exact foldl_of_forall hk (fun y hy => h y (List.mem_cons_of_mem x hy)) (h x List.mem_cons_self)

/-- A candidate whose code has four bits. -/
def CodeOk (c : Nat × Int) : Prop := c.1 < 16

theorem codeOk_ite {p : Prop} [Decidable p] {a c : Nat × Int} (ha : CodeOk a) (hc : CodeOk c) : CodeOk (if p then c else a) := by
  split <;> assumption

theorem codeOk_e2Nearer (k : Nat) (y : Int) {a c : Nat × Int} (ha : CodeOk a) (hc : CodeOk c) : CodeOk (e2Nearer k y a c) := by
  unfold e2Nearer
  exact codeOk_ite (codeOk_ite (codeOk_ite (codeOk_ite (codeOk_ite hc ha) ha) hc) ha) hc

theorem qE2M1_lt (h : Int) (rm : Rm) (y : Real) : (qE2M1 h rm y).1 < 16 := by
  unfold qE2M1
  extract_lets cands hi lo mx mn
  have hall : ∀ c ∈ e2Codes ++ [(8, h)], CodeOk c := by simp [e2Codes, CodeOk]
  have hcands : ∀ c ∈ cands, CodeOk c := fun c hc => by
    refine hall c ?_
    simp only [cands] at hc
    split at hc
    · exact List.mem_append_left _ hc
    · exact hc
  have hfilter : ∀ p, ∀ c ∈ cands.filter p, CodeOk c := fun p c hc => hcands c (List.mem_of_mem_filter hc)
  have hzero : CodeOk (0, 0) := Nat.zero_lt_succ _
  have hmx : ∀ a c, CodeOk a → CodeOk c → CodeOk (mx a c) := fun a c ha hc => codeOk_ite ha hc
  have hmn : ∀ a c, CodeOk a → CodeOk c → CodeOk (mn a c) := fun a c ha hc => codeOk_ite ha hc
  have hhi : CodeOk hi := foldl_of_forall (fun _ _ ha hc => codeOk_ite ha hc) hcands hzero
  have hlo : CodeOk lo := foldl_of_forall (fun _ _ ha hc => codeOk_ite ha hc) hcands hzero
  split
  · decide
  · exact codeOk_ite hhi hlo
  dsimp only
  split
  · exact hhi
  split
  · exact hlo
  split
  · exact bestBy_of_forall hmx (hfilter _) hlo
  · exact bestBy_of_forall hmn (hfilter _) hhi
  · split
    · exact bestBy_of_forall hmx (fun c hc => hfilter _ c (List.mem_of_mem_filter hc)) hzero
    · exact bestBy_of_forall hmn (fun c hc => hfilter _ c (List.mem_of_mem_filter hc)) hzero
  · exact bestBy_of_forall (fun _ _ => codeOk_e2Nearer _ _) hcands hzero

theorem fitScale_lt (x : Bool) (v : Real) : fitScale x v < 256 := by
  unfold fitScale
  split
  · decide
  · omega
  · decide

theorem blockOk_quantBlock (x : Bool) {sp : Option Nat} (hsp : ∀ k, sp = some k → k < 256) (rm : Rm) {es : List Real}
    (hl : es.length = 32) : BlockOk (quantBlock x sp rm es) := by
  unfold quantBlock
  split
  · exact ⟨by decide, List.length_replicate, fun c hc => by rw [List.eq_of_mem_replicate hc]; decide⟩
  · refine ⟨?_, by simp [hl], fun c hc => ?_⟩
    · cases sp with
      | none => exact fitScale_lt x _
      | some k => exact hsp k rfl
    · simp only [List.map_map, List.mem_map] at hc
      obtain ⟨e, -, rfl⟩ := hc
      exact qE2M1_lt _ _ _

/-! ### `vblk` (R129) -/

/-- Block `j` of a `vblk`: element `e` is lane `32 * j + e`, zero where masked off. -/
def vblkBlock (s : State) (a : VReg) (sv : Option VReg) (m : Sys2Proof.MReg) (n : PReg) (x : Bool) (rm : Rm) (j : Nat) :
    Nat × Int × List Nat × Flags :=
  let t := (rdV s a).tag
  quantBlock x (sv.map fun b => laneBits (rdV s b).bits 8 (lanes t / 32 * n.val + j)) (rmOf s rm)
    ((List.range 32).map fun e => if (rdM s m).getLsbD (32 * j + e) then decodeReal t (lane t (rdV s a) (32 * j + e)) else Real.fin false 0 0)

theorem blockOk_vblkBlock (s : State) (a : VReg) (sv : Option VReg) (m : Sys2Proof.MReg) (n : PReg) (x : Bool) (rm : Rm) (j : Nat) :
    BlockOk (vblkBlock s a sv m n x rm j) := by
  refine blockOk_quantBlock x (fun k hk => ?_) _ (by simp)
  obtain ⟨b, -, rfl⟩ := Option.map_eq_some_iff.1 hk
  exact Nat.mod_lt _ (by decide)

theorem drop_take_map_range {α : Type} (g : Nat → α) {n k w : Nat} (h : k + w ≤ n) :
    (((List.range n).map g).drop k).take w = (List.range w).map fun e => g (k + e) := by
  refine List.ext_getElem? fun i => ?_
  by_cases hi : i < w
  · simp [hi, show k + i < n by omega]
  · simp [hi]

theorem firstFault_last (c : Option FaultInfo) : firstFault [none, none, c] = c := by
  cases c <;> rfl

/-- The block base a `vblk` may have. -/
def vblkMax (t : Tag) : Nat := if t = .fp32 then 5 else 2

section
variable {s : State} {a : VReg} (hf : isFloat (rdV s a).tag = true) {sv : Option VReg} (hsv : ∀ b, sv = some b → (rdV s b).tag = .e8m0)
  (d : VReg) (m : Sys2Proof.MReg) {n : PReg} (x : Bool) (rm : Rm)
include hf hsv

theorem vblk_check (md : FaultInfo) : firstFault [srcCheck s isFloat a, sv.bind (srcCheck s fun t => t = .e8m0),
    failIf (n.val > (if (rdV s a).tag = .fp32 then 5 else 2)) md] = failIf (n.val > vblkMax (rdV s a).tag) md := by
  obtain ⟨hnone, hpoison⟩ := isComp_ne (isComp_of_isFloat hf)
  have hscale : sv.bind (srcCheck s fun t => t = .e8m0) = none := by
    cases sv with
    | none => rfl
    | some b => exact srcCheck_ok (acc := fun t => t = .e8m0) (hsv b rfl) rfl (by decide) (by decide)
  rw [srcCheck_ok rfl hf hnone hpoison, hscale]
  exact firstFault_last _

theorem exec_vblk_fault (hn : vblkMax (rdV s a).tag < n.val) : exec (.vblk d a sv m n x rm) s =
    .next (raise (fault 0x02 0 (BitVec.ofNat 64 (n.val * 64 + x.toNat * 32 + sv.isSome.toNat * 16 + rm.code))) s) := by
  rw [exec_vblk, execVblk, vblk_check hf hsv, failIf, decide_eq_true hn]
  rfl

theorem exec_vblk_emits (hn : n.val ≤ vblkMax (rdV s a).tag) :
    let nb := lanes (rdV s a).tag / 32
    let q := vblkBlock s a sv m n x rm
    Emits 6 (.blk d (blocksData (nb * n.val) nb q) (blocksMask (nb * n.val) nb q)) (unionFlags nb (fun _ => true) fun j => (q j).2.2.2) s
      (exec (.vblk d a sv m n x rm) s) := by
  intro nb q
  rw [exec_vblk, execVblk, vblk_check hf hsv, failIf, decide_eq_false (not_lt.2 hn), if_neg Bool.false_ne_true, checked_none]
  extract_lets v t nb' rm' es rs us rest
  have hrs : rs = (List.range nb).map fun j => (nb * n.val + j, q j) := List.map_congr_left fun j hj => by
    have hroom : 32 * j + 32 ≤ lanes t := by
      have hj : j < lanes t / 32 := List.mem_range.1 hj
      omega
    simp only [es, drop_take_map_range _ hroom]
    rfl
  have hus : us = (List.range nb).map fun j => blockUpd (nb * n.val + j) (q j) := by
    simp only [us, hrs, List.map_map]
    rfl
  have hflags : orFlags (rs.map fun r => r.2.2.2.2) = unionFlags nb (fun _ => true) fun j => (q j).2.2.2 := by
    rw [hrs, List.map_map]
    rfl
  rw [hflags, hus, List.map_map, List.map_map]
  rfl

end

/-! ### The bytes of block `k` -/

section
variable {k : Nat} (hk : k < 48)
include hk

theorem blockOf_code {b : Nat} (hb : b < 16) : blockOf (16 * k + b) = k := by
  rw [blockOf, if_pos (by omega)]; omega

theorem blockOf_scale : blockOf (768 + k) = k := by
  rw [blockOf, if_neg (by omega), if_pos (by omega)]; omega

theorem blockOf_special : blockOf (816 + k) = k := by
  rw [blockOf, if_neg (by omega), if_neg (by omega)]; omega

theorem quantByte_code (r : Nat × Int × List Nat × Flags) {b : Nat} (hb : b < 16) :
    quantByte r (16 * k + b) = (codeBytes r.2.2.1).getD b 0 := by
  rw [quantByte, blockByte, if_pos (by omega), show (16 * k + b) % 16 = b by omega]

theorem quantByte_scale (r : Nat × Int × List Nat × Flags) : quantByte r (768 + k) = r.1 := by
  rw [quantByte, blockByte, if_neg (by omega), if_pos (by omega)]

theorem quantByte_special (r : Nat × Int × List Nat × Flags) : quantByte r (816 + k) = ofInt 6 r.2.1 := by
  rw [quantByte, blockByte, if_neg (by omega), if_neg (by omega)]

end

/-- Code `e` of block `k` is half of a code byte. -/
theorem laneBits_code (y : BitVec 8192) (k e : Nat) :
    laneBits y 4 (32 * k + e) = laneBits y 8 (16 * k + e / 2) / 16 ^ (e % 2) % 16 := by
  rw [laneBits_four, show (32 * k + e) / 2 = 16 * k + e / 2 by omega, show (32 * k + e) % 2 = e % 2 by omega]

/-- What merged blocks read as: the scale, the special and the codes of each block written, every other block as before. -/
theorem mergeBlocks_fields {k0 nb : Nat} (hroom : k0 + nb ≤ 48) {q : Nat → Nat × Int × List Nat × Flags} (hq : ∀ j < nb, BlockOk (q j))
    (o : BitVec 8192) :
    let y := (o &&& ~~~(blocksMask k0 nb q)) ||| (blocksData k0 nb q &&& blocksMask k0 nb q)
    (∀ j < nb, laneBits y 8 (768 + k0 + j) = (q j).1 ∧ laneBits y 8 (816 + k0 + j) = ofInt 6 (q j).2.1 ∧
      ∀ e < 32, laneBits y 4 (32 * (k0 + j) + e) = (q j).2.2.1.getD e 0) ∧
    (∀ k < 48, (k < k0 ∨ k0 + nb ≤ k) → laneBits y 8 (768 + k) = laneBits o 8 (768 + k) ∧
      laneBits y 8 (816 + k) = laneBits o 8 (816 + k) ∧ ∀ e < 32, laneBits y 4 (32 * k + e) = laneBits o 4 (32 * k + e)) ∧
    ∀ j < 160, laneBits y 8 (864 + j) = 0 := by
  intro y
  have hbyte : ∀ i < 1024, laneBits y 8 i = if 864 ≤ i then 0 else
      if k0 ≤ blockOf i ∧ blockOf i < k0 + nb then quantByte (q (blockOf i - k0)) i else laneBits o 8 i :=
    fun i hi => laneBits_mergeBlocks hroom hi hq o
  have hwritten : ∀ j < nb, ∀ i < 864, blockOf i = k0 + j → laneBits y 8 i = quantByte (q j) i := fun j hj i hi hb => by
    rw [hbyte i (by omega), if_neg (by omega), if_pos (by omega), hb, Nat.add_sub_cancel_left]
  have hkept : ∀ k, (k < k0 ∨ k0 + nb ≤ k) → ∀ i < 864, blockOf i = k → laneBits y 8 i = laneBits o 8 i := fun k hk i hi hb => by
    rw [hbyte i (by omega), if_neg (by omega), if_neg (by omega)]
  refine ⟨fun j hj => ?written, fun k hk hout => ⟨?_, ?_, fun e he => ?_⟩, fun j hj => ?_⟩
  case written =>
    have hk : k0 + j < 48 := by omega
    refine ⟨?_, ?_, fun e he => ?_⟩
    · rw [Nat.add_assoc, hwritten j hj _ (by omega) (blockOf_scale hk), quantByte_scale hk]
    · rw [Nat.add_assoc, hwritten j hj _ (by omega) (blockOf_special hk), quantByte_special hk]
    · obtain ⟨-, hcount, hcodes⟩ := hq j hj
      rw [laneBits_code y, hwritten j hj _ (by omega) (blockOf_code hk (by omega)), quantByte_code hk _ (by omega),
        getD_codeBytes_four hcodes (n := 16) hcount he]
  · exact hkept k hout _ (by omega) (blockOf_scale hk)
  · exact hkept k hout _ (by omega) (blockOf_special hk)
  · rw [laneBits_code y, laneBits_code o, hkept k hout _ (by omega) (blockOf_code hk (by omega))]
  · rw [hbyte _ (by omega), if_pos (by omega)]

/-- A register after the result of a `vblk`: the blocks go into what it holds, or into default blocks. -/
theorem applyReg_blk_same (g : Regs) (d : VReg) (data mask : BitVec 8192) :
    let o := if g.v[d].tag = .e2m1x then g.v[d].bits else defaultBlocks
    (applyReg (.blk d data mask) g).v[d] = { bits := (o &&& ~~~mask) ||| (data &&& mask), tag := .e2m1x } :=
  (getElem_set_fin g.v d d _).trans (if_pos rfl)

/-- The blocks of a `vblk` are among the 48 of a register. -/
theorem vblk_room {t : Tag} (hf : isFloat t = true) {n : PReg} (hn : n.val ≤ vblkMax t) : lanes t / 32 * n.val + lanes t / 32 ≤ 48 := by
  obtain rfl | rfl := isFloat_cases hf
  · have hn : n.val ≤ 2 := hn
    show 16 * n.val + 16 ≤ 48
    omega
  · have hn : n.val ≤ 5 := hn
    show 8 * n.val + 8 ≤ 48
    omega

/-! ### `vunblk` (R130) -/

theorem vunblk_writes {s : State} {a : VReg} (ha : (rdV s a).tag = .e2m1x) (d : VReg) (m : Sys2Proof.MReg) (base : Ix8) (fp z : Bool)
    (rm : Rm) :
    let T : Tag := if fp then .fp32 else .bf16
    let f := fun i => (elemReal (rdV s a).bits (lanes T * base.val + i)).round (fmtOf T) (rmOf s rm)
    WritesV 6 d T (unionFlags (lanes T) (fun i => (rdM s m).getLsbD i) fun i => (f i).2)
      (masked (rdM s m) z fun i => (f i).1 % 2 ^ laneW T) s (exec (.vunblk d a m base fp z rm) s) := by
  intro T f
  rw [exec_vunblk, execVunblk, srcCheck_ok (acc := fun t => t = .e2m1x) ha rfl (by decide) (by decide), checked_none]
  exact (putMasked_writes 6 d T (rdM s m) z f s).congr (laneFlags_masked _ _ _) fun _ _ => rfl

/-! ### Winograd transforms (R131, R132) -/

/-- Cells one after the other are the lanes. -/
theorem flatMap_range {α : Type} (n k : Nat) (hk : 0 < k) (g : Nat → Nat → α) :
    ((List.range n).flatMap fun c => (List.range k).map (g c)) = (List.range (n * k)).map fun i => g (i / k) (i % k) := by
  induction n with
  | zero => simp
  | succ n ih =>
    rw [List.range_succ, List.flatMap_append, ih, Nat.succ_mul, List.range_add, List.map_append, List.flatMap_singleton, List.map_map]
    refine congrArg _ (List.map_congr_left fun i hi => ?_)
    have hlt := List.mem_range.1 hi
    simp only [Function.comp_apply, Nat.mul_add_mod', Nat.mod_eq_of_lt hlt]
    rw [Nat.mul_comm n k, Nat.mul_add_div hk, Nat.div_eq_of_lt hlt, Nat.add_zero]

/-- The first 16 of a list, filled up with what raises nothing. -/
theorem take_append_quiet (xs : List LaneR) :
    (xs ++ List.replicate 16 (quiet 0)).take 16 = (List.range 16).map fun i => xs.getD i (quiet 0) := by
  refine List.ext_getElem? fun i => ?_
  by_cases hi : i < 16
  · rw [List.getElem?_take_of_lt hi, List.getElem?_map, List.getElem?_range hi]
    by_cases hx : i < xs.length
    · rw [List.getElem?_append_left hx]
      simp [hx]
    · rw [List.getElem?_append_right (not_lt.1 hx), List.getElem?_replicate, if_pos (by omega)]
      simp [not_lt.1 hx]
  · simp [hi]

/-- Lane `i` of a Winograd transform. -/
def wgLane (op n k : Nat) (x : BitVec 8192) (i : Nat) : LaneR :=
  (wgCell op n k fun e => quiet (laneBits x 32 (16 * (i / 16) + e))).getD (i % 16) (quiet 0)

theorem winograd_lanes (op n k : Nat) (x : BitVec 8192) (on : Nat → Bool) (hon : ∀ i, on i = on (16 * (i / 16))) :
    ((List.range 16).flatMap fun c => if on (16 * c) then
      (wgCell op n k (fun i => quiet (laneBits x 32 (16 * c + i))) ++ List.replicate 16 (quiet 0)).take 16 else List.replicate 16 (quiet 0)) =
    (List.range 256).map fun i => if on i then wgLane op n k x i else quiet 0 := by
  have hcell : ∀ c, (if on (16 * c) then (wgCell op n k (fun i => quiet (laneBits x 32 (16 * c + i))) ++ List.replicate 16 (quiet 0)).take 16
      else List.replicate 16 (quiet 0)) = (List.range 16).map fun e => if on (16 * c) then
        (wgCell op n k fun i => quiet (laneBits x 32 (16 * c + i))).getD e (quiet 0) else quiet 0 := fun c => by
    cases on (16 * c)
    · rfl
    · exact take_append_quiet _
  simp only [hcell]
  rw [flatMap_range 16 16 (by decide)]
  exact List.map_congr_left fun i _ => by rw [hon i]; rfl

theorem winograd_writes {s : State} {a : VReg} (ha : (rdV s a).tag = .fp32) (op n k : Nat) (d : VReg) (m : Sys2Proof.MReg) (z : Bool) :
    let on := fun i => (rdM s m).getLsbD (16 * (i / 16))
    WritesV 6 d .fp32 (unionFlags 256 on fun i => (wgLane op n k (rdV s a).bits i).2)
      (fun i old => if on i then (wgLane op n k (rdV s a).bits i).1 % 2 ^ 32 else if z then 0 else old) s
      (.next (winograd op n k d a m z s)) := by
  intro on
  have hon : ∀ i, on i = on (16 * (i / 16)) := fun i => by
    simp only [on, show 16 * (i / 16) / 16 = i / 16 by omega]
  rw [winograd, srcCheck_ok (acc := fun t => t = .fp32) ha rfl (by decide) (by decide), checked_none]
  extract_lets x ys
  have hys : ys = (List.range 256).map fun i => if on i then wgLane op n k (rdV s a).bits i else quiet 0 :=
    winograd_lanes op n k (rdV s a).bits on hon
  have hflags : laneFlags ys = unionFlags 256 on fun i => (wgLane op n k (rdV s a).bits i).2 := by rw [hys, laneFlags_on]
  have hdata : ∀ i < 256, laneBits (packLanes 32 (ys.map fun y => y.1)) 32 i =
      (if on i then wgLane op n k (rdV s a).bits i else quiet 0).1 % 2 ^ 32 := fun i hi => by
    rw [hys, laneBits_packLanes_range _ (by decide) (by omega) hi]
  rw [← hflags]
  cases z with
  | false =>
    refine (emit_writes 6 d .fp32 (en := on) _ s fun i hi j hj => ?_).congr_lt fun i hi old => ?_
    · exact getLsbD_laneMask 32 256 on i j (by decide) hj (lane_room hi) hi
    · cases h : on i
      · simp
      · simp [laneW, hdata i hi, h]
  | true =>
    refine (emit_writes 6 d .fp32 (en := fun _ => true) _ s fun i hi j hj => ?_).congr_lt fun i hi old => ?_
    · have hroom := lane_room hi
      simp only [if_true, BitVec.getLsbD_allOnes]
      exact decide_eq_true (by rw [Nat.mul_succ] at hroom; omega)
    · cases h : on i
      · simp [laneW, hdata i hi, h, quiet]
      · simp [laneW, hdata i hi, h]

/-- Settles O26: the bytes of the blocks a `vblk` merges, `vunblk` lane by lane, and the Winograd cells as lanes. -/
theorem blockEffects : Obligations.BlockEffects := by
  intro s d a sv m n base x fp z rm v t nb mk
  refine ⟨fun hf hsv hn => ?pack, fun hf hsv hn => exec_vblk_fault hf hsv d m x rm hn, fun ht => vunblk_writes ht d m base fp z rm,
    fun ht p hp => ?winograd⟩
  case pack =>
    intro es r
    have hroom := vblk_room hf hn
    refine ⟨_, _, exec_vblk_emits hf hsv d m x rm hn, fun g => ?_⟩
    intro o y
    obtain ⟨hwritten, hkept, hbeyond⟩ := mergeBlocks_fields hroom (fun j _ => blockOk_vblkBlock s a sv m n x rm j) o
    have hy : y = _ := applyReg_blk_same g d _ _
    rw [hy]
    exact ⟨rfl, hwritten, hkept, hbeyond⟩
  case winograd =>
    simp only [List.mem_cons, List.not_mem_nil, or_false] at hp
    obtain rfl | rfl | rfl := hp
    · exact winograd_writes ht 0 4 4 d m z
    · exact winograd_writes ht 1 4 2 d m z
    · exact winograd_writes ht 2 3 4 d m z

end Sys2Proof.Machine
end

section
/-! PROOF. Scalar and whole-register loads (R69, R134 to R141, R146, R234). -/

namespace Sys2Proof.Machine

/-! ### The pieces of an access cover it (R139) -/

theorem length_readN (m : List Host.Cell) (a n : Nat) : (readN m a n).length = n := by
  simp [readN]

theorem length_readSegs (s : State) (gs : List Seg) : (readSegs s gs).length = (gs.map Seg.len).sum := by
  simp [readSegs, List.length_flatMap, length_readN]

/-- With fuel for every cut at 64 KiB the pieces have all the bytes. -/
theorem sum_len_translateSegs {s : State} {p : Site} {world : Bool} {acc : Right} {fuel : Nat} {a : Word} {n : Nat} {gs : List Seg}
    (h : translateSegs s p world acc fuel a n = .ok gs) (hfuel : n = 0 ∨ n + a.toNat % 2 ^ 16 ≤ fuel * 2 ^ 16) : (gs.map Seg.len).sum = n := by
  induction fuel generalizing a n gs with
  | zero =>
    obtain rfl : [] = gs := Except.ok.inj h
    simp at hfuel ⊢
    omega
  | succ fuel ih =>
    unfold translateSegs at h
    split at h
    case isTrue h0 =>
      obtain rfl : [] = gs := Except.ok.inj h
      exact h0.symm
    case isFalse h0 =>
      extract_lets k at h
      split at h
      · exact absurd h (by simp)
      split at h
      · exact absurd h (by simp)
      split at h
      · exact absurd h (by simp)
      split at h
      · exact absurd h (by simp)
      case h_2 pa _ gs' hrest =>
        obtain rfl := Except.ok.inj h
        have hk : k = min n (2 ^ 16 - a.toNat % 2 ^ 16) := rfl
        have hnext : (a + BitVec.ofNat 64 k).toNat % 2 ^ 16 = (a.toNat + k) % 2 ^ 16 := by
          rw [BitVec.toNat_add, BitVec.toNat_ofNat]
          omega
        have hsum := ih hrest (by rw [hnext, hk]; omega)
        rw [List.map_cons, List.sum_cons, hsum]
        show k + (n - k) = n
        omega

theorem sum_len_accessSegs {s : State} {ag : Agent} {st : Bool} {k : LineAcc} {A : Word} {n : Nat} {gs : List Seg}
    (h : accessSegs s ag st k A n = .ok gs) : (gs.map Seg.len).sum = n := by
  unfold accessSegs at h
  split at h
  · split at h
    · exact absurd h (by simp)
    split at h
    · exact absurd h (by simp)
    obtain rfl := Except.ok.inj h
    simp
  · exact sum_len_translateSegs h (.inr (by omega))

theorem length_readSegs_of_access {s t : State} {ag : Agent} {st : Bool} {k : LineAcc} {A : Word} {n : Nat} {gs : List Seg}
    (h : accessSegs s ag st k A n = .ok gs) : (readSegs t gs).length = n := by
  rw [length_readSegs, sum_len_accessSegs h]

/-! ### Bytes of a register (R9, R67) -/

theorem leNat_div_mod (bs : List Byte) (j : Nat) : leNat bs / 256 ^ j % 256 = (bs.getD j 0).toNat := by
  induction bs generalizing j with
  | nil => simp [leNat]
  | cons b bs ih =>
    have hb := b.isLt
    cases j with
    | zero => simp only [leNat, pow_zero, List.getD_cons_zero]; omega
    | succ j =>
      rw [leNat, pow_succ', ← Nat.div_div_eq_div_mul, Nat.add_mul_div_left _ _ (by decide), Nat.div_eq_of_lt hb, Nat.zero_add, ih]
      rfl

theorem leNat_lt (bs : List Byte) : leNat bs < 2 ^ (8 * bs.length) := by
  induction bs with
  | nil => simp [leNat]
  | cons b bs ih =>
    have hb := b.isLt
    rw [leNat, List.length_cons, Nat.mul_succ, pow_add]
    omega

/-- Byte `j` of a register made of bytes. -/
theorem extractLsb'_bytesVec (bs : List Byte) {j : Nat} (hj : j < 1024) : (bytesVec bs).extractLsb' (8 * j) 8 = bs.getD j 0 := by
  have hpow : (256 : Nat) ^ j = 2 ^ (8 * j) := by rw [pow_mul]; rfl
  refine BitVec.eq_of_getLsbD_eq fun i hi => ?_
  rw [BitVec.getLsbD_extractLsb', decide_eq_true hi, Bool.true_and, bytesVec, BitVec.getLsbD_ofNat, decide_eq_true (by omega), Bool.true_and,
    BitVec.getLsbD, ← leNat_div_mod, hpow, show (256 : Nat) = 2 ^ 8 from rfl, Nat.testBit_mod_two_pow, Nat.testBit_div_two_pow,
    decide_eq_true hi, Bool.true_and, Nat.add_comm]

/-- The bytes of a register of blocks: codes, then scales, then specials. -/
def blockBytesOf (bs : List Byte) : List Byte :=
  ((List.range 768).map fun i => bs.getD (18 * (i / 16) + i % 16) 0) ++
    (((List.range 48).map fun b => bs.getD (18 * b + 16) 0) ++ (List.range 48).map fun b => bs.getD (18 * b + 17) 0)

theorem vecOfMem_blocks {bs : List Byte} (hl : bs.length = 864) : vecOfMem .e2m1x bs = bytesVec (blockBytesOf bs) := by
  have hblock : ∀ b ∈ List.range 48, (bs.drop (18 * b)).take 16 = (List.range 16).map fun j => bs.getD (18 * b + j) 0 := fun b hb => by
    have hb := List.mem_range.1 hb
    refine List.ext_getElem? fun i => ?_
    by_cases hi : i < 16
    · rw [List.getElem?_take_of_lt hi, List.getElem?_drop, List.getElem?_map, List.getElem?_range hi]
      rw [List.getElem?_eq_getElem (by omega), Option.map_some, List.getD_eq_getElem _ _ (by omega)]
    · simp [hi]
  rw [vecOfMem, if_pos rfl, List.flatMap_congr hblock, flatMap_range 48 16 (by decide), List.append_assoc]
  rfl

theorem getD_map_range_append {n i : Nat} (g : Nat → Byte) (ys : List Byte) :
    ((List.range n).map g ++ ys).getD i 0 = if i < n then g i else ys.getD (i - n) 0 := by
  split
  case isTrue h => rw [List.getD_append _ _ _ _ (by simpa using h), List.getD_eq_getElem _ _ (by simpa using h)]; simp
  case isFalse h => rw [List.getD_append_right _ _ _ _ (by simpa using h)]; simp

theorem getD_map_range {n i : Nat} (g : Nat → Byte) (hi : i < n) : ((List.range n).map g).getD i 0 = g i := by
  rw [← List.append_nil ((List.range n).map g), getD_map_range_append, if_pos hi]

theorem length_blockBytesOf (bs : List Byte) : (blockBytesOf bs).length = 864 := by
  simp [blockBytesOf]

/-- Each block's bytes at their places. -/
theorem getD_blockBytesOf (bs : List Byte) {b : Nat} (hb : b < 48) :
    (∀ j < 16, (blockBytesOf bs).getD (16 * b + j) 0 = bs.getD (18 * b + j) 0) ∧
      (blockBytesOf bs).getD (768 + b) 0 = bs.getD (18 * b + 16) 0 ∧ (blockBytesOf bs).getD (816 + b) 0 = bs.getD (18 * b + 17) 0 := by
  refine ⟨fun j hj => ?_, ?_, ?_⟩
  · rw [blockBytesOf, getD_map_range_append, if_pos (by omega), show (16 * b + j) / 16 = b by omega, show (16 * b + j) % 16 = j by omega]
  · rw [blockBytesOf, getD_map_range_append, if_neg (by omega), getD_map_range_append, if_pos (by omega), Nat.add_sub_cancel_left]
  · rw [blockBytesOf, getD_map_range_append, if_neg (by omega), getD_map_range_append, if_neg (by omega), getD_map_range _ (by omega),
      show 816 + b - 768 - 48 = b by omega]

theorem toNat_bytesVec_lt (bs : List Byte) : (bytesVec bs).toNat < 2 ^ (8 * bs.length) :=
  (Nat.mod_le _ _).trans_lt (leNat_lt bs)

/-! ### Malformed blocks (R69) -/

theorem badBlock_eq_none {bs : List Byte} (h : ∀ b < 48, specialOk (bs.getD (18 * b + 17) 0).toNat = true) : badBlock bs = none := by
  rw [badBlock, List.findSome?_eq_none_iff]
  intro b hb
  exact if_pos (h b (List.mem_range.1 hb))

theorem findSome?_eq_map_find? {α β : Type} (p : α → Bool) (f : α → β) (xs : List α) :
    (xs.findSome? fun x => if p x then none else some (f x)) = (xs.find? fun x => !p x).map f := by
  induction xs with
  | nil => rfl
  | cons x xs ih => cases h : p x <;> simp [h, ih]

theorem badBlock_eq_some {bs : List Byte} {b : Nat} (hb : b < 48) (hbad : specialOk (bs.getD (18 * b + 17) 0).toNat = false)
    (h : ∀ c < b, specialOk (bs.getD (18 * c + 17) 0).toNat = true) : badBlock bs = some (18 * b + 17) := by
  have hfind : (List.range 48).find? (fun c => !specialOk (bs.getD (18 * c + 17) 0).toNat) = some b := by
    rw [List.find?_range_eq_some]
    exact ⟨by rw [hbad]; rfl, List.mem_range.2 hb, fun c hc => by rw [h c hc]; rfl⟩
  exact (findSome?_eq_map_find? _ _ _).trans (congrArg (Option.map _) hfind)

/-! ### The result of a load (R141) -/

/-- The fixed latency is that of the own die's store. -/
theorem loadResult_eq_withLoad (lat : Option Nat) (sp : Space) (u : Upd) (f : Option FaultInfo) (A : Word) (s : State) :
    loadResult (if decide (sp = .st) && ownDie s A then lat else none) u f A s = withLoad lat sp A u f s := by
  have hown : ((decide (sp = .st) && ownDie s A) = true) ↔ sp = .st ∧ A.toNat / 2 ^ 28 % 8 = s.me.die := by simp [ownDie]
  unfold loadResult withLoad
  by_cases h : sp = .st ∧ A.toNat / 2 ^ 28 % 8 = s.me.die
  · rw [if_pos (hown.2 h), if_pos h]
    cases lat <;> rfl
  · rw [if_neg (mt hown.1 h), if_neg h]
    rfl

theorem alignCheck_ok {A : Word} {n : Nat} (h : A.toNat % n = 0) : alignCheck A n = none := by
  simp [alignCheck, failIf, h]

section
variable {s : State} {k : LineAcc} {lat : Option Nat} {sp : Space} {A : Word} {gs : List Seg}

/-- A scalar load whose checks pass brings its bytes. -/
theorem loadScalar_ok {n : Nat} (ha : A.toNat % n = 0) (hg : accessSegs s (agentOf s.me) (sp = .st) k A n = .ok gs)
    (hb : badLine s gs = none) (sg : Bool) (d : SReg) : loadScalar k lat (sp = .st) A n sg d s =
      withLoad lat sp A (.s d (extBytes sg (readSegs s gs))) none (stepSegs k (some s.me.uid) gs s) := by
  rw [loadScalar, alignCheck_ok ha, checked_none, hg, tryWith_ok, hb]
  exact loadResult_eq_withLoad _ _ _ _ _ _

theorem loadScalar_badLine {n : Nat} (ha : A.toNat % n = 0) (hg : accessSegs s (agentOf s.me) (sp = .st) k A n = .ok gs)
    (hb : badLine s gs ≠ none) (sg : Bool) (d : SReg) : loadScalar k lat (sp = .st) A n sg d s =
      withLoad lat sp A (.keepS d) (some (badFault A)) (stepSegs k (some s.me.uid) gs s) := by
  rw [loadScalar, alignCheck_ok ha, checked_none, hg, tryWith_ok, Option.isSome_iff_ne_none.2 hb]
  exact loadResult_eq_withLoad _ _ _ _ _ _

section
variable {t : Tag} (ha : A.toNat % 64 = 0) (hg : accessSegs s (agentOf s.me) (sp = .st) k A (vecLen t) = .ok gs)
include ha hg

/-- A vector load whose checks pass makes the register update of its bytes. -/
theorem loadVector_ok (hb : badLine s gs = none) {v : VReg} {u : Upd} {f : Option FaultInfo} (hu : vecUpd v t (readSegs s gs) A = (u, f)) :
    loadVector k lat (sp = .st) A t v s = withLoad lat sp A u f (stepSegs k (some s.me.uid) gs s) := by
  rw [loadVector, alignCheck_ok ha, checked_none, hg, tryWith_ok, hb, hu]
  exact loadResult_eq_withLoad _ _ _ _ _ _

theorem loadVector_badLine (hb : badLine s gs ≠ none) (v : VReg) : loadVector k lat (sp = .st) A t v s =
    withLoad lat sp A (.v v 0 0 (some .poison)) (some (badFault A)) (stepSegs k (some s.me.uid) gs s) := by
  rw [loadVector, alignCheck_ok ha, checked_none, hg, tryWith_ok, Option.isSome_iff_ne_none.2 hb]
  exact loadResult_eq_withLoad _ _ _ _ _ _

end

end

/-- A scalar of the loaded bytes, extended by its sign or by zeros. -/
theorem extBytes_eq {bs : List Byte} {n : Nat} (hl : bs.length = n) (u : Bool) : extBytes (!u) bs =
    if u then BitVec.ofNat 64 (leNat bs) else BitVec.ofInt 64 (BitVec.ofNat (8 * n) (leNat bs)).toInt := by
  subst hl
  cases u <;> rfl

/-! ### The register update of a vector load (R69, R140) -/

section
variable (v : VReg) {t : Tag} {bs : List Byte} (A : Word)

theorem vecUpd_plain (ht : t ≠ .e2m1x) : vecUpd v t bs A = (.v v (bytesVec bs) (BitVec.allOnes 8192) (some t), none) := by
  simp only [vecUpd, vecOfMem, if_neg ht]
  rfl

theorem vecUpd_blocks (hok : badBlock bs = none) :
    vecUpd v .e2m1x bs A = (.v v (vecOfMem .e2m1x bs) (BitVec.allOnes 8192) (some .e2m1x), none) := by
  simp only [vecUpd, if_true, hok]
  rfl

theorem vecUpd_badBlock {j : Nat} (hbad : badBlock bs = some j) : vecUpd v .e2m1x bs A = (.v v 0 0 (some .poison),
    some { cause := 0x04, sub := 1, addr := A + BitVec.ofNat 64 j, detail := [7] }) := by
  simp only [vecUpd, if_true, hbad]

end

/-! ### The instructions -/

/-- The fixed latency of a load, if it has one. -/
def loadLat (k : LineAcc) (l : Nat) : Option Nat := if k = .plain then some l else none

section
variable {s : State} {sp : Space} {k : LineAcc} (hsp : sp ≠ .w) (hk : k = .plain ∨ k = .consume) (a : SReg) (i : BitVec 18)
include hsp hk

theorem exec_loadScalar (d : SReg) (sz : Size) (u : Bool) : exec (if k = .plain then .lds d a i sp sz u else .ldc d a i sp sz u) s =
    .next (loadScalar k (loadLat k 16) (sp = .st) (rdS s a + i.signExtend 64) (szBytes sz) (!u) d s) := by
  obtain rfl | rfl := hk
  · exact (exec_lds s d a i sp sz u).trans (congrArg Host.Outcome.next (if_neg hsp))
  · rfl

theorem exec_loadVector (v : VReg) (t : Tag) : exec (if k = .plain then .ldv v a i sp t else .ldvc v a i sp t) s =
    .next (loadVector k (loadLat k 20) (sp = .st) (rdS s a + i.signExtend 64) t v s) := by
  obtain rfl | rfl := hk
  · exact (exec_ldv s v a i sp t).trans (congrArg Host.Outcome.next (if_neg hsp))
  · rfl

end

/-- Settles O27: the bytes of the pieces, then the register they make or the fault that leaves or poisons it. -/
theorem loadsReadMemory : Obligations.LoadsReadMemory := by
  intro s d a v i sp sz u t k gs A n bs s' scalar vector lat hsp hk
  have hscalar : exec scalar s = _ := exec_loadScalar hsp hk a i d sz u
  have hvector : exec vector s = _ := exec_loadVector hsp hk a i v t
  refine ⟨fun ha hg => ⟨fun hbad => ?data, fun hbad => ?badLine⟩, fun ha hg => ⟨fun hbad ht => ?plain, fun hbad ht hok => ?blocks,
    fun hbad ht b hb hmal hok => ?badBlock, fun hbad => ?badVector⟩⟩
  case data =>
    rw [hscalar, loadScalar_ok ha hg hbad, extBytes_eq (length_readSegs_of_access hg)]
    rfl
  case badLine => exact hscalar.trans (congrArg Host.Outcome.next (loadScalar_badLine ha hg hbad _ d))
  case plain =>
    exact ⟨bytesVec bs, fun j hj => extractLsb'_bytesVec bs hj,
      hvector.trans (congrArg Host.Outcome.next (loadVector_ok ha hg hbad (vecUpd_plain v A ht)))⟩
  case blocks =>
    subst ht
    have hbytes : vecOfMem .e2m1x bs = bytesVec (blockBytesOf bs) := vecOfMem_blocks (length_readSegs_of_access hg)
    refine ⟨bytesVec (blockBytesOf bs), fun b hb => ?_, ?_, ?_⟩
    · obtain ⟨hcodes, hscale, hspecial⟩ := getD_blockBytesOf bs hb
      exact ⟨fun j hj => (extractLsb'_bytesVec _ (by omega)).trans (hcodes j hj), (extractLsb'_bytesVec _ (by omega)).trans hscale,
        (extractLsb'_bytesVec _ (by omega)).trans hspecial⟩
    · exact length_blockBytesOf bs ▸ toNat_bytesVec_lt _
    · rw [← hbytes]
      exact hvector.trans (congrArg Host.Outcome.next (loadVector_ok ha hg hbad (vecUpd_blocks v A (badBlock_eq_none hok))))
  case badBlock =>
    subst ht
    exact hvector.trans (congrArg Host.Outcome.next (loadVector_ok ha hg hbad (vecUpd_badBlock v A (badBlock_eq_some hb hmal hok))))
  case badVector => exact hvector.trans (congrArg Host.Outcome.next (loadVector_badLine ha hg hbad v))

end Sys2Proof.Machine
end

section
/-! PROOF. Scalar instructions (R86 to R89): the words the machine computes are the exact integer results, wrapped to 64 bits. -/

namespace Sys2Proof.Machine

/-! ### Sums and products -/

theorem add_eq_ofInt {w : Nat} (x y : BitVec w) : x + y = BitVec.ofInt w (x.toInt + y.toInt) := by
  rw [BitVec.ofInt_add, BitVec.ofInt_toInt, BitVec.ofInt_toInt]

theorem sub_eq_ofInt {w : Nat} (x y : BitVec w) : x - y = BitVec.ofInt w (x.toInt - y.toInt) :=
  BitVec.eq_of_toInt_eq (by rw [BitVec.toInt_sub, BitVec.toInt_ofInt])

theorem mul_eq_ofInt {w : Nat} (x y : BitVec w) : x * y = BitVec.ofInt w (x.toInt * y.toInt) := by
  rw [BitVec.ofInt_mul, BitVec.ofInt_toInt, BitVec.ofInt_toInt]

theorem add_imm26 (x : Word) (i : BitVec 26) : x + imm26 i = BitVec.ofInt 64 (x.toInt + i.toInt) := by
  rw [BitVec.ofInt_add, BitVec.ofInt_toInt]
  rfl

/-- The upper half of a 128-bit pattern is the integer's quotient by `2 ^ 64`. -/
theorem highHalf_ofInt (p : Int) : ((BitVec.ofInt 128 p) >>> 64).setWidth 64 = BitVec.ofInt 64 (p / 2 ^ 64) := by
  refine BitVec.eq_of_toNat_eq ?_
  rw [BitVec.toNat_setWidth, BitVec.toNat_ushiftRight, BitVec.toNat_ofInt, BitVec.toNat_ofInt, Nat.shiftRight_eq_div_pow]
  omega

theorem mulHigh_eq (x y : Word) : mulHigh x y = BitVec.ofInt 64 (x.toInt * y.toInt / 2 ^ 64) := by
  rw [mulHigh, ← highHalf_ofInt, BitVec.ofInt_mul]
  rfl

theorem mulHighU_eq (x y : Word) : mulHighU x y = BitVec.ofNat 64 (x.toNat * y.toNat / 2 ^ 64) := by
  have h : x.setWidth 128 * y.setWidth 128 = BitVec.ofInt 128 (x.toNat * y.toNat : Nat) := by
    rw [BitVec.ofInt_natCast, BitVec.ofNat_mul, BitVec.ofNat_toNat, BitVec.ofNat_toNat]
  rw [mulHighU, h, highHalf_ofInt, ← BitVec.ofInt_natCast, Int.natCast_ediv, Nat.cast_pow, Nat.cast_two]

/-! ### Quotients and remainders -/

theorem quot_eq (u : Bool) (x y : Word) : quot u x y = if y = 0 then BitVec.ofInt 64 (-1) else
    if u then BitVec.ofNat 64 (x.toNat / y.toNat) else BitVec.ofInt 64 (x.toInt.tdiv y.toInt) := by
  have hs : x.sdiv y = BitVec.ofInt 64 (x.toInt.tdiv y.toInt) :=
    BitVec.eq_of_toInt_eq (by rw [BitVec.toInt_sdiv, BitVec.toInt_ofInt])
  rw [quot, BitVec.udiv_def, hs]
  rfl

theorem remain_eq (u : Bool) (x y : Word) : remain u x y = if y = 0 then x else
    if u then BitVec.ofNat 64 (x.toNat - y.toNat * (x.toNat / y.toNat)) else BitVec.ofInt 64 (x.toInt - y.toInt * x.toInt.tdiv y.toInt) := by
  rw [remain, BitVec.umod_def, Nat.mod_def, ← Int.tmod_def, ← BitVec.toInt_srem, BitVec.ofInt_toInt]

/-! ### Shifts and rotations -/

theorem shiftLeft_eq_ofNat {w : Nat} (x : BitVec w) (n : Nat) : x <<< n = BitVec.ofNat w (x.toNat * 2 ^ n) :=
  BitVec.eq_of_toNat_eq (by rw [BitVec.toNat_shiftLeft, Nat.shiftLeft_eq, BitVec.toNat_ofNat])

theorem ushiftRight_eq_ofNat {w : Nat} (x : BitVec w) (n : Nat) : x >>> n = BitVec.ofNat w (x.toNat / 2 ^ n) := by
  rw [← Nat.shiftRight_eq_div_pow, ← BitVec.toNat_ushiftRight, BitVec.ofNat_toNat, BitVec.setWidth_eq]

theorem sshiftRight_eq_ofInt {w : Nat} (x : BitVec w) (n : Nat) : x.sshiftRight n = BitVec.ofInt w (x.toInt / 2 ^ n) := by
  rw [BitVec.sshiftRight, Int.shiftRight_eq_div_pow, Nat.cast_pow, Nat.cast_two]

/-- The two parts of a rotation share no bit, so that their union is their sum. -/
theorem rotateLeft_eq_ofNat {w n : Nat} (x : BitVec w) (hn : n < w) :
    x.rotateLeft n = BitVec.ofNat w (x.toNat * 2 ^ n + x.toNat / 2 ^ (w - n)) := by
  have hdisjoint : x <<< n &&& x >>> (w - n) = 0#w := by
    refine BitVec.eq_of_getLsbD_eq fun j hj => ?_
    rw [BitVec.getLsbD_and, BitVec.getLsbD_shiftLeft, BitVec.getLsbD_ushiftRight, BitVec.getLsbD_zero]
    by_cases h : j < n
    · simp [h]
    · rw [BitVec.getLsbD_of_ge x (w - n + j) (by omega), Bool.and_false]
  rw [BitVec.rotateLeft_def, Nat.mod_eq_of_lt hn, BitVec.ofNat_add, ← shiftLeft_eq_ofNat, ← ushiftRight_eq_ofNat,
    BitVec.add_eq_or_of_and_eq_zero _ _ hdisjoint]

theorem add_shiftLeft_eq_ofNat {w : Nat} (x y : BitVec w) (n : Nat) : x + y <<< n = BitVec.ofNat w (x.toNat + y.toNat * 2 ^ n) := by
  rw [BitVec.ofNat_add, ← shiftLeft_eq_ofNat, BitVec.ofNat_toNat, BitVec.setWidth_eq]

/-! ### The smaller and the larger -/

theorem smin_eq_ofInt {w : Nat} (x y : BitVec w) : (if x.slt y then x else y) = BitVec.ofInt w (min x.toInt y.toInt) := by
  simp only [BitVec.slt_iff_toInt_lt, min_def_lt, apply_ite (BitVec.ofInt w), BitVec.ofInt_toInt]

theorem smax_eq_ofInt {w : Nat} (x y : BitVec w) : (if x.slt y then y else x) = BitVec.ofInt w (max x.toInt y.toInt) := by
  simp only [BitVec.slt_iff_toInt_lt, max_def_lt, apply_ite (BitVec.ofInt w), BitVec.ofInt_toInt]

theorem umin_eq_ofNat {w : Nat} (x y : BitVec w) : (if x.ult y then x else y) = BitVec.ofNat w (min x.toNat y.toNat) := by
  simp only [BitVec.ult_iff_lt, BitVec.lt_def, min_def_lt, apply_ite (BitVec.ofNat w), BitVec.ofNat_toNat, BitVec.setWidth_eq]

theorem umax_eq_ofNat {w : Nat} (x y : BitVec w) : (if x.ult y then y else x) = BitVec.ofNat w (max x.toNat y.toNat) := by
  simp only [BitVec.ult_iff_lt, BitVec.lt_def, max_def_lt, apply_ite (BitVec.ofNat w), BitVec.ofNat_toNat, BitVec.setWidth_eq]

/-! ### Leading and trailing zeros -/

/-- A word has `64 - clz` bits without its leading zeros. -/
theorem clz64_spec (x : Word) : clz64 x ≤ 64 ∧ x.toNat < 2 ^ (64 - clz64 x) ∧ (x ≠ 0 → 2 ^ (63 - clz64 x) ≤ x.toNat ∧ clz64 x < 64) := by
  by_cases h : x = 0
  · subst h
    exact ⟨le_rfl, by decide, fun h => absurd rfl h⟩
  · have h0 : x.toNat ≠ 0 := fun h0 => h (BitVec.eq_of_toNat_eq h0)
    have hlog : Nat.log2 x.toNat < 64 := (Nat.log2_lt h0).2 x.isLt
    rw [clz64, if_neg h, show 63 - (63 - Nat.log2 x.toNat) = Nat.log2 x.toNat by omega,
      show 64 - (63 - Nat.log2 x.toNat) = Nat.log2 x.toNat + 1 by omega]
    exact ⟨by omega, Nat.lt_log2_self, fun _ => ⟨Nat.log2_self_le h0, by omega⟩⟩

/-- `ctz` is the number of the lowest one bit, or 64. -/
theorem ctz64_spec (x : Word) : ctz64 x ≤ 64 ∧ (∀ j < ctz64 x, x.getLsbD j = false) ∧ (x = 0 → ctz64 x = 64) ∧
    (x ≠ 0 → x.getLsbD (ctz64 x) = true) := by
  cases hfind : (List.range 64).find? fun i => x.getLsbD i with
  | none =>
    have hctz : ctz64 x = 64 := by rw [ctz64, hfind, Option.getD_none]
    have hzeros : ∀ j < 64, x.getLsbD j = false := fun j hj => by simpa using List.find?_eq_none.1 hfind j (List.mem_range.2 hj)
    rw [hctz]
    exact ⟨le_rfl, hzeros, fun _ => rfl, fun h => absurd (BitVec.eq_of_getLsbD_eq fun j hj => by simpa using hzeros j hj) h⟩
  | some i =>
    have hctz : ctz64 x = i := by rw [ctz64, hfind, Option.getD_some]
    obtain ⟨hone, hi, hbelow⟩ := List.find?_range_eq_some.1 hfind
    rw [hctz]
    exact ⟨(List.mem_range.1 hi).le, fun j hj => by simpa using hbelow j hj, fun h => by simp [h] at hone, fun _ => hone⟩

/-- A count of zeros or ones of a word fits in a word. -/
theorem toNat_ofNat_count {n : Nat} (h : n ≤ 64) : (BitVec.ofNat 64 n).toNat = n :=
  Nat.mod_eq_of_lt (by omega)

theorem popcount_eq_countP {n : Nat} (x : BitVec n) : popcount x = (List.range n).countP fun j => x.getLsbD j :=
  List.countP_eq_length_filter.symm

/-! ### Bytes -/

/-- Byte `j` of a word made of bytes. -/
theorem extractLsb'_leWord (bs : List Byte) {j : Nat} (hj : j < 8) : (leWord bs).extractLsb' (8 * j) 8 = bs.getD j 0 := by
  have hlow : leWord bs = (bytesVec bs).setWidth 64 := (BitVec.setWidth_ofNat_of_le (by decide) _).symm
  rw [hlow, BitVec.extractLsb'_setWidth_of_le (by omega), extractLsb'_bytesVec bs (by omega)]

theorem getD_leBytes {n i : Nat} (x : Nat) (hi : i < n) : (leBytes n x).getD i 0 = BitVec.ofNat 8 (x / 256 ^ i) := by
  induction n generalizing x i with
  | zero => omega
  | succ n ih =>
    cases i with
    | zero => simp [leBytes]
    | succ i => rw [leBytes, List.getD_cons_succ, ih _ (by omega), Nat.div_div_eq_div_mul, pow_succ']

/-- Byte `j` of the bytes of a word. -/
theorem getD_leBytes_toNat (x : Word) {j : Nat} (hj : j < 8) : (leBytes 8 x.toNat).getD j 0 = x.extractLsb' (8 * j) 8 := by
  rw [getD_leBytes _ hj, BitVec.extractLsb', Nat.shiftRight_eq_div_pow, pow_mul]
  rfl

theorem extractLsb'_reverse_leBytes (x : Word) {j : Nat} (hj : j < 8) :
    (leWord (leBytes 8 x.toNat).reverse).extractLsb' (8 * j) 8 = x.extractLsb' (56 - 8 * j) 8 := by
  rw [extractLsb'_leWord _ hj, List.getD_reverse _ (by rwa [length_leBytes]), length_leBytes, getD_leBytes_toNat x (by omega),
    show 8 * (8 - 1 - j) = 56 - 8 * j by omega]

/-! ### The instructions -/

/-- A meaning that puts `v` in flight writes the word equal to it. -/
theorem writesS_of_eq {lat : Nat} {d : SReg} {v z : Word} {s : State} {o : Out} (h : v = z) (ho : o = .next (putS lat d v s)) :
    WritesS lat d z s o :=
  h ▸ ho

theorem exec_clz_writes (s : State) (d a : SReg) : ∃ v : Word, WritesS 1 d v s (exec (.clz d a) s) ∧ v.toNat = clz64 (rdS s a) :=
  ⟨_, rfl, toNat_ofNat_count (clz64_spec _).1⟩

theorem exec_ctz_writes (s : State) (d a : SReg) : ∃ v : Word, WritesS 1 d v s (exec (.ctz d a) s) ∧ v.toNat = ctz64 (rdS s a) :=
  ⟨_, rfl, toNat_ofNat_count (ctz64_spec _).1⟩

/-- Settles O11, instruction by instruction: each puts one word in flight, and the word is the exact result of R89. -/
theorem scalarEffects : Obligations.ScalarEffects := by
  intro s d a b i q inv u n x y k
  have hk : y.toNat % 64 < 64 := Nat.mod_lt _ (by decide)
  have hcast : (k : Int) = 2 ^ (y.toNat % 64) := Nat.cast_pow 2 _
  refine ⟨?add, ?sub, ?addi, ?mul, ?mulh, ?mulhl, ?divq, ?remq, ?and, ?or, ?xor, ?andn, ?andi, ?ori, ?xori, ?shl, ?shr, ?sra,
    fun _ => ⟨?shli, ?shri, ?srai⟩, ?rotl, ?min, ?max, ?minl, ?maxl, ?clz, ?ctz, ?popc, ?bswap, fun _ _ => ⟨?sext, ?zext⟩, ?mov, ?sel,
    ?addp⟩
  case add => exact writesS_of_eq (add_eq_ofInt x y) rfl
  case sub => exact writesS_of_eq (sub_eq_ofInt x y) rfl
  case addi => exact writesS_of_eq (add_imm26 x i) rfl
  case mul => exact writesS_of_eq (mul_eq_ofInt x y) rfl
  case mulh => exact writesS_of_eq (mulHigh_eq x y) rfl
  case mulhl => exact writesS_of_eq (mulHighU_eq x y) rfl
  case divq => exact writesS_of_eq (quot_eq u x y) rfl
  case remq => exact writesS_of_eq (remain_eq u x y) rfl
  case shl => exact writesS_of_eq (shiftLeft_eq_ofNat x (y.toNat % 64)) rfl
  case shr => exact writesS_of_eq (ushiftRight_eq_ofNat x (y.toNat % 64)) rfl
  case sra =>
    rw [hcast]
    exact writesS_of_eq (sshiftRight_eq_ofInt x (y.toNat % 64)) rfl
  case shli => exact writesS_of_eq (shiftLeft_eq_ofNat x i.toNat) rfl
  case shri => exact writesS_of_eq (ushiftRight_eq_ofNat x i.toNat) rfl
  case srai => exact writesS_of_eq (sshiftRight_eq_ofInt x i.toNat) rfl
  case rotl => exact writesS_of_eq (rotateLeft_eq_ofNat x hk) rfl
  case min => exact writesS_of_eq (smin_eq_ofInt x y) rfl
  case max => exact writesS_of_eq (smax_eq_ofInt x y) rfl
  case minl => exact writesS_of_eq (umin_eq_ofNat x y) rfl
  case maxl => exact writesS_of_eq (umax_eq_ofNat x y) rfl
  case clz =>
    obtain ⟨v, hw, hv⟩ := exec_clz_writes s d a
    exact ⟨v, hw, hv ▸ clz64_spec x⟩
  case ctz =>
    obtain ⟨v, hw, hv⟩ := exec_ctz_writes s d a
    exact ⟨v, hw, hv ▸ ctz64_spec x⟩
  case popc => exact writesS_of_eq (congrArg (BitVec.ofNat 64) (popcount_eq_countP x)) rfl
  case bswap => exact ⟨leWord (leBytes 8 x.toNat).reverse, rfl, fun j hj => extractLsb'_reverse_leBytes x hj⟩
  case sext => exact writesS_of_eq (congrArg (fun z => BitVec.ofInt 64 (BitVec.toInt z)) (BitVec.ofNat_toNat i.toNat x)) rfl
  case addp => exact writesS_of_eq (add_shiftLeft_eq_ofNat x y n.val) rfl
  -- the remaining meanings are written as the rule writes them
  case and | or | xor | andn | andi | ori | xori | zext | mov | sel => rfl

end Sys2Proof.Machine
end

section
/-! PROOF. Lane-wise vector instructions (R107 to R109, R112, R113, R119): each is `lanewise` with the lanes of its `LaneForm`. -/

namespace Sys2Proof.Machine

/-- Two lane results that a lane of tag `t` does not tell apart: the same flags and the same bits. -/
def SameLane (t : Tag) (p q : LaneR) : Prop := p.2 = q.2 ∧ p.1 % 2 ^ laneW t = q.1 % 2 ^ laneW t

theorem SameLane.of_eq {t : Tag} {p q : LaneR} (h : p = q) : SameLane t p q := h ▸ ⟨rfl, rfl⟩

/-! ### Lanes of the model against lanes of the rule (R113) -/

theorem arith_eq (w : Bool) (fi : Int → Int → Int) (ff : Fmt → Rm → Real → Real → LaneR) (t : Tag) (rm : Rm) (x y : Nat) :
    arith w fi ff t rm x y =
      if isInt t then fitLane t w (fi (sInt t x) (sInt t y)) else ff (fmtOf t) rm (decodeReal t x) (decodeReal t y) := by
  rw [fit_eq]
  rfl

/-- The integer of a lane that holds an integer in range. -/
theorem sInt_ofInt {t : Tag} {y : Int} (h : InLane (laneW t) y) : sInt t (ofInt (laneW t) y) = y := by
  obtain ⟨hlo, hhi⟩ := h
  rw [sInt, signExt, ofInt, BitVec.ofNat_toNat, BitVec.setWidth_eq, BitVec.toInt_ofInt]
  refine Int.bmod_eq_of_le ?_ ?_ <;> cases t <;> simp only [laneW] at hlo hhi ⊢ <;> omega

/-- The bounds of `vclamp`, one after the other, against both at once. -/
theorem clampLane_eq (t : Tag) (x hi lo : Nat) :
    ((maxMin false t (maxMin true t x lo).1 hi).1, (maxMin true t x lo).2 ||| (maxMin false t (maxMin true t x lo).1 hi).2) =
      if isInt t then (ofInt (laneW t) (min (max (sInt t x) (sInt t lo)) (sInt t hi)), 0)
      else ((fMaxMin (fmtOf t) false (fMaxMin (fmtOf t) true x lo).1 hi).1,
        (fMaxMin (fmtOf t) true x lo).2 ||| (fMaxMin (fmtOf t) false (fMaxMin (fmtOf t) true x lo).1 hi).2) := by
  cases hi : isInt t with
  | false => simp [maxMin, hi]
  | true =>
    have hmax : InLane (laneW t) (max (sInt t x) (sInt t lo)) := by
      obtain ⟨hx, hx'⟩ := inLane_sInt t x
      obtain ⟨hl, hl'⟩ := inLane_sInt t lo
      exact ⟨le_max_of_le_left hx, max_le hx' hl'⟩
    have hback := sInt_ofInt hmax
    simp only [sInt] at hback
    simp [maxMin, hi, exactInt, quiet, sInt, hback]

/-! ### The meaning of a form -/

/-- What every lane-wise instruction is: a `lanewise` whose lanes are those of its form, over sources whose tags are checked. -/
structure LanewiseMeaning (F : LaneForm) (s : State) (o : Out) (rm : Rm) (f : Tag → Rm → Nat → Nat → Nat → LaneR) : Prop where
  run : o = .next (lanewise F.lat F.accept F.srcs F.d F.m F.z rm f s)
  lane : ∀ t x y c, SameLane t (f t (rmOf s rm) x y c) (F.f s t x y c)
  srcs : F.srcs ≠ []
  none : F.accept .none = false
  poison : F.accept .poison = false

theorem LanewiseMeaning.of_eq {F : LaneForm} {s : State} {o : Out} {rm : Rm} {f : Tag → Rm → Nat → Nat → Nat → LaneR}
    (run : o = .next (lanewise F.lat F.accept F.srcs F.d F.m F.z rm f s))
    (lane : ∀ t x y c, f t (rmOf s rm) x y c = F.f s t x y c)
    (srcs : F.srcs ≠ [] := by simp) (none : F.accept .none = false := by rfl) (poison : F.accept .poison = false := by rfl) :
    LanewiseMeaning F s o rm f :=
  ⟨run, fun t x y c => .of_eq (lane t x y c), srcs, none, poison⟩

theorem exec_laneForm {i : Instr} {F : LaneForm} (h : laneForm i = some F) (s : State) : ∃ rm f, LanewiseMeaning F s (exec i s) rm f := by
  unfold laneForm at h
  split at h <;> cases h
  case h_1 | h_2 | h_3 => exact ⟨_, _, .of_eq rfl fun t x y _ => arith_eq _ _ _ t _ x y⟩  -- vadd, vsub, vmul
  case h_6 => exact ⟨_, _, .of_eq rfl fun t x _ _ => by rw [← fit_eq]; rfl⟩  -- vneg
  case h_7 => exact ⟨_, _, .of_eq rfl fun t x _ _ => by rw [← fit_eq, ← Int.abs_eq_natAbs]; rfl⟩  -- vabs
  case h_13 => exact ⟨_, _, rfl, fun t x y _ => ⟨rfl, Nat.mod_mod _ _⟩, by simp, rfl, rfl⟩  -- vshl
  case h_15 => exact ⟨_, _, .of_eq rfl fun t x y _ => by rw [exactInt, Nat.cast_pow]; rfl⟩  -- vsra
  case h_16 => exact ⟨_, _, .of_eq rfl fun t x y c => clampLane_eq t x y c⟩  -- vclamp
  -- the other lanes are written as the rule writes them
  all_goals exact ⟨_, _, .of_eq rfl fun _ _ _ _ => rfl⟩

/-- Settles O19: the lanes of every form are those of `lanewise`. -/
theorem lanewiseEffects : Obligations.LanewiseEffects := by
  intro s i F t hform htags haccept
  obtain ⟨rm, f, m⟩ := exec_laneForm hform s
  rw [m.run]
  exact lanewise_form F.lat F.accept F.srcs F.d F.m F.z rm f F.f s t m.none m.poison m.srcs htags haccept (m.lane t)

end Sys2Proof.Machine
end

section
/-! PROOF. The first vector source that fails a tag check (R109). -/

namespace Sys2Proof.Machine

/-! ### The fault of a tag -/

/-- The fault a tag raises where it is not accepted (R109): NONE, POISON, any other. -/
def badTag (t : Tag) (addr : Word) : FaultInfo :=
  { cause := if t = .none then 0x05 else if t = .poison then 0x11 else 0x04, sub := if t = .poison then 3 else 0, addr }

/-- The fault a source raises by its tag, with its register number. -/
def badSource (s : State) (r : VReg) : FaultInfo := badTag (rdV s r).tag (BitVec.ofNat 64 r.val)

/-- What a source's tag must be to raise a fault: NONE, POISON, or one that is not accepted. -/
def Unfit (acc : Tag → Bool) (t : Tag) : Prop := t = .none ∨ t = .poison ∨ acc t = false

section
variable {s : State} {a : VReg} {acc : Tag → Bool}

theorem sourceCheck_bad (h : (rdV s a).tag = .none ∨ (rdV s a).tag = .poison) : sourceCheck s a = some (badSource s a) := by
  unfold sourceCheck badSource
  rcases h with h | h <;> rw [h] <;> rfl

theorem tagFault_eq (hn : (rdV s a).tag ≠ .none) (hp : (rdV s a).tag ≠ .poison) : tagFault a = badSource s a := by
  unfold badSource badTag
  rw [if_neg hn, if_neg hp, if_neg hp]
  rfl

theorem srcCheck_bad (h : Unfit acc (rdV s a).tag) : srcCheck s acc a = some (badSource s a) := by
  by_cases hb : (rdV s a).tag = .none ∨ (rdV s a).tag = .poison
  · rw [srcCheck, sourceCheck_bad hb]
    rfl
  · obtain ⟨hn, hp⟩ := not_or.1 hb
    rw [srcCheck, sourceCheck_ok hn hp, (h.resolve_left hn).resolve_left hp, tagFault_eq hn hp]
    rfl

/-- The checks of several sources fail at the first that fails: the operating tag is the first source's (R107). -/
theorem srcsCheck_bad {pre post : List VReg} {r : VReg} {t : Tag} (hpre : ∀ q ∈ pre, (rdV s q).tag = t)
    (hacc : pre ≠ [] → acc t = true ∧ t ≠ .none ∧ t ≠ .poison)
    (h : Unfit (if pre = [] then acc else fun u => u = t) (rdV s r).tag) : srcsCheck s acc (pre ++ r :: post) = some (badSource s r) := by
  cases pre with
  | nil =>
    rw [List.nil_append, srcsCheck, srcCheck_bad (by simpa using h)]
    rfl
  | cons p pre =>
    obtain ⟨ha, hn, hp⟩ := hacc (List.cons_ne_nil _ _)
    have hpass : ∀ q ∈ pre, srcCheck s (fun u => u = t) q = none := fun q hq =>
      srcCheck_ok (hpre q (List.mem_cons_of_mem p hq)) (by simp) hn hp
    rw [List.cons_append, srcsCheck, srcCheck_ok (hpre p List.mem_cons_self) ha hn hp, hpre p List.mem_cons_self]
    simp only [Option.orElse_none, List.findSome?_append, List.findSome?_cons]
    rw [List.findSome?_eq_none_iff.2 hpass, srcCheck_bad (by simpa using h)]
    rfl

end

/-! ### The fault raised -/

theorem lanewise_bad {lat : Nat} {acc : Tag → Bool} {srcs : List VReg} {s : State} {e : FaultInfo} (h : srcsCheck s acc srcs = some e)
    (d : VReg) (m : Sys2Proof.MReg) (z : Bool) (rm : Rm) (f : Tag → Rm → Nat → Nat → Nat → LaneR) :
    lanewise lat acc srcs d m z rm f s = raise e s := by
  rw [lanewise, h, checked_some]

/-- The three causes of a source that fails. -/
theorem raise_badTag {o : Out} {t : Tag} {A : Word} {s : State} {refused : Prop}
    (h : t = .none ∨ t = .poison ∨ refused → o = .next (raise (badTag t A) s)) :
    (t = .none → o = .next (raise { cause := 0x05, addr := A } s)) ∧
    (t = .poison → o = .next (raise { cause := 0x11, sub := 3, addr := A } s)) ∧
    (t ≠ .none → t ≠ .poison → refused → o = .next (raise { cause := 0x04, addr := A } s)) := by
  refine ⟨fun hn => ?_, fun hp => ?_, fun hn hp hr => ?_⟩
  · rw [h (.inl hn), hn]
    rfl
  · rw [h (.inr (.inl hp)), hp]
    rfl
  · rw [h (.inr (.inr hr)), badTag, if_neg hn, if_neg hp, if_neg hp]

/-! ### The other vector instructions -/

theorem cvtCheck_bad {s : State} {a : VReg} {t : Tag}
    (h : Unfit (fun u => u = .raw || t = .raw || (u ≠ .e2m1x && t ≠ .e2m1x)) (rdV s a).tag) (m : Sys2Proof.MReg) (k md : Nat) :
    cvtCheck s a m t k md = some (badSource s a) := by
  by_cases hb : (rdV s a).tag = .none ∨ (rdV s a).tag = .poison
  · rw [cvtCheck, sourceCheck_bad hb]
    rfl
  · obtain ⟨hn, hp⟩ := not_or.1 hb
    have hr := (h.resolve_left hn).resolve_left hp
    simp only [Bool.or_eq_false_iff, Bool.and_eq_false_iff, decide_eq_false_iff_not, not_not] at hr
    obtain ⟨⟨hu, ht⟩, hx⟩ := hr
    simp [cvtCheck, sourceCheck_ok hn hp, hu, ht, hx, tagFault_eq hn hp]

theorem vmovCheck_bad {s : State} {a : VReg} {m : Sys2Proof.MReg}
    (h : Unfit (fun t => t ≠ .e2m1x || m.val = 0) (rdV s a).tag) :
    ((sourceCheck s a).orElse fun _ => failIf ((rdV s a).tag = .e2m1x && m.val ≠ 0) (tagFault a)) = some (badSource s a) := by
  have hcheck : srcCheck s (fun t => t ≠ .e2m1x || m.val = 0) a = some (badSource s a) := srcCheck_bad h
  simpa [srcCheck] using hcheck

theorem checked_bad {c : Option FaultInfo} {e : FaultInfo} (h : c = some e) (f : State → State) (s : State) :
    (.next (checked c f s) : Out) = .next (raise e s) := by
  rw [h, checked_some]

theorem packTag_isSome : (fun t => (packTag t).isSome) = fun t => t = .i32 || t = .i16 || t = .fp32 := by
  funext t
  cases t <;> rfl

theorem unpackTag_isSome : (fun t => (unpackTag t).isSome) = fun t => t = .i8 || t = .i16 || t = .bf16 || t = .e4m3 := by
  funext t
  cases t <;> rfl

theorem orElse_bad {c : Option FaultInfo} {e : FaultInfo} (h : c = some e) (k : Unit → Option FaultInfo) : c.orElse k = some e := by
  rw [h, Option.orElse_some]

theorem firstFault_bad {c : Option FaultInfo} {e : FaultInfo} (h : c = some e) (cs : List (Option FaultInfo)) :
    firstFault (c :: cs) = some e := by
  rw [h, firstFault]

/-- An instruction whose first vector source fails its check raises that source's fault. -/
theorem exec_vecSource_bad {i : Instr} {a : VReg} {acc : Tag → Bool} (hi : vecSource i = some (a, acc)) {s : State}
    (h : Unfit acc (rdV s a).tag) : exec i s = .next (raise (badSource s a) s) := by
  have hpair : ∀ b, srcsCheck s acc [a, b] = some (badSource s a) := fun b =>
    srcsCheck_bad (pre := []) (t := .raw) (by simp) (by simp) (by simpa using h)
  unfold vecSource at hi
  split at hi <;> cases hi
  case h_4 => exact checked_bad (orElse_bad (srcCheck_bad h) _) _ s  -- vperm
  case h_3 | h_6 | h_12 => exact checked_bad (hpair _) _ s  -- vsel, vshuf, vcmp
  case h_11 => exact checked_bad (vmovCheck_bad h) _ s  -- vmov
  case h_13 | h_14 | h_23 => exact checked_bad (firstFault_bad (srcCheck_bad h) _) _ s  -- vgetl, vputl, vblk
  case h_15 =>  -- vstx
    exact checked_bad (orElse_bad (sourceCheck_bad (h.imp_right fun h => h.resolve_right (by simp))) _) _ s
  case h_21 =>  -- vpack
    rw [← packTag_isSome] at hpair
    exact checked_bad (hpair _) _ s
  case h_22 =>  -- vunpk
    rw [← unpackTag_isSome] at h
    exact checked_bad (srcCheck_bad h) _ s
  case h_28 => exact checked_bad (cvtCheck_bad h _ _ _) _ s  -- vcvt
  -- the others check `va` alone
  all_goals exact checked_bad (srcCheck_bad h) _ s

/-- Settles O20: the check of the sources in their order finds the first that fails. -/
theorem vectorSourceFaults : Obligations.VectorSourceFaults := by
  refine ⟨fun s i F pre post r t hform hsrcs hpre hacc => ?_, fun s i a acc hi => raise_badTag (exec_vecSource_bad hi)⟩
  obtain ⟨rm, f, m⟩ := exec_laneForm hform s
  refine raise_badTag fun h => ?_
  have hbad : srcsCheck s F.accept F.srcs = some (badSource s r) := by
    rw [hsrcs]
    refine srcsCheck_bad hpre (fun hne => ⟨hacc hne, fun e => ?_, fun e => ?_⟩) ?_
    · simpa [e, m.none] using hacc hne
    · simpa [e, m.poison] using hacc hne
    · split_ifs at h ⊢ with he
      · exact h
      · simpa [Unfit] using h
  rw [m.run, lanewise_bad hbad]
  rfl

end Sys2Proof.Machine
end

section
/-! PROOF. Compares of vectors and the mask instructions (R116, R133). -/

namespace Sys2Proof.Machine

theorem checked_pass {c : Option FaultInfo} (h : c = none) (f : State → State) (s : State) : checked c f s = f s := by
  rw [h, checked_none]

/-! ### Masks made of bits -/

/-- A mask packed from one bit a lane. -/
theorem getLsbD_packMask (n : Nat) (f : Nat → Bool) {i : Nat} (hi : i < 1024) :
    (BitVec.ofNat 1024 (packLanes 1 ((List.range n).map fun i => (f i).toNat)).toNat).getLsbD i = (decide (i < n) && f i) := by
  have hbit : (packLanes 1 ((List.range n).map fun i => (f i).toNat)).getLsbD i = (decide (i < n) && f i) := by
    rw [getLsbD_packLanes 1 (by decide) _ _ (by omega), Nat.div_one, Nat.mod_one, List.getD_eq_getElem?_getD, List.getElem?_map]
    by_cases h : i < n
    · rw [List.getElem?_range h]
      cases hf : f i <;> simp [h, hf]
    · rw [List.getElem?_eq_none (by simpa using h)]
      simp [h]
  rw [BitVec.getLsbD_ofNat, decide_eq_true hi, Bool.true_and]
  exact hbit

theorem getLsbD_maskOf (f : Nat → Bool) {i : Nat} (hi : i < 1024) : (maskOf f).getLsbD i = f i := by
  rw [maskOf, getLsbD_packMask 1024 f hi, decide_eq_true hi, Bool.true_and]

/-! ### `vcmp` (R116) -/

theorem cmpLane_fst (c : Cond) (t : Tag) (x y : Nat) : (cmpLane c t x y).1 = laneCond c t x y := by
  unfold cmpLane laneCond
  split
  · rfl
  · cases c <;> rfl

theorem cmpLane_snd_int {t : Tag} (h : isFloat t = false) (c : Cond) (x y : Nat) : (cmpLane c t x y).2 = 0 := by
  rw [cmpLane, h, if_neg Bool.false_ne_true]

theorem exec_vcmp_writes {s : State} {c : Cond} {a b : VReg} {t : Tag} (d m : Sys2Proof.MReg) (ha : (rdV s a).tag = t) (hb : (rdV s b).tag = t)
    (hc : cmpAccepts c t = true) : ∃ (yes no : BitVec 1024) (g : Flags),
    exec (.vcmp c d a b m) s = .next (withFlight 2 (.m (d + 1) no) g s.me.sq.arrive none (withFlight 2 (.m d yes) 0 none none s)) ∧
    (isFloat t = false → g = 0) ∧
    ∀ i < 1024, let on := decide (i < lanes t) && (rdM s m).getLsbD i
      let r := laneCond c t (lane t (rdV s a) i) (lane t (rdV s b) i)
      yes.getLsbD i = (on && r) ∧ no.getLsbD i = (on && !r) := by
  have hcheck : srcsCheck s (cmpAccepts c) [a, b] = none :=
    srcsCheck_ok s _ rfl rfl t [a, b] (by simp [ha, hb]) hc
  subst ha
  refine ⟨_, _, _, by rw [exec_vcmp, execVcmp, hcheck, checked_none]; rfl, fun hf => orFlags_eq_zero fun g hg => ?_, fun i hi => ?_⟩
  · simp only [List.map_map, List.mem_map] at hg
    obtain ⟨j, -, rfl⟩ := hg
    simp only [Function.comp]
    split
    · exact cmpLane_snd_int hf _ _ _
    · rfl
  · intro on r
    have hlane : (if on = true then cmpLane c (rdV s a).tag (lane (rdV s a).tag (rdV s a) i) (lane (rdV s a).tag (rdV s b) i) else (false, 0)).1 =
        (on && r) := by
      cases hon : on
      · rfl
      · exact cmpLane_fst _ _ _ _
    simp only [List.map_map, Function.comp_def, BitVec.getLsbD_and, BitVec.getLsbD_not, getLsbD_maskOf _ hi, getLsbD_packMask _ _ hi]
    have hroom : (decide (i < lanes (rdV s a).tag) && (on && r)) = (on && r) := by
      rw [← Bool.and_assoc, show (decide (i < lanes (rdV s a).tag) && on) = on from Bool.and_self_left ..]
    rw [hlane, decide_eq_true hi, Bool.true_and, hroom]
    refine ⟨rfl, show (on && !(on && r)) = (on && !r) from ?_⟩
    cases on <;> rfl

/-! ### The mask instructions (R133) -/

/-- A mask result that is known bit by bit. -/
theorem putM_bits {f : Nat → Bool} {y : BitVec 1024} {d : Sys2Proof.MReg} {s : State} {o : Out} (ho : o = .next (putM d y s))
    (hy : ∀ i < 1024, y.getLsbD i = f i) : ∃ y : BitVec 1024, Emits 2 (.m d y) 0 s o ∧ ∀ i < 1024, y.getLsbD i = f i :=
  ⟨y, ho, hy⟩

theorem getLsbD_lowMask (n : Nat) {i : Nat} (hi : i < 1024) : (BitVec.ofNat 1024 (2 ^ min n 1024 - 1)).getLsbD i = decide (i < n) := by
  rw [BitVec.getLsbD_ofNat, Nat.testBit_two_pow_sub_one, decide_eq_true hi, Bool.true_and]
  exact decide_eq_decide.2 (by omega)

/-- A 64-bit part of a mask, written at its place. -/
theorem getLsbD_part (x : Nat) (q : Nat) {i : Nat} (hi : i < 1024) :
    (BitVec.ofNat 1024 (x * 2 ^ (64 * q))).getLsbD i = (decide (64 * q ≤ i) && x.testBit (i - 64 * q)) := by
  rw [BitVec.getLsbD_ofNat, decide_eq_true hi, Bool.true_and, Nat.testBit_mul_two_pow]

theorem getLsbD_maskPart (o : BitVec 1024) (x : Word) (q : Nat) {i : Nat} (hi : i < 1024) :
    ((o &&& ~~~(BitVec.ofNat 1024 ((2 ^ 64 - 1) * 2 ^ (64 * q)))) ||| BitVec.ofNat 1024 (x.toNat * 2 ^ (64 * q))).getLsbD i =
      if i / 64 = q then x.getLsbD (i % 64) else o.getLsbD i := by
  rw [BitVec.getLsbD_or, BitVec.getLsbD_and, BitVec.getLsbD_not, getLsbD_part _ q hi, getLsbD_part _ q hi, Nat.testBit_two_pow_sub_one,
    decide_eq_true hi]
  by_cases h : i / 64 = q
  · have hle : 64 * q ≤ i := by omega
    have hmod : i - 64 * q = i % 64 := by omega
    simp [h, hle, hmod, Nat.mod_lt i, BitVec.getLsbD]
  · by_cases hle : 64 * q ≤ i
    · have hge : 64 ≤ i - 64 * q := by omega
      have hbit : x.toNat.testBit (i - 64 * q) = false := BitVec.getLsbD_of_ge x _ hge
      simp [h, hle, not_lt.2 hge, hbit]
    · simp [h, hle]

/-- The first lane a mask selects, or 1,024. -/
def firstLane (m : BitVec 1024) : Nat := ((List.range 1024).find? fun i => m.getLsbD i).getD 1024

theorem firstLane_spec (m : BitVec 1024) : firstLane m ≤ 1024 ∧ (∀ i < firstLane m, m.getLsbD i = false) ∧
    (firstLane m < 1024 → m.getLsbD (firstLane m) = true) := by
  unfold firstLane
  cases h : (List.range 1024).find? fun i => m.getLsbD i with
  | none =>
    rw [List.find?_range_eq_none] at h
    exact ⟨le_rfl, fun i hi => by simpa using h i hi, fun hlt => absurd hlt (lt_irrefl _)⟩
  | some k =>
    obtain ⟨hk, hlt, hbefore⟩ := List.find?_range_eq_some.1 h
    exact ⟨(List.mem_range.1 hlt).le, fun i hi => by simpa using hbefore i hi, fun _ => hk⟩

/-- Settles O23, the compare by its pair of masks and the mask instructions bit by bit. -/
theorem comparesAndMasks : Obligations.ComparesAndMasks := by
  refine ⟨fun s c d a b m t ha hb hc => exec_vcmp_writes d m ha hb hc, fun s d a b x v q => ?_⟩
  intro puts
  refine ⟨?maskN, fun hv => ?maskNz, ?maskQ, ?mand, ?mor, ?mxor, ?mnot, ?mcnt, ?mfirst⟩
  case maskN => exact putM_bits rfl fun i hi => getLsbD_lowMask _ hi
  case maskNz => exact putM_bits (congrArg Host.Outcome.next (checked_pass (srcCheck_laned hv) _ s)) fun i hi => getLsbD_maskOf _ hi
  case maskQ => exact putM_bits rfl fun i hi => getLsbD_maskPart _ _ _ hi
  case mand => exact putM_bits rfl fun i _ => BitVec.getLsbD_and
  case mor => exact putM_bits rfl fun i _ => BitVec.getLsbD_or
  case mxor => exact putM_bits rfl fun i _ => BitVec.getLsbD_xor
  case mnot => exact putM_bits rfl fun i hi => by rw [BitVec.getLsbD_not, decide_eq_true hi, Bool.true_and]
  case mcnt => exact writesS_of_eq (congrArg (BitVec.ofNat 64) (popcount_eq_countP _)) rfl
  case mfirst =>
    obtain ⟨hle, hoff, hon⟩ := firstLane_spec (rdM s a)
    exact ⟨firstLane (rdM s a), hle, rfl, hoff, hon⟩

end Sys2Proof.Machine
end

section
/-! PROOF. The permute network (R123 to R125). -/

namespace Sys2Proof.Machine

/-- The place of a selected lane among those selected is the number selected before it. -/
theorem idxOf_filter_range {p : Nat → Bool} {n i : Nat} (hi : i < n) (hp : p i = true) :
    ((List.range n).filter p).idxOf i = (List.range i).countP p := by
  obtain ⟨r, rfl⟩ := Nat.exists_eq_add_of_lt hi
  have hbefore : i ∉ (List.range i).filter p := fun h => absurd (List.mem_range.1 (List.mem_filter.1 h).1) (lt_irrefl i)
  rw [Nat.add_assoc, List.range_add, List.filter_append, List.idxOf_append_of_notMem hbefore, List.range_succ_eq_map, List.map_cons,
    Nat.add_zero, List.filter_cons_of_pos hp, List.idxOf_cons_self, Nat.add_zero, List.countP_eq_length_filter]

section
variable {s : State} {a b d : VReg} {m : Sys2Proof.MReg} {t : Tag} (ha : (rdV s a).tag = t) (hl : isLaned t = true)
include ha hl

theorem exec_vperm_writes (z : Bool) (hb : permIndexTag (laneW t) (rdV s b).tag = true) :
    WritesV 3 d t 0 (masked (rdM s m) z fun i =>
      lane t (rdV s a) (if laneW t = 8 then 256 * (i / 256) + laneBits (rdV s b).bits (laneW t) i
        else laneBits (rdV s b).bits (laneW t) i % lanes t)) s (exec (.vperm d a b m z) s) := by
  subst ha
  have hnot : ∀ w, permIndexTag w .none = false ∧ permIndexTag w .poison = false := fun w => by
    unfold permIndexTag
    split <;> exact ⟨rfl, rfl⟩
  have hidx : srcCheck s (permIndexTag (laneW (rdV s a).tag)) b = none :=
    srcCheck_ok rfl hb (fun e => by simp [e, hnot] at hb) fun e => by simp [e, hnot] at hb
  rw [exec_vperm, execVperm, srcCheck_laned hl, hidx]
  exact putMasked_quiet 3 d _ z (fun _ => lane_lt _ _ _) s

theorem exec_vrot_writes (x : SReg) (k : Fin 1024) (z : Bool) :
    WritesV 3 d t 0 (masked (rdM s m) z fun i => lane t (rdV s a) ((i + ((rdS s x).toNat + k.val) % lanes t) % lanes t)) s
      (exec (.vrot d a x k m z) s) := by
  subst ha
  rw [exec_vrot, execVrot, srcCheck_laned hl]
  exact putMasked_quiet 3 d _ z (fun _ => lane_lt _ _ _) s

theorem exec_vbcast_writes (x : SReg) (k : Fin 1024) (z : Bool) :
    WritesV 3 d t 0 (masked (rdM s m) z fun _ => lane t (rdV s a) (((rdS s x).toNat + k.val) % lanes t)) s
      (exec (.vbcast d a x k m z) s) := by
  subst ha
  rw [exec_vbcast, execVbcast, srcCheck_laned hl]
  exact putMasked_quiet 3 d _ z (fun _ => lane_lt _ _ _) s

theorem exec_vcomp_writes :
    let sel := (List.range (lanes t)).filter fun i => (rdM s m).getLsbD i
    WritesV 3 d t 0 (fun i _ => if h : i < sel.length then lane t (rdV s a) sel[i] else 0) s (exec (.vcomp d a m) s) := by
  intro sel
  subst ha
  rw [exec_vcomp, execVcomp, srcCheck_laned hl]
  refine (putAll_writes 3 d _ _ 0 s).congr_lt fun i hi _ => ?_
  rw [laneBits_packLanes _ _ _ (laneW_pos _) (lane_room hi)]
  show ((sel.map _).getD i 0) % _ = _
  split_ifs with h
  · rw [List.getD_eq_getElem _ _ (by simpa using h), List.getElem_map]
    exact Nat.mod_eq_of_lt (lane_lt _ _ _)
  · rw [List.getD_eq_default _ _ (by simpa using h), Nat.zero_mod]

theorem exec_vexpd_writes (z : Bool) :
    WritesV 3 d t 0 (masked (rdM s m) z fun i => lane t (rdV s a) ((List.range i).countP fun j => (rdM s m).getLsbD j)) s
      (exec (.vexpd d a m z) s) := by
  subst ha
  rw [exec_vexpd, execVexpd, srcCheck_laned hl]
  refine (putMasked_quiet 3 d (t := (rdV s a).tag) (rdM s m) z (fun _ => lane_lt _ _ _) s).congr_lt fun i hi old => ?_
  unfold masked
  split_ifs with hm
  · exact congrArg (lane _ _) (idxOf_filter_range hi hm)
  · rfl
  · rfl

end

/-! ### `vshuf` (R125) -/

/-- Where the units of a pattern come from, said from their destinations. -/
theorem shufUnit_spec {p U j : Nat} (hp : p < 6) (hj : j < U / 2) :
    match p with
    | 0 => shufUnit p U (2 * j) = (false, j) ∧ shufUnit p U (2 * j + 1) = (true, j)
    | 1 => shufUnit p U (2 * j) = (false, U / 2 + j) ∧ shufUnit p U (2 * j + 1) = (true, U / 2 + j)
    | 2 => shufUnit p U j = (false, 2 * j) ∧ shufUnit p U (U / 2 + j) = (true, 2 * j)
    | 3 => shufUnit p U j = (false, 2 * j + 1) ∧ shufUnit p U (U / 2 + j) = (true, 2 * j + 1)
    | 4 => shufUnit p U (2 * j) = (false, 2 * j) ∧ shufUnit p U (2 * j + 1) = (true, 2 * j)
    | _ => shufUnit p U (2 * j) = (false, 2 * j + 1) ∧ shufUnit p U (2 * j + 1) = (true, 2 * j + 1) := by
  have hodd : (2 * j + 1) / 2 = j := by omega
  have hlow : ¬ U / 2 ≤ j := by omega
  interval_cases p <;> simp [shufUnit, hodd, hlow, Nat.mod_eq_of_lt hj, Nat.mul_comm j 2]

/-- The lane that `vshuf` puts at `i`. -/
def shufLane (s : State) (a b : VReg) (t : Tag) (p g i : Nat) : Nat :=
  lane t (rdV s (if (shufUnit p (lanes t / 2 ^ g) (i / 2 ^ g)).1 then b else a))
    ((shufUnit p (lanes t / 2 ^ g) (i / 2 ^ g)).2 * 2 ^ g + i % 2 ^ g)

theorem shufLane_unit {s : State} {a b : VReg} {t : Tag} {p g k e : Nat} {second : Bool} {j : Nat} (he : e < 2 ^ g)
    (h : shufUnit p (lanes t / 2 ^ g) k = (second, j)) :
    shufLane s a b t p g (k * 2 ^ g + e) = lane t (rdV s (if second then b else a)) (j * 2 ^ g + e) := by
  have hdiv : (k * 2 ^ g + e) / 2 ^ g = k := by rw [Nat.mul_comm, Nat.mul_add_div (Nat.two_pow_pos g), Nat.div_eq_of_lt he, Nat.add_zero]
  have hmod : (k * 2 ^ g + e) % 2 ^ g = e := by rw [Nat.mul_comm, Nat.mul_add_mod, Nat.mod_eq_of_lt he]
  rw [shufLane, hdiv, hmod, h]

theorem exec_vshuf_writes {s : State} {a b : VReg} {t : Tag} (ha : (rdV s a).tag = t) (hb : (rdV s b).tag = t) (hl : isLaned t = true)
    (d : VReg) (m : Sys2Proof.MReg) (p g : Ix8) (z : Bool) :
    WritesV 3 d t 0 (masked (rdM s m) z (shufLane s a b t p.val g.val)) s (exec (.vshuf d a b m p g z) s) := by
  rw [exec_vshuf, execVshuf, srcsCheck_ok s isLaned rfl rfl t [a, b] (by simp [ha, hb]) hl, checked_none, ha]
  exact putMasked_quiet 3 d _ z (fun _ => lane_lt _ _ _) s

end Sys2Proof.Machine
end

section
/-! PROOF. Register indirection (R120 to R122). -/

namespace Sys2Proof.Machine

/-! ### The first element that fails -/

theorem findSome?_first {α β : Type} {f : α → Option β} {pre post : List α} {x : α} {e : β} (hpre : ∀ y ∈ pre, f y = none)
    (hx : f x = some e) : (pre ++ x :: post).findSome? f = some e := by
  rw [List.findSome?_append, List.findSome?_eq_none_iff.2 hpre, Option.none_or, List.findSome?_cons, hx]

/-! ### Lanes merged under a write mask -/

/-- The lanes of a register after data land under the write mask `m`. -/
theorem laneBits_mergeMasked {w n : Nat} (hw : 0 < w) (hroom : w * n ≤ 8192) {m : BitVec 1024} (z : Bool) {data : BitVec 8192}
    {f : Nat → Nat} (hdata : ∀ i < n, laneBits data w i = if m.getLsbD i then f i else 0) (o : BitVec 8192) {i : Nat} (hi : i < n) :
    let mask := if z then BitVec.allOnes 8192 else laneMask w n fun i => m.getLsbD i
    laneBits ((o &&& ~~~mask) ||| (data &&& mask)) w i = masked m z f i (laneBits o w i) := by
  intro mask
  have hfit : w * (i + 1) ≤ 8192 := (Nat.mul_le_mul_left w hi).trans hroom
  have hmask : ∀ j < w, mask.getLsbD (w * i + j) = (z || m.getLsbD i) := fun j hj => by
    have hlt : w * i + j < 8192 := by rw [Nat.mul_add] at hfit; omega
    cases z with
    | true => exact BitVec.getLsbD_allOnes.trans (decide_eq_true hlt)
    | false => exact getLsbD_laneMask w n _ i j hw hj hfit hi
  rw [laneBits_merge o data mask w i _ hmask hfit, hdata i hi, masked]
  cases hm : m.getLsbD i <;> cases z <;> rfl

/-! ### Granules -/

theorem granW_pos (g : Bool) : 0 < granW g := by cases g <;> decide

theorem granW_mul_granN (g : Bool) : granW g * granN g = 8192 := by cases g <;> rfl

/-- The enabled granules. -/
def grans (s : State) (m : Sys2Proof.MReg) (g : Bool) : List Nat := (List.range (granN g)).filter fun i => (rdM s m).getLsbD i

/-- The register number a granule computes (R121). -/
def granReg (s : State) (base a : VReg) (i : Nat) : Nat := base.val + laneBits (rdV s a).bits 16 i

/-- The tag of a register by its number. -/
def tagNo (s : State) (r : Nat) : Tag := (rdV s (regNo r)).tag

theorem granRegs_eq (s : State) (base a : VReg) (m : Sys2Proof.MReg) (g : Bool) :
    granRegs s base a m g = (grans s m g).map fun i => (i, granReg s base a i) := rfl

/-- A tag of one that may be read through granules: neither NONE, POISON nor E2M1X. -/
def PlainTag (t : Tag) : Prop := t ≠ .none ∧ t ≠ .poison ∧ t ≠ .e2m1x

theorem isLaned_of_plain {t : Tag} (h : PlainTag t) : isLaned t = true := by
  obtain ⟨hn, hp, hx⟩ := h
  unfold isLaned
  split <;> simp_all

section
variable {s : State} {base a : VReg} {m : Sys2Proof.MReg} {g : Bool} {pre post : List Nat} {i : Nat}

/-- The footprint check (R122). -/
theorem granFoot_ok (h : ∀ i ∈ grans s m g, granReg s base a i < s.me.foot) : granFoot s.me (granRegs s base a m g) = none := by
  rw [granFoot, granRegs_eq, List.findSome?_map, List.findSome?_eq_none_iff]
  intro i hi
  simp [failIf, h i hi]

theorem granFoot_bad (hon : grans s m g = pre ++ i :: post) (hpre : ∀ j ∈ pre, granReg s base a j < s.me.foot)
    (hi : s.me.foot ≤ granReg s base a i) :
    granFoot s.me (granRegs s base a m g) = some { cause := 0x06, addr := granAddr i (granReg s base a i) } := by
  rw [granFoot, granRegs_eq, List.findSome?_map, hon]
  exact findSome?_first (fun j hj => by simp [failIf, hpre j hj]) (by simp [failIf, hi, fault])

/-- The fault of one register read through a granule, by its tag (R121). -/
def granTag (t : Tag) (addr : Word) : Option FaultInfo :=
  match t with
  | .none => some (fault 0x05 0 addr)
  | .poison => some (fault 0x11 3 addr)
  | .e2m1x => some (fault 0x04 0 addr)
  | _ => none

theorem granTag_plain {t : Tag} (h : PlainTag t) (A : Word) : granTag t A = none := by
  obtain ⟨hn, hp, hx⟩ := h
  unfold granTag
  split <;> simp_all

theorem granTag_bad {t : Tag} (h : ¬ PlainTag t) (A : Word) : granTag t A = some (badTag t A) := by
  by_cases hn : t = .none
  · subst hn; rfl
  by_cases hp : t = .poison
  · subst hp; rfl
  by_cases hx : t = .e2m1x
  · subst hx; rfl
  exact absurd ⟨hn, hp, hx⟩ h

/-- The fault of a register that does not carry the tag of the first. -/
def otherTag (s : State) (base a : VReg) (t : Tag) (i : Nat) : Option FaultInfo :=
  failIf (tagNo s (granReg s base a i) ≠ t) (fault 0x04 0 (granAddr i (granReg s base a i)))

theorem otherTag_same {t : Tag} (h : tagNo s (granReg s base a i) = t) : otherTag s base a t i = none := by
  simp [otherTag, failIf, h]

theorem otherTag_other {t : Tag} (h : tagNo s (granReg s base a i) ≠ t) :
    otherTag s base a t i = some { cause := 0x04, addr := granAddr i (granReg s base a i) } := by
  rw [otherTag, decide_eq_true h]
  rfl

/-- The two passes of `vgetl` over the granules. -/
theorem getlTags_eq (s : State) (base a : VReg) (m : Sys2Proof.MReg) (g : Bool) : getlTags s (granRegs s base a m g) =
    ((grans s m g).findSome? fun i => granTag (tagNo s (granReg s base a i)) (granAddr i (granReg s base a i))).orElse fun _ =>
      (grans s m g).findSome? (otherTag s base a (tagNo s (granReg s base a ((grans s m g).headD 0)))) := by
  rw [granRegs_eq]
  unfold getlTags
  cases grans s m g with
  | nil => rfl
  | cons i is =>
    simp only [List.findSome?_map]
    rfl

/-- Every register read through granules carries one plain tag. -/
theorem getlTags_ok (hplain : ∀ i ∈ grans s m g, PlainTag (tagNo s (granReg s base a i)))
    (hsame : ∀ i ∈ grans s m g, tagNo s (granReg s base a i) = tagNo s (granReg s base a ((grans s m g).headD 0))) :
    getlTags s (granRegs s base a m g) = none := by
  rw [getlTags_eq, List.findSome?_eq_none_iff.2 fun i hi => granTag_plain (hplain i hi) _, Option.orElse_none,
    List.findSome?_eq_none_iff]
  exact fun i hi => otherTag_same (hsame i hi)

theorem getlTags_unfit (hon : grans s m g = pre ++ i :: post) (hpre : ∀ j ∈ pre, PlainTag (tagNo s (granReg s base a j)))
    (hi : ¬ PlainTag (tagNo s (granReg s base a i))) :
    getlTags s (granRegs s base a m g) = some (badTag (tagNo s (granReg s base a i)) (granAddr i (granReg s base a i))) := by
  have hfirst := findSome?_first (post := post) (f := fun i => granTag (tagNo s (granReg s base a i)) (granAddr i (granReg s base a i)))
    (fun j hj => granTag_plain (hpre j hj) _) (granTag_bad hi _)
  rw [getlTags_eq, hon, hfirst, Option.orElse_some]

theorem getlTags_other (hplain : ∀ i ∈ grans s m g, PlainTag (tagNo s (granReg s base a i))) (hon : grans s m g = pre ++ i :: post)
    (hpre : ∀ j ∈ pre, tagNo s (granReg s base a j) = tagNo s (granReg s base a ((grans s m g).headD 0)))
    (hi : tagNo s (granReg s base a i) ≠ tagNo s (granReg s base a ((grans s m g).headD 0))) :
    getlTags s (granRegs s base a m g) = some { cause := 0x04, addr := granAddr i (granReg s base a i) } := by
  have hfirst := findSome?_first (post := post) (fun j hj => otherTag_same (hpre j hj)) (otherTag_other hi)
  rw [← hon] at hfirst
  rw [getlTags_eq, List.findSome?_eq_none_iff.2 fun i hi => granTag_plain (hplain i hi) _, Option.orElse_none, hfirst]

end

/-! ### `vgetl` (R121) -/

section
variable {s : State} {a : VReg} (hidx : (rdV s a).tag = .i16)
include hidx

theorem srcCheck_index : srcCheck s (fun t => t = .i16) a = none := srcCheck_ok hidx (by simp) (by simp) (by simp)

theorem exec_vgetl_bad {b : VReg} {m : Sys2Proof.MReg} {g : Bool} {e : FaultInfo}
    (h : firstFault [granFoot s.me (granRegs s b a m g), getlTags s (granRegs s b a m g)] = some e) (d : VReg) (z : Bool) :
    exec (.vgetl d a m b g z) s = .next (raise e s) :=
  checked_bad (by rw [srcCheck_index hidx]; exact h) _ s

/-- A `vgetl` that passes its checks: every enabled granule of the result is that granule of the register it computes. -/
theorem exec_vgetl_gathers {b : VReg} {m : Sys2Proof.MReg} {g : Bool} (hfoot : ∀ i ∈ grans s m g, granReg s b a i < s.me.foot)
    (hplain : ∀ i ∈ grans s m g, PlainTag (tagNo s (granReg s b a i)))
    (hsame : ∀ i ∈ grans s m g, tagNo s (granReg s b a i) = tagNo s (granReg s b a ((grans s m g).headD 0))) (d : VReg) (z : Bool) :
    ∃ data mask, Emits 3 (.v d data mask ((grans s m g).head?.map fun i => tagNo s (granReg s b a i))) 0 s (exec (.vgetl d a m b g z) s) ∧
      ∀ (o : BitVec 8192) (i : Nat), i < granN g → laneBits ((o &&& ~~~mask) ||| (data &&& mask)) (granW g) i =
        masked (rdM s m) z (fun i => laneBits (rdV s (regNo (granReg s b a i))).bits (granW g) i) i (laneBits o (granW g) i) := by
  refine ⟨_, _, ?_, fun o i hi => laneBits_mergeMasked (granW_pos g) (granW_mul_granN g).le z (data := packLanes (granW g)
    ((List.range (granN g)).map fun i => if (rdM s m).getLsbD i then laneBits (rdV s (regNo (granReg s b a i))).bits (granW g) i else 0))
    (fun j hj => ?_) o hi⟩
  · rw [exec_vgetl, execVgetl, srcCheck_index hidx, granFoot_ok hfoot, getlTags_ok hplain hsame, granRegs_eq]
    simp only [List.head?_map, Option.map_map]
    rfl
  · have hroom : granW g * (j + 1) ≤ 8192 := granW_mul_granN g ▸ Nat.mul_le_mul_left _ hj
    rw [laneBits_packLanes _ _ _ (granW_pos g) hroom, List.getD_eq_getElem?_getD, List.getElem?_map, List.getElem?_range hj]
    simp only [Option.map_some, Option.getD_some]
    split
    · exact Nat.mod_mod _ _
    · exact Nat.zero_mod _

end

end Sys2Proof.Machine
end

section
/-! PROOF. `vputl`: granules scattered over computed registers (R121, R122), and the obligation about the permute network. -/

namespace Sys2Proof.Machine

/-! ### Lists without repeats -/

theorem nodup_eraseDups (xs : List Nat) : xs.eraseDups.Nodup := by
  match xs with
  | [] => exact List.nodup_nil
  | x :: xs =>
    rw [List.eraseDups_cons, List.nodup_cons]
    exact ⟨by simp [List.mem_eraseDups], nodup_eraseDups _⟩
termination_by xs.length
decreasing_by simpa using Nat.lt_succ_of_le (List.length_filter_le _ xs)

/-! ### Registers that take granules -/

/-- One register after it takes its granules: those under the mask from the data, the others its own, or the fill under NONE. -/
def takeGrans (data : BitVec 8192) (o : VData) (x : BitVec 8192 × Option (Tag × BitVec 8192)) : VData :=
  match x.2 with
  | some (t, fill) => { bits := (fill &&& ~~~x.1) ||| (data &&& x.1), tag := t }
  | none => { bits := (o.bits &&& ~~~x.1) ||| (data &&& x.1), tag := o.tag }

theorem putGrans_eq (data : BitVec 8192) (g : Regs) (x : VReg × BitVec 8192 × Option (Tag × BitVec 8192)) :
    putGrans data g x = { g with v := g.v.set x.1 (takeGrans data g.v[x.1] x.2) } := by
  obtain ⟨r, mask, _ | ⟨t, fill⟩⟩ := x <;> rfl

theorem getElem_putGrans (data : BitVec 8192) (g : Regs) (x : VReg × BitVec 8192 × Option (Tag × BitVec 8192)) (r : VReg) :
    (putGrans data g x).v[r] = if r = x.1 then takeGrans data g.v[x.1] x.2 else g.v[r] := by
  rw [putGrans_eq]
  exact getElem_set_fin _ _ _ _

/-- A `vputl`'s result changes vector registers alone. -/
theorem puts_others (data : BitVec 8192) (l : List (VReg × BitVec 8192 × Option (Tag × BitVec 8192))) (g : Regs) :
    let h := applyReg (.puts data l) g
    h.s = g.s ∧ h.p = g.p ∧ h.m = g.m ∧ h.k = g.k := by
  show let h := l.foldl (putGrans data) g; _
  induction l generalizing g with
  | nil => exact ⟨rfl, rfl, rfl, rfl⟩
  | cons x l ih =>
    obtain ⟨hs, hp, hm, hk⟩ := ih (putGrans data g x)
    exact ⟨hs.trans (by rw [putGrans_eq]), hp.trans (by rw [putGrans_eq]), hm.trans (by rw [putGrans_eq]), hk.trans (by rw [putGrans_eq])⟩

/-- A register that is not named keeps its value. -/
theorem puts_other (data : BitVec 8192) {l : List (VReg × BitVec 8192 × Option (Tag × BitVec 8192))} {r : VReg}
    (hr : r ∉ l.map fun x => x.1) (g : Regs) : (applyReg (.puts data l) g).v[r] = g.v[r] := by
  show (l.foldl (putGrans data) g).v[r] = _
  induction l generalizing g with
  | nil => rfl
  | cons x l ih =>
    rw [List.map_cons, List.mem_cons, not_or] at hr
    rw [List.foldl_cons, ih hr.2, getElem_putGrans, if_neg hr.1]

/-- A register that is named once takes its granules. -/
theorem puts_named (data : BitVec 8192) {l : List (VReg × BitVec 8192 × Option (Tag × BitVec 8192))} (hl : (l.map fun x => x.1).Nodup)
    {x : VReg × BitVec 8192 × Option (Tag × BitVec 8192)} (hx : x ∈ l) {r : VReg} (hr : x.1 = r) (g : Regs) :
    (applyReg (.puts data l) g).v[r] = takeGrans data g.v[r] x.2 := by
  induction l generalizing g with
  | nil => exact absurd hx List.not_mem_nil
  | cons y l ih =>
    rw [List.map_cons, List.nodup_cons] at hl
    obtain ⟨hy, hl⟩ := hl
    show (applyReg (.puts data l) (putGrans data g y)).v[r] = _
    rcases List.mem_cons.1 hx with rfl | hx
    · subst hr
      rw [puts_other data hy, getElem_putGrans, if_pos rfl]
    · have hne : r ≠ y.1 := fun e => hy (e ▸ hr ▸ List.mem_map_of_mem hx)
      rw [ih hl hx, getElem_putGrans, if_neg hne]

/-! ### The registers of a `vputl` -/

theorem regNo_val {r : Nat} (h : r < 640) : (regNo r).val = r := Nat.mod_eq_of_lt h

theorem regNo_of_val (r : VReg) : regNo r.val = r := Fin.ext (regNo_val r.isLt)

section
variable {s : State} {d a b : VReg} {m : Sys2Proof.MReg} {g : Bool}

/-- The registers a `vputl` names, each once. -/
def putlRegs (s : State) (d a : VReg) (m : Sys2Proof.MReg) (g : Bool) : List Nat := ((grans s m g).map (granReg s d a)).eraseDups

/-- What they take. -/
def putlList (s : State) (d a b : VReg) (m : Sys2Proof.MReg) (g : Bool) : List (VReg × BitVec 8192 × Option (Tag × BitVec 8192)) :=
  (putlRegs s d a m g).zipIdx.map fun x => putlReg s (rdV s b) g (granRegs s d a m g) x.1 x.2

theorem mem_putlRegs {r : Nat} : r ∈ putlRegs s d a m g ↔ r ∈ (grans s m g).map (granReg s d a) := List.mem_eraseDups

theorem mem_putlList {r : Nat} (h : r ∈ putlRegs s d a m g) :
    ∃ n, putlReg s (rdV s b) g (granRegs s d a m g) r n ∈ putlList s d a b m g := by
  rw [← List.zipIdx_map_fst 0 (putlRegs s d a m g), List.mem_map] at h
  obtain ⟨x, hx, rfl⟩ := h
  exact ⟨x.2, List.mem_map_of_mem hx⟩

theorem map_fst_putlList : (putlList s d a b m g).map (fun x => x.1) = (putlRegs s d a m g).map regNo := by
  rw [putlList, List.map_map]
  conv_rhs => rw [← List.zipIdx_map_fst 0 (putlRegs s d a m g), List.map_map]
  rfl

theorem putlRegs_lt (hfoot : s.me.foot ≤ 640) (hin : ∀ i ∈ grans s m g, granReg s d a i < s.me.foot) :
    ∀ r ∈ putlRegs s d a m g, r < 640 := fun r hr => by
  obtain ⟨i, hi, rfl⟩ := List.mem_map.1 (mem_putlRegs.1 hr)
  exact (hin i hi).trans_le hfoot

theorem nodup_putlList (hlt : ∀ r ∈ putlRegs s d a m g, r < 640) : ((putlList s d a b m g).map fun x => x.1).Nodup := by
  rw [map_fst_putlList]
  refine (nodup_eraseDups _).map_on fun x hx y hy hxy => ?_
  rw [← regNo_val (hlt x hx), hxy, regNo_val (hlt y hy)]

/-- A register that a `vputl` names takes the granules that name it; one it does not name keeps its value. -/
theorem puts_putlList (hlt : ∀ r ∈ putlRegs s d a m g, r < 640) (data : BitVec 8192) (h : Regs) (r : VReg) :
    (r.val ∈ (grans s m g).map (granReg s d a) → ∃ n, (applyReg (.puts data (putlList s d a b m g)) h).v[r] =
      takeGrans data h.v[r] (putlReg s (rdV s b) g (granRegs s d a m g) r.val n).2) ∧
    (r.val ∉ (grans s m g).map (granReg s d a) → (applyReg (.puts data (putlList s d a b m g)) h).v[r] = h.v[r]) := by
  refine ⟨fun hr => ?_, fun hr => puts_other data (fun hmem => hr ?_) h⟩
  · obtain ⟨n, hn⟩ := mem_putlList (b := b) (mem_putlRegs.2 hr)
    exact ⟨n, puts_named data (nodup_putlList hlt) hn (regNo_of_val r) h⟩
  · rw [map_fst_putlList, List.mem_map] at hmem
    obtain ⟨q, hq, rfl⟩ := hmem
    rw [regNo_val (hlt q hq)]
    exact mem_putlRegs.1 hq

theorem contains_granRegs {i r : Nat} :
    (granRegs s d a m g).contains (i, r) = decide (i ∈ grans s m g ∧ granReg s d a i = r) := by
  rw [granRegs_eq, Bool.eq_iff_iff]
  simp

theorem putlReg_untagged (x : VData) (xs : List (Nat × Nat)) {r : Nat} (n : Nat) (h : tagNo s r = .none) :
    (putlReg s x g xs r n).2 = (laneMask (granW g) (granN g) fun i => xs.contains (i, r), some (x.tag, Config.granules (s.fresh + n))) := by
  unfold tagNo at h
  rw [putlReg, if_pos h]

theorem putlReg_tagged (x : VData) (xs : List (Nat × Nat)) {r : Nat} (n : Nat) (h : tagNo s r ≠ .none) :
    (putlReg s x g xs r n).2 = (laneMask (granW g) (granN g) fun i => xs.contains (i, r), none) := by
  unfold tagNo at h
  rw [putlReg, if_neg h]

/-- The checks of a `vputl`. -/
theorem exec_vputl_bad (hidx : (rdV s a).tag = .i16) (hplain : PlainTag (rdV s b).tag) {e : FaultInfo}
    (h : firstFault [granFoot s.me (granRegs s d a m g), putlTags s (rdV s b).tag (granRegs s d a m g)] = some e) :
    exec (.vputl d a b m g) s = .next (raise e s) :=
  checked_bad (by rw [srcCheck_index hidx, srcCheck_laned (isLaned_of_plain hplain)]; exact h) _ s

/-- Granule `i` of a register after it takes granules. -/
theorem laneBits_takeGrans {data : BitVec 8192} {o : VData} {n : Nat} {r i : Nat} (hi : i < granN g) :
    laneBits (takeGrans data o (putlReg s (rdV s b) g (granRegs s d a m g) r n).2).bits (granW g) i =
      if i ∈ grans s m g ∧ granReg s d a i = r then laneBits data (granW g) i
      else laneBits (if tagNo s r = .none then Config.granules (s.fresh + n) else o.bits) (granW g) i := by
  have hroom : granW g * (i + 1) ≤ 8192 := granW_mul_granN g ▸ Nat.mul_le_mul_left _ hi
  have hmask : ∀ j < granW g, (laneMask (granW g) (granN g) fun i => (granRegs s d a m g).contains (i, r)).getLsbD (granW g * i + j) =
      decide (i ∈ grans s m g ∧ granReg s d a i = r) := fun j hj => by
    rw [getLsbD_laneMask _ _ _ _ _ (granW_pos g) hj hroom hi, contains_granRegs]
  have htake : (takeGrans data o (putlReg s (rdV s b) g (granRegs s d a m g) r n).2).bits =
      (if tagNo s r = .none then Config.granules (s.fresh + n) else o.bits) &&&
        ~~~(laneMask (granW g) (granN g) fun i => (granRegs s d a m g).contains (i, r)) |||
      data &&& laneMask (granW g) (granN g) fun i => (granRegs s d a m g).contains (i, r) := by
    by_cases ht : tagNo s r = .none
    · rw [if_pos ht, putlReg_untagged _ _ _ ht, takeGrans]
    · rw [if_neg ht, putlReg_tagged _ _ _ ht, takeGrans]
  rw [htake, laneBits_merge _ data _ (granW g) i _ hmask hroom]
  simp only [decide_eq_true_eq]

theorem tag_takeGrans {data : BitVec 8192} {o : VData} {r n : Nat} (ho : o.tag = tagNo s r)
    (ht : tagNo s r = (rdV s b).tag ∨ tagNo s r = .none) :
    (takeGrans data o (putlReg s (rdV s b) g (granRegs s d a m g) r n).2).tag = (rdV s b).tag := by
  by_cases hn : tagNo s r = .none
  · rw [putlReg_untagged _ _ _ hn, takeGrans]
  · rw [putlReg_tagged _ _ _ hn, takeGrans, ho, ht.resolve_right hn]

/-- The fault of a register that `vputl` may not write. -/
theorem putlTags_eq (t : Tag) : putlTags s t (granRegs s d a m g) = (grans s m g).findSome? fun i =>
    failIf (tagNo s (granReg s d a i) ≠ t && tagNo s (granReg s d a i) ≠ .none) (fault 0x04 0 (granAddr i (granReg s d a i))) := by
  rw [granRegs_eq, putlTags, List.findSome?_map]
  rfl

theorem putlTags_ok {t : Tag} (h : ∀ i ∈ grans s m g, tagNo s (granReg s d a i) = t ∨ tagNo s (granReg s d a i) = .none) :
    putlTags s t (granRegs s d a m g) = none := by
  rw [putlTags_eq, List.findSome?_eq_none_iff]
  intro i hi
  rcases h i hi with h | h <;> simp [failIf, h]

theorem putlTags_bad {t : Tag} {pre post : List Nat} {i : Nat} (hon : grans s m g = pre ++ i :: post)
    (hpre : ∀ j ∈ pre, tagNo s (granReg s d a j) = t ∨ tagNo s (granReg s d a j) = .none) (ht : tagNo s (granReg s d a i) ≠ t)
    (hn : tagNo s (granReg s d a i) ≠ .none) :
    putlTags s t (granRegs s d a m g) = some { cause := 0x04, addr := granAddr i (granReg s d a i) } := by
  rw [putlTags_eq, hon]
  refine findSome?_first (fun j hj => ?_) (by simp [failIf, ht, hn, fault])
  rcases hpre j hj with h | h <;> simp [failIf, h]

/-- A `vputl` that passes its checks: every enabled granule of the data is in the register it computes, no other granule of a
tagged register differs. -/
theorem exec_vputl_scatters (hfoot : s.me.foot ≤ 640) (hidx : (rdV s a).tag = .i16) (hplain : PlainTag (rdV s b).tag)
    (hin : ∀ i ∈ grans s m g, granReg s d a i < s.me.foot)
    (htags : ∀ i ∈ grans s m g, tagNo s (granReg s d a i) = (rdV s b).tag ∨ tagNo s (granReg s d a i) = .none) :
    let u := Upd.puts (rdV s b).bits (putlList s d a b m g)
    exec (.vputl d a b m g) s = .next (withFlight 3 u 0 s.me.sq.arrive none { s with fresh := s.fresh + (putlRegs s d a m g).length }) ∧
    ∀ h : Regs, (∀ r : VReg, h.v[r] = s.me.regs.v[r]) → let h' := applyReg u h
      h'.s = h.s ∧ h'.p = h.p ∧ h'.m = h.m ∧ h'.k = h.k ∧
      ∀ r : VReg, h'.v[r].tag = (if r.val ∈ (grans s m g).map (granReg s d a) then (rdV s b).tag else h.v[r].tag) ∧
        ∀ i < granN g, (i ∈ grans s m g ∧ granReg s d a i = r.val → laneBits h'.v[r].bits (granW g) i = laneBits (rdV s b).bits (granW g) i) ∧
          (¬(i ∈ grans s m g ∧ granReg s d a i = r.val) → (h.v[r].tag ≠ .none ∨ r.val ∉ (grans s m g).map (granReg s d a)) →
            laneBits h'.v[r].bits (granW g) i = laneBits h.v[r].bits (granW g) i) := by
  intro u
  have hlt := putlRegs_lt hfoot hin
  refine ⟨?run, fun h hold => ?lands⟩
  case run =>
    have hregs : (granRegs s d a m g).map (fun x => x.2) = (grans s m g).map (granReg s d a) := by
      rw [granRegs_eq, List.map_map]
      rfl
    rw [exec_vputl, execVputl, srcCheck_index hidx, srcCheck_laned (isLaned_of_plain hplain), granFoot_ok hin, putlTags_ok htags]
    simp only [hregs]
    rfl
  case lands =>
    intro h'
    obtain ⟨hs, hp, hm, hk⟩ := puts_others (rdV s b).bits (putlList s d a b m g) h
    refine ⟨hs, hp, hm, hk, fun r => ?_⟩
    obtain ⟨hnamed, hother⟩ := puts_putlList (b := b) hlt (rdV s b).bits h r
    by_cases hr : r.val ∈ (grans s m g).map (granReg s d a)
    · obtain ⟨n, hn⟩ := hnamed hr
      have htag : h.v[r].tag = tagNo s r.val := by
        rw [hold r, tagNo, regNo_of_val]
        rfl
      have hfit : tagNo s r.val = (rdV s b).tag ∨ tagNo s r.val = .none := by
        obtain ⟨i, hi, he⟩ := List.mem_map.1 hr
        exact he ▸ htags i hi
      have hr' : h'.v[r] = _ := hn
      rw [hr', if_pos hr]
      refine ⟨tag_takeGrans htag hfit, fun i hi => ⟨fun hon => ?_, fun hoff hkept => ?_⟩⟩
      · rw [laneBits_takeGrans hi, if_pos hon]
      · rw [laneBits_takeGrans hi, if_neg hoff, if_neg (htag ▸ hkept.resolve_right (not_not.2 hr))]
    · have hr' : h'.v[r] = h.v[r] := hother hr
      rw [hr', if_neg hr]
      exact ⟨rfl, fun i _ => ⟨fun hon => absurd (List.mem_map.2 ⟨i, hon⟩) hr, fun _ _ => rfl⟩⟩

end

/-! ### `vmovx` and `vstx` (R121, R122) -/

section
variable {s : State} {d a : VReg} {x : SReg}

theorem tagNo_fault {r : Nat} (hr : r < 640) (h : tagNo s r = .none ∨ tagNo s r = .poison) :
    sourceCheck s (regNo r) = some (badTag (tagNo s r) (BitVec.ofNat 64 r)) := by
  rw [sourceCheck_bad h, badSource, regNo_val hr]
  rfl

theorem wholeReg_outside {r : Nat} (h : s.me.foot ≤ r) (reads : Bool) :
    wholeReg s r reads = some { cause := 0x06, addr := BitVec.ofNat 64 (min r 0x3FF) } := by
  simp [wholeReg, failIf, h, granAddr, fault]

theorem wholeReg_inside {r : Nat} (h : r < s.me.foot) (reads : Bool) :
    wholeReg s r reads = if reads then sourceCheck s (regNo r) else none := by
  simp [wholeReg, failIf, not_le.2 h]

theorem exec_vmovx_moves {r : Nat} (hr : r = a.val + (rdS s x).toNat) (hin : r < s.me.foot) (hn : tagNo s r ≠ .none)
    (hp : tagNo s r ≠ .poison) :
    Emits 3 (.v d (rdV s (regNo r)).bits (BitVec.allOnes 8192) (some (tagNo s r))) 0 s (exec (.vmovx d a x) s) := by
  subst hr
  exact congrArg Host.Outcome.next (checked_pass ((wholeReg_inside hin true).trans (sourceCheck_ok hn hp)) _ s)

theorem exec_vmovx_bad {r : Nat} (hr : r = a.val + (rdS s x).toNat) {e : FaultInfo} (h : wholeReg s r true = some e) :
    exec (.vmovx d a x) s = .next (raise e s) := by
  subst hr
  exact checked_bad h _ s

theorem exec_vstx_moves {r : Nat} (hr : r = d.val + (rdS s x).toNat) (hin : r < s.me.foot) (hs : sourceCheck s a = none) :
    Emits 3 (.v (regNo r) (rdV s a).bits (BitVec.allOnes 8192) (some (rdV s a).tag)) 0 s (exec (.vstx d a x) s) := by
  subst hr
  exact congrArg Host.Outcome.next (checked_pass (by rw [hs]; exact wholeReg_inside hin false) _ s)

theorem exec_vstx_bad {r : Nat} (hr : r = d.val + (rdS s x).toNat) (hout : s.me.foot ≤ r) (hs : sourceCheck s a = none) :
    exec (.vstx d a x) s = .next (raise { cause := 0x06, addr := BitVec.ofNat 64 (min r 0x3FF) } s) := by
  subst hr
  exact checked_bad (by rw [hs]; exact wholeReg_outside hout false) _ s

end

/-- Settles O24: the permute network lane by lane, register indirection check by check. -/
theorem permuteEffects : Obligations.PermuteEffects := by
  refine ⟨fun s d a b m x k z p g t ha hl => ?permute, fun s d a b m x g z hfoot => ?indirect⟩
  case permute =>
    intro at_ mk n sum sel
    refine ⟨exec_vperm_writes ha hl z, exec_vrot_writes ha hl x k z, exec_vbcast_writes ha hl x k z, exec_vcomp_writes ha hl,
      exec_vexpd_writes ha hl z, fun hb hp _ => ⟨_, exec_vshuf_writes ha hb hl d m p g z, ?_⟩⟩
    intro u from_ j hj e he to_
    obtain ⟨p, hp8⟩ := p
    have hspec := shufUnit_spec hp hj
    interval_cases p <;>
    · have hfrom := shufLane_unit (s := s) (a := a) (b := b) he hspec.1
      have hfrom' := shufLane_unit (s := s) (a := a) (b := b) he hspec.2
      exact ⟨hfrom, hfrom'⟩
  case indirect =>
    intro w n on from_ to_ tagOf at_ first whole plain getl putl
    refine ⟨fun hidx => ⟨fun hall => ?gathers, fun i hfirst hout => ?getFoot, fun hin => ⟨fun i hfirst hbad => ?getTag,
      fun hplain i hfirst hother => ?getOther⟩⟩, fun hidx hplain => ⟨fun hall => ?scatters, fun i hfirst hout => ?putFoot,
      fun hin i hfirst ht hn => ?putTag⟩, fun r hr => ⟨fun hin hn hp => exec_vmovx_moves hr hin hn hp, fun hin ht => ?movNone,
      fun hin ht => ?movPoison, fun hout => exec_vmovx_bad hr (wholeReg_outside hout true)⟩,
      fun r hr hn hp => ⟨fun hin => exec_vstx_moves hr hin (sourceCheck_ok hn hp), fun hout => exec_vstx_bad hr hout (sourceCheck_ok hn hp)⟩⟩
    case gathers =>
      exact exec_vgetl_gathers hidx (fun i hi => (hall i hi).1) (fun i hi => (hall i hi).2.1) (fun i hi => (hall i hi).2.2) d z
    case getFoot =>
      obtain ⟨pre, post, hon, hpre⟩ := hfirst
      exact exec_vgetl_bad hidx (by rw [granFoot_bad hon hpre hout]; rfl) d z
    case getTag =>
      obtain ⟨pre, post, hon, hpre⟩ := hfirst
      exact exec_vgetl_bad hidx (by rw [granFoot_ok hin, getlTags_unfit hon hpre hbad]; rfl) d z
    case getOther =>
      obtain ⟨pre, post, hon, hpre⟩ := hfirst
      exact exec_vgetl_bad hidx (by rw [granFoot_ok hin, getlTags_other hplain hon hpre hother]; rfl) d z
    case scatters =>
      exact ⟨_, _, exec_vputl_scatters hfoot hidx hplain (fun i hi => (hall i hi).1) fun i hi => (hall i hi).2⟩
    case putFoot =>
      obtain ⟨pre, post, hon, hpre⟩ := hfirst
      exact exec_vputl_bad hidx hplain (by rw [granFoot_bad hon hpre hout]; rfl)
    case putTag =>
      obtain ⟨pre, post, hon, hpre⟩ := hfirst
      exact exec_vputl_bad hidx hplain (by rw [granFoot_ok hin, putlTags_bad hon hpre ht hn]; rfl)
    case movNone =>
      refine exec_vmovx_bad hr ((wholeReg_inside hin true).trans ((tagNo_fault (hin.trans_le hfoot) (.inl ht)).trans ?_))
      rw [show tagNo s r = .none from ht]
      rfl
    case movPoison =>
      refine exec_vmovx_bad hr ((wholeReg_inside hin true).trans ((tagNo_fault (hin.trans_le hfoot) (.inr ht)).trans ?_))
      rw [show tagNo s r = .poison from ht]
      rfl

end Sys2Proof.Machine
end

section
/-! PROOF. Strided and indexed accesses (R136 to R143): the checks of the lanes, and the lanes done one at a time. -/

namespace Sys2Proof.Machine

/-! ### Checks lane by lane (R139) -/

/-- The results of a check of every lane, or the first fault. -/
def collectLanes {β : Type} (f : Nat → Except FaultInfo β) : List Nat → Except FaultInfo (List (Nat × β))
  | [] => .ok []
  | i :: is => match f i with
    | .error e => .error e
    | .ok y => match collectLanes f is with
      | .error e => .error e
      | .ok r => .ok ((i, y) :: r)

section
variable {β : Type} {f : Nat → Except FaultInfo β}

theorem collectLanes_ok {g : Nat → β} {is : List Nat} (h : ∀ i ∈ is, f i = .ok (g i)) :
    collectLanes f is = .ok (is.map fun i => (i, g i)) := by
  induction is with
  | nil => rfl
  | cons i is ih => rw [collectLanes, h i List.mem_cons_self, ih fun j hj => h j (List.mem_cons_of_mem i hj)]; rfl

theorem collectLanes_error {pre post : List Nat} {i : Nat} {e : FaultInfo} (hpre : ∀ j ∈ pre, ∃ y, f j = .ok y) (hi : f i = .error e) :
    collectLanes f (pre ++ i :: post) = .error e := by
  induction pre with
  | nil => rw [List.nil_append, collectLanes, hi]
  | cons j pre ih =>
    obtain ⟨y, hy⟩ := hpre j List.mem_cons_self
    rw [List.cons_append, collectLanes, hy, ih fun k hk => hpre k (List.mem_cons_of_mem j hk)]

end

/-- The check of one lane's access: its alignment, then the access (R138, R139). -/
def laneReach (s : State) (st : Bool) (k : LineAcc) (n : Nat) (A : Word) : Except FaultInfo (List Seg) :=
  if A.toNat % n ≠ 0 then .error { cause := 0x0B, addr := A } else accessSegs s (agentOf s.me) st k A n

/-- The check of one lane's window access (R374). -/
def laneWin (s : State) (acc : Right) (n : Nat) (A : Word) : Except FaultInfo WinRef :=
  winCheckAll s (agentOf s.me) (A.toNat / 2 ^ 48) (A.toNat % 2 ^ 48) n acc n false

theorem laneSegs_eq (s : State) (st : Bool) (k : LineAcc) (n : Nat) (addr : Nat → Word) (is : List Nat) :
    laneSegs s st k n addr is = collectLanes (fun i => laneReach s st k n (addr i)) is := by
  induction is with
  | nil => rfl
  | cons i is ih =>
    rw [laneSegs, collectLanes, ih, laneReach]
    by_cases h : (addr i).toNat % n = 0
    · rw [alignCheck_ok h, if_neg (not_not.2 h)]
      cases accessSegs s (agentOf s.me) st k (addr i) n with
      | error e => rfl
      | ok gs => cases collectLanes (fun i => laneReach s st k n (addr i)) is <;> rfl
    · rw [if_pos h, alignCheck, failIf, decide_eq_true h]
      rfl

theorem winSplit_eq (A : Word) : winSplit A = (A.toNat / 2 ^ 48, A.toNat % 2 ^ 48) := by
  have hhigh : A.toNat / 2 ^ 48 % 2 ^ 16 = A.toNat / 2 ^ 48 := 
    Nat.mod_eq_of_lt (Nat.div_lt_of_lt_mul (by rw [← pow_add]; exact A.isLt))
  rw [winSplit, bits, bits, fld, fld, hhigh, pow_zero, Nat.div_one]

theorem laneWins_eq (s : State) (acc : Right) (n : Nat) (addr : Nat → Word) (is : List Nat) :
    laneWins s acc n addr is = collectLanes (fun i => laneWin s acc n (addr i)) is := by
  induction is with
  | nil => rfl
  | cons i is ih =>
    rw [laneWins, collectLanes, ih, laneWin, winSplit_eq]
    cases winCheckAll s (agentOf s.me) ((addr i).toNat / 2 ^ 48) ((addr i).toNat % 2 ^ 48) n acc n false with
    | error e => rfl
    | ok w => cases collectLanes (fun i => laneWin s acc n (addr i)) is <;> rfl

/-! ### What a plain access changes: the states of lines, and what pails notice -/

/-- `t` differs from `s` in the states of lines and in what the dies keep of them. -/
def Touched (s t : State) : Prop := ∃ lines home dies, t = { s with lines, home, dies }

theorem Touched.refl (s : State) : Touched s s := ⟨_, _, _, rfl⟩

theorem Touched.trans {s t u : State} (h : Touched s t) (k : Touched t u) : Touched s u := by
  obtain ⟨l, m, d, rfl⟩ := h
  obtain ⟨l', m', d', rfl⟩ := k
  exact ⟨l', m', d', rfl⟩

theorem Touched.foldl {α : Type} {f : State → α → State} (hf : ∀ s x, Touched s (f s x)) (xs : List α) (s : State) :
    Touched s (xs.foldl f s) := by
  induction xs generalizing s with
  | nil => exact .refl s
  | cons x xs ih => exact (hf s x).trans (ih _)

theorem touched_stepLine (x : Nat) (s : State) : Touched s (stepLine .plain x s) := by
  unfold stepLine
  split
  · exact .refl s
  · simp only [LineAcc.writes, Bool.and_false, Bool.false_eq_true, if_false]
    exact ⟨_, _, _, rfl⟩

theorem touched_stepHome (u : Option Nat) (va : Word) (pa : Nat) (s : State) : Touched s (stepHome .plain u va pa s) := by
  have hquiet : (homeNext .plain (homeAt s pa)).2 = none := by
    cases homeAt s pa <;> rfl
  unfold stepHome
  rcases hn : homeNext .plain (homeAt s pa) with ⟨h, _ | c⟩
  · exact ⟨_, _, _, rfl⟩
  · rw [hn] at hquiet
    cases hquiet

theorem touched_stepSegs (u : Option Nat) (gs : List Seg) (s : State) : Touched s (stepSegs .plain u gs s) := by
  refine Touched.foldl (fun s g => ?_) gs s
  split
  · exact (Touched.foldl (fun s x => touched_stepLine x s) _ s).trans ⟨_, _, _, rfl⟩
  · exact Touched.foldl (fun s x => touched_stepHome _ _ _ s) _ s

theorem Touched.readSegs {s t : State} (h : Touched s t) (gs : List Seg) : readSegs t gs = readSegs s gs := by
  obtain ⟨l, m, d, rfl⟩ := h
  rfl

theorem Touched.badLine {s t : State} (h : Touched s t) (gs : List Seg) : badLine t gs = badLine s gs := by
  obtain ⟨l, m, d, rfl⟩ := h
  rfl

/-! ### Lanes one at a time (R143, R243) -/

/-- No cut of the agenda stands at the head. -/
def Whole (s : State) : Prop := ∀ k rest, s.agenda ≠ .cut k :: rest

theorem goOn_whole {s : State} (h : Whole s) (r : SlotRest) : goOn r s = runRest r.steps r s := by
  unfold goOn
  split
  · next k rest hcut => exact absurd hcut (h k rest)
  · rfl

theorem goOn_cut {s : State} {k : Nat} {rest : List Act} (h : s.agenda = .cut k :: rest) {r : SlotRest} (hk : k ≤ r.steps) :
    goOn r s = runRest k r { s with agenda := rest } := by
  rw [goOn, h]
  exact congrArg (fun n => runRest n r { s with agenda := rest }) (Nat.min_eq_left hk)

/-- The enabled lanes of a load with what they gave: an address and the pieces it was translated to. -/
def laneList (addr : Nat → Word) (gs : Nat → List Seg) (on : List Nat) : List (Nat × Word × List Seg) :=
  on.map fun i => (i, addr i, gs i)

/-- The state after the lanes of a load. -/
def afterLanes (gs : Nat → List Seg) (on : List Nat) (s : State) : State :=
  on.foldl (fun s i => stepSegs .plain (some s.me.uid) (gs i) s) s

theorem touched_afterLanes (gs : Nat → List Seg) (on : List Nat) (s : State) : Touched s (afterLanes gs on s) :=
  Touched.foldl (fun _ _ => touched_stepSegs _ _ _) on s

/-- The data of the lanes, each at its place. -/
def gathered (s : State) (w : Nat) (gs : Nat → List Seg) (on : List Nat) (data : BitVec 8192) : BitVec 8192 :=
  on.foldl (fun data i => data ||| BitVec.ofNat 8192 (leNat (readSegs s (gs i)) * 2 ^ (w * i))) data

/-- The address of the first lane that met an uncorrectable line. -/
def firstBad (s : State) (addr : Nat → Word) (gs : Nat → List Seg) (on : List Nat) : Option Word :=
  on.findSome? fun i => if (badLine s (gs i)).isSome then some (addr i) else none

theorem firstBad_none {s : State} {addr : Nat → Word} {gs : Nat → List Seg} {on : List Nat} (h : ∀ i ∈ on, badLine s (gs i) = none) :
    firstBad s addr gs on = none := by
  rw [firstBad, List.findSome?_eq_none_iff]
  intro i hi
  rw [h i hi]
  rfl

theorem firstBad_some {s : State} {addr : Nat → Word} {gs : Nat → List Seg} {pre post : List Nat} {i : Nat}
    (hpre : ∀ j ∈ pre, badLine s (gs j) = none) (hi : badLine s (gs i) ≠ none) : firstBad s addr gs (pre ++ i :: post) = some (addr i) :=
  findSome?_first (fun j hj => by rw [hpre j hj]; rfl) (if_pos (Option.isSome_iff_ne_none.2 hi))

/-- A load whose lanes are all done. -/
theorem runRest_read (d : VReg) (w : Nat) (t : Tag) (mask : BitVec 8192) (fixed : Option Nat) (A : Word) (addr : Nat → Word)
    (gs : Nat → List Seg) {s₀ : State} (on : List Nat) {s : State} (h : Touched s₀ s) (data : BitVec 8192) (bad : Option Word) :
    runRest (on.length + 1) (.read d w t mask fixed A data bad (laneList addr gs on)) s =
      match bad.or (firstBad s₀ addr gs on) with
      | some x => loadResult fixed (.v d 0 0 (some .poison)) (some (badFault x)) A (afterLanes gs on s)
      | none => loadResult fixed (.v d (gathered s₀ w gs on data) mask (some t)) none A (afterLanes gs on s) := by
  induction on generalizing s data bad with
  | nil => cases bad <;> rfl
  | cons i on ih =>
    have hstep : Touched s₀ (stepSegs .plain (some s.me.uid) (gs i) s) := h.trans (touched_stepSegs _ _ _)
    show runRest (on.length + 1) (.read d w t mask fixed A (data ||| BitVec.ofNat 8192 (leNat (readSegs s (gs i)) * 2 ^ (w * i)))
      (bad.orElse fun _ => if (badLine s (gs i)).isSome then some (addr i) else none) (laneList addr gs on))
      (stepSegs .plain (some s.me.uid) (gs i) s) = _
    rw [ih hstep, h.readSegs, h.badLine]
    have hbad : (bad.orElse fun _ => if (badLine s₀ (gs i)).isSome then some (addr i) else none).or (firstBad s₀ addr gs on) =
        bad.or (firstBad s₀ addr gs (i :: on)) := by
      cases bad with
      | some x => rfl
      | none => by_cases hb : (badLine s₀ (gs i)).isSome = true <;> simp [firstBad, hb]
    rw [hbad]
    rfl

theorem laneBits_zero (w i : Nat) : laneBits 0 w i = 0 := by
  apply Nat.eq_of_testBit_eq
  intro j
  rw [testBit_laneBits, show BitVec.getLsbD (0 : BitVec 8192) (w * i + j) = false from BitVec.getLsbD_zero, Bool.and_false, Nat.zero_testBit]

theorem laneBits_or (x y : BitVec 8192) (w i : Nat) : laneBits (x ||| y) w i = laneBits x w i ||| laneBits y w i := by
  apply Nat.eq_of_testBit_eq
  intro j
  rw [Nat.testBit_or, testBit_laneBits, testBit_laneBits, testBit_laneBits, BitVec.getLsbD_or, Bool.and_or_distrib_left]

/-- A number at the place of lane `j`. -/
theorem laneBits_place {w i j v : Nat} (hv : v < 2 ^ w) (hi : w * (i + 1) ≤ 8192) :
    laneBits (BitVec.ofNat 8192 (v * 2 ^ (w * j))) w i = if i = j then v else 0 := by
  apply Nat.eq_of_testBit_eq
  intro b
  rw [testBit_laneBits, BitVec.getLsbD_ofNat, Nat.testBit_mul_two_pow]
  have hhigh : ∀ c, w ≤ c → v.testBit c = false := fun c hc => Nat.testBit_lt_two_pow (hv.trans_le (Nat.pow_le_pow_right (by decide) hc))
  by_cases hb : b < w
  · have hlt : w * i + b < 8192 := by rw [Nat.mul_add] at hi; omega
    rw [decide_eq_true hb, decide_eq_true hlt, Bool.true_and, Bool.true_and]
    rcases Nat.lt_trichotomy i j with h | rfl | h
    · have hle : w * (i + 1) ≤ w * j := Nat.mul_le_mul_left w h
      rw [Nat.mul_add] at hle
      rw [if_neg h.ne, decide_eq_false (by omega), Bool.false_and, Nat.zero_testBit]
    · rw [if_pos rfl, decide_eq_true (by omega), Nat.add_sub_cancel_left, Bool.true_and]
    · have hle : w * (j + 1) ≤ w * i := Nat.mul_le_mul_left w h
      rw [Nat.mul_add] at hle
      rw [if_neg h.ne', hhigh _ (by omega), Bool.and_false, Nat.zero_testBit]
  · rw [decide_eq_false hb, Bool.false_and]
    split
    · exact (hhigh b (not_lt.1 hb)).symm
    · exact (Nat.zero_testBit b).symm

theorem laneBits_gathered {s : State} {w : Nat} {gs : Nat → List Seg} {on : List Nat}
    (hlt : ∀ i ∈ on, leNat (readSegs s (gs i)) < 2 ^ w) {i : Nat} (hi : w * (i + 1) ≤ 8192) (data : BitVec 8192) :
    laneBits (gathered s w gs on data) w i = laneBits data w i ||| if i ∈ on then leNat (readSegs s (gs i)) else 0 := by
  induction on generalizing data with
  | nil => simp [gathered]
  | cons j on ih =>
    show laneBits (gathered s w gs on (data ||| BitVec.ofNat 8192 (leNat (readSegs s (gs j)) * 2 ^ (w * j)))) w i = _
    rw [ih fun k hk => hlt k (List.mem_cons_of_mem j hk), laneBits_or, laneBits_place (hlt j List.mem_cons_self) hi, Nat.or_assoc]
    congr 1
    by_cases hij : i = j
    · subst hij
      by_cases hmem : i ∈ on <;> simp [hmem]
    · simp [hij]

/-- The state after the lanes of a store. -/
def afterStores (gs : Nat → List Seg) (bytes : Nat → List Byte) (on : List Nat) (s : State) : State :=
  on.foldl (fun s i => storeBytes .store (gs i) (bytes i) s) s

/-- A store whose lanes are all done. -/
theorem runRest_write (gs : Nat → List Seg) (bytes : Nat → List Byte) (on : List Nat) (s : State) :
    runRest (on.length + 1) (.write (on.map fun i => (gs i, bytes i))) s = withStore true .mem none (afterStores gs bytes on s) := by
  induction on generalizing s with
  | nil => rfl
  | cons i on ih => exact ih _

/-- A store of which `k` lanes are done: the others wait. -/
theorem runRest_write_cut (gs : Nat → List Seg) (bytes : Nat → List Byte) {k : Nat} {on : List Nat} (hk : k ≤ on.length) (s : State) :
    runRest k (.write (on.map fun i => (gs i, bytes i))) s =
      modSq (fun q => { q with rest := some (.write ((on.drop k).map fun i => (gs i, bytes i))) }) (afterStores gs bytes (on.take k) s) := by
  induction k generalizing on s with
  | zero => rfl
  | succ k ih =>
    cases on with
    | nil => exact absurd hk (Nat.not_succ_le_zero k)
    | cons i on => exact ih (Nat.le_of_succ_le_succ hk) _

/-! ### Loads and stores of lanes (R140 to R143) -/

section
variable {s : State} {sp : Space} {t : Tag} {m : BitVec 1024} {addr : Nat → Word} {gs : Nat → List Seg} {ws : Nat → WinRef} {d : VReg}

/-- A load's result, landing after 20 groups where every lane is in the own die's store, else when it is ready (R141). -/
def landLanes (s : State) (sp : Space) (addr : Nat → Word) (on : List Nat) (u : Upd) (f : Option FaultInfo) (s' : State) : State :=
  if sp = .st ∧ ∀ i ∈ on, (addr i).toNat / 2 ^ 28 % 8 = s.me.die then withFlight 20 u 0 s'.me.sq.arrive f s'
  else withPend u true true f (some (addr (on.headD 0))) s'

theorem loadResult_lanes (on : List Nat) (u : Upd) (f : Option FaultInfo) (s' : State) :
    loadResult (if lanesFixed s sp addr on then some 20 else none) u f (addr (on.headD 0)) s' = landLanes s sp addr on u f s' := by
  have hfixed : lanesFixed s sp addr on = true ↔ sp = .st ∧ ∀ i ∈ on, (addr i).toNat / 2 ^ 28 % 8 = s.me.die := by
    simp [lanesFixed, ownDie]
  unfold landLanes
  by_cases h : sp = .st ∧ ∀ i ∈ on, (addr i).toNat / 2 ^ 28 % 8 = s.me.die
  · rw [if_pos h, if_pos (hfixed.2 h)]
    rfl
  · rw [if_neg h, if_neg (mt hfixed.1 h)]
    rfl

theorem notWindow (h : sp ≠ .w ∨ enabled m (lanes t) = []) : (decide (sp = .w) && !(enabled m (lanes t)).isEmpty) = false := by
  rcases h with h | h <;> simp [h]

theorem isWindow (hsp : sp = .w) (hon : enabled m (lanes t) ≠ []) : (decide (sp = .w) && !(enabled m (lanes t)).isEmpty) = true := by
  simp [hsp, hon]

section
variable (hnw : sp ≠ .w ∨ enabled m (lanes t) = [])
include hnw

/-- A load whose lanes all pass their checks does them all. -/
theorem loadLanes_run (hw : Whole s)
    (hreach : ∀ i ∈ enabled m (lanes t), laneReach s (sp = .st) .plain (laneW t / 8) (addr i) = .ok (gs i)) (z : Bool) (d : VReg) :
    loadLanes sp t m z addr d s = runRest ((enabled m (lanes t)).length + 1) (.read d (laneW t) t (laneWriteMask (laneW t) (lanes t) m z)
      (if lanesFixed s sp addr (enabled m (lanes t)) then some 20 else none) (addr ((enabled m (lanes t)).headD 0)) 0 none
      (laneList addr gs (enabled m (lanes t)))) s := by
  have hlist : ((enabled m (lanes t)).map fun i => (i, gs i)).map (fun x => (x.1, addr x.1, x.2)) = laneList addr gs (enabled m (lanes t)) := by
    rw [List.map_map]
    rfl
  unfold loadLanes
  simp only [notWindow hnw, Bool.false_eq_true, if_false, laneSegs_eq, collectLanes_ok hreach, tryWith_ok, goOn_whole hw]
  rw [hlist, SlotRest.steps, laneList, List.length_map]

theorem loadLanes_data (hw : Whole s)
    (hreach : ∀ i ∈ enabled m (lanes t), laneReach s (sp = .st) .plain (laneW t / 8) (addr i) = .ok (gs i))
    (hbad : ∀ i ∈ enabled m (lanes t), badLine s (gs i) = none) (z : Bool) (d : VReg) :
    loadLanes sp t m z addr d s = landLanes s sp addr (enabled m (lanes t))
      (.v d (gathered s (laneW t) gs (enabled m (lanes t)) 0) (laneWriteMask (laneW t) (lanes t) m z) (some t)) none
      (afterLanes gs (enabled m (lanes t)) s) := by
  rw [loadLanes_run hnw hw hreach, runRest_read _ _ _ _ _ _ _ _ _ (.refl s), firstBad_none hbad]
  exact loadResult_lanes _ _ _ _

theorem loadLanes_poison (hw : Whole s)
    (hreach : ∀ i ∈ enabled m (lanes t), laneReach s (sp = .st) .plain (laneW t / 8) (addr i) = .ok (gs i)) {pre post : List Nat} {i : Nat}
    (hon : enabled m (lanes t) = pre ++ i :: post) (hpre : ∀ j ∈ pre, badLine s (gs j) = none) (hi : badLine s (gs i) ≠ none) (z : Bool)
    (d : VReg) : loadLanes sp t m z addr d s = landLanes s sp addr (enabled m (lanes t)) (.v d 0 0 (some .poison)) (some (badFault (addr i)))
      (afterLanes gs (enabled m (lanes t)) s) := by
  have hfirst : firstBad s addr gs (enabled m (lanes t)) = some (addr i) := by
    rw [hon]
    exact firstBad_some hpre hi
  rw [loadLanes_run hnw hw hreach, runRest_read _ _ _ _ _ _ _ _ _ (.refl s), hfirst]
  exact loadResult_lanes _ _ _ _

theorem loadLanes_bad {pre post : List Nat} {i : Nat} {f : FaultInfo} (hon : enabled m (lanes t) = pre ++ i :: post)
    (hpre : ∀ j ∈ pre, ∃ g, laneReach s (sp = .st) .plain (laneW t / 8) (addr j) = .ok g)
    (hi : laneReach s (sp = .st) .plain (laneW t / 8) (addr i) = .error f) (z : Bool) (d : VReg) :
    loadLanes sp t m z addr d s = raise f s := by
  unfold loadLanes
  simp only [notWindow hnw, Bool.false_eq_true, if_false, laneSegs_eq]
  rw [hon, collectLanes_error hpre hi, tryWith_error]

/-- A store whose lanes all pass their checks. -/
theorem storeLanes_checked
    (hreach : ∀ i ∈ enabled m (lanes t), laneReach s (sp = .st) .store (laneW t / 8) (addr i) = .ok (gs i)) (d : VReg) :
    storeLanes sp t m addr d s = goOn (.write ((enabled m (lanes t)).map fun i =>
      (gs i, leBytes (laneW t / 8) (laneBits (rdV s d).bits (laneW t) i)))) s := by
  unfold storeLanes
  simp only [notWindow hnw, Bool.false_eq_true, if_false, laneSegs_eq, collectLanes_ok hreach, tryWith_ok, List.map_map]
  rfl

theorem storeLanes_done (hw : Whole s)
    (hreach : ∀ i ∈ enabled m (lanes t), laneReach s (sp = .st) .store (laneW t / 8) (addr i) = .ok (gs i)) (d : VReg) :
    storeLanes sp t m addr d s = withStore true .mem none
      (afterStores gs (fun i => leBytes (laneW t / 8) (laneBits (rdV s d).bits (laneW t) i)) (enabled m (lanes t)) s) := by
  rw [storeLanes_checked hnw hreach, goOn_whole hw, SlotRest.steps, List.length_map]
  exact runRest_write gs _ _ s

/-- A store that the agenda cuts after `k` lanes. -/
theorem storeLanes_cut {k : Nat} {rest : List Act} (hcut : s.agenda = .cut k :: rest) (hk : k ≤ (enabled m (lanes t)).length)
    (hreach : ∀ i ∈ enabled m (lanes t), laneReach s (sp = .st) .store (laneW t / 8) (addr i) = .ok (gs i)) (d : VReg) :
    let bytes := fun i => leBytes (laneW t / 8) (laneBits (rdV s d).bits (laneW t) i)
    storeLanes sp t m addr d s =
      modSq (fun q => { q with rest := some (.write (((enabled m (lanes t)).drop k).map fun i => (gs i, bytes i))) })
        (afterStores gs bytes ((enabled m (lanes t)).take k) { s with agenda := rest }) := by
  intro bytes
  have hsteps : k ≤ (SlotRest.write ((enabled m (lanes t)).map fun i => (gs i, bytes i))).steps := by
    rw [SlotRest.steps, List.length_map]
    exact Nat.le_succ_of_le hk
  rw [storeLanes_checked hnw hreach, goOn_cut hcut hsteps]
  exact runRest_write_cut gs bytes hk _

theorem storeLanes_bad {pre post : List Nat} {i : Nat} {f : FaultInfo} (hon : enabled m (lanes t) = pre ++ i :: post)
    (hpre : ∀ j ∈ pre, ∃ g, laneReach s (sp = .st) .store (laneW t / 8) (addr j) = .ok g)
    (hi : laneReach s (sp = .st) .store (laneW t / 8) (addr i) = .error f) (d : VReg) :
    storeLanes sp t m addr d s = raise f s := by
  unfold storeLanes
  simp only [notWindow hnw, Bool.false_eq_true, if_false, laneSegs_eq]
  rw [hon, collectLanes_error hpre hi, tryWith_error]

end

/-! ### Lanes through windows (R374) -/

section
variable (hsp : sp = .w)
include hsp

theorem loadLanes_sent (hon : enabled m (lanes t) ≠ [])
    (hwin : ∀ i ∈ enabled m (lanes t), laneWin s .read (laneW t / 8) (addr i) = .ok (ws i)) (z : Bool) (d : VReg) :
    loadLanes sp t m z addr d s = (enabled m (lanes t)).foldl (fun y i => sendRemote y.me.uid (agentOf y.me) y.me.tid (ws i)
        (.load (laneW t / 8)) false (.load s.ids (.lane (laneW t) i)) y)
      (withPend (.v d 0 (laneWriteMask (laneW t) (lanes t) m z) (some t)) false true none (some (addr ((enabled m (lanes t)).headD 0))) s) := by
  unfold loadLanes
  simp only [isWindow hsp hon, if_true, laneWins_eq, collectLanes_ok hwin, tryWith_ok, List.foldl_map]
  rfl

theorem storeLanes_sent (hon : enabled m (lanes t) ≠ [])
    (hwin : ∀ i ∈ enabled m (lanes t), laneWin s .write (laneW t / 8) (addr i) = .ok (ws i)) (d : VReg) :
    storeLanes sp t m addr d s = (enabled m (lanes t)).foldl (fun y i => sendRemote y.me.uid (agentOf y.me) y.me.tid (ws i)
        (.store (leBytes (laneW t / 8) (laneBits (rdV s d).bits (laneW t) i))) false (.store s.ids) y)
      (withStore false .mem none s) := by
  unfold storeLanes
  simp only [isWindow hsp hon, if_true, laneWins_eq, collectLanes_ok hwin, tryWith_ok, List.foldl_map]
  rfl

variable {pre post : List Nat} {i : Nat} {f : FaultInfo} (hon : enabled m (lanes t) = pre ++ i :: post)
include hon

theorem loadLanes_badWindow (hpre : ∀ j ∈ pre, ∃ g, laneWin s .read (laneW t / 8) (addr j) = .ok g)
    (hi : laneWin s .read (laneW t / 8) (addr i) = .error f) (z : Bool) (d : VReg) : loadLanes sp t m z addr d s = raise f s := by
  unfold loadLanes
  simp only [isWindow hsp (hon ▸ List.append_ne_nil_of_right_ne_nil pre (List.cons_ne_nil i post)), if_true, laneWins_eq]
  rw [hon, collectLanes_error hpre hi, tryWith_error]

theorem storeLanes_badWindow (hpre : ∀ j ∈ pre, ∃ g, laneWin s .write (laneW t / 8) (addr j) = .ok g)
    (hi : laneWin s .write (laneW t / 8) (addr i) = .error f) (d : VReg) : storeLanes sp t m addr d s = raise f s := by
  unfold storeLanes
  simp only [isWindow hsp (hon ▸ List.append_ne_nil_of_right_ne_nil pre (List.cons_ne_nil i post)), if_true, laneWins_eq]
  rw [hon, collectLanes_error hpre hi, tryWith_error]

end

end

/-! ### Checks of the data and the index vector (R109, R137, R142) -/

theorem firstFault_pair (c e : Option FaultInfo) : firstFault [c, e] = c.orElse fun _ => e := by
  cases c <;> cases e <;> rfl

theorem dataCheck_eq (s : State) (d : VReg) (t : Tag) : dataCheck s d t = srcCheck s (fun u => t = .raw || u = t) d := by
  rw [dataCheck, srcCheck, firstFault_pair, show (t ≠ .raw && (rdV s d).tag ≠ t) = !(t = .raw || (rdV s d).tag = t) by simp]
  rfl

theorem indexCheck_eq (s : State) (x : VReg) (w : Nat) : indexCheck s x w = srcCheck s (fun u => u = indexTag w) x := by
  rw [indexCheck, srcCheck, firstFault_pair, show decide ((rdV s x).tag ≠ indexTag w) = !decide ((rdV s x).tag = indexTag w) by simp]
  rfl

/-- What a store's data register must carry. -/
def DataFits (s : State) (d : VReg) (t : Tag) : Prop :=
  (rdV s d).tag ≠ .none ∧ (rdV s d).tag ≠ .poison ∧ (t = .raw ∨ (rdV s d).tag = t)

theorem dataCheck_ok {s : State} {d : VReg} {t : Tag} (h : DataFits s d t) : dataCheck s d t = none := by
  obtain ⟨hn, hp, ht⟩ := h
  rw [dataCheck_eq]
  exact srcCheck_ok rfl (by simpa using ht) hn hp

theorem dataCheck_bad {s : State} {d : VReg} {t : Tag} (h : ¬ DataFits s d t) : dataCheck s d t = some (badSource s d) := by
  rw [dataCheck_eq]
  refine srcCheck_bad ?_
  by_contra hfit
  simp only [Unfit, not_or, Bool.or_eq_false_iff, decide_eq_false_iff_not, not_and_or, not_not] at hfit
  exact h ⟨hfit.1, hfit.2.1, hfit.2.2⟩

theorem indexTag_ne (w : Nat) : indexTag w ≠ .none ∧ indexTag w ≠ .poison := by
  unfold indexTag
  split_ifs <;> decide

theorem indexCheck_ok {s : State} {x : VReg} {w : Nat} (h : (rdV s x).tag = indexTag w) : indexCheck s x w = none := by
  rw [indexCheck_eq]
  exact srcCheck_ok h (by simp) (indexTag_ne w).1 (indexTag_ne w).2

theorem indexCheck_bad {s : State} {x : VReg} {w : Nat} (h : (rdV s x).tag ≠ indexTag w) : indexCheck s x w = some (badSource s x) := by
  rw [indexCheck_eq]
  exact srcCheck_bad (.inr (.inr (by simpa using h)))

/-- The fault of a source, cause by cause. -/
theorem badSource_eq (s : State) (r : VReg) : badSource s r =
    if (rdV s r).tag = .none then { cause := 0x05, addr := BitVec.ofNat 64 r.val }
    else if (rdV s r).tag = .poison then { cause := 0x11, sub := 3, addr := BitVec.ofNat 64 r.val }
    else { cause := 0x04, addr := BitVec.ofNat 64 r.val } := by
  unfold badSource badTag
  split_ifs with hn hp <;> simp_all

theorem indexed_eq (s : State) (a : SReg) (x : VReg) (w : Nat) (sc : Fin 4) (u : Bool) (i : Nat) :
    indexed s a x w sc u i = rdS s a + BitVec.ofNat 64 (scaleOf sc w) *
      if u then BitVec.ofNat 64 (laneBits (rdV s x).bits w i) else BitVec.ofInt 64 (BitVec.ofNat w (laneBits (rdV s x).bits w i)).toInt := by
  rw [indexed, BitVec.mul_comm]
  rfl

/-! ### The lanes a load writes -/

theorem eight_mul_laneW_div (t : Tag) : 8 * (laneW t / 8) = laneW t := by cases t <;> rfl

theorem accessSegs_of_reach {s : State} {st : Bool} {k : LineAcc} {n : Nat} {A : Word} {gs : List Seg} (h : laneReach s st k n A = .ok gs) :
    accessSegs s (agentOf s.me) st k A n = .ok gs := by
  unfold laneReach at h
  split at h
  · cases h
  · exact h

/-- A lane that passes its check brings a pattern of its width. -/
theorem leNat_reach_lt {s : State} {st : Bool} {k : LineAcc} {t : Tag} {A : Word} {gs : List Seg}
    (h : laneReach s st k (laneW t / 8) A = .ok gs) : leNat (readSegs s gs) < 2 ^ laneW t := by
  have hlt := leNat_lt (readSegs s gs)
  rwa [length_readSegs_of_access (accessSegs_of_reach h), eight_mul_laneW_div] at hlt

theorem mem_enabled {m : BitVec 1024} {n i : Nat} (hi : i < n) : i ∈ enabled m n ↔ m.getLsbD i = true := by
  simp [enabled, hi]

/-- Data merged under a load's mask, lane by lane. -/
theorem laneBits_mergeLoad {t : Tag} {m : BitVec 1024} (z : Bool) {data : BitVec 8192} {f : Nat → Nat}
    (hdata : ∀ i < lanes t, laneBits data (laneW t) i = if i ∈ enabled m (lanes t) then f i else 0) (o : BitVec 8192) {i : Nat}
    (hi : i < lanes t) :
    let mask := laneWriteMask (laneW t) (lanes t) m z
    laneBits ((o &&& ~~~mask) ||| (data &&& mask)) (laneW t) i =
      if i ∈ enabled m (lanes t) then f i else if z then 0 else laneBits o (laneW t) i := by
  intro mask
  have hmerge := laneBits_mergeMasked (m := m) (f := f) (laneW_pos t) (laneW_dvd t).le z
    (fun j hj => by simpa only [mem_enabled hj] using hdata j hj) o hi
  simp only [mem_enabled hi]
  exact hmerge

/-- Settles O30: the checks of the lanes, then the lanes one at a time. -/
theorem laneAccesses : Obligations.LaneAccesses := by
  intro s d x a b m sp t sc u z gs ws w n on whole strided scaled tagFault dataOk index reach win first lanesOf loads stores
  have hon : enabled (rdM s m) (lanes t) = on := rfl
  have hfault : ∀ r, badSource s r = tagFault r := badSource_eq s
  have hloads : ∀ addr, loads addr (.next (loadLanes sp t (rdM s m) z addr d s)) := by
    intro addr
    have hmask := fun (o : BitVec 8192) (i : Nat) (hi : i < lanes t) => laneBits_mergeLoad (m := rdM s m) (data := 0) (f := fun _ => 0) z
      (fun j _ => by rw [laneBits_zero, ite_self]) o hi
    refine ⟨fun hsp hwhole hreach => ⟨fun hbad => ?data, fun i hfirst hbad => ?badLine⟩, fun hsp i f hfirst hi => ?fault,
      fun hsp hwhole hempty => ?empty, fun hsp hne hwin => ⟨_, hmask, congrArg Host.Outcome.next (loadLanes_sent hsp hne hwin z d)⟩,
      fun hsp i f hfirst hi => ?badWindow⟩
    case data =>
      have hlane : ∀ i < lanes t, laneBits (gathered s w gs on 0) w i = if i ∈ on then leNat (readSegs s (gs i)) % 2 ^ w else 0 := by
        intro i hi
        rw [laneBits_gathered (fun j hj => leNat_reach_lt (hreach j hj)) (lane_room hi), laneBits_zero, Nat.zero_or]
        split_ifs with hmem
        · exact (Nat.mod_eq_of_lt (leNat_reach_lt (hreach i hmem))).symm
        · rfl
      exact ⟨_, _, fun o i hi => laneBits_mergeLoad z hlane o hi,
        congrArg Host.Outcome.next (loadLanes_data (.inl hsp) hwhole hreach hbad z d)⟩
    case badLine =>
      obtain ⟨pre, post, hsplit, hpre⟩ := hfirst
      exact congrArg Host.Outcome.next (loadLanes_poison (.inl hsp) hwhole hreach hsplit hpre hbad z d)
    case fault =>
      obtain ⟨pre, post, hsplit, hpre⟩ := hfirst
      exact congrArg Host.Outcome.next (loadLanes_bad (.inl hsp) hsplit hpre hi z d)
    case empty =>
      have hdata := loadLanes_data (sp := sp) (addr := addr) (gs := gs) (.inr hempty) hwhole (by simp [hon, hempty]) (by simp [hon, hempty]) z d
      rw [hon, hempty, landLanes, if_neg (by simp [hsp])] at hdata
      exact ⟨_, hmask, congrArg Host.Outcome.next hdata⟩
    case badWindow =>
      obtain ⟨pre, post, hsplit, hpre⟩ := hfirst
      exact congrArg Host.Outcome.next (loadLanes_badWindow hsp hsplit hpre hi z d)
  have hstores : ∀ addr, stores addr (.next (checked (dataCheck s d t) (storeLanes sp t (rdM s m) addr d) s)) := by
    intro addr
    refine ⟨fun hbad => ?badData, fun hfits => ?_⟩
    case badData => rw [dataCheck_bad hbad, checked_some, hfault]
    rw [dataCheck_ok hfits, checked_none]
    refine ⟨fun hsp hreach => ⟨fun hwhole => congrArg Host.Outcome.next (storeLanes_done (.inl hsp) hwhole hreach d),
      fun k rest hcut hk => ⟨_, rfl, congrArg Host.Outcome.next (storeLanes_cut (.inl hsp) hcut hk hreach d)⟩⟩,
      fun hsp i f hfirst hi => ?fault, fun hsp hwhole hempty => ?empty,
      fun hsp hne hwin => congrArg Host.Outcome.next (storeLanes_sent hsp hne hwin d), fun hsp i f hfirst hi => ?badWindow⟩
    case fault =>
      obtain ⟨pre, post, hsplit, hpre⟩ := hfirst
      exact congrArg Host.Outcome.next (storeLanes_bad (.inl hsp) hsplit hpre hi d)
    case empty =>
      rw [storeLanes_done (gs := gs) (.inr hempty) hwhole (by simp [hon, hempty]), hon, hempty]
      rfl
    case badWindow =>
      obtain ⟨pre, post, hsplit, hpre⟩ := hfirst
      exact congrArg Host.Outcome.next (storeLanes_badWindow hsp hsplit hpre hi d)
  have hindexed : indexed s a x w sc u = scaled := funext fun i => indexed_eq s a x w sc u i
  refine ⟨hloads strided, hstores strided, fun hidx => ⟨?loadIndexed, ?storeIndexed⟩, fun hidx => ⟨?loadBadIndex, ?storeBadIndex⟩⟩
  case loadIndexed =>
    rw [exec_ldvx, execLdvx, indexCheck_ok hidx, checked_none, hindexed]
    exact hloads scaled
  case storeIndexed =>
    rw [exec_stvx, execStvx, indexCheck_ok hidx, hindexed, firstFault_pair, Option.orElse_none]
    exact hstores scaled
  case loadBadIndex =>
    rw [exec_ldvx, execLdvx, indexCheck_bad hidx, checked_some, hfault]
  case storeBadIndex =>
    rw [exec_stvx, execStvx, indexCheck_bad hidx, firstFault_pair, Option.orElse_some, checked_some, hfault]

end Sys2Proof.Machine
end


section
/-! PROOF. A release of no bank in a secure vat (R225, R226, R391): the check of the vat's world comes before the list of banks. -/

namespace Sys2Proof.Machine

/-- After module reset, with vat 0 of every die made secure (R391); the context in issue is of the other world. -/
def secureVat : State := { State.reset with dies := Vector.replicate 8 { Die.reset with vatw := 1 } }

theorem exec_brel_of_brelCheck {a b : SReg} {s : State} {f : FaultInfo} (h : brelCheck s (rdS s a) (bits (rdS s b) 0 16) = some f) :
    exec (.brel a b) s = .next (raise f s) := by
  rw [exec_brel, execBrel, brelWith, h, checked]

theorem brelCheck_secureVat : brelCheck secureVat (rdS secureVat 0) (bits (rdS secureVat 0) 0 16) = some (accFault 0x0C 0 0 false) := by
  decide

/-- Nothing handles a fault after reset, so that issue stops (R309). -/
theorem status_raise_secureVat (f : FaultInfo) : (raise f secureVat).me.status = .retiring := rfl

theorem status_retireNow_secureVat : (retireNow secureVat).me.status = .free := rfl

/-- Refutes O60: its clause on a `brel` whose mask is 0 has no premise on the world of the vat. In vat 0, which is secure, a
non-secure `brel` raises 0x0C (R391) and does not retire, although nothing is owned, in flight or outstanding. -/
theorem not_everyFormCompletes : ¬ Obligations.EveryFormCompletes := by
  unfold Obligations.EveryFormCompletes
  rintro ⟨-, hbanks, -⟩
  obtain ⟨hbrel, -⟩ := hbanks secureVat 0 0 0 0 0 0 0 0 0 .b .none ⟨0, 0, 0⟩ [] []
  obtain ⟨hretires, -⟩ := hbrel (by decide) (by decide) (by decide) (by decide)
  have heq : raise _ secureVat = retireNow secureVat :=
    Host.Outcome.next.inj ((exec_brel_of_brelCheck brelCheck_secureVat).symm.trans hretires)
  have hstatus := status_raise_secureVat (accFault 0x0C 0 0 false)
  rw [heq, status_retireNow_secureVat] at hstatus
  cases hstatus

end Sys2Proof.Machine
end


section
/-! PROOF. Thread and group numbers (R153): the fields of `TIDR`, as register 0x11 places them. -/

namespace Sys2Proof.Machine

theorem bits_tidr_tid (s : State) : bits (csrRead s 0x11) 0 24 = s.me.tid % 2 ^ 24 := by
  show bits (BitVec.ofNat 64 (s.me.nthr % 2 ^ 25 * 2 ^ 24 + s.me.tid % 2 ^ 24)) 0 24 = _
  rw [bits, fld, BitVec.toNat_ofNat]
  omega

theorem bits_tidr_nthr (s : State) : bits (csrRead s 0x11) 24 25 = s.me.nthr % 2 ^ 25 := by
  show bits (BitVec.ofNat 64 (s.me.nthr % 2 ^ 25 * 2 ^ 24 + s.me.tid % 2 ^ 24)) 24 25 = _
  rw [bits, fld, BitVec.toNat_ofNat]
  omega

/-- Settles O13: each instruction's result is the field of `TIDR` that the two lemmas above read. -/
theorem threadNumbers : Obligations.ThreadNumbers := by
  unfold Obligations.ThreadNumbers
  intro s x
  rw [bits_tidr_tid, bits_tidr_nthr]
  exact ⟨congrArg Host.Outcome.next (pendS_eq x _ false s), congrArg Host.Outcome.next (pendS_eq x _ false s)⟩

end Sys2Proof.Machine
end


section
/-! PROOF. A `launch` on a full ring (R166, R183, R219): it appends nothing, but it has read the header at its home slice. -/

namespace Sys2Proof.Machine

/-- After module reset, with a page of HBM held in the TLB at address 0 and, at its start, the header of a ring of one entry whose
NOTIFY is 1 and READ 0: a full ring (R166). -/
def fullRing : State := { State.reset with hbm := [(0, 1)], tlb := [placePage 0 0 false 0] }

/-- The piece of the header's access. -/
def fullRingSeg : Seg := ⟨false, 0, 64, 0⟩

/-- The header of the full ring. -/
def fullRingHdr : QueueHdr := ⟨1, 0, 0, false, 0, [0, 0, 0]⟩

theorem appendCheck_fullRing :
    appendCheck fullRing (agentOf fullRing.me) (rdS fullRing 0) (rdS fullRing 0) = .ok ([fullRingSeg], fullRingHdr, []) := by
  decide

theorem appendDo_of_full {h : QueueHdr} (u : Option Nat) (gs rs : List Seg) (world : Bool) (rcd : Word) (s : State)
    (hfull : (h.notify + 2 ^ 64 - h.read) % 2 ^ 64 = 2 ^ h.lsz) : appendDo u gs h rs world rcd s = (stepSegs .plain u gs s, -1) :=
  if_pos hfull

/-- `appendDo` is made opaque before its pair is taken apart: else the kernel unfolds its sums modulo `2 ^ 64`. -/
theorem exec_launch_of_appendDo {d a b : SReg} {gs rs : List Seg} {h : QueueHdr} {s t : State} {x : Word}
    (hok : appendCheck s (agentOf s.me) (rdS s a) (rdS s b) = .ok (gs, h, rs))
    (hdo : appendDo (some s.me.uid) gs h rs s.me.world (rdS s b) s = (t, x)) : exec (.launch d a b) s = .next (pendS d x true t) := by
  rw [exec_launch, execLaunch, hok]
  obtain ⟨f, hf⟩ : ∃ f, appendDo = f := ⟨_, rfl⟩
  rw [hf] at hdo ⊢
  simp only [tryWith_ok, hdo]

/-- The home slice holds the header's line once the access has met it (R232). -/
theorem home_stepSegs_fullRing : (stepSegs .plain (some fullRing.me.uid) [fullRingSeg] fullRing).home = [(0, .clean)] := by
  decide

/-- Refutes O38: its clause on a full ring says that nothing but the pending result changes, but the append has read the header at its
home slice (R219), so the header's line becomes CLEAN there. -/
theorem not_threadInstructions : ¬ Obligations.ThreadInstructions := by
  unfold Obligations.ThreadInstructions
  rintro ⟨-, happend⟩
  obtain ⟨-, -, hok, -⟩ := happend fullRing 0 0 0 fullRingSeg [] [] fullRingHdr
  obtain ⟨hfull, -, -⟩ := hok appendCheck_fullRing
  have hdo := appendDo_of_full (h := fullRingHdr) (some fullRing.me.uid) [fullRingSeg] [] fullRing.me.world (rdS fullRing 0) fullRing
    (by decide)
  have heq := Host.Outcome.next.inj ((exec_launch_of_appendDo (d := 0) appendCheck_fullRing hdo).symm.trans (hfull (by decide)))
  have hhome := congrArg (fun t : State => t.home) heq
  have hclean := home_stepSegs_fullRing.symm.trans hhome
  exact absurd hclean (by decide)

end Sys2Proof.Machine
end


section
/-! PROOF. Thread groups (R157 to R161): the cases of a join in the order of R158, and what a handle's checks answer. -/

namespace Sys2Proof.Machine

/-- The die whose home table holds the groups of a key (R158). -/
def joinDie (key : Word) (s : State) : Nat := (dieSet s s.me.lnch).getD (key.toNat % (dieSet s s.me.lnch).length) s.me.die

/-- The live group of a key, of the caller's launch (R158). -/
def liveGroup (key : Word) (s : State) : Option Group :=
  (dieOf s (joinDie key s)).groups.find? fun g => g.lnch = s.me.lnch && g.key = key

/-- The generation of an entry of a key's home table. -/
def joinGen (key : Word) (e : Nat) (s : State) : Nat := genOf (dieOf s (joinDie key s)) e

section Join
variable {key : Word} {size : Nat} {s : State}

theorem joinGroup_of_size (h : size = 0 ∨ 4096 < size) : joinGroup key size s = (s, badHandle 2) := by
  have hb : (size = 0 || size > 4096) = true := by simpa using h
  rw [joinGroup, if_pos hb]

variable (hpos : 0 < size) (hle : size ≤ 4096)
include hpos hle

/-- A join of a size that R158 allows looks its key up. -/
theorem joinGroup_eq : joinGroup key size s =
    match liveGroup key s with
    | some g =>
      match g.present s.me.tid with
      | some m => (s, groupHandle g.size m.rank (joinDie key s) g.entry (joinGen key g.entry s))
      | none =>
        if g.size ≠ size then (s, badHandle 3)
        else if g.members.length ≥ g.size then (s, badHandle 4)
        else (noteJoin (joinDie key s) g.entry (joinGen key g.entry s)
            (modGroup (joinDie key s) g.entry (fun g' => { g' with members := g'.members ++ [newMember s.me.tid g.members.length] }) s),
          groupHandle g.size g.members.length (joinDie key s) g.entry (joinGen key g.entry s))
    | none =>
      match freeGroup (dieOf s (joinDie key s)) with
      | none => (s, badHandle 1)
      | some e =>
        (noteJoin (joinDie key s) e (joinGen key e s) (modDie (joinDie key s) (fun d => { d with groups := d.groups ++
            [{ entry := e, lnch := s.me.lnch, key, size, members := [newMember s.me.tid 0], b := 0 }] }) s),
          groupHandle size 0 (joinDie key s) e (joinGen key e s)) := by
  have hb : ¬ (size = 0 || size > 4096) = true := by simp; omega
  rw [joinGroup, if_neg hb]
  rfl

theorem joinGroup_full (hg : liveGroup key s = none) (hf : freeGroup (dieOf s (joinDie key s)) = none) :
    joinGroup key size s = (s, badHandle 1) := by
  rw [joinGroup_eq hpos hle, hg]
  simp only [hf]

theorem joinGroup_new {e : Nat} (hg : liveGroup key s = none) (hf : freeGroup (dieOf s (joinDie key s)) = some e) :
    joinGroup key size s = (noteJoin (joinDie key s) e (joinGen key e s) (modDie (joinDie key s) (fun d => { d with groups := d.groups ++
        [{ entry := e, lnch := s.me.lnch, key, size, members := [newMember s.me.tid 0], b := 0 }] }) s),
      groupHandle size 0 (joinDie key s) e (joinGen key e s)) := by
  rw [joinGroup_eq hpos hle, hg]
  simp only [hf]

theorem joinGroup_again {g : Group} {m : Member} (hg : liveGroup key s = some g) (hm : g.present s.me.tid = some m) :
    joinGroup key size s = (s, groupHandle g.size m.rank (joinDie key s) g.entry (joinGen key g.entry s)) := by
  rw [joinGroup_eq hpos hle, hg]
  simp only [hm]

theorem joinGroup_otherSize {g : Group} (hg : liveGroup key s = some g) (hm : g.present s.me.tid = none) (hs : g.size ≠ size) :
    joinGroup key size s = (s, badHandle 3) := by
  rw [joinGroup_eq hpos hle, hg]
  simp only [hm, if_pos hs]

theorem joinGroup_complete {g : Group} (hg : liveGroup key s = some g) (hm : g.present s.me.tid = none) (hs : g.size = size)
    (hf : g.size ≤ g.members.length) : joinGroup key size s = (s, badHandle 4) := by
  rw [joinGroup_eq hpos hle, hg]
  simp only [hm, if_neg (not_not.mpr hs), if_pos hf]

theorem joinGroup_next {g : Group} (hg : liveGroup key s = some g) (hm : g.present s.me.tid = none) (hs : g.size = size)
    (hf : g.members.length < g.size) :
    joinGroup key size s = (noteJoin (joinDie key s) g.entry (joinGen key g.entry s)
        (modGroup (joinDie key s) g.entry (fun g' => { g' with members := g'.members ++ [newMember s.me.tid g.members.length] }) s),
      groupHandle size g.members.length (joinDie key s) g.entry (joinGen key g.entry s)) := by
  subst hs
  rw [joinGroup_eq hpos hle, hg]
  simp only [hm, ne_eq, not_true_eq_false, if_false, if_neg (not_le.mpr hf)]

end Join

/-- The answer of `join` is the handle that its group table gives. -/
theorem exec_join_of_joinGroup (d : SReg) {a b : SReg} {s t : State} {v : Word} (h : joinGroup (rdS s a) (rdS s b).toNat s = (t, v)) :
    exec (.join d a b) s = .next (withPend (.s d v) true true none none t) := by
  rw [exec_join, execJoin, h]
  exact congrArg Host.Outcome.next (pendS_eq d v true t)

/-! ### What leaving a group keeps -/

@[simp] theorem modGroup_me (die e : Nat) (f : Group → Group) (s : State) : (modGroup die e f s).me = s.me := rfl

@[simp] theorem endPhase_me (die e : Nat) (s : State) : (endPhase die e s).me = s.me := by
  unfold endPhase
  split
  · rfl
  · split <;> rfl

@[simp] theorem leaveGroup_me (die e tid : Nat) (s : State) : (leaveGroup die e tid s).me = s.me := by
  unfold leaveGroup
  dsimp only
  split
  · rfl
  · split
    · rfl
    · exact endPhase_me _ _ _

/-- The context's memory of a group it has left goes (R156). -/
def forgetGroup (h : Word) (s : State) : State :=
  { s with me := { s.me with groups := s.me.groups.erase (hdlDie h, hdlEntry h, hdlGen h) } }

theorem forgetGroup_regs (h : Word) (s : State) : (forgetGroup h s).me.regs = s.me.regs := rfl

theorem exec_leave_of_memberCheck {a : SReg} {s : State} {g : Group} {m : Member} (h : memberCheck s (rdS s a) = .ok (g, m)) :
    exec (.leave a) s = .next (withStore true .plain none (forgetGroup (rdS s a) (leaveGroup (hdlDie (rdS s a)) g.entry s.me.tid s))) := by
  rw [exec_leave, execLeave, h]
  rfl

/-! ### The queries -/

theorem validHandle_of_valid {h : Word} (hv : h.getLsbD 63 = true) : validHandle h = none := by
  simp [validHandle, failIf, bit, hv]

theorem validHandle_of_not {h : Word} (hv : h.getLsbD 63 = false) : validHandle h = some { cause := 0x0C, addr := h } := by
  rw [validHandle, bit, hv]
  rfl

theorem handleGroup_of_not {s : State} {h : Word} (hv : h.getLsbD 63 = false) : handleGroup s h = none := by
  rw [handleGroup, bit, hv]
  rfl

theorem exec_gsizeJ_of_none {d a : SReg} {s : State} (h : handleGroup s (rdS s a) = none) :
    exec (.gsizeJ d a) s = .next (raise { cause := 0x0C, addr := rdS s a } s) := by
  rw [exec_gsizeJ, execGsizeJ, h]
  rfl

theorem exec_gsizeJ_of_some {d a : SReg} {s : State} {g : Group} (h : handleGroup s (rdS s a) = some g) :
    PendsS d (BitVec.ofNat 64 (g.members.filter fun m => m.present).length) true s (exec (.gsizeJ d a) s) := by
  rw [exec_gsizeJ, execGsizeJ, h]
  rfl

/-- Settles O39: a lemma above for each case of a join, of `leave` and of the queries. -/
theorem threadGroups : Obligations.ThreadGroups := by
  unfold Obligations.ThreadGroups
  intro s d a b key size h ds die gone gives err
  refine ⟨fun hs => exec_join_of_joinGroup d (joinGroup_of_size hs), fun hpos hle => ⟨fun hg hf => ?_, fun e hg hf => ?_, fun g hg =>
    ⟨fun m hm => ?_, fun hm => ⟨fun hs => ?_, fun hs hf => ?_, fun hs hf => ?_⟩⟩⟩, fun g m hm => ?_, fun f hf => ?_, fun hv => ?_,
    fun hv q hq => ?_, fun g hg => exec_gsizeJ_of_some hg, fun hg => exec_gsizeJ_of_none hg⟩
  · exact exec_join_of_joinGroup d (joinGroup_full hpos hle hg hf)
  · exact exec_join_of_joinGroup d (joinGroup_new hpos hle hg hf)
  · exact exec_join_of_joinGroup d (joinGroup_again hpos hle hg hm)
  · exact exec_join_of_joinGroup d (joinGroup_otherSize hpos hle hg hm hs)
  · exact exec_join_of_joinGroup d (joinGroup_complete hpos hle hg hm hs hf)
  · exact exec_join_of_joinGroup d (joinGroup_next hpos hle hg hm hs hf)
  · refine ⟨_, exec_leave_of_memberCheck hm, ?_, rfl, ?_⟩
    · exact (forgetGroup_regs _ _).trans (congrArg Ctx.regs (leaveGroup_me (hdlDie h) g.entry s.me.tid s))
    · exact congrArg (fun c : Ctx => c.groups.erase (hdlDie h, hdlEntry h, hdlGen h)) (leaveGroup_me (hdlDie h) g.entry s.me.tid s)
  · rw [exec_leave, execLeave, hf]
    rfl
  · rw [exec_grank, execGrank, exec_gsize, execGsize, validHandle_of_valid hv]
    exact ⟨rfl, rfl⟩
  · simp only [List.mem_cons, List.not_mem_nil, or_false] at hq
    rcases hq with rfl | rfl | rfl
    · rw [exec_grank, execGrank, validHandle_of_not hv]
      rfl
    · rw [exec_gsize, execGsize, validHandle_of_not hv]
      rfl
    · exact exec_gsizeJ_of_none (handleGroup_of_not hv)

end Sys2Proof.Machine
end


section
/-! SUPPORT. Thread groups in their home tables: what a change of one group and the end of a phase (R197) leave for a handle to find. -/

namespace Sys2Proof.Machine

theorem dieOf_modDie_same {d : Nat} (hd : d < 8) (f : Die → Die) (s : State) : dieOf (modDie d f s) d = f (dieOf s d) :=
  vget_vmod_same _ _ _ hd

theorem dieOf_modDie_other {d e : Nat} (h : d ≠ e) (f : Die → Die) (s : State) : dieOf (modDie d f s) e = dieOf s e :=
  vget_vmod_other _ _ _ h

theorem hdlDie_lt (h : Word) : hdlDie h < 8 := Nat.mod_lt _ (by decide)

/-- The group that stands in an entry of a die's table. -/
def groupOf (s : State) (die e : Nat) : Option Group := (dieOf s die).groups.find? (·.entry = e)

theorem entry_of_groupOf {s : State} {die e : Nat} {g : Group} (h : groupOf s die e = some g) : g.entry = e := by
  simpa using List.find?_some h

theorem groupAt_eq (s : State) (die e gen : Nat) : groupAt s die e gen = if genOf (dieOf s die) e = gen then groupOf s die e else none := by
  unfold groupAt groupOf
  split
  · next hg => simp [hg]
  · next hg => simp [hg]

section ModGroup
variable {die : Nat} (e : Nat) (f : Group → Group) (s : State) (hd : die < 8)
include hd

theorem genOf_modGroup (x : Nat) : genOf (dieOf (modGroup die e f s) die) x = genOf (dieOf s die) x := by
  rw [modGroup, dieOf_modDie_same hd]
  rfl

theorem groupOf_modGroup (hf : ∀ g : Group, (f g).entry = g.entry) : groupOf (modGroup die e f s) die e = (groupOf s die e).map f := by
  have hkeeps : ((fun g : Group => decide (g.entry = e)) ∘ fun g => if g.entry = e then f g else g) = fun g => decide (g.entry = e) := by
    funext g
    by_cases hg : g.entry = e <;> simp [hg, hf]
  unfold groupOf modGroup
  rw [dieOf_modDie_same hd, List.find?_map, hkeeps]
  refine Option.map_congr fun g hg => ?_
  rw [if_pos (entry_of_groupOf hg)]

end ModGroup

/-- A group once the present members with a thread number have set their bit (R198). -/
def Group.arrived (tid : Nat) (g : Group) : Group :=
  { g with members := g.members.map fun m => if m.tid = tid && m.present then { m with bit := true } else m }

/-- A group in its next phase (R197). -/
def Group.nextPhase (g : Group) : Group := { g with b := g.b + 1, members := g.members.map fun m => { m with bit := false } }

theorem endPhase_of_not {s : State} {die e : Nat} {g : Group} (hg : groupOf s die e = some g) (hp : g.phaseEnds = false) :
    endPhase die e s = s := by
  unfold endPhase
  rw [show (dieOf s die).groups.find? (·.entry = e) = some g from hg]
  simp [hp]

theorem endPhase_dies_of_ends {s : State} {die e : Nat} {g : Group} (hg : groupOf s die e = some g) (hp : g.phaseEnds = true) :
    (endPhase die e s).dies = (modGroup die e Group.nextPhase s).dies := by
  unfold endPhase
  rw [show (dieOf s die).groups.find? (·.entry = e) = some g from hg]
  simp only [hp, if_true]
  rfl

theorem dieOf_congr {s t : State} (h : s.dies = t.dies) (d : Nat) : dieOf s d = dieOf t d := by rw [dieOf, dieOf, h]

theorem groupOf_endPhase {s : State} {die e : Nat} {g : Group} (hd : die < 8) (hg : groupOf s die e = some g) :
    groupOf (endPhase die e s) die e = some (if g.phaseEnds then g.nextPhase else g) := by
  by_cases hp : g.phaseEnds = true
  · have hnext := groupOf_modGroup e Group.nextPhase s hd fun _ => rfl
    rw [hg] at hnext
    rw [if_pos hp, groupOf, dieOf_congr (endPhase_dies_of_ends hg hp)]
    exact hnext
  · rw [if_neg hp, endPhase_of_not hg (by simpa using hp), hg]

theorem genOf_endPhase {s : State} {die e : Nat} {g : Group} (hd : die < 8) (hg : groupOf s die e = some g) (x : Nat) :
    genOf (dieOf (endPhase die e s) die) x = genOf (dieOf s die) x := by
  by_cases hp : g.phaseEnds = true
  · rw [dieOf_congr (endPhase_dies_of_ends hg hp), genOf_modGroup _ _ _ hd]
  · rw [endPhase_of_not hg (by simpa using hp)]

/-- R197: what the end of a phase needs. -/
theorem phaseEnds_iff (g : Group) : g.phaseEnds = true ↔
    g.members.length = g.size ∧ (∃ x ∈ g.members, x.present = true) ∧ ∀ x ∈ g.members, x.present = true → x.bit = true := by
  simp [Group.phaseEnds, Group.present_, and_assoc, imp_iff_not_or]

theorem nextPhase_bit {g : Group} {m : Member} (h : m ∈ g.nextPhase.members) : m.bit = false := by
  obtain ⟨x, -, rfl⟩ := List.mem_map.mp h
  rfl

theorem nextPhase_tids (g : Group) : g.nextPhase.members.map (fun m => m.tid) = g.members.map (fun m => m.tid) := by
  simp [Group.nextPhase, Function.comp_def]

theorem present_nextPhase (g : Group) (tid : Nat) : g.nextPhase.present tid = (g.present tid).map fun m => { m with bit := false } :=
  List.find?_map

theorem present_arrived (g : Group) (u tid : Nat) :
    (g.arrived u).present tid = (g.present tid).map fun m => if m.tid = u && m.present then { m with bit := true } else m := by
  unfold Group.present Group.arrived
  rw [List.find?_map]
  congr 2
  funext m
  dsimp only [Function.comp]
  split <;> rfl

/-! ### What a handle finds -/

/-- A handle that passes the checks of `leave` names a group of the caller's launch with the caller in it (R160). -/
theorem memberCheck_ok_iff {s : State} {h : Word} {g : Group} {m : Member} : memberCheck s h = .ok (g, m) ↔
    bit h 63 = true ∧ genOf (dieOf s (hdlDie h)) (hdlEntry h) = hdlGen h ∧ groupOf s (hdlDie h) (hdlEntry h) = some g ∧
      g.lnch = s.me.lnch ∧ g.present s.me.tid = some m := by
  unfold memberCheck handleGroup
  rw [groupAt_eq]
  constructor
  · intro hok
    split at hok
    · cases hok
    · next x hx =>
      split at hok
      · next y hy =>
        cases hok
        split at hx
        · cases hx
        · next hb =>
          split at hx
          · next z hz =>
            split at hx
            · next hl =>
              cases hx
              split at hz
              · next hgen => exact ⟨by simpa using hb, hgen, hz, hl, hy⟩
              · cases hz
            · cases hx
          · cases hx
      · cases hok
  · rintro ⟨hb, hgen, hg, hl, hm⟩
    simp [hb, hgen, hg, hl, hm]

theorem memberCheck_error {s : State} {h : Word} {f : FaultInfo} (he : memberCheck s h = .error f) : f = { cause := 0x0C, addr := h } := by
  unfold memberCheck at he
  split at he
  · cases he
    rfl
  · split at he
    · cases he
    · cases he
      rfl

end Sys2Proof.Machine
end


section
/-! PROOF. `kwait` and the thread-group barriers (R188, R194, R197, R198): a lemma for each case of each form. -/

namespace Sys2Proof.Machine

/-! ### `kwait` -/

section Kwait
variable {s : State} {k : KReg}

theorem armedCheck_eq (s : State) (k : KReg) :
    armedCheck s k = if bit (rdK s k) 63 = false then some { cause := 0x0C } else
      if vatForbidden s s.me.world (counterOf s k) = true then some (accFault 0x0C 0 (BitVec.ofNat 64 (counterOf s k)) false) else
      if bankOwner s (bankNo (counterOf s k)) ≠ s.me.lnch then some { cause := 0x19, addr := BitVec.ofNat 64 (counterOf s k) } else
      if lineAt s (counterOf s k) ≠ .counter then some { cause := 0x0F, sub := 2, addr := BitVec.ofNat 64 (counterOf s k) } else none := by
  by_cases hv : bit (rdK s k) 63 = true
  · by_cases hw : vatForbidden s s.me.world (counterOf s k) = true
    · simp [armedCheck, ownedCheck, handleCheck, failIf, firstFault, hv, hw]
    · by_cases ho : bankOwner s (bankNo (counterOf s k)) = s.me.lnch
      · by_cases hl : lineAt s (counterOf s k) = .counter <;>
          simp [armedCheck, ownedCheck, handleCheck, failIf, firstFault, hv, hw, ho, hl, fault]
      · simp [armedCheck, ownedCheck, handleCheck, failIf, firstFault, hv, hw, ho, fault]
  · simp [armedCheck, ownedCheck, handleCheck, failIf, firstFault, hv, fault]

theorem armedCheck_invalid (hv : ¬ bit (rdK s k) 63 = true) : armedCheck s k = some { cause := 0x0C } := by
  simp [armedCheck_eq, hv]

/-- The world of the counter's vat keeps the caller out (R391). -/
theorem vatForbidden_iff {world : Bool} {a : Nat} :
    vatForbidden s world a = true ↔ bit (dieOf s (a / 2 ^ 28)).vatw (a / 2 ^ 22 % 64) = true ∧ world = false := by
  simp [vatForbidden]

theorem armedCheck_shut (hv : bit (rdK s k) 63 = true) (hw : vatForbidden s s.me.world (counterOf s k) = true) :
    armedCheck s k = some (accFault 0x0C 0 (BitVec.ofNat 64 (counterOf s k)) false) := by
  simp [armedCheck_eq, hv, hw]

theorem armedCheck_foreign (hv : bit (rdK s k) 63 = true) (hw : ¬ vatForbidden s s.me.world (counterOf s k) = true)
    (ho : bankOwner s (bankNo (counterOf s k)) ≠ s.me.lnch) :
    armedCheck s k = some { cause := 0x19, addr := BitVec.ofNat 64 (counterOf s k) } := by
  simp [armedCheck_eq, hv, hw, ho]

theorem armedCheck_unarmed (hv : bit (rdK s k) 63 = true) (hw : ¬ vatForbidden s s.me.world (counterOf s k) = true)
    (ho : bankOwner s (bankNo (counterOf s k)) = s.me.lnch) (hl : lineAt s (counterOf s k) ≠ .counter) :
    armedCheck s k = some { cause := 0x0F, sub := 2, addr := BitVec.ofNat 64 (counterOf s k) } := by
  simp [armedCheck_eq, hv, hw, ho, hl]

theorem armedCheck_armed (hv : bit (rdK s k) 63 = true) (hw : ¬ vatForbidden s s.me.world (counterOf s k) = true)
    (ho : bankOwner s (bankNo (counterOf s k)) = s.me.lnch) (hl : lineAt s (counterOf s k) = .counter) : armedCheck s k = none := by
  simp [armedCheck_eq, hv, hw, ho, hl]

theorem exec_kwait_of_fault {f : FaultInfo} (a : SReg) (i : BitVec 16) (h : armedCheck s k = some f) :
    exec (.kwait k a i) s = .next (raise f s) := by
  rw [exec_kwait, execKwait, h, checked_some]

variable (a : SReg) (i : BitVec 16) (h : armedCheck s k = none)
include h

theorem exec_kwait_of_dead {f : FaultInfo} (hd : s.me.wt.dead = some f) : exec (.kwait k a i) s = .next (raise f s) := by
  rw [exec_kwait, execKwait, h, checked_none, hd]

theorem exec_kwait_of_reached (hd : s.me.wt.dead = none) (hc : kwaitTarget s a i ≤ counterAt s (counterOf s k)) :
    exec (.kwait k a i) s = .next (retireNow (waitOver s)) := by
  rw [exec_kwait, execKwait, h, checked_none, hd]
  simp [kwaitGo, hc]

theorem exec_kwait_of_short (hd : s.me.wt.dead = none) (hc : counterAt s (counterOf s k) < kwaitTarget s a i) :
    exec (.kwait k a i) s = .next (match (kwaitHeld k a i s).me.wt.dead with
      | some f => raise f (kwaitHeld k a i s)
      | none => holdHere (kwaitHeld k a i s)) := by
  have hgo : kwaitGo k a i s = false := by simp [kwaitGo, h, hd, hc]
  rw [exec_kwait, execKwait, h, checked_none, hd]
  simp only [hgo]
  rfl

theorem exec_kwait_held (hd : s.me.wt.dead = none) (hc : counterAt s (counterOf s k) < kwaitTarget s a i)
    (hw : (kwaitHeld k a i s).me.wt.dead = none) : exec (.kwait k a i) s = .next (holdHere (kwaitHeld k a i s)) := by
  rw [exec_kwait_of_short a i h hd hc, hw]

theorem exec_kwait_closed {f : FaultInfo} (hd : s.me.wt.dead = none) (hc : counterAt s (counterOf s k) < kwaitTarget s a i)
    (hw : (kwaitHeld k a i s).me.wt.dead = some f) : exec (.kwait k a i) s = .next (raise f (kwaitHeld k a i s)) := by
  rw [exec_kwait_of_short a i h hd hc, hw]

end Kwait

/-! ### The barriers -/

/-- The phase of a `bar` slot that has arrived (R198). -/
def phaseOf (s : State) (p : CodePos) (h : Word) : Option (CodePos × Word × Nat) := s.me.wt.phases.find? fun x => x.1 = p && x.2.1 = h

section Bar
variable {s : State} {p : CodePos} {h : Word} {g : Group} {m : Member}

theorem barStep_of_arrived {x : CodePos × Word × Nat} (hm : memberCheck s h = .ok (g, m)) (hx : phaseOf s p h = some x) :
    barStep s p h = if x.2.2 ≤ g.b then .done else .wait x.2.2 := by
  rw [barStep, hm, show s.me.wt.phases.find? _ = some x from hx]
  rfl

theorem barStep_of_new (hm : memberCheck s h = .ok (g, m)) (hx : phaseOf s p h = none) :
    barStep s p h = if m.bit then .wait (g.b + 1) else .arrive g := by
  rw [barStep, hm, show s.me.wt.phases.find? _ = none from hx]
  rfl

theorem barTry_of_done (hd : s.me.wt.dead = none) (hb : barStep s p h = .done) : barTry p h s = (s, true) := by
  simp [barTry, hd, hb]

theorem barTry_of_wait {t : Nat} (hd : s.me.wt.dead = none) (hb : barStep s p h = .wait t) (hh : (barHeld h t s).me.wt.dead = none) :
    barTry p h s = (barHeld h t s, false) := by
  simp [barTry, hd, hb, hh]

/-- The state of the group table once the caller has arrived. -/
theorem barArrive_dies (p : CodePos) (h : Word) (g : Group) (s : State) :
    (barArrive p h g s).dies = (endPhase (hdlDie h) g.entry (modGroup (hdlDie h) g.entry (Group.arrived s.me.tid) s)).dies := rfl

/-- A context that remembers, for the slot at a place, the B that its arrival waits for (R198). -/
def Ctx.marked (p : CodePos) (h : Word) (t : Nat) (c : Ctx) : Ctx :=
  { c with wt := { c.wt with phases := c.wt.phases.filter (·.1 ≠ p) ++ [(p, h, t)] } }

theorem Ctx.marked_tid (p : CodePos) (h : Word) (t : Nat) (c : Ctx) : (c.marked p h t).tid = c.tid := rfl

theorem barArrive_me (p : CodePos) (h : Word) (g : Group) (s : State) : (barArrive p h g s).me = s.me.marked p h (g.b + 1) :=
  congrArg (Ctx.marked p h (g.b + 1)) (endPhase_me _ _ _)

theorem phaseOf_barArrive (p : CodePos) (h : Word) (g : Group) (s : State) : phaseOf (barArrive p h g s) p h = some (p, h, g.b + 1) := by
  rw [phaseOf, barArrive_me]
  show (s.me.wt.phases.filter (·.1 ≠ p) ++ [(p, h, g.b + 1)]).find? (fun x => x.1 = p && x.2.1 = h) = some (p, h, g.b + 1)
  have hnone : (s.me.wt.phases.filter (fun x => decide (x.1 ≠ p))).find? (fun x => x.1 = p && x.2.1 = h) = none :=
    List.find?_eq_none.mpr fun x hx => by
      have hne : x.1 ≠ p := of_decide_eq_true (List.mem_filter.mp hx).2
      simp [hne]
  rw [List.find?_append, hnone]
  simp

/-- The caller's group after its arrival: in its next phase when the arrival completes it (R197). -/
theorem groupOf_barArrive (p : CodePos) (hm : memberCheck s h = .ok (g, m)) :
    groupOf (barArrive p h g s) (hdlDie h) g.entry =
      some (if (g.arrived s.me.tid).phaseEnds then (g.arrived s.me.tid).nextPhase else g.arrived s.me.tid) := by
  obtain ⟨-, -, hg, -, -⟩ := memberCheck_ok_iff.mp hm
  have hsome := groupOf_modGroup g.entry (Group.arrived s.me.tid) s (hdlDie_lt h) fun _ => rfl
  rw [entry_of_groupOf hg, hg] at hsome
  rw [groupOf, dieOf_congr (barArrive_dies p h g s), entry_of_groupOf hg]
  exact groupOf_endPhase (hdlDie_lt h) hsome

/-- The handle of a caller that has arrived still names its group. -/
theorem memberCheck_barArrive (p : CodePos) (hm : memberCheck s h = .ok (g, m)) : ∃ m', memberCheck (barArrive p h g s) h =
    .ok (if (g.arrived s.me.tid).phaseEnds then (g.arrived s.me.tid).nextPhase else g.arrived s.me.tid, m') := by
  obtain ⟨hb, hgen, hg, hl, hpres⟩ := memberCheck_ok_iff.mp hm
  have hsome := groupOf_modGroup g.entry (Group.arrived s.me.tid) s (hdlDie_lt h) fun _ => rfl
  rw [entry_of_groupOf hg, hg] at hsome
  have hgen' : genOf (dieOf (barArrive p h g s) (hdlDie h)) (hdlEntry h) = hdlGen h := by
    rw [dieOf_congr (barArrive_dies p h g s), entry_of_groupOf hg, genOf_endPhase (hdlDie_lt h) hsome, genOf_modGroup _ _ _ (hdlDie_lt h), hgen]
  have hgroup := groupOf_barArrive p hm
  rw [entry_of_groupOf hg] at hgroup
  have hpres' := present_arrived g s.me.tid s.me.tid
  rw [hpres, Option.map_some] at hpres'
  by_cases hp : (g.arrived s.me.tid).phaseEnds = true
  · rw [if_pos hp] at hgroup ⊢
    exact ⟨_, memberCheck_ok_iff.mpr ⟨hb, hgen', hgroup, by rw [barArrive_me]; exact hl,
      by rw [barArrive_me, Ctx.marked_tid, present_nextPhase, hpres', Option.map_some]⟩⟩
  · rw [if_neg hp] at hgroup ⊢
    exact ⟨_, memberCheck_ok_iff.mpr ⟨hb, hgen', hgroup, by rw [barArrive_me]; exact hl, by rw [barArrive_me, Ctx.marked_tid, hpres']⟩⟩

/-- After the caller's arrival its slot is done, or it waits for the B that its phase ends with (R198). -/
theorem barStep_barArrive (p : CodePos) (hm : memberCheck s h = .ok (g, m)) :
    barStep (barArrive p h g s) p h = if (g.arrived s.me.tid).phaseEnds then .done else .wait (g.b + 1) := by
  obtain ⟨m', hm'⟩ := memberCheck_barArrive p hm
  rw [barStep_of_arrived hm' (phaseOf_barArrive p h g s)]
  by_cases hp : (g.arrived s.me.tid).phaseEnds = true
  · simp only [hp, if_true]
    exact if_pos le_rfl
  · simp only [hp]
    exact if_neg (Nat.not_succ_le_self g.b)

theorem barTry_of_last (hd : s.me.wt.dead = none) (hm : memberCheck s h = .ok (g, m)) (hb : m.bit = false) (hx : phaseOf s p h = none)
    (hp : (g.arrived s.me.tid).phaseEnds = true) : barTry p h s = (barArrive p h g s, true) := by
  have hstep := barStep_of_new hm hx
  have hthen := barStep_barArrive p hm
  simp only [hb, hp, if_true] at hstep hthen
  simp [barTry, hd, hstep, hthen]

theorem barTry_of_not_last (hd : s.me.wt.dead = none) (hm : memberCheck s h = .ok (g, m)) (hb : m.bit = false) (hx : phaseOf s p h = none)
    (hp : (g.arrived s.me.tid).phaseEnds = false) (hh : (barHeld h (g.b + 1) (barArrive p h g s)).me.wt.dead = none) :
    barTry p h s = (barHeld h (g.b + 1) (barArrive p h g s), false) := by
  have hstep := barStep_of_new hm hx
  have hthen := barStep_barArrive p hm
  simp only [hb, hp] at hstep hthen
  simp [barTry, hd, hstep, hthen, hh]

end Bar

section BarForms
variable {s : State} {a : SReg} {g : Group} {m : Member}

theorem exec_bar_done {t : State} (hm : memberCheck s (rdS s a) = .ok (g, m)) (ht : barTry s.me.sq.at_ (rdS s a) s = (t, true))
    (hd : t.me.wt.dead = none) : exec (.bar a) s = .next (barDone s.me.sq.at_ t) := by
  rw [exec_bar, execBar, hm, tryWith_ok]
  simp only [ht, hd, if_true]

theorem exec_bar_held {t : State} (hm : memberCheck s (rdS s a) = .ok (g, m)) (ht : barTry s.me.sq.at_ (rdS s a) s = (t, false))
    (hd : t.me.wt.dead = none) : exec (.bar a) s = .next (holdHere t) := by
  rw [exec_bar, execBar, hm, tryWith_ok]
  simp only [ht, hd]
  rfl

variable (hm : memberCheck s (rdS s a) = .ok (g, m)) (hd : s.me.wt.dead = none)
include hm hd

theorem exec_barA_arrive (d : SReg) (hb : m.bit = false) : exec (.barA d a) s =
    .next (withPend (.s d (BitVec.ofNat 64 (g.b + 1))) true true none none (arrive (rdS s a) g (waitOver s)).1) := by
  have htry : barATry (rdS s a) s = (s, true) := by simp [barATry, hd, hm, hb]
  rw [exec_barA, execBarA, hm, tryWith_ok]
  simp only [htry, hd, hb]
  rfl

theorem exec_barA_held (d : SReg) (hb : m.bit = true) (hh : (barHeld (rdS s a) (g.b + 1) s).me.wt.dead = none) :
    exec (.barA d a) s = .next (holdHere (barHeld (rdS s a) (g.b + 1) s)) := by
  have htry : barATry (rdS s a) s = (barHeld (rdS s a) (g.b + 1) s, false) := by simp [barATry, hd, hm, hb, hh]
  rw [exec_barA, execBarA, hm, tryWith_ok]
  simp only [htry, hh, hb, if_true]

theorem exec_barW_over {b : SReg} (hb : (rdS s b).toNat ≤ g.b) : exec (.barW a b) s = .next (retireNow (waitOver s)) := by
  have htry : barWTry (rdS s a) (rdS s b).toNat s = (s, true) := by simp [barWTry, hd, hm, hb]
  rw [exec_barW, execBarW, hm, tryWith_ok]
  simp only [htry, hd, ge_iff_le, if_pos hb]

theorem exec_barW_held {b : SReg} (hb : g.b < (rdS s b).toNat) (hh : (barHeld (rdS s a) (rdS s b).toNat s).me.wt.dead = none) :
    exec (.barW a b) s = .next (holdHere (barHeld (rdS s a) (rdS s b).toNat s)) := by
  have hn : ¬ (rdS s b).toNat ≤ g.b := Nat.not_le.mpr hb
  have htry : barWTry (rdS s a) (rdS s b).toNat s = (barHeld (rdS s a) (rdS s b).toNat s, false) := by simp [barWTry, hd, hm, hn, hh]
  rw [exec_barW, execBarW, hm, tryWith_ok]
  simp only [htry, hh, ge_iff_le, if_neg hn]

end BarForms

theorem exec_bars_of_error (d b : SReg) {a : SReg} {s : State} {f : FaultInfo} (h : memberCheck s (rdS s a) = .error f) :
    ∀ q ∈ [Instr.bar a, .barA d a, .barW a b], exec q s = .next (raise f s) := by
  have hbar : exec (.bar a) s = .next (raise f s) := by rw [exec_bar, execBar, h, tryWith_error]
  have hbarA : exec (.barA d a) s = .next (raise f s) := by rw [exec_barA, execBarA, h, tryWith_error]
  have hbarW : exec (.barW a b) s = .next (raise f s) := by rw [exec_barW, execBarW, h, tryWith_error]
  simp [hbar, hbarA, hbarW]

/-- Settles O36: `kwait` by its checks, the barriers by the step that a look at the slot takes. -/
theorem waitsAndBarriers : Obligations.WaitsAndBarriers := by
  unfold Obligations.WaitsAndBarriers
  refine ⟨fun s k a i => ?_, fun s d a b g m => ⟨fun f hf => ⟨memberCheck_error hf, exec_bars_of_error d b hf⟩, fun hm hd => ?_,
    fun die e g hg hdie => ⟨phaseEnds_iff g, fun hp => ?_, endPhase_of_not hg⟩⟩⟩
  · refine ⟨fun hv => exec_kwait_of_fault a i (armedCheck_invalid hv),
      fun hv hw => exec_kwait_of_fault a i (armedCheck_shut hv (vatForbidden_iff.mpr hw)),
      fun hv hw ho => exec_kwait_of_fault a i (armedCheck_foreign hv (mt vatForbidden_iff.mp hw) fun h => ho ⟨hw, h⟩),
      fun hv ho hl => exec_kwait_of_fault a i (armedCheck_unarmed hv (mt vatForbidden_iff.mp ho.1) ho.2 hl), fun hv ho hl hd => ?_,
      fun f hv ho hl hd => exec_kwait_of_dead a i (armedCheck_armed hv (mt vatForbidden_iff.mp ho.1) ho.2 hl) hd⟩
    have harmed := armedCheck_armed hv (mt vatForbidden_iff.mp ho.1) ho.2 hl
    refine ⟨exec_kwait_of_reached a i harmed hd, fun hc hdead => ?_, fun f hc hdead => ?_⟩
    · exact exec_kwait_held a i harmed hd hc hdead
    · exact exec_kwait_closed a i harmed hd hc hdead
  · refine ⟨fun hb hx => ⟨fun hp => ⟨exec_bar_done hm (barTry_of_last hd hm hb hx hp) ?_, ?_⟩, fun hp hh => ?_⟩, fun hb hx hh => ?_,
      fun x hx => ⟨fun hle => ?_, fun hlt hh => ?_⟩, exec_barA_arrive hm hd d, exec_barA_held hm hd d, exec_barW_over hm hd,
      exec_barW_held hm hd⟩
    · rw [barArrive_me]
      exact hd
    · exact ⟨_, (groupOf_barArrive _ hm).trans (congrArg some (if_pos hp)), rfl, fun _ => nextPhase_bit⟩
    · exact exec_bar_held hm (barTry_of_not_last hd hm hb hx hp hh) hh
    · exact exec_bar_held hm (barTry_of_wait hd ((barStep_of_new hm hx).trans (if_pos hb)) hh) hh
    · exact exec_bar_done hm (barTry_of_done hd ((barStep_of_arrived hm hx).trans (if_pos hle))) hd
    · exact exec_bar_held hm (barTry_of_wait hd ((barStep_of_arrived hm hx).trans (if_neg (not_le.mpr hlt))) hh) hh
  · exact ⟨_, (groupOf_endPhase hdie hg).trans (congrArg some (if_pos hp)), rfl, fun _ => nextPhase_bit, nextPhase_tids g⟩

end Sys2Proof.Machine
end


section
/-! SUPPORT. What an access of the module's own memory leaves alone: everything but memory, its lines and home slices, the dies and the
reports; one that a thread makes may also record a fault of a thread. And what a change of one thread's context leaves alone. -/

namespace Sys2Proof.Machine

/-! ### The state beside memory, dies and reports -/

/-- The state without memory, lines, home slices, dies and the module's management state. -/
def State.bare (s : State) : State := { s with hbm := [], store := [], lines := [], home := [], dies := State.reset.dies, sys := State.reset.sys }

/-- A context without the faults recorded for it. -/
def Ctx.calm (c : Ctx) : Ctx := { c with sq := { c.sq with faults := [] } }

/-- The bare state without the recorded faults. -/
def State.calm (s : State) : State :=
  { s.bare with me := s.me.calm, others := s.others.map Ctx.calm, saved := s.saved.map fun v => { v with ctx := v.ctx.calm } }

theorem bare_store (m : List Host.Cell) (s : State) : { s with store := m }.bare = s.bare := rfl

theorem bare_modDie (d : Nat) (f : Die → Die) (s : State) : (modDie d f s).bare = s.bare := rfl

theorem bare_setLine (a : Nat) (l : LineSt) (s : State) : (setLine a l s).bare = s.bare := rfl

theorem bare_errRecord (src cls what : Nat) (d : List Word) (s : State) : (errRecord src cls what d s).bare = s.bare := by
  unfold errRecord
  split
  · rfl
  · dsimp only
    split <;> rfl

theorem bare_stepLine (k : LineAcc) (x : Nat) (s : State) : (stepLine k x s).bare = s.bare := by
  unfold stepLine
  split
  · rfl
  · extract_lets t
    have ht : t.bare = s.bare := by
      show (ite _ _ _ : State).bare = _
      split
      · exact bare_store _ s
      · rfl
    exact (bare_setLine x _ t).trans ht

theorem bare_stepLines (k : LineAcc) (b : PailBy) (a n : Nat) (s : State) : (stepLines k b a n s).bare = s.bare := by
  unfold stepLines pailNotice
  rw [bare_modDie]
  exact foldl_field_eq State.bare _ (fun s x => bare_stepLine k x s) _ s

theorem bare_writeSegs (gs : List Seg) (bs : List Byte) (s : State) : (writeSegs s gs bs).bare = s.bare := by
  induction gs generalizing s bs with
  | nil => rfl
  | cons g gs ih =>
    refine (ih _ _).trans ?_
    split <;> rfl

theorem calm_eq_of_bare {s t : State} (h : t.bare = s.bare) : t.calm = s.calm := by
  have hc : ∀ x : State, x.calm = { x.bare with me := x.bare.me.calm, others := x.bare.others.map Ctx.calm
                                                saved := x.bare.saved.map fun v => { v with ctx := v.ctx.calm } } := fun _ => rfl
  rw [hc, hc, h]

/-- Recording a fault of a thread changes nothing else. -/
theorem calm_recordFault (u : Nat) (f : FaultInfo) (s : State) : (recordFault u f s).calm = s.calm := by
  unfold recordFault
  split
  · rfl
  · unfold modSqOf modCtx
    split
    · rfl
    · have hothers : (s.others.map fun c => if c.uid = u then { c with sq := { c.sq with faults := c.sq.faults ++ [f] } } else c).map Ctx.calm
          = s.others.map Ctx.calm := by
        rw [List.map_map]
        refine List.map_congr_left fun c _ => ?_
        dsimp only [Function.comp]
        split <;> rfl
      have hsaved : (s.saved.map fun v => if v.ctx.uid = u then
            { v with ctx := { v.ctx with sq := { v.ctx.sq with faults := v.ctx.sq.faults ++ [f] } } } else v).map (fun v => { v with ctx := v.ctx.calm }) =
          s.saved.map fun v => { v with ctx := v.ctx.calm } := by
        rw [List.map_map]
        refine List.map_congr_left fun v _ => ?_
        dsimp only [Function.comp]
        split <;> rfl
      unfold State.calm State.bare
      dsimp only
      rw [hothers, hsaved]

/-- The event of a home slice before any context hears of it. -/
def homeReport (cause pa : Nat) (s : State) : State :=
  let d := pa / 2 ^ 36 % 8
  let s := modDie d (fun x => if cause = 0x0D then { x with overs := x.overs + 1 } else { x with unders := x.unders + 1 }) s
  if bit (dieOf s d).dmcfg 5 then errRecord d 0x04 cause [BitVec.ofNat 64 (pa / 64 * 64)] s else s

theorem bare_homeReport (cause pa : Nat) (s : State) : (homeReport cause pa s).bare = s.bare := by
  unfold homeReport
  extract_lets d t
  split
  · exact bare_errRecord _ _ _ _ _
  · rfl

theorem homeEvent_none (cause : Nat) (va : Word) (pa : Nat) (s : State) : homeEvent cause none va pa s = homeReport cause pa s := rfl

theorem homeEvent_some (cause u : Nat) (va : Word) (pa : Nat) (s : State) : homeEvent cause (some u) va pa s =
    if bit (dieOf (homeReport cause pa s) (pa / 2 ^ 36 % 8)).dmcfg 6 then
      recordFault u { cause, addr := va, detail := [7] } (homeReport cause pa s)
    else homeReport cause pa s := rfl

theorem bare_stepHome (k : LineAcc) (va : Word) (pa : Nat) (s : State) : (stepHome k none va pa s).bare = s.bare := by
  unfold stepHome
  rcases homeNext k (homeAt s pa) with ⟨h, _ | c⟩
  · rfl
  · exact (bare_homeReport c pa _).trans rfl

theorem calm_stepHome (k : LineAcc) (u : Option Nat) (va : Word) (pa : Nat) (s : State) : (stepHome k u va pa s).calm = s.calm := by
  cases u with
  | none => exact calm_eq_of_bare (bare_stepHome k va pa s)
  | some u =>
    unfold stepHome
    rcases homeNext k (homeAt s pa) with ⟨h, _ | c⟩
    · rfl
    · have hreport := calm_eq_of_bare (bare_homeReport c pa { s with home := setAt .absent s.home (pa / 64) h })
      dsimp only
      rw [homeEvent_some]
      split
      · exact (calm_recordFault _ _ _).trans hreport
      · exact hreport

/-! ### Whole accesses -/

theorem bare_stepSegsBy (k : LineAcc) (b : PailBy) (gs : List Seg) (s : State) : (stepSegsBy k none b gs s).bare = s.bare := by
  refine foldl_field_eq State.bare _ (fun s g => ?_) gs s
  split
  · exact bare_stepLines _ _ _ _ _
  · exact foldl_field_eq State.bare _ (fun _ _ => bare_stepHome _ _ _ _) _ s

theorem bare_stepSegs (k : LineAcc) (gs : List Seg) (s : State) : (stepSegs k none gs s).bare = s.bare := bare_stepSegsBy _ _ _ _

theorem calm_stepSegsBy (k : LineAcc) (u : Option Nat) (b : PailBy) (gs : List Seg) (s : State) : (stepSegsBy k u b gs s).calm = s.calm := by
  refine foldl_field_eq State.calm _ (fun s g => ?_) gs s
  split
  · exact calm_eq_of_bare (bare_stepLines _ _ _ _ _)
  · exact foldl_field_eq State.calm _ (fun _ _ => calm_stepHome _ _ _ _ _) _ s

theorem calm_stepSegs (k : LineAcc) (u : Option Nat) (gs : List Seg) (s : State) : (stepSegs k u gs s).calm = s.calm := calm_stepSegsBy _ _ _ _ _

theorem bare_devWrite (ag : Agent) (a : Word) (bs : List Byte) (s : State) : (devWrite ag a bs s).bare = s.bare := by
  unfold devWrite
  split
  · rfl
  · exact (bare_writeSegs _ _ _).trans (bare_stepSegs _ _ _)

theorem bare_devTouch (ag : Agent) (a : Word) (n : Nat) (s : State) : (devTouch ag a n s).bare = s.bare := by
  unfold devTouch
  split
  · rfl
  · exact bare_stepSegs _ _ _

theorem bare_writeStat (l : Nat) (s : State) : (writeStat l s).bare = s.bare := by
  unfold writeStat
  split
  · rfl
  · exact (bare_errRecord _ _ _ _ _).trans (bare_devWrite _ _ _ _)

theorem me_of_bare {s t : State} (h : t.bare = s.bare) : t.me = s.me := by
  have hme := congrArg State.me h
  exact hme

theorem launches_of_bare {s t : State} (h : t.bare = s.bare) : t.launches = s.launches := by
  have hlaunches := congrArg State.launches h
  exact hlaunches

theorem writeStat_me (l : Nat) (s : State) : (writeStat l s).me = s.me := me_of_bare (bare_writeStat l s)

theorem writeStat_launches (l : Nat) (s : State) : (writeStat l s).launches = s.launches := launches_of_bare (bare_writeStat l s)

/-- Whatever of the context in issue is not a recorded fault, a store of the context leaves it (R232, R305). -/
theorem me_of_calm {α : Type} (p : Ctx → α) (hp : ∀ c, p c.calm = p c) {s t : State} (h : t.calm = s.calm) : p t.me = p s.me := by
  have hme : t.me.calm = s.me.calm := congrArg State.me h
  rw [← hp t.me, hme, hp]

/-! ### Launches -/

theorem find_map_num {l : Nat} {f : Launch → Launch} (hf : ∀ x, (f x).num = x.num) (n : Nat) (xs : List Launch) :
    (xs.map fun x => if x.num = l then f x else x).find? (fun x => decide (x.num = n)) =
      (xs.find? fun x => decide (x.num = n)).map fun x => if x.num = l then f x else x := by
  rw [List.find?_map]
  congr 2
  funext x
  dsimp only [Function.comp]
  split
  · rw [hf]
  · rfl

theorem launchOf_modLaunch {l : Nat} {f : Launch → Launch} (hf : ∀ x, (f x).num = x.num) (n : Nat) (s : State) :
    launchOf (modLaunch l f s) n = (launchOf s n).map fun x => if x.num = l then f x else x := find_map_num hf n s.launches

theorem num_of_launchOf {s : State} {n : Nat} {l : Launch} (h : launchOf s n = some l) : l.num = n := by
  simpa using List.find?_some h

theorem launchOf_congr {s t : State} (h : t.launches = s.launches) (n : Nat) : launchOf t n = launchOf s n := by rw [launchOf, launchOf, h]

theorem launchOf_modLaunch_same {s : State} {n : Nat} {l : Launch} {f : Launch → Launch} (hf : ∀ x, (f x).num = x.num)
    (h : launchOf s n = some l) : launchOf (modLaunch n f s) n = some (f l) := by
  rw [launchOf_modLaunch hf, h, Option.map_some, if_pos (num_of_launchOf h)]

theorem launchOf_writeStat (l n : Nat) (s : State) : launchOf (writeStat l s) n = launchOf s n := launchOf_congr (writeStat_launches l s) n

/-! ### One thread's context -/

/-- What a change of a context keeps of every context, it keeps of the one in issue. -/
theorem me_modCtx {α : Type} (p : Ctx → α) {f : Ctx → Ctx} (hf : ∀ c, p (f c) = p c) (u : Nat) (s : State) :
    p (modCtx u f s).me = p s.me := by
  unfold modCtx
  split
  · exact hf s.me
  · rfl

/-- A wait that is dropped changes nothing else of the context in issue. -/
theorem me_dropEdge {α : Type} (p : Ctx → α) (hw : ∀ c w, p { c with wt := w } = p c) (u : Nat) (s : State) :
    p (dropEdge u s).me = p s.me := by
  unfold dropEdge
  split
  · rfl
  · split
    · exact me_modCtx p (fun c => hw c _) u s
    · exact (me_modCtx p (fun c => hw c _) u _).trans rfl

theorem me_inherit {α : Type} (p : Ctx → α) (hi : ∀ c n, p { c with ipri := n } = p c) (s : State) : p (inherit s).me = p s.me := hi s.me _

theorem me_withdrawEdge {α : Type} (p : Ctx → α) (hw : ∀ c w, p { c with wt := w } = p c) (hi : ∀ c n, p { c with ipri := n } = p c)
    (u : Nat) (s : State) : p (withdrawEdge u s).me = p s.me := by
  unfold withdrawEdge
  split
  · exact (me_inherit p hi _).trans (me_dropEdge p hw u s)
  · exact me_dropEdge p hw u s

end Sys2Proof.Machine
end


section
/-! PROOF. Traps (R305 to R311): the handler's entry, the fault that cannot be delivered, and the boundary at which a fault is taken. -/

namespace Sys2Proof.Machine

/-! ### The record and its store -/

theorem length_trapRecord (c : Ctx) (f : FaultInfo) (p : CodePos) (clk : Word) : (trapRecord c f p clk).length = 384 := by
  simp [trapRecord, List.length_flatMap]

/-- The state once the trap's record is stored (R307). -/
def recorded (f : FaultInfo) (p : CodePos) (gs : List Seg) (s : State) : State :=
  writeSegs (stepSegs .store (some s.me.uid) gs s) gs (trapRecord s.me f p (clkWord s))

theorem calm_recorded (f : FaultInfo) (p : CodePos) (gs : List Seg) (s : State) : (recorded f p gs s).calm = s.calm :=
  (calm_eq_of_bare (bare_writeSegs _ _ _)).trans (calm_stepSegs _ _ _ _)

/-- The store of the record may record faults, and leaves the rest of the context. -/
theorem me_recorded {α : Type} (q : Ctx → α) (hq : ∀ c, q c.calm = q c) (f : FaultInfo) (p : CodePos) (gs : List Seg) (s : State) :
    q (recorded f p gs s).me = q s.me := me_of_calm q hq (calm_recorded f p gs s)

/-! ### The two outcomes -/

section Handler
variable {s : State} {f : FaultInfo} {p : CodePos} {gs : List Seg}
variable (hu : s.me.ctl.handler = false) (hv : s.me.ctl.xvec ≠ 0) (hr : recordSegs s = .ok gs)
include hu hv hr

theorem takeTrap_of_handler : takeTrap f p s =
    withdrawEdge s.me.uid { recorded f p gs s with me := enterHandler f p (recorded f p gs s).me } := by
  have huid : (recorded f p gs s).me.uid = s.me.uid := me_recorded Ctx.uid (fun _ => rfl) f p gs s
  rcases takeTrap_cases f p s with ⟨-, hc⟩ | ⟨gs', -, -, hr', ht⟩
  · rcases hc with hc | hc | ⟨e, hc⟩
    · exact absurd hc (by simp [hu])
    · exact absurd hc hv
    · exact absurd (hc.symm.trans hr) (by simp)
  · cases hr'.symm.trans hr
    exact ht.trans (congrArg (fun u => withdrawEdge u _) huid)

/-- What a wait and inheritance do not touch of a context is, after the trap, as entering the handler leaves it. -/
theorem me_takeTrap_of_handler {α : Type} (q : Ctx → α) (hw : ∀ c w, q { c with wt := w } = q c)
    (hi : ∀ c n, q { c with ipri := n } = q c) :
    q (takeTrap f p s).me = q (enterHandler f p (recorded f p gs s).me) := by
  rw [takeTrap_of_handler hu hv hr]
  exact me_withdrawEdge q hw hi _ _

theorem ctl_takeTrap : (takeTrap f p s).me.ctl =
    { s.me.ctl with
        xcause := BitVec.ofNat 64 (f.tag % 2 ^ 32 * 2 ^ 32 + f.sub % 256 * 256 + f.cause % 256)
        xaddr := f.addr, xpc := p.pc, slot := BitVec.ofNat 3 p.slot, handler := true } := by
  rw [me_takeTrap_of_handler hu hv hr Ctx.ctl (fun _ _ => rfl) (fun _ _ => rfl), enterHandler]
  dsimp only
  rw [me_recorded Ctx.ctl (fun _ => rfl)]

theorem sq_takeTrap : (takeTrap f p s).me.sq = (enterHandler f p (recorded f p gs s).me).sq :=
  me_takeTrap_of_handler hu hv hr Ctx.sq (fun _ _ => rfl) (fun _ _ => rfl)

theorem next_takeTrap : (takeTrap f p s).me.sq.next = ⟨s.me.ctl.xvec, 0⟩ := by
  rw [sq_takeTrap hu hv hr]
  exact congrArg (fun c : Ctl => (⟨c.xvec, 0⟩ : CodePos)) (me_recorded Ctx.ctl (fun _ => rfl) f p gs s)

theorem regs_takeTrap : (takeTrap f p s).me.regs = s.me.regs :=
  (me_takeTrap_of_handler hu hv hr Ctx.regs (fun _ _ => rfl) (fun _ _ => rfl)).trans (me_recorded Ctx.regs (fun _ => rfl) f p gs s)

end Handler

section Undeliverable
variable {s : State} (f : FaultInfo) (p : CodePos)

theorem takeTrap_of_no_handler (h : s.me.ctl.handler = true ∨ s.me.ctl.xvec = 0 ∨ ∃ e, recordSegs s = .error e) :
    takeTrap f p s = undeliverable f p s := by
  rcases takeTrap_cases f p s with ⟨ht, -⟩ | ⟨gs, hu, hv, hr, -⟩
  · exact ht
  · rcases h with h | h | ⟨e, h⟩
    · exact absurd h (by simp [hu])
    · exact absurd h hv
    · exact absurd (h.symm.trans hr) (by simp)

theorem setErr_me (l code : Nat) (x : Word) (kill : Bool) (s : State) : (setErr l code x kill s).me = s.me := writeStat_me l _

/-- What the stop of issue does not touch of a context, an undeliverable fault leaves it. -/
theorem me_undeliverable {α : Type} (q : Ctx → α) (hq : ∀ c st x, q { c with status := st, sq := x } = q c) :
    q (undeliverable f p s).me = q s.me := by
  unfold undeliverable
  extract_lets words s1 s2
  have hme : s2.me = s.me := (setErr_me _ _ _ _ _).trans (errRecord_me _ _ _ _ _)
  exact (hq _ _ _).trans (congrArg q hme)

/-- A launch's first error is kept (R169). -/
def Launch.firstErr (code : Nat) (x : Word) (l : Launch) : Launch := if l.err = 0 then { l with err := code, einfo := x } else l

theorem num_firstErr (code : Nat) (x : Word) (l : Launch) : (l.firstErr code x).num = l.num := by
  unfold Launch.firstErr
  split <;> rfl

/-- The launch of the thread that meets an undeliverable fault (R169, R309). -/
theorem launchOf_undeliverable {l : Launch} (h : launchOf s s.me.lnch = some l) : launchOf (undeliverable f p s) s.me.lnch =
    some (l.firstErr 0x85 (BitVec.ofNat 64 (f.cause % 256 + 2 ^ 24 * s.me.tid))) := by
  unfold undeliverable
  extract_lets words s1 s2
  have hme : s1.me = s.me := errRecord_me _ _ _ _ _
  have h1 : launchOf s1 s.me.lnch = some l := (launchOf_congr (launches_of_bare (bare_errRecord _ _ _ _ _)) _).trans h
  have h2 : s2 = writeStat s.me.lnch
      (modLaunch s.me.lnch (Launch.firstErr 0x85 (BitVec.ofNat 64 (f.cause % 256 + 2 ^ 24 * s.me.tid))) s1) := by
    show setErr s1.me.lnch 0x85 (BitVec.ofNat 64 (f.cause % 256 + 2 ^ 24 * s1.me.tid)) false s1 = _
    rw [hme]
    rfl
  show launchOf s2 s.me.lnch = _
  rw [h2, launchOf_writeStat, launchOf_modLaunch_same (num_firstErr _ _) h1]

theorem bits_einfo_cause (cause tid : Nat) : bits (BitVec.ofNat 64 (cause % 256 + 2 ^ 24 * tid)) 0 8 = cause % 256 := by
  rw [bits, fld, BitVec.toNat_ofNat]
  omega

theorem bits_einfo_tid {cause tid : Nat} (h : tid < 2 ^ 24) : bits (BitVec.ofNat 64 (cause % 256 + 2 ^ 24 * tid)) 24 24 = tid := by
  rw [bits, fld, BitVec.toNat_ofNat]
  omega

end Undeliverable

/-! ### The turn of the context in issue -/

theorem giveTurn_self {u : Nat} {s : State} (hu : s.me.uid = u) (hs : s.me.status ≠ .free) : giveTurn u s = s := by
  rw [giveTurn, if_pos (by simp [hu, hs])]

theorem boundCtx_me {s : State} (hs : s.me.status ≠ .free) : boundCtx s s.me.uid = some s.me := by
  simp [boundCtx, bound, hs]

/-- A context in issue that is not freed meanwhile has the turn before and after. -/
theorem inTurn_me {f : State → State} {s : State} (hs : s.me.status ≠ .free) (hu : (f s).me.uid = s.me.uid) (hf : (f s).me.status ≠ .free) :
    inTurn s.me.uid f s = f s := by
  rw [inTurn, boundCtx_me hs, giveTurn_self rfl hs, giveTurn_self hu hf]
  rfl

theorem uid_takeTrap (f : FaultInfo) (p : CodePos) (s : State) : (takeTrap f p s).me.uid = s.me.uid := by
  by_cases h : s.me.ctl.handler = true ∨ s.me.ctl.xvec = 0 ∨ ∃ e, recordSegs s = .error e
  · rw [takeTrap_of_no_handler f p h]
    exact me_undeliverable f p Ctx.uid fun _ _ _ => rfl
  · obtain ⟨hu, hv, hr⟩ : s.me.ctl.handler ≠ true ∧ s.me.ctl.xvec ≠ 0 ∧ ¬ ∃ e, recordSegs s = .error e := by simpa [not_or] using h
    obtain ⟨gs, hgs⟩ : ∃ gs, recordSegs s = .ok gs := by
      cases hc : recordSegs s with
      | error e => exact absurd ⟨e, hc⟩ hr
      | ok gs => exact ⟨gs, rfl⟩
    exact (me_takeTrap_of_handler (by simpa using hu) hv hgs Ctx.uid (fun _ _ => rfl) (fun _ _ => rfl)).trans
      (me_recorded Ctx.uid (fun _ => rfl) f p gs s)

theorem status_takeTrap (f : FaultInfo) (p : CodePos) (s : State) (hs : s.me.status ≠ .free) : (takeTrap f p s).me.status ≠ .free := by
  rcases takeTrap_cases f p s with ⟨ht, -⟩ | ⟨gs, hu, hv, hr, -⟩
  · rw [ht]
    exact nofun
  · rw [me_takeTrap_of_handler hu hv hr Ctx.status (fun _ _ => rfl) (fun _ _ => rfl)]
    exact fun h => hs ((me_recorded Ctx.status (fun _ => rfl) f p gs s).symm.trans h)

/-! ### Faults at a boundary -/

/-- What TRAP_ENTRY does for the context in issue. -/
def trapHere (f : FaultInfo) (s : State) : State :=
  if s.me.status ≠ .running || s.me.sq.mid then s
  else if dueFault s = some f then deliver f s
  else if (dueFault s).isNone && fetchFault s = some f then trapFetch f s
  else s

theorem exec_trapEntry_me {s : State} (f : FaultInfo) (hs : s.me.status = .running) :
    exec (.trapEntry s.me.uid f) s = .next (trapHere f s) := by
  have hfree : s.me.status ≠ .free := by simp [hs]
  have hkeeps : (trapHere f s).me.uid = s.me.uid ∧ (trapHere f s).me.status ≠ .free := by
    unfold trapHere
    split
    · exact ⟨rfl, hfree⟩
    · split
      · exact ⟨uid_takeTrap _ _ _, status_takeTrap _ _ _ hfree⟩
      · split
        · exact ⟨uid_takeTrap _ _ _, status_takeTrap _ _ _ hfree⟩
        · exact ⟨rfl, hfree⟩
  rw [exec_trapEntry, execTrapEntry]
  exact congrArg Host.Outcome.next (inTurn_me (f := trapHere f) hfree hkeeps.1 hkeeps.2)

section TrapHere
variable {s : State} {f : FaultInfo} (hs : s.me.status = .running)

theorem trapHere_of_mid (h : s.me.sq.queue ≠ [] ∨ s.me.sq.rest ≠ none) : trapHere f s = s := by
  have hmid : s.me.sq.mid = true := by
    rcases h with h | h
    · simp [Seq.mid, h]
    · simp [Seq.mid, Option.isSome_iff_ne_none, h]
  rw [trapHere, if_pos (by simp [hmid])]

variable (hq : s.me.sq.queue = []) (hr : s.me.sq.rest = none)
include hs hq hr

theorem trapHere_of_boundary : trapHere f s =
    if dueFault s = some f then deliver f s else if (dueFault s).isNone && fetchFault s = some f then trapFetch f s else s := by
  have hmid : s.me.sq.mid = false := by simp [Seq.mid, hq, hr]
  rw [trapHere, if_neg (by simp [hs, hmid])]

theorem trapHere_of_due (hd : dueFault s = some f) : trapHere f s = deliver f s := by
  rw [trapHere_of_boundary hs hq hr, if_pos hd]

theorem trapHere_of_other {g : FaultInfo} (hd : dueFault s = some g) (hg : g ≠ f) : trapHere f s = s := by
  rw [trapHere_of_boundary hs hq hr, if_neg (by simp [hd, hg]), if_neg (by simp [hd])]

theorem trapHere_of_fetch (hd : dueFault s = none) (hf : fetchFault s = some f) : trapHere f s = trapFetch f s := by
  rw [trapHere_of_boundary hs hq hr, if_neg (by simp [hd]), if_pos (by simp [hd, hf])]

theorem trapHere_of_none (hd : dueFault s = none) (hf : fetchFault s ≠ some f) : trapHere f s = s := by
  rw [trapHere_of_boundary hs hq hr, if_neg (by simp [hd]), if_neg (by simp [hf])]

end TrapHere

theorem dueFault_of_user {s : State} (h : s.me.ctl.handler = false) : dueFault s = s.me.sq.faults.head? := by simp [dueFault, h]

theorem dueFault_of_none {s : State} (h : s.me.ctl.handler = true ∨ s.me.sq.faults = []) : dueFault s = none := by
  rcases h with h | h <;> simp [dueFault, h]

/-- Settles O17: the two outcomes of `takeTrap`, and the fault that a boundary finds due. -/
theorem trapsAreTaken : Obligations.TrapsAreTaken := by
  unfold Obligations.TrapsAreTaken
  refine ⟨fun s f p gs hu hv hr => ?_, fun s f p h => ?_, fun s f => ?_⟩
  · have hctl := ctl_takeTrap (f := f) (p := p) hu hv hr
    have hsq := sq_takeTrap (f := f) (p := p) hu hv hr
    have hcause : f.tag % 2 ^ 32 * 2 ^ 32 + f.sub % 256 * 256 + f.cause % 256 = f.cause % 256 + f.sub % 256 * 2 ^ 8 + f.tag % 2 ^ 32 * 2 ^ 32 := by
      omega
    exact ⟨takeTrap_of_handler hu hv hr, congrArg Ctl.handler hctl, congrArg Ctl.xpc hctl, congrArg Ctl.slot hctl, congrArg Ctl.xaddr hctl,
      (congrArg Ctl.xcause hctl).trans (congrArg (BitVec.ofNat 64) hcause), next_takeTrap hu hv hr, congrArg Seq.queue hsq,
      congrArg Seq.flights hsq, congrArg Seq.redirs hsq, congrArg Seq.snap hsq, congrArg Seq.sredir hsq, regs_takeTrap hu hv hr,
      length_trapRecord _ _ _ _⟩
  · refine ⟨takeTrap_of_no_handler f p h, rfl, rfl, me_undeliverable f p (fun c => c.ctl.handler) fun _ _ _ => rfl,
      me_undeliverable f p Ctx.regs fun _ _ _ => rfl, fun l hl => ⟨_, launchOf_undeliverable f p hl, fun he => ?_, fun he => ?_⟩⟩
    · rw [Launch.firstErr, if_pos he]
      exact ⟨rfl, bits_einfo_cause _ _, bits_einfo_tid⟩
    · rw [Launch.firstErr, if_neg he]
      exact ⟨rfl, rfl⟩
  · intro trap rest go hs
    have hgo : go = .next (trapHere f s) := exec_trapEntry_me f hs
    rw [hgo]
    refine ⟨fun h => congrArg _ (trapHere_of_mid h), fun hq hr => ⟨fun hu hf => congrArg _ ?_, fun hu hf => congrArg _ ?_, fun h =>
      ⟨fun hf => congrArg _ ?_, fun hf => congrArg _ ?_⟩⟩⟩
    · exact trapHere_of_due hs hq hr ((dueFault_of_user hu).trans hf)
    · obtain ⟨g, hg, hne⟩ := hf
      exact trapHere_of_other hs hq hr ((dueFault_of_user hu).trans hg) hne
    · exact trapHere_of_fetch hs hq hr (dueFault_of_none h) hf
    · exact trapHere_of_none hs hq hr (dueFault_of_none h) hf

end Sys2Proof.Machine
end


section
/-! PROOF. Queue slots (R171 to R173) and management registers (R172, R215, R364, R389 to R391). -/

namespace Sys2Proof.Machine

/-! ### Queue slots -/

section Slots
variable {d q : Nat} (hd : d < 8) (hq : q < 32)
include hd hq

theorem slotAt_modSlot (f : QSlot → QSlot) (s : State) : slotAt (modSlot d q f s) d q = f (slotAt s d q) := by
  unfold slotAt modSlot
  rw [dieOf_modDie_same hd]
  exact vget_vmod_same _ _ _ hq

theorem exec_qmapMap_eq (x : Word) (s : State) :
    exec (.qmapMap d q x) s = .next (mapSlot d q (bit x 62) (qmapHdr x) (unmapSlot d q s)) := by
  rw [exec_qmapMap, execQmapMap, if_neg (by simp [hd, hq])]

theorem exec_qmapUnmap_eq (s : State) : exec (.qmapUnmap d q) s = .next (unmapSlot d q s) := by
  rw [exec_qmapUnmap, execQmapUnmap, if_neg (by simp [hd, hq])]

theorem exec_notify_eq {s : State} (h : halted s = false) (x : Word) : exec (.notify d q x) s = .next (notifySlot d q x s) := by
  rw [exec_notify, execNotify, if_neg (by simp [h, hd, hq])]

end Slots

theorem exec_notify_halted {d q : Nat} {s : State} (h : halted s = true) (x : Word) : exec (.notify d q x) s = .next s := by
  rw [exec_notify, execNotify, if_pos (by simp [h])]

section Unmap
variable {d q : Nat} {s : State}

theorem unmapSlot_of_unmapped (h : (slotAt s d q).mapped = false) : unmapSlot d q s = s := by
  rw [unmapSlot]
  exact if_neg (by simp [h])

theorem unmapSlot_of_mapped (h : (slotAt s d q).mapped = true) : unmapSlot d q s =
    headerMax d (slotAt s d q).hdr (slotAt s d q).reg (modSlot d q (fun y => { y with mapped := false, cand := none, head := none }) s) := by
  rw [unmapSlot]
  exact if_pos h

/-- The register of a slot that is mapped on a header whose NOTIFY word is `n` (R173). -/
def mapReg (v : QSlot) (hdr n : Word) : Word := if v.ever && v.hdr = hdr then (if n.ult v.reg then v.reg else n) else n

theorem mapReg_eq (v : QSlot) (hdr n : Word) : mapReg v hdr n = if v.ever = true ∧ v.hdr = hdr ∧ n.ult v.reg = true then v.reg else n := by
  unfold mapReg
  by_cases h : v.ever = true ∧ v.hdr = hdr <;> simp [← and_assoc, h]

theorem mapReg_zero (v : QSlot) (hdr : Word) : mapReg v hdr 0 = if v.ever = true ∧ v.hdr = hdr then v.reg else 0 := by
  have hz : (if (0 : Word).ult v.reg then v.reg else 0) = v.reg := by
    split
    · rfl
    · next h =>
      have hn : ¬ 0 < v.reg.toNat := by simpa [BitVec.ult] using h
      exact (BitVec.eq_of_toNat_eq (by simpa using Nat.eq_zero_of_not_pos hn)).symm
  unfold mapReg
  rw [hz]
  simp

theorem mapSlot_ok {hdr : Word} {h : QueueHdr} (fw : Bool) (hr : readHdr s d hdr = .ok h) : mapSlot d q fw hdr s =
    modSlot d q (fun _ => { mapped := true, ever := true, fw, hdr, reg := mapReg (slotAt s d q) hdr (BitVec.ofNat 64 h.notify), cand := none
                            head := headLaunch (devTouch (queueAgent d (queueWorld s d hdr)) hdr 64 s) d hdr })
      (devTouch (queueAgent d (queueWorld s d hdr)) hdr 64 s) := by
  rw [mapSlot, hr]
  rfl

theorem mapSlot_error {hdr : Word} {f : FaultInfo} (fw : Bool) (hr : readHdr s d hdr = .error f) : ∃ t hd', mapSlot d q fw hdr s =
    modSlot d q (fun _ => { mapped := true, ever := true, fw, hdr, reg := mapReg (slotAt s d q) hdr 0, cand := none, head := hd' }) t := by
  refine ⟨errRecord d 0x03 f.cause [hdr, BitVec.ofNat 64 q] s, headLaunch (errRecord d 0x03 f.cause [hdr, BitVec.ofNat 64 q] s) d hdr, ?_⟩
  rw [mapSlot, hr]
  rfl

theorem headerMax_of_ok {w x : Word} {h : QueueHdr} {g : Seg} {gs : List Seg} (hr : readHdr s d w = .ok h)
    (hv : vaSegs s (queueAgent d (queueWorld s d w)).site (queueAgent d (queueWorld s d w)).world .read w 8 = .ok (g :: gs)) :
    headerMax d w x s = notifyLine g.addr (BitVec.ofNat 64 (max h.notify x.toNat))
      (devWrite (queueAgent d (queueWorld s d w)) w (leBytes 8 (max h.notify x.toNat)) s) := by
  unfold headerMax
  dsimp only
  rw [hr, hv]

theorem notifySlot_of_mapped (x : Word) (h : (slotAt s d q).mapped = true) : notifySlot d q x s = modSlot d q (fun y => y.notify x) s := by
  rw [notifySlot]
  exact if_pos h

theorem notifySlot_of_unmapped (x : Word) (h : (slotAt s d q).mapped = false) (he : (slotAt s d q).ever = true) :
    notifySlot d q x s = headerMax d (slotAt s d q).hdr x s := by
  rw [notifySlot]
  exact (if_neg (by simp [h])).trans (if_pos he)

theorem notifySlot_of_never (x : Word) (h : (slotAt s d q).mapped = false) (he : (slotAt s d q).ever = false) :
    notifySlot d q x s = errRecord d 0x03 0 [BitVec.ofNat 64 q, x] s := by
  rw [notifySlot]
  exact (if_neg (by simp [h])).trans (if_neg (by simp [he]))

end Unmap

theorem reg_notify (y : QSlot) (x : Word) : (y.notify x).reg = if y.reg.ult x then x else y.reg := by
  unfold QSlot.notify
  split <;> rfl

theorem hdr_notify (y : QSlot) (x : Word) : (y.notify x).hdr = y.hdr := by
  unfold QSlot.notify
  split <;> rfl

/-! ### `DMCFG` -/

/-- `DMCFG` keeps eight bits; of them bit 4 falls for one value of bits 4 and 3, and bit 0 rises where bits 2 to 0 are 0 (R215). -/
theorem dmcfgValue_eq (x : Word) : ∃ m o : Word, m ∈ [BitVec.allOnes 64, ~~~(0x10 : Word)] ∧ o ∈ [(0 : Word), 1] ∧
    dmcfgValue x = ((x &&& 0xFF) &&& m) ||| o := by
  unfold dmcfgValue
  dsimp only
  by_cases h : bits (x &&& 0xFF) 3 2 = 3
  · rw [if_pos h]
    by_cases hz : bits ((x &&& 0xFF) &&& ~~~(0x10 : Word)) 0 3 = 0
    · exact ⟨~~~(0x10 : Word), 1, by simp, by simp, by rw [if_pos hz]⟩
    · exact ⟨~~~(0x10 : Word), 0, by simp, by simp, by rw [if_neg hz]; exact BitVec.or_zero.symm⟩
  · rw [if_neg h]
    by_cases hz : bits (x &&& 0xFF) 0 3 = 0
    · exact ⟨BitVec.allOnes 64, 1, by simp, by simp, by rw [if_pos hz, BitVec.and_allOnes]⟩
    · exact ⟨BitVec.allOnes 64, 0, by simp, by simp, by rw [if_neg hz, BitVec.and_allOnes]; exact BitVec.or_zero.symm⟩

theorem dmcfgValue_lt (x : Word) : (dmcfgValue x).toNat < 256 := by
  obtain ⟨m, o, -, ho, hv⟩ := dmcfgValue_eq x
  have h1 : (x &&& 0xFF &&& m).toNat < 2 ^ 8 := by
    rw [BitVec.toNat_and, BitVec.toNat_and]
    exact lt_of_le_of_lt (Nat.and_le_left.trans Nat.and_le_right) (by decide)
  have h2 : o.toNat < 2 ^ 8 := by
    simp only [List.mem_cons, List.not_mem_nil, or_false] at ho
    rcases ho with rfl | rfl <;> decide
  rw [hv, BitVec.toNat_or]
  exact Nat.or_lt_two_pow h1 h2

theorem getLsbD_dmcfgValue (x : Word) {i : Nat} (hi : i < 8) (h0 : i ≠ 0) (h4 : i ≠ 4) : (dmcfgValue x).getLsbD i = x.getLsbD i := by
  obtain ⟨m, o, hm, ho, hv⟩ := dmcfgValue_eq x
  have hff : (0xFF : Word).getLsbD i = true := (by decide : ∀ i < 8, (0xFF : Word).getLsbD i = true) i hi
  have hmi : m.getLsbD i = true := by
    simp only [List.mem_cons, List.not_mem_nil, or_false] at hm
    rcases hm with rfl | rfl
    · exact (by decide : ∀ i < 8, (BitVec.allOnes 64).getLsbD i = true) i hi
    · exact (by decide : ∀ i < 8, i ≠ 4 → (~~~(0x10 : Word)).getLsbD i = true) i hi h4
  have hoi : o.getLsbD i = false := by
    simp only [List.mem_cons, List.not_mem_nil, or_false] at ho
    rcases ho with rfl | rfl
    · exact (by decide : ∀ i < 8, (0 : Word).getLsbD i = false) i hi
    · exact (by decide : ∀ i < 8, i ≠ 0 → (1 : Word).getLsbD i = false) i hi h0
  rw [hv, BitVec.getLsbD_or, BitVec.getLsbD_and, BitVec.getLsbD_and, hff, hmi, hoi]
  simp

theorem bits_or_one_ne_zero (z : Word) : bits (z ||| 1) 0 3 ≠ 0 := by
  have hodd : (z.toNat ||| 1) % 2 = 1 := by
    have hb : (z.toNat ||| 1).testBit 0 = true := by simp
    exact of_decide_eq_true ((Nat.testBit_zero _).symm.trans hb)
  rw [bits, fld, BitVec.toNat_or]
  show (z.toNat ||| 1) / 2 ^ 0 % 2 ^ 3 ≠ 0
  omega

/-- `DMCFG` never names no home slice (R215). -/
theorem bits_dmcfgValue_ne_zero (x : Word) : bits (dmcfgValue x) 0 3 ≠ 0 := by
  unfold dmcfgValue
  extract_lets y z
  split
  · exact bits_or_one_ne_zero z
  · next h => exact h

section Dmcfg
variable {d : Nat} {s : State}

theorem exec_dmcfgWrite_eq (hd : d < 8) (x : Word) : exec (.dmcfgWrite d x) s = .next (writeDmcfg d x s).1 := by
  rw [exec_dmcfgWrite, execDmcfgWrite, if_neg (by simp [hd])]

theorem exec_vatwWrite_eq (hd : d < 8) (x : Word) : exec (.vatwWrite d x) s = .next (writeVatw d x s).1 := by
  rw [exec_vatwWrite, execVatwWrite, if_neg (by simp [hd])]

theorem writeDmcfg_locked (x : Word) (h : bit (dieOf s d).dmcfg 7 = true) : writeDmcfg d x s = (s, false) := by
  rw [writeDmcfg]
  exact if_pos h

variable (x : Word) (h : bit (dieOf s d).dmcfg 7 = false)
include h

theorem writeDmcfg_busy (hv : bits (dmcfgValue x) 0 5 ≠ bits (dieOf s d).dmcfg 0 5) (hb : grantHeld s d = true ∨ dirtyHeld s d = true) :
    writeDmcfg d x s = (errRecord d 0x05 0 [0, x] s, false) := by
  rw [writeDmcfg]
  exact (if_neg (by simp [h])).trans (if_pos (by simp [hv, hb]))

theorem writeDmcfg_free (hf : bits (dmcfgValue x) 0 5 = bits (dieOf s d).dmcfg 0 5 ∨ ¬ (grantHeld s d = true ∨ dirtyHeld s d = true)) :
    writeDmcfg d x s = (modDie d (fun y => { y with dmcfg := dmcfgValue x }) s, true) := by
  have hn : ¬ (decide (bits (dmcfgValue x) 0 5 ≠ bits (dieOf s d).dmcfg 0 5) && (grantHeld s d || dirtyHeld s d)) = true := by
    rw [Bool.and_eq_true, decide_eq_true_eq, Bool.or_eq_true]
    exact fun ⟨hv, hb⟩ => hf.elim hv fun hf => hf hb
  rw [writeDmcfg]
  exact (if_neg (by simp [h])).trans (if_neg hn)

end Dmcfg

/-! ### `VATW` and the rest -/

/-- A bank of the die is owned whose vat a value of `VATW` would move to the other world (R391). -/
def vatHeld (d : Nat) (x : Word) (s : State) : Bool :=
  s.banks.any fun b => b.1 / 1024 = d && b.2 ≠ 0 && bit (x ^^^ (dieOf s d).vatw) (b.1 / 16 % 64)

theorem vatHeld_iff {d : Nat} {x : Word} {s : State} : vatHeld d x s = true ↔
    ∃ b ∈ s.banks, b.1 / 1024 = d ∧ b.2 ≠ 0 ∧ bit (x ^^^ (dieOf s d).vatw) (b.1 / 16 % 64) = true := by
  simp [vatHeld, and_assoc]

theorem writeVatw_held {d : Nat} {x : Word} {s : State} (h : vatHeld d x s = true) : writeVatw d x s = (errRecord d 0x05 0 [0x18, x] s, false) := by
  rw [writeVatw]
  exact if_pos h

theorem writeVatw_free {d : Nat} {x : Word} {s : State} (h : ¬ vatHeld d x s = true) :
    writeVatw d x s = (modDie d (fun y => { y with vatw := x }) s, true) := by
  rw [writeVatw]
  exact if_neg h

theorem exec_managementRegisterWrite_none {a : Nat} (h : regAt a = none) (x : Word) (s : State) :
    exec (.managementRegisterWrite a x) s = .next s := by
  rw [exec_managementRegisterWrite, execManagementRegisterWrite, h]

theorem exec_managementRegisterWrite_some {a : Nat} {r : MReg} (h : regAt a = some r) (x : Word) (s : State) :
    exec (.managementRegisterWrite a x) s = .next (regWrite r x s).1 := by
  rw [exec_managementRegisterWrite, execManagementRegisterWrite, h]

/-- The bits that a register of the module or of a die stores (R316, R391). -/
def storedBits : MReg → Word
  | .portw => 0xFFFFFFFF
  | .crw => 0xF
  | .trt0 _ | .trt1 _ => 0x8000007FFFFFF000
  | _ => BitVec.allOnes 64

/-- What those registers read after a write. -/
theorem regRead_regWrite {d : Nat} (hd : d < 8) (x : Word) (s : State) {r : MReg} (hr : r ∈ [MReg.rotep, .portw, .crw, .trt0 d, .trt1 d]) :
    regRead (regWrite r x s).1 r = x &&& storedBits r ∧ (regWrite r x s).2 = true := by
  simp only [List.mem_cons, List.not_mem_nil, or_false] at hr
  rcases hr with rfl | rfl | rfl | rfl | rfl
  · exact ⟨BitVec.and_allOnes.symm, rfl⟩
  · exact ⟨rfl, rfl⟩
  · exact ⟨rfl, rfl⟩
  · exact ⟨congrArg Die.trt0 (dieOf_modDie_same hd (fun y => { y with trt0 := x &&& 0x8000007FFFFFF000 }) s), rfl⟩
  · exact ⟨congrArg Die.trt1 (dieOf_modDie_same hd (fun y => { y with trt1 := x &&& 0x8000007FFFFFF000 }) s), rfl⟩

theorem getLsbD_of_and {x m : Word} {i : Nat} (h : (x &&& m).getLsbD i = true) : x.getLsbD i = true := by
  rw [BitVec.getLsbD_and, Bool.and_eq_true] at h
  exact h.1

theorem regWrite_mpos_locked {s : State} (x : Word) (h : bit s.fab.mpos 63 = true) : regWrite .mpos x s = (s, false) := if_pos h

theorem regWrite_fabcfg_locked {s : State} (x : Word) (h : bit s.fab.fabcfg 63 = true) : regWrite .fabcfg x s = (s, false) := if_pos h

/-- An unlocked `MPOS` keeps the module's place. -/
theorem getLsbD_regRead_mpos {s : State} (x : Word) (h : bit s.fab.mpos 63 = false) {i : Nat} (hi : i < 30) :
    (regRead (regWrite .mpos x s).1 .mpos).getLsbD i = x.getLsbD i := by
  have hw : regWrite .mpos x s = (modFab (fun f => { f with mpos := x &&& 0x800000003FFFFFFF }) s, true) := if_neg (by simp [h])
  have hm : (0x800000003FFFFFFF : Word).getLsbD i = true := (by decide : ∀ i < 30, (0x800000003FFFFFFF : Word).getLsbD i = true) i hi
  rw [hw]
  show (x &&& 0x800000003FFFFFFF).getLsbD i = x.getLsbD i
  rw [BitVec.getLsbD_and, hm, Bool.and_true]

/-- Settles O53: the map, unmap and notify events of a slot, and the writes of each register. -/
theorem queueSlotsAndRegisters : Obligations.QueueSlotsAndRegisters := by
  unfold Obligations.QueueSlotsAndRegisters
  refine ⟨fun s d q x hd hq => ?_, fun s d a x hd => ?_⟩
  · refine ⟨fun hv => ⟨fun h hr => ?_, fun f hr => ?_⟩, fun hv => ?_, fun hv => ?_, fun hv => ?_, fun h w g gs hr hs => headerMax_of_ok hr hs,
      fun hh => exec_notify_halted hh x, fun hh => ⟨fun hv => ?_, fun hv he => ?_, fun hv he => ?_⟩⟩
    · rw [exec_qmapMap_eq hd hq, unmapSlot_of_unmapped hv, mapSlot_ok _ hr, mapReg_eq]
    · obtain ⟨t, hd', ht⟩ := mapSlot_error (q := q) (bit x 62) hr
      refine ⟨_, exec_qmapMap_eq hd hq x s, ?_⟩
      rw [unmapSlot_of_unmapped hv, ht, slotAt_modSlot hd hq, mapReg_zero]
      exact ⟨rfl, rfl, rfl⟩
    · rw [exec_qmapMap_eq hd hq]
    · rw [exec_qmapUnmap_eq hd hq, unmapSlot_of_mapped hv]
    · rw [exec_qmapUnmap_eq hd hq, unmapSlot_of_unmapped hv]
    · refine ⟨_, (exec_notify_eq hd hq hh x).trans (congrArg _ (notifySlot_of_mapped x hv)), ?_, ?_, rfl, rfl, rfl⟩
      · rw [slotAt_modSlot hd hq, reg_notify]
      · rw [slotAt_modSlot hd hq, hdr_notify]
    · rw [exec_notify_eq hd hq hh, notifySlot_of_unmapped x hv he]
    · rw [exec_notify_eq hd hq hh, notifySlot_of_never x hv he]
  · refine ⟨fun hl => ?_, fun hl hv hb => ?_, fun hl hf => ?_, dmcfgValue_lt x, fun i hi h0 h4 => getLsbD_dmcfgValue x hi h0 h4,
      bits_dmcfgValue_ne_zero x, fun hb => ?_, fun hb => ?_, fun h => exec_managementRegisterWrite_none h x s,
      fun r h => exec_managementRegisterWrite_some h x s, fun r hr => ?_, rfl, fun e => rfl, regWrite_mpos_locked x, regWrite_fabcfg_locked x,
      fun h i hi => getLsbD_regRead_mpos x h hi, fun q hq => rfl⟩
    · rw [exec_dmcfgWrite_eq hd, writeDmcfg_locked x hl]
    · rw [exec_dmcfgWrite_eq hd, writeDmcfg_busy x hl hv hb]
    · rw [exec_dmcfgWrite_eq hd, writeDmcfg_free x hl hf]
    · rw [exec_vatwWrite_eq hd, writeVatw_held (vatHeld_iff.mpr hb)]
    · rw [exec_vatwWrite_eq hd, writeVatw_free (mt vatHeld_iff.mp hb)]
    · obtain ⟨hread, htaken⟩ := regRead_regWrite hd x s hr
      exact ⟨_, fun i _ hy => getLsbD_of_and hy, hread, htaken⟩

end Sys2Proof.Machine
end


section
/-! PROOF. Slices, pre-emption requests, saves and restores (R150, R154, R175, R178 to R180, R321 to R326). -/

namespace Sys2Proof.Machine

/-! ### The end of a slice -/

theorem closeGroup_yield {s : State} (h : s.me.sq.late = [.yield]) :
    closeGroup s = sliceEnds (endGroup (modSq (fun q => { q with late := [] }) s)).me.uid (endGroup (modSq (fun q => { q with late := [] }) s)) := by
  rw [closeGroup, h]
  rfl

section Slice
variable {s : State} {u : Nat} {c : Ctx} (hc : findCtx u s = some c)
include hc

theorem sliceEnds_of_not_running (h : c.status ≠ .running) : sliceEnds u s = s := by
  rw [sliceEnds, hc]
  exact if_pos h

theorem sliceEnds_of_running (h : c.status = .running) : sliceEnds u s =
    if !keepsSlot (modCtx u (fun x => x.formPri x.bpri) s) c && (wanted (modCtx u (fun x => x.formPri x.bpri) s) (c.formPri c.bpri) ||
        gangAsked (modCtx u (fun x => x.formPri x.bpri) s) c.lnch) then
      askPreempt u (modCtx u (fun x => x.formPri x.bpri) s)
    else modCtx u (fun x => x.formPri x.bpri) s := by
  rw [sliceEnds, hc]
  exact if_neg (not_not.mpr h)

end Slice

theorem keepsSlot_iff (s : State) (c : Ctx) : keepsSlot s c = true ↔ ∃ l, launchOf s c.lnch = some l ∧ l.gang = false ∧
    ∃ x ∈ edgesOf s, x.e.uid = c.uid ∧ ∃ u ∈ (ownersOf s x.e).threads,
      u / 2 ^ 24 = l.num ∧ u % 2 ^ 24 < l.n ∧ u % 2 ^ 24 ∉ l.bound ∧ u % 2 ^ 24 ∉ l.ended := by
  unfold keepsSlot
  cases launchOf s c.lnch with
  | none => simp
  | some l => simp [and_assoc]

theorem gangAsked_iff (s : State) (n : Nat) : gangAsked s n = true ↔ ∃ l, launchOf s n = some l ∧ l.gang = true ∧
    ((∃ x ∈ bound s, x.lnch = n ∧ x.preReq = true) ∨
      (∃ d ∈ s.dies.toList, ∃ r ∈ d.binds, r.lnch = n ∧ r.asked = true ∧ r.killed = false) ∨
      ∃ v ∈ s.saved, v.ctx.lnch = n ∧ ∀ d ∈ s.dies.toList, ∀ r ∈ d.binds, ¬(r.lnch = n ∧ r.tid = v.ctx.tid)) := by
  unfold gangAsked
  cases launchOf s n with
  | none => simp
  | some l =>
    have hbinds (p : BindRec → Bool) : (s.dies.toList.any fun d => d.binds.any p) = true ↔
        ∃ d ∈ s.dies.toList, ∃ r ∈ d.binds, p r = true := by
      simp only [List.any_eq_true]
    have hnone (p : BindRec → Bool) : (!(s.dies.toList.any fun d => d.binds.any p)) = true ↔
        ∀ d ∈ s.dies.toList, ∀ r ∈ d.binds, ¬ p r = true := by
      simp only [Bool.not_eq_true', ← Bool.not_eq_true, hbinds]
      exact ⟨fun h d hd r hr hp => h ⟨d, hd, r, hr, hp⟩, fun h ⟨d, hd, r, hr, hp⟩ => h d hd r hr hp⟩
    simp only [Bool.and_eq_true, Bool.or_eq_true, hbinds, hnone, List.any_eq_true]
    simp [and_assoc, or_assoc]

theorem gangWaits_iff (s : State) (c : Ctx) : gangWaits s c = true ↔ ∃ l, launchOf s c.lnch = some l ∧ l.gang = true ∧
    ((∃ x ∈ bound s, x.lnch = c.lnch ∧ x.fresh = true ∧ x.status = .running) ∨
      ∃ d ∈ s.dies.toList, ∃ r ∈ d.binds, r.lnch = c.lnch ∧ r.killed = false) := by
  unfold gangWaits
  cases launchOf s c.lnch with
  | none => simp
  | some l =>
    simp only [Bool.and_eq_true, Bool.or_eq_true, List.any_eq_true]
    simp [and_assoc]

theorem findCtx_me (s : State) : findCtx s.me.uid s = some s.me := if_pos rfl

/-- A request to a context that belongs to no gang is one to the context (R179). -/
theorem askPreempt_of_no_gang {s : State} (h : ∀ l, launchOf s s.me.lnch = some l → l.gang = false) :
    askPreempt s.me.uid s = askOne s.me.uid s := by
  rw [askPreempt, findCtx_me]
  dsimp only
  split
  · next l hl => rw [if_neg (by simp [h l hl])]
  · rfl

theorem askOne_me {s : State} (hr : s.me.status = .running) :
    (askOne s.me.uid s).me = if s.me.preReq = true then s.me else { s.me with preReq := true, delayed := false } := by
  rw [askOne, findCtx_me]
  by_cases hp : s.me.preReq = true
  · simp [hp]
  · simp [hp, hr, modCtx]

/-! ### Pre-emption points -/

theorem dueFault_isNone_iff (s : State) : (dueFault s).isNone = true ↔ s.me.ctl.handler = true ∨ s.me.sq.faults = [] := by
  unfold dueFault
  cases s.me.ctl.handler <;> simp

theorem preemptPoint_iff (s : State) : preemptPoint s = true ↔ s.me.sq.queue = [] ∧ s.me.sq.rest = none ∧
    (s.me.ctl.handler = true ∨ s.me.sq.faults = []) ∧ fetchFault s = none ∧ s.me.fresh = false ∧ gangWaits s s.me = false ∧
    (s.me.sq.loops = [] ∨ s.me.ctl.handler = true ∨ s.me.stepped = true ∨ heldAtWait s = true) := by
  unfold preemptPoint
  rw [← dueFault_isNone_iff]
  simp [Seq.mid, and_assoc, or_assoc]

theorem delays_iff (s : State) : delays s = true ↔ s.me.fresh = true ∨
    (s.me.freshIt = true ∧ s.me.sq.loops ≠ [] ∧ s.me.ctl.handler = false ∧ heldAtWait s = false) := by
  simp [delays, and_assoc]

theorem noteDelay_of_delays {s : State} (hp : s.me.preReq = true) (hd : s.me.delayed = false) (hr : s.me.status = .running)
    (hl : delays s = true) :
    noteDelay s = modDie s.me.die (fun d => { d with slices := d.slices + 1 }) { s with me := { s.me with delayed := true } } := by
  rw [noteDelay, if_pos (by simp [hp, hd, hr, hl])]

theorem noteDelay_of_not {s : State} (h : s.me.preReq = false ∨ s.me.delayed = true ∨ ¬ delays s = true) : noteDelay s = s := by
  rw [noteDelay, if_neg]
  rcases h with h | h | h <;> simp [h]

/-! ### Saves -/

theorem saveVa_ne_zero (l t : Nat) : saveVa l t ≠ 0 := by
  unfold saveVa
  dsimp only
  split
  · decide
  · assumption

/-- A save area begins at a 4 KiB boundary (R326). -/
theorem saveVa_aligned (l t : Nat) : (saveVa l t).toNat % 4096 = 0 := by
  unfold saveVa
  dsimp only
  split
  · decide
  · have hlow : (Config.saveArea l t &&& 0xFFFFFFFFFFFFF000) &&& 0xFFF = 0 := by
      rw [BitVec.and_assoc]
      exact BitVec.and_zero
    have hmod := congrArg BitVec.toNat hlow
    rw [BitVec.toNat_and] at hmod
    exact (Nat.and_two_pow_sub_one_eq_mod _ 12).symm.trans hmod

section Save
variable {s : State}

/-- The state in which issue has stopped for a save (R322). -/
def stopped (s : State) : State := { s with me := { s.me with status := .saving } }

theorem engineIdle_stopped (s : State) : engineIdle (stopped s).me = engineIdle s.me := by
  unfold engineIdle
  rfl

theorem switchOut_of_not_point (hr : s.me.status = .running) (h : s.me.preReq = false ∨ preemptPoint s = false) : switchOut s = s := by
  rw [switchOut, hr]
  exact if_neg (by rcases h with h | h <;> simp [h])

theorem switchOut_of_point (hr : s.me.status = .running) (hp : s.me.preReq = true) (h : preemptPoint s = true) :
    switchOut s = finishSave (stopped s) := by
  rw [switchOut, hr]
  exact if_pos (by simp [hp, h])

theorem finishSave_of_busy (h : engineIdle s.me = false) : finishSave s = s := by
  rw [finishSave, if_neg (by simp [h])]

/-- The image of the context in issue (R175, R322). -/
def imageHere (s : State) : Saved := imageOf (schedEvent s) (schedEvent s).me

/-- The state in which that image is written. -/
def atSave (s : State) : State := { schedEvent s with fresh := s.fresh + 1 }

/-- The state once it is. -/
def imageWritten (s : State) : State := writeImage (imageHere s) (atSave s)

/-- The place of the context in issue is free, and its image stands with the saved ones. -/
def vacate (v : Saved) (s : State) : State := { s with me := Ctx.reset, saved := s.saved ++ [v] }

theorem finishSave_of_idle (h : engineIdle s.me = true) : finishSave s = vacate (imageHere s) (imageWritten s) := by
  rw [finishSave, if_pos h]
  rfl

theorem others_of_bare {s t : State} (h : t.bare = s.bare) : t.others = s.others := by
  have hothers := congrArg State.others h
  exact hothers

theorem bare_writeImage (v : Saved) (s : State) : (writeImage v s).bare = s.bare := by
  unfold writeImage
  exact bare_devWrite _ _ _ _

theorem imageWritten_others (s : State) : (imageWritten s).others = s.others := by
  have h := others_of_bare (bare_writeImage (imageHere s) (atSave s))
  exact h

/-- A thread with no bound context takes no turn. -/
theorem giveTurn_of_none {u : Nat} (hm : s.me.status = .free) (ho : ∀ c ∈ s.others, c.uid ≠ u) : giveTurn u s = s := by
  have hnone : s.others.find? (fun c => decide (c.uid = u)) = none := List.find?_eq_none.mpr fun c hc => by simp [ho c hc]
  rw [giveTurn, if_neg (by simp [hm]), hnone]

theorem giveTurn_vacate {t : State} {u : Nat} (v : Saved) (ho : ∀ c ∈ t.others, c.uid ≠ u) : giveTurn u (vacate v t) = vacate v t :=
  giveTurn_of_none rfl ho

theorem inTurn_of_me {f : State → State} (hs : s.me.status ≠ .free) : inTurn s.me.uid f s = giveTurn s.me.uid (f s) := by
  rw [inTurn, boundCtx_me hs, giveTurn_self rfl hs]
  rfl

theorem exec_preemptSave_of_running (hr : s.me.status = .running) :
    exec (.preemptSave s.me.uid) s = .next (giveTurn s.me.uid (switchOut s)) := by
  rw [exec_preemptSave, execPreemptSave, inTurn_of_me (by simp [hr])]

end Save

/-! ### Restores -/

/-- A context that takes a free place is the one in issue. -/
theorem placeCtx_of_free {s : State} (hf : s.me.status = .free) (c : Ctx) :
    placeCtx c s = { s with left := s.left.filter fun x => !(x.die = c.die && x.core = c.core && x.hctx = c.hctx), me := c } := if_pos hf

theorem bindPriority_me (p : Nat) (s : State) : bindPriority s.me.uid p s = { s with me := s.me.formPri p } := if_pos rfl

theorem bindPriority_placeCtx {s : State} (hf : s.me.status = .free) (c : Ctx) (p : Nat) :
    (bindPriority c.uid p (placeCtx c s)).me = c.formPri p ∧ (bindPriority c.uid p (placeCtx c s)).saved = s.saved := by
  have hplace := placeCtx_of_free hf c
  have hme : (placeCtx c s).me = c := by rw [hplace]
  have hprio := bindPriority_me p (placeCtx c s)
  rw [hme] at hprio
  rw [hprio, hplace]
  exact ⟨rfl, rfl⟩

/-- The commands of a restored context that have not begun come after those of its new core (R323). -/
def restoredCmds (s : State) (cmds : List Cmd) : List Cmd := cmds.zipIdx.map fun (x, i) => if x.begun then x else { x with seq := s.ids + i }

theorem restoredCmds_map (s : State) (cmds : List Cmd) :
    (restoredCmds s cmds).map (fun x => (x.tag, x.op)) = cmds.map fun x => (x.tag, x.op) := by
  have hkeeps : ((fun x : Cmd => (x.tag, x.op)) ∘ fun (x, i) => if x.begun then x else { x with seq := s.ids + i }) =
      (fun x : Cmd => (x.tag, x.op)) ∘ Prod.fst := by
    funext x
    dsimp only [Function.comp]
    split <;> rfl
  rw [restoredCmds, List.map_map, hkeeps, ← List.map_map, List.zipIdx_map_fst]

theorem restoreBind_saved {v : Saved} {die : Nat} {r : BindRec} {s : State} (hf : s.me.status = .free) :
    (restoreBind v die r s).saved = s.saved.filter fun x => decide (x.ctx.uid ≠ v.ctx.uid) :=
  (bindPriority_placeCtx (s := { s with saved := s.saved.filter _, ids := s.ids + 1 + _ }) hf _ r.psnap).2

/-- What a restore brings back is the image, on the core of the bind record (R323). -/
theorem restoreBind_me (v : Saved) (die : Nat) (r : BindRec) {s : State} (hf : s.me.status = .free) : ∃ c : Ctx,
    (restoreBind v die r s).me = c.formPri r.psnap ∧ c.status = .running ∧ c.regs = v.ctx.regs ∧ c.ctl = v.ctx.ctl ∧
      c.sq = { v.ctx.sq with cmds := restoredCmds s v.ctx.sq.cmds } ∧ c.bpri = v.ctx.bpri ∧ c.ipri = v.ctx.ipri ∧ c.core = r.core ∧
      c.hctx = r.hctx ∧ c.fresh = true :=
  ⟨_, (bindPriority_placeCtx (s := { s with saved := s.saved.filter _, ids := s.ids + 1 + _ }) hf _ r.psnap).1,
    rfl, rfl, rfl, rfl, rfl, rfl, rfl, rfl, rfl⟩

/-- Settles O56: the lemmas above, each for one event. -/
theorem slicesAndSaves : Obligations.SlicesAndSaves := by
  unfold Obligations.SlicesAndSaves
  refine ⟨fun s => rfl, fun s h => closeGroup_yield h, fun s u => rfl, fun s u c hc => ⟨sliceEnds_of_not_running hc, fun hr hn => ?_,
    fun hr hk ha => ?_⟩, keepsSlot_iff, gangAsked_iff, fun c p => ⟨rfl, decide_eq_true_iff⟩, fun s hr hg => ?_,
    fun s => ⟨fun hp hd hr hl => ?_, fun h => ?_⟩, preemptPoint_iff, gangWaits_iff, fun s hr h => ?_, fun s hr hp hpt hi ho => ?_,
    fun s hr hp hpt hi ho => ?_, fun s v die r hf => ?_⟩
  · rw [sliceEnds_of_running hc hr, if_neg]
    rcases hn with hk | ha
    · simp [hk]
    · simp only [Bool.and_eq_true, Bool.or_eq_true]
      exact fun h => ha h.2
  · rw [sliceEnds_of_running hc hr, if_pos]
    simp only [Bool.and_eq_true, Bool.or_eq_true, hk]
    exact ⟨rfl, ha⟩
  · rw [askPreempt_of_no_gang hg, askOne_me hr]
  · exact noteDelay_of_delays hp hd hr ((delays_iff s).mpr hl)
  · exact noteDelay_of_not (h.imp_right (Or.imp_right (mt (delays_iff s).mp)))
  · rw [exec_preemptSave_of_running hr, switchOut_of_not_point hr h, giveTurn_self rfl (by simp [hr])]
  · refine ⟨imageHere (stopped s), saveVa_aligned _ _, saveVa_ne_zero _ _, ?_, ?_, ?_, ?_, ?_, ?_, ?_⟩
    · rfl
    · rfl
    · rfl
    · rfl
    · rfl
    · rfl
    have hothers : ∀ c ∈ (imageWritten (stopped s)).others, c.uid ≠ s.me.uid := by
      rw [imageWritten_others]
      exact ho
    rw [exec_preemptSave_of_running hr, switchOut_of_point hr hp hpt, finishSave_of_idle ((engineIdle_stopped s).trans hi)]
    rw [giveTurn_vacate _ hothers]
    rfl
  · rw [exec_preemptSave_of_running hr, switchOut_of_point hr hp hpt, finishSave_of_busy ((engineIdle_stopped s).trans hi)]
    exact congrArg Host.Outcome.next (giveTurn_self rfl nofun)
  · obtain ⟨c, hme, hstatus, hregs, hctl, hsq, hbpri, hipri, hcore, hhctx, hfresh⟩ := restoreBind_me v die r hf
    dsimp only
    rw [hme, restoreBind_saved hf]
    refine ⟨hstatus, hregs, hctl, ?_, ?_, hbpri, ?_, hcore, hhctx, hfresh, fun x hx => of_decide_eq_true (List.mem_filter.mp hx).2⟩
    · exact hsq.trans (by rw [Ctx.formPri, hsq])
    · rw [show (c.formPri r.psnap).sq = c.sq from rfl, hsq]
      exact restoredCmds_map s _
    · exact congrArg (max r.psnap) hipri

end Sys2Proof.Machine
end


section
/-! SUPPORT. What changes of contexts, of thread groups and of channels leave alone, and the tallies of a launch (R169): how many of its
threads TRIGD and EXITD count, and which have ended. -/

namespace Sys2Proof.Machine

/-! ### Operations that change contexts only -/

/-- The state without its contexts. -/
def State.hollow (s : State) : State := { s with me := Ctx.reset, others := [], saved := [] }

theorem launches_of_hollow {s t : State} (h : t.hollow = s.hollow) : t.launches = s.launches := by
  have hlaunches := congrArg State.launches h
  exact hlaunches

theorem hollow_modCtx (u : Nat) (f : Ctx → Ctx) (s : State) : (modCtx u f s).hollow = s.hollow := by
  unfold modCtx
  split <;> rfl

theorem hollow_modSqOf (u : Nat) (f : Seq → Seq) (s : State) : (modSqOf u f s).hollow = s.hollow := hollow_modCtx _ _ _

theorem hollow_recordFault (u : Nat) (f : FaultInfo) (s : State) : (recordFault u f s).hollow = s.hollow := by
  unfold recordFault
  split
  · rfl
  · exact hollow_modSqOf _ _ _

theorem hollow_modCmd (u tag : Nat) (f : Cmd → Cmd) (s : State) : (modCmd u tag f s).hollow = s.hollow := hollow_modSqOf _ _ _

theorem hollow_poisonTileOf (u t : Nat) (s : State) : (poisonTileOf u t s).hollow = s.hollow := hollow_modCtx _ _ _

theorem hollow_poisonDest (u : Nat) (op : CmdOp) (s : State) : (poisonDest u op s).hollow = s.hollow := by
  unfold poisonDest
  split
  iterate 4 exact hollow_poisonTileOf _ _ _
  · dsimp only
    split
    · exact (hollow_poisonTileOf _ _ _).trans (hollow_poisonTileOf _ _ _)
    · exact hollow_poisonTileOf _ _ _
  · exact hollow_modSqOf _ _ _
  · rfl

theorem hollow_failCmd (u : Nat) (x : Cmd) (f : FaultInfo) (s : State) : (failCmd u x f s).hollow = s.hollow := by
  unfold failCmd
  split
  · rfl
  · exact (hollow_modCmd _ _ _ _).trans (hollow_poisonDest _ _ _)

theorem hollow_doneCmd (u : Nat) (x : Cmd) (n : Nat) (s : State) : (doneCmd u x n s).hollow = s.hollow := hollow_modCmd _ _ _ _

theorem hollow_failRecv (f : FaultInfo) (o : ChanOp) (s : State) : (failRecv f o s).hollow = s.hollow := hollow_modSqOf _ _ _

theorem hollow_inherit (s : State) : (inherit s).hollow = s.hollow := rfl

/-! ### Thread groups -/

/-- The state without the dies and the tokens on their way. -/
def State.ungrouped (s : State) : State := { s with dies := State.reset.dies, tokens := [] }

theorem ungrouped_modGroup (d e : Nat) (f : Group → Group) (s : State) : (modGroup d e f s).ungrouped = s.ungrouped := rfl

theorem ungrouped_endPhase (d e : Nat) (s : State) : (endPhase d e s).ungrouped = s.ungrouped := by
  unfold endPhase
  split
  · rfl
  · split <;> rfl

theorem ungrouped_leaveGroup (d e tid : Nat) (s : State) : (leaveGroup d e tid s).ungrouped = s.ungrouped := by
  unfold leaveGroup
  dsimp only
  split
  · rfl
  · split
    · rfl
    · exact (ungrouped_endPhase _ _ _).trans rfl

theorem ungrouped_leaveAll (c : Ctx) (s : State) : (leaveAll c s).ungrouped = s.ungrouped := by
  refine foldl_field_eq State.ungrouped _ (fun s x => ?_) c.groups s
  dsimp only
  split
  · split
    · exact ungrouped_leaveGroup _ _ _ _
    · rfl
  · rfl

theorem launches_of_ungrouped {s t : State} (h : t.ungrouped = s.ungrouped) : t.launches = s.launches := by
  have hlaunches := congrArg State.launches h
  exact hlaunches

/-! ### Finding a context -/

theorem findCtx_congr {s t : State} (hm : t.me = s.me) (ho : t.others = s.others) (hs : t.saved = s.saved) (u : Nat) :
    findCtx u t = findCtx u s := by
  rw [findCtx, findCtx, hm, ho, hs]

theorem findCtx_of_ungrouped {s t : State} (h : t.ungrouped = s.ungrouped) (u : Nat) : findCtx u t = findCtx u s := by
  have hm := congrArg State.me h
  have ho := congrArg State.others h
  have hs := congrArg State.saved h
  exact findCtx_congr hm ho hs u

theorem findCtx_of_bare {s t : State} (h : t.bare = s.bare) (u : Nat) : findCtx u t = findCtx u s := by
  have hm := congrArg State.me h
  have ho := congrArg State.others h
  have hs := congrArg State.saved h
  exact findCtx_congr hm ho hs u

theorem uid_of_findCtx {s : State} {u : Nat} {x : Ctx} (h : findCtx u s = some x) : x.uid = u := by
  unfold findCtx at h
  split at h
  · next hu =>
    cases h
    exact hu
  · split at h
    · next c hc =>
      cases h
      simpa using List.find?_some hc
    · obtain ⟨v, hv, rfl⟩ := Option.map_eq_some_iff.mp h
      simpa using List.find?_some hv

/-- A change that keeps threads' names is found where the thread was. -/
theorem findCtx_modCtx {f : Ctx → Ctx} (hf : ∀ c, (f c).uid = c.uid) (u : Nat) (s : State) : findCtx u (modCtx u f s) = (findCtx u s).map f := by
  unfold modCtx
  split
  · next hu => simp [findCtx, hf, hu]
  · next hu =>
    have hothers : (s.others.map fun c => if c.uid = u then f c else c).find? (fun c => decide (c.uid = u)) =
        (s.others.find? fun c => decide (c.uid = u)).map f := by
      rw [List.find?_map]
      have hkeeps : ((fun c : Ctx => decide (c.uid = u)) ∘ fun c => if c.uid = u then f c else c) = fun c => decide (c.uid = u) := by
        funext c
        dsimp only [Function.comp]
        split
        · rw [hf]
        · rfl
      rw [hkeeps]
      refine Option.map_congr fun c hc => if_pos ?_
      simpa using List.find?_some hc
    have hsaved : (s.saved.map fun v => if v.ctx.uid = u then { v with ctx := f v.ctx } else v).find? (fun v => decide (v.ctx.uid = u)) =
        (s.saved.find? fun v => decide (v.ctx.uid = u)).map fun v => { v with ctx := f v.ctx } := by
      rw [List.find?_map]
      have hkeeps : ((fun v : Saved => decide (v.ctx.uid = u)) ∘ fun v => if v.ctx.uid = u then { v with ctx := f v.ctx } else v) =
          fun v => decide (v.ctx.uid = u) := by
        funext v
        dsimp only [Function.comp]
        split
        · simp only [hf]
        · rfl
      rw [hkeeps]
      refine Option.map_congr fun v hv => if_pos ?_
      simpa using List.find?_some hv
    simp only [findCtx, if_neg hu]
    rw [hothers, hsaved]
    cases s.others.find? fun c => decide (c.uid = u) <;> simp [Function.comp_def]

/-! ### Channels (R356, R360) -/

theorem endRed_launches (r : Reduction) (f : Option FaultInfo) (n : Nat) (s : State) : (endRed r f n s).launches = s.launches := by
  refine foldl_field_eq State.launches _ (fun s x => ?_) r.ins s
  split
  · rfl
  · split
    · exact launches_of_hollow (hollow_modCmd _ _ _ _)
    · exact launches_of_hollow (hollow_doneCmd _ _ _ _)

theorem failSends_launches (ch : Nat) (q : List ChanOp) (s : State) : (failSends ch q s).launches = s.launches := by
  refine foldl_field_eq State.launches _ (fun s o => ?_) q s
  split
  · split
    · exact endRed_launches _ _ _ _
    · rfl
  · split
    · exact launches_of_hollow (hollow_failCmd _ _ _ _)
    · rfl

theorem tellGone_launches (l : Nat) (e : ChanEnd) (s : State) : (tellGone l e s).launches = s.launches := by
  unfold tellGone
  split <;> rfl

theorem sendEndGone_launches (c : Chan) (s : State) : (sendEndGone c s).launches = s.launches :=
  foldl_field_eq State.launches _ (fun _ _ => launches_of_hollow (hollow_failRecv _ _ _)) _ s

theorem recvEndGone_launches (c : Chan) (s : State) : (recvEndGone c s).launches = s.launches := failSends_launches _ _ _

theorem releaseSnd_launches (c : Chan) (e : ChanEnd) (s : State) : (releaseSnd c e s).launches = s.launches :=
  (sendEndGone_launches _ _).trans ((tellGone_launches _ _ _).trans (failSends_launches _ _ _))

theorem releaseRcv_launches (c : Chan) (e : ChanEnd) (s : State) : (releaseRcv c e s).launches = s.launches :=
  (recvEndGone_launches _ _).trans (tellGone_launches _ _ _)

theorem releaseEnds_launches (l ch tid : Nat) (s : State) : (releaseEnds l ch tid s).launches = s.launches := by
  unfold releaseEnds
  extract_lets mine s1 s2
  have h1 : s1.launches = s.launches := by
    show (match chanOf s l ch with | some c => _ | none => s : State).launches = _
    split
    · split
      · split
        · exact releaseSnd_launches _ _ _
        · rfl
      · rfl
    · rfl
  have h2 : s2.launches = s1.launches := by
    show (match chanOf s1 l ch with | some c => _ | none => s1 : State).launches = _
    split
    · split
      · split
        · exact releaseRcv_launches _ _ _
        · rfl
      · rfl
    · rfl
  exact h2.trans h1

theorem releaseChans_launches (l tid : Nat) (s : State) : (releaseChans l tid s).launches = s.launches :=
  foldl_field_eq State.launches _ (fun _ _ => releaseEnds_launches _ _ _ _) _ s

/-! ### Arrive adds -/

theorem addCounter_launches (a n : Nat) (s : State) : (addCounter a n s).1.launches = s.launches := rfl

theorem arriveAt_launches (u l a : Nat) (s : State) : (arriveAt u l a s).launches = s.launches := by
  unfold arriveAt
  split
  · exact launches_of_hollow (hollow_recordFault _ _ _)
  · dsimp only
    split
    · exact (launches_of_hollow (hollow_recordFault _ _ _)).trans (addCounter_launches _ _ _)
    · exact addCounter_launches _ _ _

theorem retireArrive_launches (u l : Nat) (arr : Option Nat) (s : State) : (retireArrive u l arr s).launches = s.launches := by
  unfold retireArrive
  split
  · rfl
  · exact arriveAt_launches _ _ _ _

/-! ### Tallies -/

/-- TRIGD, EXITD and the threads that have ended (R169). -/
def Launch.tally (l : Launch) : Nat × Nat × List Nat := (l.trigd, l.exitd, l.ended)

/-- The tallies of a launch by number. -/
def tallyOf (s : State) (n : Nat) : Option (Nat × Nat × List Nat) := (launchOf s n).map Launch.tally

/-- The counts move nothing but STATE. -/
theorem advance_eq (l : Launch) : ∃ st, l.advance = { l with state := st } := by
  unfold Launch.advance
  dsimp only
  split
  · split <;> exact ⟨_, rfl⟩
  · split
    · exact ⟨_, rfl⟩
    · split <;> exact ⟨_, rfl⟩
  · split <;> exact ⟨_, rfl⟩
  · exact ⟨_, rfl⟩

theorem num_advance (l : Launch) : l.advance.num = l.num := by
  obtain ⟨st, h⟩ := advance_eq l
  rw [h]

theorem tally_advance (l : Launch) : l.advance.tally = l.tally := by
  obtain ⟨st, h⟩ := advance_eq l
  rw [h]
  rfl

theorem tallyOf_congr {s t : State} (h : t.launches = s.launches) (n : Nat) : tallyOf t n = tallyOf s n := by
  rw [tallyOf, tallyOf, launchOf_congr h]

theorem tallyOf_modLaunch {f : Launch → Launch} (hn : ∀ x, (f x).num = x.num) (ht : ∀ x, (f x).tally = x.tally) (l n : Nat) (s : State) :
    tallyOf (modLaunch l f s) n = tallyOf s n := by
  rw [tallyOf, launchOf_modLaunch hn, Option.map_map, tallyOf]
  refine Option.map_congr fun x _ => ?_
  dsimp only [Function.comp]
  split
  · exact ht x
  · rfl

theorem tallyOf_of_launchOf {s : State} {n : Nat} {l : Launch} (h : launchOf s n = some l) : tallyOf s n = some l.tally := by
  rw [tallyOf, h, Option.map_some]

theorem launchOf_of_tallyOf {s : State} {n a b : Nat} {c : List Nat} (h : tallyOf s n = some (a, b, c)) :
    ∃ m, launchOf s n = some m ∧ m.trigd = a ∧ m.exitd = b ∧ m.ended = c := by
  obtain ⟨m, hm, ht⟩ := Option.map_eq_some_iff.mp h
  exact ⟨m, hm, congrArg (·.1) ht, congrArg (·.2.1) ht, congrArg (·.2.2) ht⟩

/-- A tally that counts, with the status words written. -/
theorem tallyOf_counted {f : Launch → Launch} (hn : ∀ x, (f x).num = x.num) {s t : State} (hs : t.launches = s.launches) {n : Nat} {l : Launch}
    (h : launchOf s n = some l) : tallyOf (writeStat n (modLaunch n f t)) n = some (f l).tally := by
  refine tallyOf_of_launchOf ?_
  rw [launchOf_writeStat]
  exact launchOf_modLaunch_same hn ((launchOf_congr hs n).trans h)

theorem tallyOf_setErr (l code : Nat) (x : Word) (kill : Bool) (s : State) (n : Nat) : tallyOf (setErr l code x kill s) n = tallyOf s n := by
  refine (tallyOf_congr (writeStat_launches _ _) n).trans (tallyOf_modLaunch (fun y => ?_) (fun y => ?_) l n s)
  · dsimp only
    split <;> split <;> rfl
  · dsimp only
    split <;> split <;> rfl

theorem tallyOf_faultsToLaunch (u l tid : Nat) (s : State) (n : Nat) : tallyOf (faultsToLaunch u l tid s) n = tallyOf s n := by
  unfold faultsToLaunch
  split
  · rfl
  · exact (foldl_field_eq (tallyOf · n) _ (fun _ _ => tallyOf_setErr _ _ _ _ _ n) _ _).trans
      (tallyOf_congr (launches_of_hollow (hollow_modSqOf _ _ _)) n)

/-! ### What a launch frees when it has ended (R223) -/

theorem bare_emptyBank (u : PailBy) (b : Nat) (s : State) : (emptyBank u b s).bare = s.bare := by
  refine foldl_field_eq State.bare _ (fun s c => ?_) _ s
  exact (bare_errRecord _ _ _ _ _).trans rfl

theorem takeBank_launches (b : Nat) (l : Launch) (s : State) : (takeBank b l s).launches = s.launches := by
  unfold takeBank
  dsimp only
  split <;> rfl

theorem releaseBank_eq (u : PailBy) (b : Nat) (s : State) : releaseBank u false b s =
    match nextOwner (emptyBank u b s) b with
    | some l => takeBank b l (modLaunch l.num (fun x => { x with taken := x.taken ++ [b] }) (emptyBank u b s))
    | none => { emptyBank u b s with banks := setAt 0 (emptyBank u b s).banks b 0 } := rfl

theorem tallyOf_releaseBank (u : PailBy) (b : Nat) (s : State) (n : Nat) : tallyOf (releaseBank u false b s) n = tallyOf s n := by
  have hempty := tallyOf_congr (launches_of_bare (bare_emptyBank u b s)) n
  rw [releaseBank_eq]
  split
  · next l _ =>
    have htaken := tallyOf_modLaunch (f := fun x => { x with taken := x.taken ++ [b] }) (fun _ => rfl) (fun _ => rfl) l.num n (emptyBank u b s)
    exact (tallyOf_congr (takeBank_launches _ _ _) n).trans (htaken.trans hempty)
  · exact hempty

/-- The contexts with a slot. -/
def State.slots (s : State) : Ctx × List Ctx := (s.me, s.others)

theorem slots_of_bare {s t : State} (h : t.bare = s.bare) : t.slots = s.slots := by
  have hslots := congrArg State.slots h
  exact hslots

theorem slots_takeBank (b : Nat) (l : Launch) (s : State) : (takeBank b l s).slots = s.slots := by
  unfold takeBank
  dsimp only
  split <;> rfl

theorem slots_releaseBank (u : PailBy) (b : Nat) (s : State) : (releaseBank u false b s).slots = s.slots := by
  have hempty := slots_of_bare (bare_emptyBank u b s)
  rw [releaseBank_eq]
  split
  · exact (slots_takeBank _ _ _).trans hempty
  · exact hempty

/-- What a launch gives back beside its banks: pails, the buffers of its reductions, its receives, channels and windows. -/
def freeRest (l : Nat) (s : State) : State :=
  let s := (List.range 8).foldl (fun s d =>
    ((dieOf s d).pails.filter fun p => p.lnch = l).foldl (fun s p => freePailEntry d p.entry s) s) s
  let s := (s.reductions.filter fun r => r.lnch = l).foldl (fun s r =>
    r.held.foldl (fun s d => modDie d (fun y => { y with landing := y.landing - 1 }) s) s) s
  { s with
    dies := s.dies.map fun d => { d with recvs := d.recvs.filter fun b => b.lnch ≠ l }
    chans := s.chans.filter fun c => c.lnch ≠ l
    reductions := s.reductions.filter fun r => r.lnch ≠ l
    credSeq := s.credSeq.filter fun x => x.1 ≠ l
    fab := { s.fab with wins := s.fab.wins.filter fun w => w.lnch ≠ l } }

theorem freeLaunch_eq (l : Nat) (s : State) : freeLaunch l s =
    freeRest l ((s.banks.filter fun b => b.2 = l).foldl (fun s b => releaseBank (.thread none) false b.1 s) s) := rfl

/-- What that leaves alone: the contexts and the launches. -/
theorem freeRest_keeps {α : Type} (p : State → α)
    (hp : ∀ s d c r q f, p { s with dies := d, chans := c, reductions := r, credSeq := q, fab := f } = p s)
    (l : Nat) (s : State) : p (freeRest l s) = p s := by
  have hdie : ∀ (d : Nat) (f : Die → Die) (s : State), p (modDie d f s) = p s := fun d f s => hp s _ s.chans s.reductions s.credSeq s.fab
  have hred : ∀ (r : Reduction) (s : State), p (r.held.foldl (fun s d => modDie d (fun y => { y with landing := y.landing - 1 }) s) s) = p s :=
    fun r s => foldl_field_eq p _ (fun s d => hdie d _ s) r.held s
  unfold freeRest
  extract_lets s1 s2
  have h1 : p s1 = p s := foldl_field_eq p _ (fun s d => foldl_field_eq p _ (fun s x => hdie d _ s) _ s) _ s
  have h2 : p s2 = p s1 := foldl_field_eq p _ (fun s r => hred r s) _ s1
  exact (hp s2 _ _ _ _ _).trans (h2.trans h1)

theorem slots_freeLaunch (l : Nat) (s : State) : (freeLaunch l s).slots = s.slots := by
  rw [freeLaunch_eq, freeRest_keeps State.slots fun _ _ _ _ _ _ => rfl]
  exact foldl_field_eq State.slots _ (fun _ _ => slots_releaseBank _ _ _) _ s

theorem tallyOf_freeLaunch (l : Nat) (s : State) (n : Nat) : tallyOf (freeLaunch l s) n = tallyOf s n := by
  rw [freeLaunch_eq, freeRest_keeps (tallyOf · n) fun _ _ _ _ _ _ => rfl]
  exact foldl_field_eq (tallyOf · n) _ (fun _ _ => tallyOf_releaseBank _ _ _ n) _ s

theorem slots_endCheck (l : Nat) (s : State) : (endCheck l s).slots = s.slots := by
  unfold endCheck
  split
  · split
    · exact slots_freeLaunch _ _
    · rfl
  · rfl

theorem tallyOf_endCheck (l : Nat) (s : State) (n : Nat) : tallyOf (endCheck l s) n = tallyOf s n := by
  unfold endCheck
  split
  · split
    · exact tallyOf_freeLaunch _ _ _
    · rfl
  · rfl

/-! ### A thread without a slot -/

theorem boundCtx_of_slots {s t : State} (h : t.slots = s.slots) (u : Nat) : boundCtx t u = boundCtx s u := by
  have hm := congrArg Prod.fst h
  have ho := congrArg Prod.snd h
  have hbound : bound t = bound s := by rw [bound, bound, show t.me = s.me from hm, show t.others = s.others from ho]
  rw [boundCtx, boundCtx, hbound]

theorem removeCtx_launches (u : Nat) (s : State) : (removeCtx u s).launches = s.launches := by
  unfold removeCtx
  extract_lets t1 t2
  have h2 : t2.launches = s.launches := by
    show (ite _ _ _ : State).launches = _
    split <;> rfl
  split
  · exact h2
  · exact h2

/-- Nothing that is bound bears the name of a thread whose context has gone. -/
theorem boundCtx_removeCtx (u : Nat) (s : State) : boundCtx (removeCtx u s) u = none := by
  have hslots : (removeCtx u s).me = (if s.me.uid = u && s.me.status ≠ .free then Ctx.reset else s.me) ∧
      (removeCtx u s).others = s.others.filter fun c => decide (c.uid ≠ u) := by
    unfold removeCtx
    extract_lets t1 t2
    have h2 : t2.me = (if s.me.uid = u && s.me.status ≠ .free then Ctx.reset else s.me) ∧
        t2.others = s.others.filter fun c => decide (c.uid ≠ u) := by
      show (ite _ _ _ : State).me = _ ∧ (ite _ _ _ : State).others = _
      split <;> exact ⟨rfl, rfl⟩
    split
    · exact h2
    · exact h2
  obtain ⟨hm, ho⟩ := hslots
  refine List.find?_eq_none.mpr fun c hc => ?_
  obtain ⟨hmem, hstatus⟩ := List.mem_filter.mp hc
  rw [hm, ho] at hmem
  rcases List.mem_cons.mp hmem with rfl | hmem
  · split at hstatus
    · cases hstatus
    · next h =>
      intro hu
      rw [if_neg h] at hu
      exact h (by simp [of_decide_eq_true hu, of_decide_eq_true hstatus])
  · simpa using of_decide_eq_true (List.mem_filter.mp hmem).2

end Sys2Proof.Machine
end


section
/-! PROOF. The ends of threads (R155, R156, R169, R177, R182, R202): retirement in three events, kills, and the watchdog's stages. -/

namespace Sys2Proof.Machine

/-! ### The end of a thread -/

theorem tallyOf_freeThread (c : Ctx) (arr : Option Nat) (s : State) (n : Nat) : tallyOf (freeThread c arr s) n = tallyOf s n := by
  unfold freeThread
  extract_lets s1 s2
  have h1 : s1.launches = s.launches := releaseChans_launches _ _ _
  have h2 : tallyOf s2 n = tallyOf s n :=
    (tallyOf_faultsToLaunch _ _ _ _ n).trans (tallyOf_congr ((retireArrive_launches _ _ _ _).trans h1) n)
  have hgone : ({ removeCtx c.uid s2 with tokens := s2.tokens.filter fun t => t.1 ≠ c.uid } : State).launches = s2.launches :=
    removeCtx_launches _ _
  exact (tallyOf_endCheck _ _ n).trans ((tallyOf_congr hgone n).trans h2)

theorem boundCtx_freeThread (c : Ctx) (arr : Option Nat) (s : State) : boundCtx (freeThread c arr s) c.uid = none := by
  unfold freeThread
  extract_lets s1 s2
  refine (boundCtx_of_slots (slots_endCheck _ _) _).trans ?_
  exact (boundCtx_of_slots (s := removeCtx c.uid s2) rfl _).trans (boundCtx_removeCtx _ _)

/-- What `countEnd` makes of a launch (R169). -/
def Launch.withEnd (tid : Nat) (triggered exited kill : Bool) (l : Launch) : Launch :=
  { l with
    trigd := if triggered then l.trigd else l.trigd + 1
    exitd := if exited then l.exitd else l.exitd + 1
    kill := l.kill || kill
    ended := l.ended ++ [tid] }.advance

theorem countEnd_eq (n tid : Nat) (triggered exited kill : Bool) (s : State) :
    countEnd n tid triggered exited kill s = writeStat n (modLaunch n (Launch.withEnd tid triggered exited kill) s) := rfl

theorem num_withEnd (tid : Nat) (triggered exited kill : Bool) (l : Launch) : (l.withEnd tid triggered exited kill).num = l.num := num_advance _

theorem tally_withEnd (tid : Nat) (triggered exited kill : Bool) (l : Launch) : (l.withEnd tid triggered exited kill).tally =
    (if triggered then l.trigd else l.trigd + 1, if exited then l.exitd else l.exitd + 1, l.ended ++ [tid]) := tally_advance _

theorem tallyOf_endThread {s : State} {c : Ctx} {l : Launch} (h : launchOf s c.lnch = some l) (kill : Bool) (arr : Option Nat) :
    tallyOf (endThread c kill arr s) c.lnch =
      some (if c.triggered then l.trigd else l.trigd + 1, if c.exited then l.exitd else l.exitd + 1, l.ended ++ [c.tid]) := by
  unfold endThread
  rw [tallyOf_freeThread, countEnd_eq]
  exact (tallyOf_counted (num_withEnd _ _ _ _) (launches_of_ungrouped (ungrouped_leaveAll c s)) h).trans (congrArg some (tally_withEnd _ _ _ _ l))

theorem boundCtx_endThread (c : Ctx) (kill : Bool) (arr : Option Nat) (s : State) : boundCtx (endThread c kill arr s) c.uid = none :=
  boundCtx_freeThread _ _ _

theorem endUnbound_of_none {l : Launch} {tid : Nat} {s : State} (h : s.saved.find? (fun v => decide (v.ctx.uid = 2 ^ 24 * l.num + tid)) = none) :
    endUnbound l tid s = endCheck l.num (dropThread l.num tid (countEnd l.num tid false false true s)) := by
  rw [endUnbound, h]

/-! ### Retirement -/

theorem retiresLater_iff {s : State} {x : Ctx} : retiresLater s x = false ↔
    outL x = 0 ∧ outS x = 0 ∧ outC x = 0 ∧ outT x = 0 ∧ x.trigs = [] ∧ x.sq.owed = [] ∧ ∀ o ∈ s.fab.outs, o.cid ≠ x.uid := by
  simp [retiresLater, and_assoc]

section Retire
variable {s : State} {u : Nat} {x : Ctx} (hx : findCtx u s = some x)
include hx

theorem exec_threadRetire_not (h : x.status ≠ .retiring ∨ ¬ retiresLater s x = false) : exec (.threadRetire u) s = .next s := by
  rw [exec_threadRetire, execThreadRetire, hx]
  refine congrArg Host.Outcome.next (if_pos ?_)
  rcases h with h | h
  · simp [h]
  · simp [Bool.not_eq_false _ ▸ h]

theorem exec_threadRetire_trig (hr : x.status = .retiring) (hl : retiresLater s x = false) (ht : x.triggered = false) :
    exec (.threadRetire u) s = .next (countTrig u (leaveAll x s)) := by
  rw [exec_threadRetire, execThreadRetire, hx]
  refine congrArg Host.Outcome.next ((if_neg ?_).trans (if_pos ?_))
  · simp [hr, hl]
  · simp [ht]

theorem exec_threadRetire_exit (hr : x.status = .retiring) (hl : retiresLater s x = false) (ht : x.triggered = true) (he : x.exited = false) :
    exec (.threadRetire u) s = .next (countExit x (leaveAll x s)) := by
  rw [exec_threadRetire, execThreadRetire, hx]
  refine congrArg Host.Outcome.next ((if_neg ?_).trans ((if_neg ?_).trans (if_pos ?_)))
  · simp [hr, hl]
  · simp [ht]
  · simp [he]

/-- The thread's number joins those that have ended (R169). -/
def Launch.withGone (tid : Nat) (l : Launch) : Launch := { l with ended := l.ended ++ [tid] }

theorem exec_threadRetire_free (hr : x.status = .retiring) (hl : retiresLater s x = false) (ht : x.triggered = true) (he : x.exited = true) :
    exec (.threadRetire u) s = .next (freeThread x (x.sq.exiting.getD none) (modLaunch x.lnch (Launch.withGone x.tid) s)) := by
  rw [exec_threadRetire, execThreadRetire, hx]
  refine congrArg Host.Outcome.next ((if_neg ?_).trans ((if_neg ?_).trans (if_neg ?_)))
  · simp [hr, hl]
  · simp [ht]
  · simp [he]

omit hx

/-- A launch once TRIGD has counted a thread (R155). -/
def Launch.withTrig (l : Launch) : Launch := { l with trigd := l.trigd + 1 }.advance

/-- A launch once EXITD has counted a thread (R156). -/
def Launch.withExit (l : Launch) : Launch := { l with exitd := l.exitd + 1 }.advance

theorem countExit_eq : countExit x s = writeStat x.lnch (modLaunch x.lnch Launch.withExit (modCtx x.uid (fun c => { c with exited := true }) s)) :=
  rfl

theorem tallyOf_countExit {l : Launch} (h : launchOf s x.lnch = some l) :
    tallyOf (countExit x s) x.lnch = some (l.trigd, l.exitd + 1, l.ended) := by
  rw [countExit_eq, tallyOf_counted (f := Launch.withExit) (fun _ => num_advance _) (launches_of_hollow (hollow_modCtx _ _ s)) h]
  exact congrArg some (tally_advance _)

include hx

theorem countTrig_eq (ht : x.triggered = false) :
    countTrig u s = writeStat x.lnch (modLaunch x.lnch Launch.withTrig (modCtx u (fun c => { c with triggered := true }) s)) := by
  rw [countTrig, hx]
  exact if_neg (by simp [ht])

theorem findCtx_countTrig (ht : x.triggered = false) : findCtx u (countTrig u s) = some { x with triggered := true } := by
  rw [countTrig_eq hx ht, findCtx_of_bare (bare_writeStat _ _)]
  exact (findCtx_modCtx (f := fun c => { c with triggered := true }) (fun _ => rfl) u s).trans (congrArg _ hx)

theorem tallyOf_countTrig (ht : x.triggered = false) {l : Launch} (h : launchOf s x.lnch = some l) :
    tallyOf (countTrig u s) x.lnch = some (l.trigd + 1, l.exitd, l.ended) := by
  rw [countTrig_eq hx ht,
    tallyOf_counted (f := Launch.withTrig) (fun _ => num_advance _) (launches_of_hollow (hollow_modCtx _ _ s)) h]
  exact congrArg some (tally_advance _)

theorem findCtx_countExit : findCtx u (countExit x s) = some { x with exited := true } := by
  obtain rfl := uid_of_findCtx hx
  rw [countExit_eq, findCtx_of_bare (bare_writeStat _ _)]
  exact (findCtx_modCtx (f := fun c => { c with exited := true }) (fun _ => rfl) x.uid s).trans (congrArg _ hx)

end Retire

/-- A launch that a thread leaves still bears its tallies. -/
theorem launchOf_leaveAll {s : State} {c : Ctx} {n : Nat} {l : Launch} (h : launchOf s n = some l) : launchOf (leaveAll c s) n = some l :=
  (launchOf_congr (launches_of_ungrouped (ungrouped_leaveAll c s)) n).trans h

theorem findCtx_leaveAll {s : State} {u : Nat} {x : Ctx} (c : Ctx) (h : findCtx u s = some x) : findCtx u (leaveAll c s) = some x :=
  (findCtx_of_ungrouped (ungrouped_leaveAll c s) u).trans h

/-! ### Kills -/

theorem uid_of_boundCtx {s : State} {u : Nat} {x : Ctx} (h : boundCtx s u = some x) : x.uid = u := by
  simpa using List.find?_some h

section Killed
variable {s : State} {u : Nat} {x : Ctx} (hx : boundCtx s u = some x)
include hx

theorem exec_killDrainComplete_not (h : x.status ≠ .killing ∨ ¬ (x.sq.cmds = [] ∧ x.sq.stores = [] ∧ ∀ o ∈ s.fab.outs, o.cid ≠ u)) :
    exec (.killDrainComplete u) s = .next s := by
  have hc : (decide (x.status ≠ .killing) || !x.sq.cmds.isEmpty || !x.sq.stores.isEmpty || s.fab.outs.any (fun o => o.cid = u)) = true := by
    by_contra hn
    simp only [Bool.not_eq_true, Bool.or_eq_false_iff] at hn
    simp at hn
    grind
  rw [exec_killDrainComplete, execKillDrainComplete, hx]
  exact congrArg Host.Outcome.next (if_pos hc)

theorem exec_killDrainComplete_drained (hk : x.status = .killing) (hc : x.sq.cmds = []) (hs : x.sq.stores = [])
    (ho : ∀ o ∈ s.fab.outs, o.cid ≠ u) :
    exec (.killDrainComplete u) s = .next (endThread x true none (modSqOf u (fun q => { q with faults := [] }) s)) := by
  rw [exec_killDrainComplete, execKillDrainComplete, hx]
  exact congrArg Host.Outcome.next (if_neg (by simpa [hk, hc, hs] using ho))

/-- The stage after a kill (R182): the core is fenced unless it is already. -/
def fenceOnce (d k : Nat) (s : State) : State := if (coreOf s d k).fenced then s else fenceCore d k s

theorem exec_watchdogT3_bound {l : Launch} (hl : launchOf s x.lnch = some l) : exec (.watchdogT3 u) s =
    .next (if x.status = .killing ∧ l.limit 2 ≠ 0 then fenceOnce x.die x.core (modCtx u (fun y => { y with status := .fenced }) s) else s) := by
  rw [exec_watchdogT3, execWatchdogT3, hx]
  refine congrArg Host.Outcome.next (if_congr ?_ rfl rfl)
  simp [hl]

end Killed

section Binding
variable {s : State} {u d : Nat} {r : BindRec} {rs : List (Nat × BindRec)} {l : Launch}
variable (hx : boundCtx s u = none) (hb : bindsOf s u = (d, r) :: rs) (hl : launchOf s r.lnch = some l)
include hx hb hl

theorem exec_killDrainComplete_binding : exec (.killDrainComplete u) s =
    .next (if r.killed = false ∨ r.fenced = true then s else endUnbound l r.tid (dropBind d r.entry s)) := by
  rw [exec_killDrainComplete, execKillDrainComplete, hx, hb]
  dsimp only
  rw [hl]
  exact congrArg Host.Outcome.next (if_congr (by simp) rfl rfl)

theorem exec_watchdogT3_binding : exec (.watchdogT3 u) s =
    .next (if r.killed = true ∧ r.fenced = false ∧ l.limit 2 ≠ 0 then
      fenceOnce d r.core (modBinds u (fun y => { y with fenced := true }) s) else s) := by
  rw [exec_watchdogT3, execWatchdogT3, hx, hb]
  refine congrArg Host.Outcome.next (if_congr ?_ rfl rfl)
  simp [hl, and_assoc]

end Binding

/-! ### The watchdog's first two stages -/

section Watchdog
variable {s : State} {n tid : Nat} {l : Launch} (hl : launchOf s n = some l)
include hl

theorem exec_watchdogT1_bound {x : Ctx} (hx : boundCtx s (2 ^ 24 * n + tid) = some x) : exec (.watchdogT1 n tid) s =
    .next (if l.limit 0 = 0 ∨ x.wds ≠ 0 then s else
      askPreempt (2 ^ 24 * n + tid) (modCtx (2 ^ 24 * n + tid) (fun c => { c with wds := 1, wdt := max c.wdt (l.limit 0) }) s)) := by
  rw [exec_watchdogT1, execWatchdogT1, hl, hx]
  dsimp only
  rw [uid_of_boundCtx hx]
  exact congrArg Host.Outcome.next (if_congr (by simp) rfl rfl)

theorem exec_watchdogT1_binding {d : Nat} {r : BindRec} {rs : List (Nat × BindRec)} (hx : boundCtx s (2 ^ 24 * n + tid) = none)
    (hb : bindsOf s (2 ^ 24 * n + tid) = (d, r) :: rs) : exec (.watchdogT1 n tid) s =
    .next (if l.limit 0 = 0 ∨ r.wds ≠ 0 then s else
      if l.gang = true then askAll n (modBinds (2 ^ 24 * n + tid) (fun y => { y with wds := 1, wdt := max y.wdt (l.limit 0), asked := true }) s)
      else modBinds (2 ^ 24 * n + tid) (fun y => { y with wds := 1, wdt := max y.wdt (l.limit 0), asked := true }) s) := by
  rw [exec_watchdogT1, execWatchdogT1, hl, hx, hb]
  exact congrArg Host.Outcome.next (if_congr (by simp) rfl rfl)

theorem exec_watchdogT2_not (h : l.limit 1 = 0 ∨ l.n ≤ tid ∨ tid ∈ l.ended) : exec (.watchdogT2 n tid) s = .next s := by
  rw [exec_watchdogT2, execWatchdogT2, hl]
  refine congrArg Host.Outcome.next (if_pos ?_)
  simpa [or_assoc] using h

/-- The error that a kill leaves with its launch (R182). -/
def killErr (n tid : Nat) (s : State) : State := setErr n 0x15 (BitVec.ofNat 64 tid) false s

variable (h1 : l.limit 1 ≠ 0) (h2 : tid < l.n) (h3 : tid ∉ l.ended)
include h1 h2 h3

theorem exec_watchdogT2_due : exec (.watchdogT2 n tid) s = .next (match boundCtx s (2 ^ 24 * n + tid), bindsOf s (2 ^ 24 * n + tid) with
    | some c, _ => if c.status = .killing || c.status = .fenced then s else killErr n tid (modCtx c.uid (killCtx (l.limit 1)) s)
    | none, (_, r) :: _ => if r.killed then s else killErr n tid (killBinding (2 ^ 24 * n + tid) (l.limit 1) s)
    | none, [] => endUnbound l tid (killErr n tid s)) := by
  rw [exec_watchdogT2, execWatchdogT2, hl]
  exact congrArg Host.Outcome.next (if_neg (by simp [h1, h2, h3]))

theorem exec_watchdogT2_bound {x : Ctx} (hx : boundCtx s (2 ^ 24 * n + tid) = some x) : exec (.watchdogT2 n tid) s =
    .next (if x.status = .killing ∨ x.status = .fenced then s else killErr n tid (modCtx x.uid (killCtx (l.limit 1)) s)) := by
  rw [exec_watchdogT2_due hl h1 h2 h3, hx]
  exact congrArg Host.Outcome.next (if_congr (by simp) rfl rfl)

theorem exec_watchdogT2_binding {d : Nat} {r : BindRec} {rs : List (Nat × BindRec)} (hx : boundCtx s (2 ^ 24 * n + tid) = none)
    (hb : bindsOf s (2 ^ 24 * n + tid) = (d, r) :: rs) : exec (.watchdogT2 n tid) s =
    .next (if r.killed = true then s else killErr n tid (killBinding (2 ^ 24 * n + tid) (l.limit 1) s)) := by
  rw [exec_watchdogT2_due hl h1 h2 h3, hx, hb]

theorem exec_watchdogT2_unbound (hx : boundCtx s (2 ^ 24 * n + tid) = none) (hb : bindsOf s (2 ^ 24 * n + tid) = []) :
    exec (.watchdogT2 n tid) s = .next (endUnbound l tid (killErr n tid s)) := by
  rw [exec_watchdogT2_due hl h1 h2 h3, hx, hb]

end Watchdog

/-! ### Each end as R155, R156 and R169 count it -/

/-- A launch is found with its tallies changed by so much. -/
theorem tallies_of_tallyOf {s t : State} {n a b : Nat} {gone : List Nat}
    (h : ∀ l, launchOf s n = some l → tallyOf t n = some (l.trigd + a, l.exitd + b, l.ended ++ gone)) (l : Launch) (hl : launchOf s n = some l) :
    ∃ m, launchOf t n = some m ∧ m.trigd = l.trigd + a ∧ m.exitd = l.exitd + b ∧ m.ended = l.ended ++ gone :=
  launchOf_of_tallyOf (h l hl)

/-- What a killed thread leaves behind once it has run out (R169). -/
theorem launchOf_endThread {s t : State} {x : Ctx} (h : t.launches = s.launches) (kill : Bool) (arr : Option Nat) (l : Launch)
    (hl : launchOf s x.lnch = some l) : ∃ m, launchOf (endThread x kill arr t) x.lnch = some m ∧
      m.exitd = (if x.exited then l.exitd else l.exitd + 1) ∧ m.ended = l.ended ++ [x.tid] ∧
      m.trigd = if x.triggered then l.trigd else l.trigd + 1 := by
  obtain ⟨m, hm, htrig, hexit, hended⟩ := launchOf_of_tallyOf (tallyOf_endThread ((launchOf_congr h x.lnch).trans hl) kill arr)
  exact ⟨m, hm, hexit, hended, htrig⟩

/-- A thread that has been counted twice ends its number's part in the launch (R169). -/
theorem tallyOf_freeThread_gone {s : State} {x : Ctx} (arr : Option Nat) {l : Launch} (hl : launchOf s x.lnch = some l) :
    tallyOf (freeThread x arr (modLaunch x.lnch (Launch.withGone x.tid) s)) x.lnch = some (l.trigd, l.exitd, l.ended ++ [x.tid]) := by
  rw [tallyOf_freeThread]
  exact tallyOf_of_launchOf (launchOf_modLaunch_same (f := Launch.withGone x.tid) (fun _ => rfl) hl)

/-- Settles O59: each stage of an end is one equation of the event, and the tallies of the launch follow the counts it makes. -/
theorem threadsEnd : Obligations.ThreadsEnd := by
  intro s u counted
  refine ⟨fun x hx => ?retire, fun x hx => ?killed, fun d k => rfl, fun d r rs l hx hb hl => ?binding,
    fun l tid h => endUnbound_of_none h, fun l n tid hl hu => ?watchdog⟩
  case retire =>
    obtain rfl := uid_of_findCtx hx
    intro idle tallies
    have hidle : idle ↔ retiresLater s x = false := retiresLater_iff.symm
    refine ⟨fun h => exec_threadRetire_not hx (h.imp_right (mt hidle.mpr)), fun hr hi ht => ?trig, fun hr hi ht he => ?exit,
      fun hr hi ht he => ?free⟩
    case trig =>
      refine ⟨_, _, ⟨exec_threadRetire_trig hx hr (hidle.mp hi) ht, tallies_of_tallyOf fun l hl => ?_⟩,
        findCtx_countTrig (findCtx_leaveAll x hx) ht, rfl, rfl⟩
      rw [tallyOf_countTrig (findCtx_leaveAll x hx) ht (launchOf_leaveAll hl), List.append_nil]
      rfl
    case exit =>
      refine ⟨_, _, ⟨exec_threadRetire_exit hx hr (hidle.mp hi) ht he, tallies_of_tallyOf fun l hl => ?_⟩,
        findCtx_countExit (findCtx_leaveAll x hx), ht, rfl⟩
      rw [tallyOf_countExit (launchOf_leaveAll hl), List.append_nil]
      rfl
    case free =>
      exact ⟨_, ⟨exec_threadRetire_free hx hr (hidle.mp hi) ht he, tallies_of_tallyOf fun l hl => tallyOf_freeThread_gone _ hl⟩,
        boundCtx_freeThread _ _ _⟩
  case killed =>
    intro drained mark
    refine ⟨exec_killDrainComplete_not hx, fun hk hd => ?drain, fun l hl => ⟨fun h => ?_, fun hk hlim => ?_⟩⟩
    case drain =>
      obtain ⟨hc, hs, ho⟩ := hd
      refine ⟨_, exec_killDrainComplete_drained hx hk hc hs ho, ?_, launchOf_endThread (launches_of_hollow (hollow_modSqOf _ _ _)) _ _⟩
      exact uid_of_boundCtx hx ▸ boundCtx_endThread _ _ _ _
    · rw [exec_watchdogT3_bound hx hl, if_neg (by tauto)]
    · rw [exec_watchdogT3_bound hx hl, if_pos ⟨hk, hlim⟩]
      rfl
  case binding =>
    intro mark
    rw [exec_killDrainComplete_binding hx hb hl, exec_watchdogT3_binding hx hb hl]
    refine ⟨fun h => by rw [if_pos h], fun hk hf => by rw [if_neg (by simp [hk, hf])], fun h => ?_, fun hk hf hlim => ?_⟩
    · rw [if_neg (by rcases h with h | h | h <;> simp [h])]
    · rw [if_pos ⟨hk, hf, hlim⟩]
      rfl
  case watchdog =>
    subst hu
    refine ⟨fun x hx => ?bound1, fun d r rs hx hb => ?binding1, exec_watchdogT2_not hl, fun h1 h2 h3 => ?stage2⟩
    case bound1 =>
      rw [exec_watchdogT1_bound hl hx]
      exact ⟨fun h => by rw [if_pos h], fun h0 hw => by rw [if_neg (by simp [h0, hw])]⟩
    case binding1 =>
      intro t
      rw [exec_watchdogT1_binding hl hx hb]
      exact ⟨fun h => by rw [if_pos h], fun h0 hw => by rw [if_neg (by simp [h0, hw])]⟩
    case stage2 =>
      intro err
      refine ⟨fun x hx => ⟨fun h => ?_, fun hk hf => ⟨?_, rfl, rfl, rfl, rfl, rfl, rfl⟩⟩,
        fun d r rs hx hb => ⟨fun h => ?_, fun h => ?_⟩, fun hx hb => ?_⟩
      · rw [exec_watchdogT2_bound hl h1 h2 h3 hx, if_pos h]
      · rw [exec_watchdogT2_bound hl h1 h2 h3 hx, if_neg (by simp [hk, hf])]
        rfl
      · rw [exec_watchdogT2_binding hl h1 h2 h3 hx hb, if_pos h]
      · rw [exec_watchdogT2_binding hl h1 h2 h3 hx hb, if_neg (by simp [h])]
        rfl
      · rw [exec_watchdogT2_unbound hl h1 h2 h3 hx hb]
        rfl

end Sys2Proof.Machine
end


section
/-! PROOF. The module's own events (R182, R392, R394, R397 to R399): records of lost records, the alarm, the trip, reset and boot. -/

namespace Sys2Proof.Machine

/-! ### Error records beside the buffer they join -/

/-- The management side without the records of source 8. -/
def Sys.unlogged (y : Sys) : Sys := { y with crErrs := [], crSeq := 0, crLost := 0, crLostStat := 0 }

theorem unlogged_errRecord (src cls what : Nat) (d : List Word) (s : State) : (errRecord src cls what d s).sys.unlogged = s.sys.unlogged := by
  unfold errRecord
  split
  · rfl
  · dsimp only
    split <;> rfl

theorem fab_errRecord (src cls what : Nat) (d : List Word) (s : State) : (errRecord src cls what d s).fab = s.fab := by
  have hfab := congrArg State.fab (bare_errRecord src cls what d s)
  exact hfab

/-- A record that finds room stands last in its die's buffer (R397). -/
theorem errRecord_die {d : Nat} (hd : d < 8) (cls what : Nat) (tells : List Word) {s : State} (h : (dieOf s d).errs.length < 256) :
    ∃ r, (dieOf (errRecord d cls what tells s) d).errs = (dieOf s d).errs ++ [r] ∧ r.cls = cls ∧
      r.detail = recDetail d (dieOf s d).errSeq cls what tells ∧ (dieOf (errRecord d cls what tells s) d).errLost = (dieOf s d).errLost := by
  rw [errRecord, if_pos hd]
  dsimp only
  rw [dieOf_modDie_same hd, if_pos h]
  exact ⟨_, rfl, rfl, rfl, rfl⟩

/-- The same for the buffer of source 8. -/
theorem errRecord_creamery (cls what : Nat) (tells : List Word) {s : State} (h : s.sys.crErrs.length < 256) :
    ∃ r, (errRecord 8 cls what tells s).sys.crErrs = s.sys.crErrs ++ [r] ∧ r.cls = cls ∧
      r.detail = recDetail 8 s.sys.crSeq cls what tells ∧ (errRecord 8 cls what tells s).sys.crLost = s.sys.crLost := by
  rw [errRecord, if_neg (by decide)]
  dsimp only
  rw [if_pos h]
  exact ⟨_, rfl, rfl, rfl, rfl⟩

/-! ### Ports going down -/

/-- The ports and the management side. -/
def State.wired (s : State) : Vector Port 32 × Sys := (s.fab.ports, s.sys)

theorem wired_of_hollow {s t : State} (h : t.hollow = s.hollow) : t.wired = s.wired := by
  have hfab := congrArg State.fab h
  have hsys := congrArg State.sys h
  exact congrArg₂ (fun (f : Fabric) y => (f.ports, y)) hfab hsys

theorem hollow_settleLoad (u pd : Nat) (f : Upd → Upd) (k : Bool) (s : State) : (settleLoad u pd f k s).hollow = s.hollow := hollow_modSqOf _ _ _

theorem hollow_settleStore (u st : Nat) (k : Bool) (s : State) : (settleStore u st k s).hollow = s.hollow := hollow_modSqOf _ _ _

theorem wired_failOut (o : RemoteOut) (f : FaultInfo) (s : State) : (failOut o f s).wired = s.wired := by
  have hdrop : (dropOut o.id s).wired = s.wired := rfl
  refine Eq.trans ?_ hdrop
  unfold failOut
  extract_lets t
  split
  · exact wired_of_hollow ((hollow_settleLoad _ _ _ _ _).trans (hollow_recordFault _ _ _))
  · exact wired_of_hollow ((hollow_settleStore _ _ _ _).trans (hollow_recordFault _ _ _))
  · split
    · exact wired_of_hollow (hollow_failCmd _ _ _ _)
    · rfl

theorem wired_failFlow (o : RemoteOut) (sub : Nat) (s : State) : (failFlow o sub s).wired = s.wired :=
  (wired_of_hollow (hollow_modCtx _ _ _)).trans (foldl_field_eq State.wired _ (fun _ _ => wired_failOut _ _ _) _ s)

theorem wired_failUnreachable (p : RemoteOut → Bool) (n : Nat) (s : State) : (failUnreachable p n s).wired = s.wired := by
  induction n generalizing s with
  | zero => rfl
  | succ n ih =>
    unfold failUnreachable
    split
    · rfl
    · next o _ => exact (ih _).trans (wired_failFlow o 1 s)

theorem wired_answer (q : RemoteReq) (a : Answer) (s : State) : (answer q a s).wired = s.wired := by
  cases a <;> rfl

theorem wired_endFwd (f : RelayFwd) (a : Answer) (s : State) : (endFwd f a s).wired = s.wired := (wired_answer _ _ _).trans rfl

theorem wired_failForwards (p : RelayFwd → Bool) (s : State) : (failForwards p s).wired = s.wired :=
  foldl_field_eq State.wired _ (fun _ _ => wired_endFwd _ _ _) _ s

theorem wired_reroute (s : State) : (reroute s).wired = s.wired := (wired_failForwards _ _).trans (wired_failUnreachable _ _ _)

/-- A port as it stands DOWN (R367). -/
def Port.downed (p : Port) : Port := { p with st := .down, txok := 0, rxok := 0, markers := 0, allow := [], chg := false, left := 0, queues := [] }

theorem wired_portDown (n : Nat) (s : State) : (portDown n s).wired = (vmod s.fab.ports n Port.downed, s.sys) := wired_reroute _

theorem portAt_portDown_same {n : Nat} (hn : n < 32) (s : State) : portAt (portDown n s) n = (portAt s n).downed := by
  have hports : (portDown n s).fab.ports = vmod s.fab.ports n Port.downed := congrArg Prod.fst (wired_portDown n s)
  rw [portAt, hports]
  exact vget_vmod_same _ _ _ hn

theorem portAt_portDown_other {n m : Nat} (h : n ≠ m) (s : State) : portAt (portDown n s) m = portAt s m := by
  have hports : (portDown n s).fab.ports = vmod s.fab.ports n Port.downed := congrArg Prod.fst (wired_portDown n s)
  rw [portAt, hports]
  exact vget_vmod_other _ _ _ h

/-- A port goes DOWN unless it is (R394). -/
def portDownOnce (s : State) (n : Nat) : State := if (portAt s n).st = .down then s else portDown n s

theorem portsDown_eq (s : State) : portsDown s = (List.range 32).foldl portDownOnce s := rfl

/-- A port that is DOWN stays so. -/
theorem down_portDownOnce {n m : Nat} (hn : n < 32) (s : State) (h : n = m ∨ (portAt s m).st = .down) :
    (portAt (portDownOnce s n) m).st = .down := by
  unfold portDownOnce
  by_cases hnm : n = m
  · subst hnm
    split
    · assumption
    · rw [portAt_portDown_same hn]
      rfl
  · have hm := h.resolve_left hnm
    split
    · exact hm
    · rwa [portAt_portDown_other hnm]

theorem down_foldl_portDownOnce {ns : List Nat} (hns : ∀ n ∈ ns, n < 32) (s : State) {m : Nat} (h : m ∈ ns ∨ (portAt s m).st = .down) :
    (portAt (ns.foldl portDownOnce s) m).st = .down := by
  induction ns generalizing s with
  | nil => exact h.resolve_left (List.not_mem_nil)
  | cons n ns ih =>
    refine ih (fun k hk => hns k (List.mem_cons_of_mem _ hk)) _ ?_
    rcases h with h | h
    · rcases List.mem_cons.mp h with rfl | h
      · exact .inr (down_portDownOnce (hns m List.mem_cons_self) s (.inl rfl))
      · exact .inl h
    · exact .inr (down_portDownOnce (hns n List.mem_cons_self) s (.inr h))

/-- Every port is DOWN. -/
def AllDown (s : State) : Prop := ∀ n < 32, (portAt s n).st = .down

theorem allDown_portsDown (s : State) : AllDown (portsDown s) :=
  fun _ hn => down_foldl_portDownOnce (fun _ h => List.mem_range.mp h) s (.inl (List.mem_range.mpr hn))

theorem portsDown_of_allDown {s : State} (h : AllDown s) : portsDown s = s := by
  rw [portsDown_eq]
  have hstay : ∀ ns : List Nat, (∀ n ∈ ns, n < 32) → ns.foldl portDownOnce s = s := by
    intro ns hns
    induction ns with
    | nil => rfl
    | cons n ns ih =>
      rw [List.foldl_cons, portDownOnce, if_pos (h n (hns n List.mem_cons_self))]
      exact ih fun k hk => hns k (List.mem_cons_of_mem _ hk)
  exact hstay _ fun _ h => List.mem_range.mp h

theorem portsDown_sys (s : State) : (portsDown s).sys = s.sys := by
  refine foldl_field_eq State.sys _ (fun s n => ?_) _ s
  split
  · rfl
  · exact congrArg Prod.snd (wired_portDown n s)

theorem allDown_congr {s t : State} (h : t.fab = s.fab) (hs : AllDown s) : AllDown t := by
  intro n hn
  rw [portAt, h]
  exact hs n hn

theorem allDown_ports {s : State} (h : AllDown s) : ∀ p ∈ s.fab.ports.toList, p.st = .down := by
  intro p hp
  obtain ⟨n, hn, rfl⟩ := List.getElem_of_mem hp
  have hn32 : n < 32 := by simpa using hn
  have := h n hn32
  simpa [portAt, vget, hn32] using this

/-! ### The alarm and the trip -/

/-- What the alarm does to the management side (R394). -/
def Sys.alarmed (y : Sys) : Sys :=
  { y with
    alarm := true
    wrapKey := y.wrapKey && Config.almh
    imageKey := if Config.almh then y.imageKey else 0
    keysHeld := Config.almh }

/-- The module at the alarm, its ports aside. -/
def State.alarmed (s : State) : State := { s with sys := s.sys.alarmed }

theorem raiseAlarm_eq (s : State) : raiseAlarm s = (errRecord 8 0x08 2 [] (portsDown s)).alarmed := rfl

theorem raiseAlarm_alarm (s : State) : (raiseAlarm s).sys.alarm = true := rfl

/-- The management side at the alarm, the record of it aside (R394). -/
theorem raiseAlarm_sys (s : State) : ∃ y : Sys, y.unlogged = s.sys.unlogged ∧ (raiseAlarm s).sys = y.alarmed :=
  ⟨_, (unlogged_errRecord 8 0x08 2 [] (portsDown s)).trans (congrArg Sys.unlogged (portsDown_sys s)), rfl⟩

theorem allDown_alarmed {s : State} (h : AllDown s) : AllDown s.alarmed := h

theorem allDown_raiseAlarm (s : State) : AllDown (raiseAlarm s) :=
  allDown_alarmed (allDown_congr (fab_errRecord _ _ _ _ _) (allDown_portsDown s))

/-- The module once its temperature has tripped it, its ports aside (R398). -/
def State.trippedNow (s : State) : State := { s with sys := { s.sys with tripped := true } }

theorem allDown_trippedNow {s : State} (h : AllDown s) : AllDown s.trippedNow := h

theorem halted_trippedNow (s : State) : halted s.trippedNow = true := Bool.or_true _

theorem exec_thermalTrip_eq {d : Nat} (hd : d < 8) (s : State) : exec (.thermalTrip d) s =
    .next (errRecord d 0x08 3 [BitVec.ofNat 64 d] (portsDown s)).trippedNow := by
  rw [exec_thermalTrip, execThermalTrip, if_neg (by omega)]
  rfl

theorem keys_of_unlogged {y z : Sys} (h : y.unlogged = z.unlogged) : y.wrapKey = z.wrapKey ∧ y.imageKey = z.imageKey := by
  have hwrap := congrArg Sys.wrapKey h
  have himage := congrArg Sys.imageKey h
  exact ⟨hwrap, himage⟩

/-! ### Boot -/

/-- The state without the management side. -/
def State.unmanaged (s : State) : State := { s with sys := Sys.reset }

theorem unmanaged_errRecord (cls what : Nat) (d : List Word) (s : State) : (errRecord 8 cls what d s).unmanaged = s.unmanaged := by
  rw [errRecord, if_neg (by decide)]
  dsimp only
  split <;> rfl

theorem allDown_of_unmanaged {s t : State} (h : t.unmanaged = s.unmanaged) (hs : AllDown s) : AllDown t := by
  have hfab := congrArg State.fab h
  exact allDown_congr hfab hs

theorem unmanaged_alarmed (s : State) : s.alarmed.unmanaged = s.unmanaged := rfl

theorem unmanaged_raiseAlarm {s : State} (h : AllDown s) : (raiseAlarm s).unmanaged = s.unmanaged := by
  rw [raiseAlarm_eq, portsDown_of_allDown h]
  exact (unmanaged_alarmed _).trans (unmanaged_errRecord _ _ _ _)

/-- The report of a copy that failed (R392). -/
def copyFailed (k c : Nat) (s : State) : State := errRecord 8 0x08 1 [BitVec.ofNat 64 k, BitVec.ofNat 64 c] s

theorem bootCopy_eq (x : State × Nat) (k c : Nat) : bootCopy x k c =
    if x.1.sys.alarm || vget false x.1.sys.runs k then x
    else if fwGood k (Config.flashImage k c) then (fwLoad k (Config.flashImage k c) x.1, x.2)
    else (if x.2 = 2 then raiseAlarm (copyFailed k c x.1) else copyFailed k c x.1, x.2 + 1) := rfl

theorem unmanaged_bootCopy (k c : Nat) {x : State × Nat} (h : AllDown x.1) : (bootCopy x k c).1.unmanaged = x.1.unmanaged := by
  have hrec : (copyFailed k c x.1).unmanaged = x.1.unmanaged := unmanaged_errRecord _ _ _ _
  rw [bootCopy_eq]
  split
  · rfl
  · split
    · rfl
    · dsimp only
      split
      · exact (unmanaged_raiseAlarm (allDown_of_unmanaged hrec h)).trans hrec
      · exact hrec

/-- Boot comes to one copy of the list after the other (R392). -/
def bootCopies (ps : List (Nat × Nat)) (x : State × Nat) : State × Nat := ps.foldl (fun x p => bootCopy x p.1 p.2) x

theorem unmanaged_bootCopies (ps : List (Nat × Nat)) {x : State × Nat} (h : AllDown x.1) : (bootCopies ps x).1.unmanaged = x.1.unmanaged := by
  induction ps generalizing x with
  | nil => rfl
  | cons p ps ih =>
    have hstep := unmanaged_bootCopy p.1 p.2 h
    exact (ih (allDown_of_unmanaged hstep h)).trans hstep

/-- A report leaves what the management side decides as it is. -/
theorem copyFailed_unlogged (k c : Nat) (s : State) : (copyFailed k c s).sys.unlogged = s.sys.unlogged := unlogged_errRecord _ _ _ _ _

theorem booted_of_unlogged {y z : Sys} (h : y.unlogged = z.unlogged) : y.booted = z.booted := by
  have hbooted := congrArg Sys.booted h
  exact hbooted

theorem alarm_of_unlogged {y z : Sys} (h : y.unlogged = z.unlogged) : y.alarm = z.alarm := by
  have halarm := congrArg Sys.alarm h
  exact halarm

theorem runs_of_unlogged {y z : Sys} (h : y.unlogged = z.unlogged) : y.runs = z.runs := by
  have hruns := congrArg Sys.runs h
  exact hruns

theorem booted_raiseAlarm (s : State) : (raiseAlarm s).sys.booted = s.sys.booted := by
  obtain ⟨y, hy, hs⟩ := raiseAlarm_sys s
  calc (raiseAlarm s).sys.booted = y.alarmed.booted := congrArg Sys.booted hs
    _ = y.booted := rfl
    _ = s.sys.booted := booted_of_unlogged hy

theorem booted_bootCopy (x : State × Nat) (k c : Nat) : (bootCopy x k c).1.sys.booted = x.1.sys.booted := by
  have hrec := booted_of_unlogged (copyFailed_unlogged k c x.1)
  rw [bootCopy_eq]
  split
  · rfl
  · split
    · rfl
    · dsimp only
      split
      · exact (booted_raiseAlarm _).trans hrec
      · exact hrec

theorem booted_bootCopies (ps : List (Nat × Nat)) (x : State × Nat) : (bootCopies ps x).1.sys.booted = x.1.sys.booted := by
  induction ps generalizing x with
  | nil => rfl
  | cons p ps ih => exact (ih _).trans (booted_bootCopy _ _ _)

/-- The alarm ends the boot (R394). -/
theorem bootCopy_of_alarm {x : State × Nat} (h : x.1.sys.alarm = true) (k c : Nat) : bootCopy x k c = x := by
  rw [bootCopy_eq, if_pos (by simp [h])]

theorem bootCopies_of_alarm {x : State × Nat} (h : x.1.sys.alarm = true) (ps : List (Nat × Nat)) : bootCopies ps x = x := by
  induction ps with
  | nil => rfl
  | cons p ps ih => rwa [bootCopies, List.foldl_cons, bootCopy_of_alarm h]

/-- Without an alarm, an image runs after a copy when it ran or the copy is a good one of it (R392). -/
theorem runs_bootCopy {x : State × Nat} {k c : Nat} (hk : k < 3) (ha : (bootCopy x k c).1.sys.alarm = false) (j : Nat) :
    vget false (bootCopy x k c).1.sys.runs j = true ↔
      vget false x.1.sys.runs j = true ∨ (j = k ∧ fwGood k (Config.flashImage k c) = true) := by
  by_cases hskip : (x.1.sys.alarm || vget false x.1.sys.runs k) = true
  · rw [bootCopy_eq, if_pos hskip] at ha ⊢
    have hrun : vget false x.1.sys.runs k = true := by simpa [ha] using hskip
    constructor
    · exact .inl
    · rintro (h | ⟨rfl, -⟩)
      · exact h
      · exact hrun
  · rw [bootCopy_eq, if_neg hskip] at ha ⊢
    by_cases hgood : fwGood k (Config.flashImage k c) = true
    · rw [if_pos hgood]
      show vget false (vmod x.1.sys.runs k fun _ => true) j = true ↔ _
      by_cases hjk : j = k
      · subst hjk
        simp [vget_vmod_same _ _ _ hk, hgood]
      · simp [vget_vmod_other _ _ _ (Ne.symm hjk), hjk]
    · rw [if_neg hgood] at ha ⊢
      by_cases hthird : x.2 = 2
      · simp [hthird, raiseAlarm_alarm] at ha
      · rw [if_neg hthird, runs_of_unlogged (copyFailed_unlogged k c x.1)]
        simp [hgood]

theorem runs_bootCopies {ps : List (Nat × Nat)} (hps : ∀ p ∈ ps, p.1 < 3) {x : State × Nat} (ha : (bootCopies ps x).1.sys.alarm = false)
    (j : Nat) : vget false (bootCopies ps x).1.sys.runs j = true ↔
      vget false x.1.sys.runs j = true ∨ ∃ c, (j, c) ∈ ps ∧ fwGood j (Config.flashImage j c) = true := by
  induction ps generalizing x with
  | nil => simp [bootCopies]
  | cons p ps ih =>
    have hstep : (bootCopy x p.1 p.2).1.sys.alarm = false := by
      by_contra hn
      have halarm := Bool.not_eq_false _ ▸ hn
      rw [bootCopies, List.foldl_cons] at ha
      exact hn ((congrArg (fun y => y.1.sys.alarm) (bootCopies_of_alarm halarm ps)).symm.trans ha)
    obtain ⟨k, c⟩ := p
    refine (ih (fun q hq => hps q (List.mem_cons_of_mem _ hq)) ha).trans ?_
    rw [runs_bootCopy (hps _ List.mem_cons_self) hstep]
    constructor
    · rintro ((h | ⟨rfl, h⟩) | ⟨e, he, h⟩)
      · exact .inl h
      · exact .inr ⟨c, List.mem_cons_self, h⟩
      · exact .inr ⟨e, List.mem_cons_of_mem _ he, h⟩
    · rintro (h | ⟨e, he, h⟩)
      · exact .inl (.inl h)
      · rcases List.mem_cons.mp he with he | he
        · cases he
          exact .inl (.inr ⟨rfl, h⟩)
        · exact .inr ⟨e, he, h⟩

/-- A good first copy raises no alarm, and the second is not looked at (R392). -/
theorem alarm_bootPair {x : State × Nat} (hx : x.1.sys.alarm = false) {k : Nat} (hk : k < 3) (h : fwGood k (Config.flashImage k 0) = true) :
    (bootCopy (bootCopy x k 0) k 1).1.sys.alarm = false := by
  have hfirst : (bootCopy x k 0).1.sys.alarm = false := by
    rw [bootCopy_eq, if_pos h]
    split
    · exact hx
    · exact hx
  have hrun : vget false (bootCopy x k 0).1.sys.runs k = true := (runs_bootCopy hk hfirst k).mpr (.inr ⟨rfl, h⟩)
  rw [bootCopy_eq, if_pos (by simp [hrun])]
  exact hfirst

/-- The two copies of each image, in the order of boot. -/
def flashCopies : List (Nat × Nat) := [(0, 0), (0, 1), (1, 0), (1, 1), (2, 0), (2, 1)]

theorem mem_flashCopies {j c : Nat} : (j, c) ∈ flashCopies ↔ j < 3 ∧ c < 2 := by
  simp only [flashCopies, List.mem_cons, Prod.mk.injEq, List.not_mem_nil, or_false]
  omega

theorem alarm_flashCopies {x : State × Nat} (hx : x.1.sys.alarm = false) (h : ∀ k < 3, fwGood k (Config.flashImage k 0) = true) :
    (bootCopies flashCopies x).1.sys.alarm = false := by
  have h0 := alarm_bootPair hx (by omega) (h 0 (by omega))
  have h1 := alarm_bootPair h0 (by omega) (h 1 (by omega))
  exact alarm_bootPair h1 (by omega) (h 2 (by omega))

/-- The end of a boot that raised no alarm (R392, R395). -/
def bootDone (s : State) : State :=
  let s := { s with sys := { s.sys with imageKey := Config.imageKey s.sys.resets, booted := true } }
  s.sys.measures.foldl (fun s x => sendReport x.1 x.2 s) { s with sys := { s.sys with measures := [] } }

theorem boot_eq (s : State) : boot s = if (bootCopies flashCopies (s, 0)).1.sys.alarm then (bootCopies flashCopies (s, 0)).1
    else bootDone (bootCopies flashCopies (s, 0)).1 := rfl

/-- The state without the reports sent (R395). -/
def State.unanswered (s : State) : State := { s with sys := { s.sys with answers := [] } }

theorem unanswered_sendReport (port : Nat) (nonce : List Byte) (s : State) : (sendReport port nonce s).unanswered = s.unanswered := by
  unfold sendReport
  split <;> rfl

theorem unanswered_bootDone (s : State) : (bootDone s).unanswered =
    State.unanswered { s with sys := { s.sys with imageKey := Config.imageKey s.sys.resets, booted := true, measures := [] } } :=
  foldl_field_eq State.unanswered _ (fun _ _ => unanswered_sendReport _ _ _) _ _

theorem unmanaged_bootDone (s : State) : (bootDone s).unmanaged = s.unmanaged := by
  have hrest := congrArg State.unmanaged (unanswered_bootDone s)
  exact hrest

theorem alarm_bootDone (s : State) : (bootDone s).sys.alarm = s.sys.alarm := by
  have halarm := congrArg (fun t : State => t.sys.alarm) (unanswered_bootDone s)
  exact halarm

theorem booted_bootDone (s : State) : (bootDone s).sys.booted = true := by
  have hbooted := congrArg (fun t : State => t.sys.booted) (unanswered_bootDone s)
  exact hbooted

theorem runs_bootDone (s : State) : (bootDone s).sys.runs = s.sys.runs := by
  have hruns := congrArg (fun t : State => t.sys.runs) (unanswered_bootDone s)
  exact hruns

theorem alarm_boot (s : State) : (boot s).sys.alarm = (bootCopies flashCopies (s, 0)).1.sys.alarm := by
  rw [boot_eq]
  split
  · rfl
  · exact alarm_bootDone _

theorem runs_boot (s : State) : (boot s).sys.runs = (bootCopies flashCopies (s, 0)).1.sys.runs := by
  rw [boot_eq]
  split
  · rfl
  · exact runs_bootDone _

theorem unmanaged_boot {s : State} (h : AllDown s) : (boot s).unmanaged = s.unmanaged := by
  have hcopies : (bootCopies flashCopies (s, 0)).1.unmanaged = s.unmanaged := unmanaged_bootCopies flashCopies h
  rw [boot_eq]
  split
  · exact hcopies
  · exact (unmanaged_bootDone _).trans hcopies

/-- Boot is complete unless the alarm was raised (R392). -/
theorem booted_boot_iff {s : State} (h : s.sys.booted = false) : (boot s).sys.booted = true ↔ (boot s).sys.alarm = false := by
  rw [alarm_boot, boot_eq]
  split
  · next ha => simp [booted_bootCopies, ha, h]
  · next ha => simpa [booted_bootDone] using ha

/-! ### Reset -/

theorem allDown_afterReset (s : State) : AllDown (afterReset s) := by
  intro n hn
  have hreset : portAt (afterReset s) n = Port.reset := vget_replicate _ _ hn
  rw [hreset]
  rfl

theorem unmanaged_resetModule (s : State) : (resetModule s).unmanaged = (afterReset s).unmanaged := unmanaged_boot (allDown_afterReset s)

/-- Which images run after a reset (R392). -/
theorem runs_resetModule {s : State} (ha : (resetModule s).sys.alarm = false) {k : Nat} (hk : k < 3) :
    vget false (resetModule s).sys.runs k = true ↔ fwGood k (Config.flashImage k 0) = true ∨ fwGood k (Config.flashImage k 1) = true := by
  have halarm : (bootCopies flashCopies (afterReset s, 0)).1.sys.alarm = false := (alarm_boot _).symm.trans ha
  have hnone : vget false (afterReset s).sys.runs k = false := vget_replicate _ _ hk
  rw [resetModule, runs_boot, runs_bootCopies (fun p hp => (mem_flashCopies.mp hp).1) halarm]
  simp only [hnone, Bool.false_eq_true, false_or, mem_flashCopies]
  constructor
  · rintro ⟨c, ⟨-, hc⟩, h⟩
    interval_cases c
    · exact .inl h
    · exact .inr h
  · rintro (h | h)
    · exact ⟨0, ⟨hk, by omega⟩, h⟩
    · exact ⟨1, ⟨hk, by omega⟩, h⟩

theorem dies_resetModule (s : State) : (resetModule s).dies = Vector.replicate 8 Die.reset := by
  have hdies := congrArg State.dies (unmanaged_resetModule s)
  exact hdies

/-- No queue slot is mapped after a reset (R173). -/
theorem unmapped_resetModule (s : State) : ∀ q ∈ (resetModule s).dies.toList, ∀ y ∈ q.q.toList, y.mapped = false := by
  rw [dies_resetModule]
  intro q hq y hy
  simp only [Vector.toList_replicate] at hq
  rw [List.eq_of_mem_replicate hq, Die.reset] at hy
  simp only [Vector.toList_replicate] at hy
  rw [List.eq_of_mem_replicate hy]
  rfl

/-- What the header of an image that may run says (R393). -/
theorem fwGood_header {k : Nat} {img : List Byte} (h : fwGood k img = true) : leNat (img.take 4) = 0x4B525946 ∧
    leNat ((img.drop 4).take 1) = k ∧ Config.minSvn ≤ leNat ((img.drop 8).take 8) ∧
    img.length = 128 + leNat ((img.drop 16).take 8) + 7856 := by
  unfold fwGood at h
  simp only [Bool.and_eq_true] at h
  obtain ⟨⟨⟨⟨⟨⟨hmagic, hkind⟩, -⟩, -⟩, hlen⟩, hsvn⟩, -⟩ := h
  exact ⟨of_decide_eq_true hmagic, of_decide_eq_true hkind, of_decide_eq_true hsvn, of_decide_eq_true hlen⟩

/-! ### Reports of lost records -/

theorem exec_recordsLostReport_die {d : Nat} (hd : d < 8) (s : State) : exec (.recordsLostReport d) s =
    .next (if (dieOf s d).errLost = 0 ∨ 256 ≤ (dieOf s d).errs.length then s
      else errRecord d 0x09 0 [BitVec.ofNat 64 (dieOf s d).errLost] (modDie d (fun y => { y with errLost := 0 }) s)) := by
  rw [exec_recordsLostReport, execRecordsLostReport, if_pos hd]
  exact congrArg Host.Outcome.next (if_congr (by simp) rfl rfl)

theorem exec_recordsLostReport_creamery (s : State) : exec (.recordsLostReport 8) s =
    .next (if s.sys.crLost = 0 ∨ 256 ≤ s.sys.crErrs.length then s
      else errRecord 8 0x09 0 [BitVec.ofNat 64 s.sys.crLost] { s with sys := { s.sys with crLost := 0 } }) := by
  rw [exec_recordsLostReport, execRecordsLostReport, if_neg (by decide), if_pos rfl]
  exact congrArg Host.Outcome.next (if_congr (by simp) rfl rfl)

/-- The number of records a die lost is told in one record, and counts anew (R397). -/
theorem recordsLost_die {s : State} {d : Nat} (hd : d < 8) (hlost : 0 < (dieOf s d).errLost) (hroom : (dieOf s d).errs.length < 256) :
    ∃ t r, exec (.recordsLostReport d) s = .next t ∧ (dieOf t d).errLost = 0 ∧ (dieOf t d).errs = (dieOf s d).errs ++ [r] ∧ r.cls = 0x09 ∧
      r.detail = recDetail d (dieOf s d).errSeq 0x09 0 [BitVec.ofNat 64 (dieOf s d).errLost] ∧ t.me = s.me := by
  have hdie : dieOf (modDie d (fun y => { y with errLost := 0 }) s) d = { dieOf s d with errLost := 0 } := dieOf_modDie_same hd _ _
  obtain ⟨r, herrs, hcls, hdetail, hcount⟩ := errRecord_die hd 0x09 0 [BitVec.ofNat 64 (dieOf s d).errLost]
    (s := modDie d (fun y => { y with errLost := 0 }) s) (by rwa [hdie])
  rw [hdie] at herrs hdetail hcount
  rw [exec_recordsLostReport_die hd, if_neg (by omega)]
  exact ⟨_, r, rfl, hcount, herrs, hcls, hdetail, errRecord_me _ _ _ _ _⟩

/-- The same for the records of source 8. -/
theorem recordsLost_creamery {s : State} (hlost : 0 < s.sys.crLost) (hroom : s.sys.crErrs.length < 256) :
    ∃ t r, exec (.recordsLostReport 8) s = .next t ∧ t.sys.crLost = 0 ∧ t.sys.crErrs = s.sys.crErrs ++ [r] ∧ r.cls = 0x09 ∧
      r.detail = recDetail 8 s.sys.crSeq 0x09 0 [BitVec.ofNat 64 s.sys.crLost] ∧ t.me = s.me := by
  obtain ⟨r, herrs, hcls, hdetail, hcount⟩ := errRecord_creamery 0x09 0 [BitVec.ofNat 64 s.sys.crLost]
    (s := { s with sys := { s.sys with crLost := 0 } }) hroom
  rw [exec_recordsLostReport_creamery, if_neg (by omega)]
  exact ⟨_, r, rfl, hcount, herrs, hcls, hdetail, errRecord_me _ _ _ _ _⟩

/-- Settles O55: every port is DOWN after the fold over the ports, whose rerouting keeps them; boot changes the management side only, and
an image runs after it when a copy that it came to was good. -/
theorem moduleEvents : Obligations.ModuleEvents := by
  intro s d k x
  refine ⟨recordsLost_die, fun hd h => ?lostNone, fun h => ?crNone, recordsLost_creamery, ?alarm, fun hd => ?trip,
    ⟨_, exec_thermalThrottle s d, rfl, rfl, rfl⟩, ?reset, fun k img h => fwGood_header h, fun hx => ?ignored, rfl, fun hd hk => ?restore⟩
  case lostNone => rw [exec_recordsLostReport_die hd, if_pos h]
  case crNone => rw [exec_recordsLostReport_creamery, if_pos h]
  case alarm =>
    refine ⟨_, rfl, raiseAlarm_alarm s, rfl, allDown_ports (allDown_raiseAlarm s), fun hheld => ?_⟩
    obtain ⟨y, -, hs⟩ := raiseAlarm_sys s
    rw [hs]
    simp [Sys.alarmed, hheld]
  case trip =>
    have hkeys := keys_of_unlogged (unlogged_errRecord d 0x08 3 [BitVec.ofNat 64 d] (portsDown s))
    rw [portsDown_sys] at hkeys
    exact ⟨_, exec_thermalTrip_eq hd s, rfl, halted_trippedNow _,
      allDown_ports (allDown_trippedNow (allDown_congr (fab_errRecord _ _ _ _ _) (allDown_portsDown s))), hkeys⟩
  case reset =>
    have hrest := unmanaged_resetModule s
    have hhbm := congrArg State.hbm hrest
    have hstore := congrArg State.store hrest
    have hlaunches := congrArg State.launches hrest
    refine ⟨resetModule s, rfl, hhbm, hstore, hlaunches, unmapped_resetModule s, ?_, booted_boot_iff rfl, fun h => ?_,
      fun ha k hk => runs_resetModule ha hk⟩
    · rw [exec_i2cResetRequest, execI2cResetRequest, if_pos rfl]
    · exact (alarm_boot _).trans (alarm_flashCopies rfl h)
  case ignored => rw [exec_i2cResetRequest, execI2cResetRequest, if_neg hx]
  case restore =>
    intro freed
    rw [exec_fencedCoreRestore, execFencedCoreRestore, if_neg (by simp; omega)]
    rfl

end Sys2Proof.Machine
end
